-- ==== Sys2Proof/Word.lean ====
section
/-! DEFINITION. The words of the model: a byte of memory, byte strings, sparse tables. -/

namespace Sys2Proof

/-- A byte of device or host memory. -/
abbrev Byte := BitVec 8

/-- A string of bytes, lowest address first. -/
abbrev Bytes := List Byte

/-- A sparse table: pairs of a key and an entry, keys strictly rising, no entry equal to what an
unlisted key reads as. The operations on it are in Machine/Bits.lean. -/
abbrev SMap (α : Type) := List (Nat × α)

end Sys2Proof
end

