-- ==== Sys2Proof/Syntax.lean ====
section
/-! DEFINITION. The commands of the block: one constructor per row of spec/opcode_table.json, with the
operands the spec gives the step. `t` is the reading of the interval clock (ns) at which the command takes
place (R11, log 2). A function operand `fn` is 0 for PF0, c + 1 for the virtual function of slot c, and 65
for the debug access layer (R420). -/

namespace Sys2Proof

/-- A queue of a context: slot 0 to 63, queue 0 to 15 (R255). -/
structure QRef where
  slot  : Nat
  queue : Nat
  deriving DecidableEq, Repr

/-- The tamper sources (R28). -/
inductive TamperSource where
  | pin | mesh | cell | supply | temperature
  deriving DecidableEq, Repr

/-- What the power controller measures of one region (R390, R391). -/
structure RegionMeasure where
  region : Nat
  mhz    : Nat
  mv     : Nat
  temp   : Nat
  deriving DecidableEq, Repr

/-- The actions of R393 that a release ends, with the unit and the measured values (°C). -/
inductive ThermalAction where
  | region (r temp : Nat)
  | regionDrain (r temp : Nat)
  | sysdie (temp : Nat)
  | stackRefresh (stack temp : Nat)
  | stackHalf (stack temp : Nat)
  | coolant (inlet outlet : Nat)
  | inlet (inlet : Nat)
  deriving DecidableEq, Repr

/-- A packet as its handler sees it (R209): the header fields, the payload decrypted, and `auth`: its tag
verifies under a session key of its link (log 13); `old`: under the key that a REKEY has replaced (R363). -/
structure Packet where
  ptype   : Nat := 0
  ctl     : Nat := 0
  dst     : Nat := 0
  src     : Nat := 0
  job     : Nat := 0
  gen     : Nat := 0
  hops    : Nat := 0
  tag     : Nat := 0
  level   : Nat := 0
  offset  : Nat := 0
  ctr     : Nat := 0
  payload : Bytes := []
  auth    : Bool := true
  old     : Bool := false
  deriving DecidableEq, Repr

/-- What the verification of a PROOF's chain and signature under R356 gives (log 13). -/
structure ProofVerdict where
  chainOk  : Bool
  sigOk    : Bool
  deriving DecidableEq, Repr

/-- The TDI states of `HOSTIF.TDI_STAT` (R413). -/
inductive TdiState where
  | unlocked | locked | run | error
  deriving DecidableEq, Repr

/-- A BIND_SLOT or UNBIND payload (R342). `sig`: r then s of the signature, big-endian. -/
structure BindRequest where
  slot    : Nat
  gen     : Nat
  owner   : Nat
  sig     : Bytes
  deriving DecidableEq, Repr

/-- A hallmark request (R369). -/
structure HallmarkRequest where
  nonce  : Bytes
  report : Bytes
  slot   : Option Nat
  deriving DecidableEq, Repr

/-- What one patrol read finds (R183, R197): the frame held at the location, if any; or an uncorrectable error in a structure of the
reserve (R309, R316): of level 0 the minor line of a 16 KiB block, 1 a counter line, 2 to 4 a node. -/
inductive PatrolOutcome where
  | clean
  | corrected (frame : Option Nat)
  | uncorrectable (frame : Option Nat) (line : Nat)
  | reserve (level index : Nat)
  | passDone
  deriving DecidableEq, Repr

/-- A client certificate as the TLS handshake presents it (R371, R354): the digest of the anchor its chain
leads to, its role, and whether the handshake meets the parameters of R371. -/
inductive Role where
  | admin | fabric | monitor
  deriving DecidableEq, Repr

structure ClientCert where
  anchor   : Nat
  role     : Option Role
  paramsOk : Bool
  deriving DecidableEq, Repr

/-- The life-cycle states (R353). -/
inductive Lifecycle where
  | blank | provisioned | deployed | returned | retired
  deriving DecidableEq, Repr

/-- The firmware components (R364, R365). -/
inductive Component where
  | sec | mgmt | ctrl | link
  deriving DecidableEq, Repr

/-- A fragment of an image sent by STAGE_IMAGE (R366, R372): its place in the image, and what the whole image holds: its bytes, its
component, security version, build, digest, and whether its signature verifies under the Rholoth firmware key (log 13). -/
structure Image where
  comp   : Component
  secver : Nat
  build  : Nat
  digest : Nat
  sigOk  : Bool
  offset : Nat := 0
  length : Nat := 0
  total  : Nat := 0
  deriving DecidableEq, Repr

/-- A request on an Oliastor connection (R372): the connection, and FUNCTION, REQUEST and LENGTH of its header. -/
structure Call where
  conn     : Nat := 0
  function : Nat := 0
  request  : Nat := 0
  length   : Nat := 0
  deriving DecidableEq, Repr

/-- A routing-table entry to write: index and up to four alternative ports (R218). -/
structure RouteEntry where
  index : Nat
  ports : List Nat
  deriving DecidableEq, Repr

/-- What a PEER_NOTICE says (R233, R387). -/
inductive NoticeKind where
  | lost | cpResetStart | cpResetDone
  deriving DecidableEq, Repr

/-- The factory operations (R353, R352); `other` is a code to which the manual gives no effect. -/
inductive FactoryOp where
  | provision | retire | other (code : Nat)
  deriving DecidableEq, Repr

/-- The commands (R22 to R433; spec/opcode_table.json). -/
inductive Instr where
  /-- POWER_UP (R22). -/
  | powerUp (t mv : Nat)
  /-- INPUT_LOW (R20). -/
  | inputLow (t mv : Nat)
  /-- INPUT_LOW_CLEAR (R20). -/
  | inputLowClear (t : Nat)
  /-- POWER_LOSS (R21). -/
  | powerLoss (t : Nat)
  /-- MOD_RESET_ASSERT (R25). -/
  | modResetAssert (t : Nat)
  /-- MOD_RESET_RELEASE (R22). -/
  | modResetRelease (t strap : Nat)
  /-- PERST_ASSERT (R25). -/
  | perstAssert (t : Nat)
  /-- PERST_RELEASE (R24). -/
  | perstRelease (t : Nat)
  /-- ENDPOINT_CONFIG_READY (R22). -/
  | endpointConfigReady (t : Nat)
  /-- FLR_VF (R269). -/
  | flrVf (t slot : Nat)
  /-- FLR_PF0 (R405). -/
  | flrPf0 (t : Nat)
  /-- TAMPER (R351). -/
  | tamper (t : Nat) (src : TamperSource)
  /-- BATTERY_LOW (R29). -/
  | batteryLow (t months : Nat)
  /-- TRNG_HEALTH_FAIL (R350). -/
  | trngHealthFail (t : Nat)
  /-- FRESH_VALUE_TIMEOUT (R350). -/
  | freshValueTimeout (t wait : Nat)
  /-- LASER_UNIT_FAIL (R35). -/
  | laserUnitFail (t unit : Nat)
  /-- LASER_LATCH_OPEN (R36). -/
  | laserLatchOpen (t unit : Nat)
  /-- LASER_SAFE_TO_REMOVE (R36). -/
  | laserSafeToRemove (t unit : Nat)
  /-- LASER_UNIT_INSERT (R36). -/
  | laserUnitInsert (t unit : Nat) (healthy : Bool)
  /-- REFCLK_LINK_LOST (R392). -/
  | refclkLinkLost (t : Nat)
  /-- REFCLK_LINK_RETURN (R392). -/
  | refclkLinkReturn (t : Nat)
  /-- REFCLK_PCIE_LOST (R392). -/
  | refclkPcieLost (t : Nat)
  /-- RAIL_EXCURSION (R389). -/
  | railExcursion (t rail mv : Nat)
  /-- RAIL_EXCURSION_END (R389). -/
  | railExcursionEnd (t rail mv : Nat)
  /-- RAIL_RESET_LEVEL (R388). -/
  | railResetLevel (t rail : Nat)
  /-- PHOTONIC_RAIL_RECOVER (R388). -/
  | photonicRailRecover (t : Nat)
  /-- SKEW_CHECK (R391). -/
  | skewCheck (t : Nat) (meas : List RegionMeasure)
  /-- SKEW_DRAIN (R391). -/
  | skewDrain (t region : Nat)
  /-- REGION_REJOIN (R391). -/
  | regionRejoin (t region : Nat)
  /-- THERMAL_REGION_THROTTLE (R393). -/
  | thermalRegionThrottle (t region temp : Nat)
  /-- THERMAL_CLOCK_STEP (R393). -/
  | thermalClockStep (t region temp : Nat)
  /-- THERMAL_REGION_DRAIN (R393). -/
  | thermalRegionDrain (t region temp : Nat)
  /-- THERMAL_SYSDIE_LIMIT (R393). -/
  | thermalSysdieLimit (t temp : Nat)
  /-- THERMAL_STACK_ACTION (R393). -/
  | thermalStackAction (t stack temp : Nat)
  /-- THERMAL_COOLANT_LIMIT (R393). -/
  | thermalCoolantLimit (t inlet outlet : Nat)
  /-- THERMAL_INLET_LIMIT (R393). -/
  | thermalInletLimit (t inlet : Nat)
  /-- THERMAL_RELEASE (R393). -/
  | thermalRelease (t : Nat) (action : ThermalAction)
  /-- THERMAL_TRIP (R393). -/
  | thermalTrip (t temp : Nat)
  /-- POWER_MEASURE (R394). -/
  | powerMeasure (t watts : Nat)
  /-- LIGHT_DETECTED (R200). -/
  | lightDetected (t port : Nat)
  /-- BRINGUP_TIMEOUT (R200). -/
  | bringupTimeout (t port : Nat)
  /-- BRINGUP_RETRY (R200). -/
  | bringupRetry (t port : Nat)
  /-- TRAIN (R201). -/
  | train (t port : Nat) (payload : Bytes)
  /-- HELLO (R361). -/
  | hello (t port : Nat) (payload : Bytes)
  /-- CERT (R361). -/
  | cert (t port offset : Nat) (payload : Bytes)
  /-- PROOF (R362). -/
  | proof (t port : Nat) (payload : Bytes) (verdict : ProofVerdict)
  /-- FINISH (R363). -/
  | finish (t port : Nat) (payload : Bytes)
  /-- REKEY (R363). -/
  | rekey (t port : Nat) (pkt : Packet)
  /-- REKEY_TIMER (R363). -/
  | rekeyTimer (t port : Nat)
  /-- CHARTER (R339). -/
  | charter (t port : Nat) (pkt : Packet)
  /-- DOMAIN (R357). -/
  | domain (t port : Nat) (pkt : Packet)
  /-- LANE_FAIL (R202). -/
  | laneFail (t port lane : Nat)
  /-- LANE_RETRY (R202). -/
  | laneRetry (t port lane : Nat)
  /-- LANE_MARGIN_LOW (R203). -/
  | laneMarginLow (t port lane margin : Nat)
  /-- RECAL_START (R203). -/
  | recalStart (t port lane : Nat)
  /-- RECAL_DONE (R203). -/
  | recalDone (t port lane : Nat) (good : Bool) (margin : Nat)
  /-- LANE_MAP (R204). -/
  | laneMap (t port : Nat) (pkt : Packet)
  /-- FLIT_RECEIVE (R208). -/
  | flitReceive (t port : Nat) (flit : Bytes)
  /-- FLIT_SEND (R214). -/
  | flitSend (t port : Nat)
  /-- PACKET_TRANSIT (R210). -/
  | packetTransit (t port : Nat) (pkt : Packet)
  /-- DUPLICATE_RECORD_EXPIRE (R213). -/
  | duplicateRecordExpire (t port : Nat)
  /-- PORT_DOWN_DETECT (R219). -/
  | portDownDetect (t port : Nat)
  /-- TIME_SYNC_TICK (R221). -/
  | timeSyncTick (t : Nat)
  /-- TIME_SYNC (R221). -/
  | timeSync (t port : Nat) (pkt : Packet) (rx : Nat)
  /-- DATA (R211). -/
  | data (t port : Nat) (pkt : Packet)
  /-- RED_READY (R226). -/
  | redReady (t port : Nat) (pkt : Packet)
  /-- RED_PULL (R230). -/
  | redPull (t port : Nat) (pkt : Packet)
  /-- RED_DATA (R223). -/
  | redData (t port : Nat) (pkt : Packet)
  /-- RED_RESULT (R227). -/
  | redResult (t port : Nat) (pkt : Packet)
  /-- RED_REDO (R232). -/
  | redRedo (t port : Nat) (pkt : Packet)
  /-- ABORT (R217). -/
  | abort (t port : Nat) (pkt : Packet)
  /-- GATHER_REQ (R211). -/
  | gatherReq (t port : Nat) (pkt : Packet)
  /-- GATHER_REQ_SERVE (R80). -/
  | gatherReqServe (t slot : Nat)
  /-- BUCKET_START (R231). -/
  | bucketStart (t slot tag : Nat)
  /-- CONTRIBUTION_READY (R121). -/
  | contributionReady (t slot tag : Nat)
  /-- RED_DEADLINE (R226). -/
  | redDeadline (t slot tag : Nat)
  /-- RED_PULL_ISSUE (R230). -/
  | redPullIssue (t slot tag level : Nat)
  /-- ALL_TO_ALL_PATIENCE (R237). -/
  | allToAllPatience (t : Nat) (q : QRef)
  /-- PEER_WAIT_TIMEOUT (R238). -/
  | peerWaitTimeout (t : Nat) (q : QRef)
  /-- NOP (R71). -/
  | nop (t : Nat) (q : QRef)
  /-- LIST_HEAD (R55). -/
  | listHead (t : Nat) (q : QRef)
  /-- LIST_END (R55). -/
  | listEnd (t : Nat) (q : QRef)
  /-- CALL (R57). -/
  | call (t : Nat) (q : QRef)
  /-- TREE_ADMIT_RESUME (R57). -/
  | treeAdmitResume (t : Nat) (q : QRef)
  /-- LOOP_BEGIN (R87). -/
  | loopBegin (t : Nat) (q : QRef)
  /-- LOOP_END (R87). -/
  | loopEnd (t : Nat) (q : QRef)
  /-- BARRIER (R86). -/
  | barrier (t : Nat) (q : QRef)
  /-- BARRIER_COMPLETE (R86). -/
  | barrierComplete (t : Nat) (q : QRef)
  /-- BARRIER_PATIENCE (R86). -/
  | barrierPatience (t : Nat) (q : QRef)
  /-- FENCE_WAIT (R260). -/
  | fenceWait (t : Nat) (q : QRef)
  /-- FENCE_WAIT_SATISFIED (R260). -/
  | fenceWaitSatisfied (t : Nat) (q : QRef)
  /-- FENCE_SIGNAL (R85). -/
  | fenceSignal (t : Nat) (q : QRef)
  /-- PERIOD_MARK (R296). -/
  | periodMark (t : Nat) (q : QRef)
  /-- STEP_BEGIN (R89). -/
  | stepBegin (t : Nat) (q : QRef)
  /-- STEP_END (R91). -/
  | stepEnd (t : Nat) (q : QRef)
  /-- RETIRE (R258). -/
  | retire (t : Nat) (q : QRef)
  /-- MATMUL (R72). -/
  | matmul (t : Nat) (q : QRef)
  /-- MATMUL_BWD_PAIR (R74). -/
  | matmulBwdPair (t : Nat) (q : QRef)
  /-- GROUPED_MATMUL (R141). -/
  | groupedMatmul (t : Nat) (q : QRef)
  /-- GROUPED_BWD_PAIR (R74). -/
  | groupedBwdPair (t : Nat) (q : QRef)
  /-- ATTN_FWD (R146). -/
  | attnFwd (t : Nat) (q : QRef)
  /-- ATTN_BWD (R144). -/
  | attnBwd (t : Nat) (q : QRef)
  /-- NORM_FWD (R147). -/
  | normFwd (t : Nat) (q : QRef)
  /-- NORM_BWD (R147). -/
  | normBwd (t : Nat) (q : QRef)
  /-- LOSS_XENT (R436). -/
  | lossXent (t : Nat) (q : QRef)
  /-- ELEMENTWISE (R163). -/
  | elementwise (t : Nat) (q : QRef)
  /-- ROWREDUCE (R436). -/
  | rowreduce (t : Nat) (q : QRef)
  /-- CONVERT (R436). -/
  | convert (t : Nat) (q : QRef)
  /-- COPY (R436). -/
  | copy (t : Nat) (q : QRef)
  /-- EMBED (R71). -/
  | embed (t : Nat) (q : QRef)
  /-- ROUTE_TOPK (R71). -/
  | routeTopk (t : Nat) (q : QRef)
  /-- COMPRESS (R173). -/
  | compress (t : Nat) (q : QRef)
  /-- EXPAND (R175). -/
  | expand (t : Nat) (q : QRef)
  /-- ALL_REDUCE (R77). -/
  | allReduce (t : Nat) (q : QRef)
  /-- REDUCE_SCATTER (R225). -/
  | reduceScatter (t : Nat) (q : QRef)
  /-- ALL_GATHER (R238). -/
  | allGather (t : Nat) (q : QRef)
  /-- ALL_TO_ALL (R235). -/
  | allToAll (t : Nat) (q : QRef)
  /-- SEND (R238). -/
  | send (t : Nat) (q : QRef)
  /-- RECV (R238). -/
  | recv (t : Nat) (q : QRef)
  /-- GATHER_SHARD (R79). -/
  | gatherShard (t : Nat) (q : QRef)
  /-- DROP_SHARD (R81). -/
  | dropShard (t : Nat) (q : QRef)
  /-- RESHARD (R82). -/
  | reshard (t : Nat) (q : QRef)
  /-- OPT_ADAM (R83). -/
  | optAdam (t : Nat) (q : QRef)
  /-- OPT_MOMENTUM (R83). -/
  | optMomentum (t : Nat) (q : QRef)
  /-- SCALE_UPDATE (R117). -/
  | scaleUpdate (t : Nat) (q : QRef)
  /-- INGEST (R324). -/
  | ingest (t : Nat) (q : QRef)
  /-- CHECKPOINT (R325). -/
  | checkpoint (t : Nat) (q : QRef)
  /-- RESTORE (R325). -/
  | restore (t : Nat) (q : QRef)
  /-- RELEASE (R337). -/
  | release (t : Nat) (q : QRef)
  /-- LOG (R437). -/
  | log (t : Nat) (q : QRef)
  /-- ENTRY_COMPLETE (R59). -/
  | entryComplete (t : Nat) (q : QRef)
  /-- WL_BREAKPOINT_HIT (R426). -/
  | wlBreakpointHit (t : Nat) (q : QRef) (bp : Nat)
  /-- CREATE (R249). -/
  | create (t fn slot : Nat)
  /-- QUENCH (R270). -/
  | quench (t fn slot : Nat)
  /-- QUENCH_DONE (R270). -/
  | quenchDone (t slot : Nat)
  /-- CTX_RELEASE (R272). -/
  | ctxRelease (t fn slot : Nat)
  /-- CTX_DRAIN (R275). -/
  | ctxDrain (t fn slot : Nat)
  /-- DRAIN_COMPLETE (R275). -/
  | drainComplete (t slot : Nat)
  /-- HOST_CPL_TIMEOUT (R271). -/
  | hostCplTimeout (t tag : Nat)
  /-- DOORBELL (R256). -/
  | doorbell (t fn slot off value : Nat)
  /-- QUEUE_FETCH (R257). -/
  | queueFetch (t : Nat) (q : QRef)
  /-- QUEUE_ENABLE (R255). -/
  | queueEnable (t fn slot value : Nat)
  /-- RESUME (R265). -/
  | resume (t fn slot value : Nat)
  /-- FAULT_CONS_WRITE (R264). -/
  | faultConsWrite (t fn slot value : Nat)
  /-- INVALIDATE (R254). -/
  | invalidate (t fn slot value : Nat)
  /-- INVALIDATE_DONE (R254). -/
  | invalidateDone (t slot : Nat)
  /-- SCRUB (R273). -/
  | scrub (t fn value : Nat)
  /-- SCRUB_DONE (R273). -/
  | scrubDone (t : Nat)
  /-- HOST_MODE_WRITE (R348). -/
  | hostModeWrite (t fn slot value : Nat)
  /-- WINDOW_READ (R246). -/
  | windowRead (t fn off len : Nat)
  /-- WINDOW_WRITE (R246). -/
  | windowWrite (t fn off : Nat) (data : Bytes)
  /-- TDI_STATE_CHANGE (R344). -/
  | tdiStateChange (t slot : Nat) (state : TdiState)
  /-- BIND_SLOT (R342). -/
  | bindSlot (t session : Nat) (req : BindRequest)
  /-- UNBIND (R342). -/
  | unbind (t session : Nat) (req : BindRequest)
  /-- SPDM_SESSION_END (R342). -/
  | spdmSessionEnd (t session : Nat)
  /-- GET_MEASUREMENTS (R369). -/
  | getMeasurements (t : Nat) (req : HallmarkRequest)
  /-- QUANTUM_BOUNDARY (R283). -/
  | quantumBoundary (t : Nat)
  /-- PREEMPT_REQUEST (R283). -/
  | preemptRequest (t : Nat)
  /-- PREEMPTION_POINT (R150). -/
  | preemptionPoint (t core : Nat)
  /-- CORE_TRANSFER (R290). -/
  | coreTransfer (t slot : Nat)
  /-- SPRIG_START (R292). -/
  | sprigStart (t core : Nat)
  /-- SPRIG_END (R293). -/
  | sprigEnd (t core : Nat)
  /-- PERIOD_BOUNDARY (R297). -/
  | periodBoundary (t slot : Nat)
  /-- RELOAD (R282). -/
  | reload (t fn value : Nat)
  /-- MIGRATION_START (R188). -/
  | migrationStart (t frame tier stack : Nat)
  /-- MIGRATION_SWITCH (R189). -/
  | migrationSwitch (t frame : Nat)
  /-- MIGRATION_CANCEL (R189). -/
  | migrationCancel (t frame : Nat)
  /-- PATROL_READ (R197). -/
  | patrolRead (t tier stack : Nat) (outcome : PatrolOutcome)
  /-- SEQ_SLOT_RELEASE (R195). -/
  | seqSlotRelease (t slot tensor : Nat)
  /-- ANNEAL_REQ (R319). -/
  | annealReq (t fn value : Nat)
  /-- ANNEAL_START (R320). -/
  | annealStart (t : Nat)
  /-- ANNEAL_BLOCK (R320). -/
  | annealBlock (t slot range : Nat)
  /-- ANNEAL_DONE (R321). -/
  | annealDone (t slot range : Nat)
  /-- CORE_DRAIN (R154). -/
  | coreDrain (t fn core value : Nat)
  /-- SELFTEST (R154). -/
  | selftest (t fn core : Nat)
  /-- SELFTEST_DONE (R396). -/
  | selftestDone (t core : Nat) (pass : Bool)
  /-- FTQ_CLEAR (R155). -/
  | ftqClear (t fn core : Nat)
  /-- SWEEP (R395). -/
  | sweep (t fn value : Nat)
  /-- SWEEP_INTERVAL (R395). -/
  | sweepInterval (t : Nat)
  /-- MULTI_BIT_ERROR (R153). -/
  | multiBitError (t core : Nat)
  /-- ENGINE_RESET (R379). -/
  | engineReset (t page reason : Nat)
  /-- ENGINE_RESET_DONE (R379). -/
  | engineResetDone (t page : Nat)
  /-- HANG_WATCHDOG (R407). -/
  | hangWatchdog (t page : Nat)
  /-- ENGINE_RESET_WATCHDOG (R379). -/
  | engineResetWatchdog (t page : Nat)
  /-- COMPUTE_PART_RESET (R384). -/
  | computePartReset (t cause : Nat)
  /-- COMPUTE_PART_RESET_DONE (R384). -/
  | computePartResetDone (t : Nat)
  /-- CP_RESET_WATCHDOG (R380). -/
  | cpResetWatchdog (t : Nat)
  /-- CONTROL_PROCESSOR_WATCHDOG (R380). -/
  | controlProcessorWatchdog (t cp : Nat)
  /-- MGMT_WATCHDOG (R380). -/
  | mgmtWatchdog (t : Nat)
  /-- SECURITY_WATCHDOG (R380). -/
  | securityWatchdog (t : Nat)
  /-- PACKAGE_RESET (R386). -/
  | packageReset (t cause : Nat)
  /-- BOOT_COMPLETE (R386). -/
  | bootComplete (t : Nat)
  /-- CP_RESET (R383). -/
  | cpReset (t fn value : Nat)
  /-- HIST_CLEAR (R125). -/
  | histClear (t fn : Nat)
  /-- RECAL (R203). -/
  | recal (t fn port value : Nat)
  /-- PORT_ENABLE (R239). -/
  | portEnable (t fn port value : Nat)
  /-- LANE_OFF (R239). -/
  | laneOff (t fn port value : Nat)
  /-- STALL_MAX_CLEAR (R196). -/
  | stallMaxClear (t fn value : Nat)
  /-- PC_CLEAR (R433). -/
  | pcClear (t fn value : Nat)
  /-- IRQ_STAT_CLEAR (R408). -/
  | irqStatClear (t fn page value : Nat)
  /-- IRQ_SET (R406). -/
  | irqSet (t fn page value : Nat)
  /-- ERR_FIRST_CLEAR (R409). -/
  | errFirstClear (t fn page value : Nat)
  /-- HI_WRITE_COMMIT (R404). -/
  | hiWriteCommit (t fn page off value : Nat)
  /-- LO_READ_LATCH (R404). -/
  | loReadLatch (t fn page off : Nat)
  /-- REGISTER_WRITE (R403). -/
  | registerWrite (t fn page off value : Nat)
  /-- OBS_LATCH (R345). -/
  | obsLatch (t : Nat)
  /-- EPOCH_END (R346). -/
  | epochEnd (t watts temp throttle : Nat)
  /-- OLIASTOR_CONNECT (R371). -/
  | oliastorConnect (t : Nat) (cert : ClientCert)
  /-- GET_STATUS (R372). -/
  | getStatus (t : Nat) (msg : Call)
  /-- GET_HALLMARK (R369). -/
  | getHallmark (t : Nat) (msg : Call) (req : HallmarkRequest)
  /-- SUBSCRIBE (R372). -/
  | subscribe (t : Nat) (msg : Call)
  /-- ACK_EVENT (R378). -/
  | ackEvent (t : Nat) (msg : Call) (seq : Nat)
  /-- READ_PAGE (R414). -/
  | readPage (t : Nat) (msg : Call) (page : Nat)
  /-- STAGE_IMAGE (R366). -/
  | stageImage (t : Nat) (msg : Call) (image : Image)
  /-- ACTIVATE (R367). -/
  | activate (t : Nat) (msg : Call)
  /-- ACTIVATION_COMPLETE (R367). -/
  | activationComplete (t : Nat)
  /-- ACTIVATION_FAIL (R368). -/
  | activationFail (t : Nat)
  /-- COMMIT (R366). -/
  | commit (t : Nat) (msg : Call)
  /-- DISCARD_STAGED (R372). -/
  | discardStaged (t : Nat) (msg : Call)
  /-- SET_LIFECYCLE (R353). -/
  | setLifecycle (t : Nat) (msg : Call) (state : Lifecycle) (anchor : Nat)
  /-- SET_ANCHOR (R372). -/
  | setAnchor (t : Nat) (msg : Call) (anchor : Nat)
  /-- DOMAIN_CREATE (R357). -/
  | domainCreate (t : Nat) (msg : Call)
  /-- DOMAIN_JOIN (R357). -/
  | domainJoin (t : Nat) (msg : Call) (port : Nat)
  /-- SET_ALLOWLIST (R372). -/
  | setAllowlist (t : Nat) (msg : Call) (composites : List Nat)
  /-- SET_MODULE_ID (R372). -/
  | setModuleId (t : Nat) (msg : Call) (ident : Nat)
  /-- ROUTE_WRITE (R218). -/
  | routeWrite (t : Nat) (msg : Call) (entries : List RouteEntry)
  /-- TIME_TREE (R221). -/
  | timeTree (t : Nat) (msg : Call) (root : Bool) (parent : Option Nat)
  /-- PEER_NOTICE (R233). -/
  | peerNotice (t : Nat) (msg : Call) (job : Nat) (positions : List Nat) (kind : NoticeKind)
  /-- LASER_RELEASE (R36). -/
  | laserRelease (t : Nat) (msg : Call) (unit : Nat)
  /-- QUENCH_CONTEXT (R269). -/
  | quenchContext (t : Nat) (msg : Call) (slot : Nat)
  /-- ANNEAL (R319). -/
  | anneal (t : Nat) (msg : Call) (slot range : Nat)
  /-- SET_BAR4 (R244). -/
  | setBar4 (t : Nat) (msg : Call) (enable : Bool)
  /-- EXTEST (R417). -/
  | extest (t bits : Nat)
  /-- SAMPLE_PRELOAD (R416). -/
  | samplePreload (t bits : Nat)
  /-- IDCODE (R416). -/
  | idcode (t : Nat)
  /-- DAL_READ (R419). -/
  | dalRead (t addr : Nat)
  /-- DAL_WRITE (R420). -/
  | dalWrite (t addr data : Nat)
  /-- DAL_OPEN (R423). -/
  | dalOpen (t : Nat)
  /-- DAL_CLOSE (R421). -/
  | dalClose (t : Nat)
  /-- DAL_FACTORY_OP (R421). -/
  | dalFactoryOp (t : Nat) (op : FactoryOp) (credential : Bool)
  /-- CP_HALT (R424). -/
  | cpHalt (t fn value : Nat)
  /-- CP_STEP (R424). -/
  | cpStep (t fn value : Nat)
  /-- CP_BREAKPOINT_HIT (R424). -/
  | cpBreakpointHit (t cp bp : Nat)
  /-- WL_RESUME (R426). -/
  | wlResume (t fn bp : Nat)
  /-- FRAME_VIEW_READ (R428). -/
  | frameViewRead (t fn : Nat)
  /-- FRAME_VIEW_WRITE (R428). -/
  | frameViewWrite (t fn : Nat)
  /-- PT_ARM (R431). -/
  | ptArm (t fn value : Nat)
  /-- REFCLK_PCIE_RETURN (R392). -/
  | refclkPcieReturn (t : Nat)
  /-- CODEWORD_LOCK (R200). -/
  | codewordLock (t port lanes : Nat)
  /-- HOST_COMPLETION (R271). -/
  | hostCompletion (t tag : Nat) (data : Bytes)
  /-- PCIE_LINK_RETRAIN (R413). -/
  | pcieLinkRetrain (t speed width : Nat) (flit : Bool)
  /-- SRIOV_ENABLE (R243). -/
  | sriovEnable (t : Nat) (enable : Bool) (numVfs : Nat)
  /-- THERMAL_TRIP_RAILS_ON (R393). -/
  | thermalTripRailsOn (t temp : Nat)
  /-- SPDM_SESSION_START (R342). -/
  | spdmSessionStart (t session transcript : Nat)
  /-- IDE_KM (R341). -/
  | ideKm (t session slot : Nat)
  deriving DecidableEq, Repr

end Sys2Proof
end

