-- ==== Sys2Proof/Config.lean ====
section
/-! DEFINITION. What the manual leaves open and the model leaves FREE: constants without a body. Nothing
in Lean can evaluate them or prove a value of one, so a statement holds for every choice. -/

namespace Sys2Proof.Config

/-- DESIGN CHOICE (log 6). A fresh random value of `n` bits: the n-th free draw of kind `kind`, index `i`
(keys R301, secrets R349, roots R353, nonces R361, R369). -/
opaque fresh (kind i : Nat) : Nat

/-- DESIGN CHOICE (log 7). An unstated value, by the free counter of State. -/
opaque value (i : Nat) : Nat

/-- DESIGN CHOICE (log 8). The fixed vector functions of R157 on a V24 word, outside the cases R157 fixes:
code of the operation, then the operand. -/
opaque vecFn (op : Nat) (a : BitVec 24) : BitVec 24

/-- DESIGN CHOICE (log 9). An operator result whose formula the manual does not fix (R83, R128, R144 to
R147, R436): a code of the quantity, then the exact operand words, give a V24 word. -/
opaque opFn (what : Nat) (operands : List Nat) : BitVec 24

/-- DESIGN CHOICE (log 120). The bytes of an X.509 certificate (R356): its level (0 the root CA, 1 the factory CA, then 1 more than the
code of the life-cycle state it names), the serial number, the public key it certifies and its issuer's. -/
opaque certificate (level serial : Nat) (subject issuer : List (BitVec 8)) : List (BitVec 8)

/-- DESIGN CHOICE (log 120). The value type of the hallmark's measurement block besides its raw bit-stream flag (R369). -/
opaque blockType : Nat

/-- DESIGN CHOICE (log 121). How far before 2^48 PKT_CTR is when the device sends REKEY (R328, R363). -/
opaque rekeyMargin : Nat

/-- DESIGN CHOICE (log 10). The routing hash of R219 over SRC, DST, JOB, TAG and LEVEL. -/
opaque routeHash (src dst job tag level : Nat) : Nat

/-- DESIGN CHOICE (log 11). Whether, and with which ratio and error bin, the assay unit samples a tile
(R123, R124): what is asked, then the draw. -/
opaque assay (what i : Nat) : Nat

/-- DESIGN CHOICE (log 96). The words of an operand-cache region (R166): the draw that filled it, then the word. -/
opaque cacheWord (fill i : Nat) : Nat

/-- DESIGN CHOICE (log 64). The control processor that runs a queue's service entries (R380, R424): slot, then queue. -/
opaque server (slot queue : Nat) : Nat

/-- DESIGN CHOICE (log 93). Where the reserve holds a counter line, node or minor line (R309): its line address, and above bit 35 the
controller. -/
opaque reserveAt (code : Nat) : Nat

/-- DESIGN CHOICE (log 113). The tier the placement engine chooses for a frame without a pin (R184): its class, its REUSE hint and its
sampled accesses. -/
opaque place (cls reuse hits : Nat) : Nat

end Sys2Proof.Config
end

