-- ==== Sys2Proof/Machine/Bits.lean ====
section
/-! DEFINITION. Bit fields, byte orders, saturating counters and sparse tables. -/

namespace Sys2Proof.Machine

/-! ### Bit fields of numbers -/

/-- Bits [hi:lo] of a number. -/
def sl (v hi lo : Nat) : Nat := (v >>> lo) % 2 ^ (hi + 1 - lo)

/-- Bit i of a number. -/
def bit (v i : Nat) : Bool := v.testBit i

def b2n (b : Bool) : Nat := if b then 1 else 0

/-- A register word from its fields: (lowest bit, width, value). Reserved bits read 0 (R10). -/
def pack : List (Nat × Nat × Nat) → Nat
  | [] => 0
  | (lo, w, v) :: fs => ((v % 2 ^ w) <<< lo) ||| pack fs

/-- A number read as a two's-complement integer of `w` bits. -/
def toSigned (w v : Nat) : Int :=
  if v % 2 ^ w < 2 ^ (w - 1) then (v % 2 ^ w : Nat) else ((v % 2 ^ w : Nat) : Int) - (2 ^ w : Nat)

/-- The `w`-bit two's-complement code of an integer. -/
def ofSigned (w : Nat) (v : Int) : Nat := (v % ((2 ^ w : Nat) : Int)).toNat

/-- The number of set bits among the lowest `n`. -/
def popcount (v : Nat) : Nat → Nat
  | 0 => 0
  | n + 1 => (if v.testBit n then 1 else 0) + popcount v n

/-! ### Counters -/

/-- A saturating counter of `w` bits (the register tables' "saturating"). -/
def satAdd (w c d : Nat) : Nat := min (c + d) (2 ^ w - 1)

/-- A wrapping counter of `w` bits. -/
def wrapAdd (w c d : Nat) : Nat := (c + d) % 2 ^ w

/-- A write to a field with a range: a value outside it leaves the field unchanged. -/
def inRange (lo hi old v : Nat) : Nat := if lo ≤ v ∧ v ≤ hi then v else old

/-! ### Byte strings (little-endian, R9) -/

/-- The number a little-endian byte string stands for. -/
def leNat : Bytes → Nat
  | [] => 0
  | b :: bs => b.toNat + 256 * leNat bs

/-- `n` little-endian bytes of a number. -/
def toLE : Nat → Nat → Bytes
  | 0, _ => []
  | n + 1, v => BitVec.ofNat 8 v :: toLE n (v / 256)

/-- The number a big-endian byte string stands for (keys and signatures, R332). -/
def beNat (bs : Bytes) : Nat := bs.foldl (fun a b => a * 256 + b.toNat) 0

/-- `n` big-endian bytes of a number. -/
def toBE (n v : Nat) : Bytes := (toLE n v).reverse

/-- Bytes [off, off + n) of a string, zero beyond its end. -/
def bslice (bs : Bytes) (off n : Nat) : Bytes :=
  ((bs.drop off).take n) ++ List.replicate (n - (bs.length - off)) 0

/-- The little-endian field of `n` bytes at `off`. -/
def fld (bs : Bytes) (off n : Nat) : Nat := leNat (bslice bs off n)

/-- The string with bytes from `off` on replaced. -/
def bput (bs : Bytes) (off : Nat) (d : Bytes) : Bytes :=
  bslice bs 0 off ++ d ++ bs.drop (off + d.length)

def zeros (n : Nat) : Bytes := List.replicate n 0

/-- All bytes of a string are zero (reserved fields). -/
def allZero (bs : Bytes) : Bool := bs.all (· == 0)

/-! ### Sparse tables -/

/-- The entry of key `k`; an unlisted key reads as `d`. -/
def tget {α : Type} (d : α) : SMap α → Nat → α
  | [], _ => d
  | (i, a) :: m, k => if k = i then a else tget d m k

/-- The table without key `k`. -/
def tdel {α : Type} : SMap α → Nat → SMap α
  | [], _ => []
  | (i, a) :: m, k => if k = i then tdel m k else (i, a) :: tdel m k

/-- Insert a pair at its place, replacing an entry of the same key. -/
def tins {α : Type} : SMap α → Nat → α → SMap α
  | [], k, v => [(k, v)]
  | (i, a) :: m, k, v =>
    if k < i then (k, v) :: (i, a) :: m
    else if k = i then (k, v) :: m
    else (i, a) :: tins m k v

/-- The table with key `k` reading `v`; writing what an unlisted key reads as removes the entry, so that
equal tables are equal lists. -/
def tput {α : Type} [DecidableEq α] (d : α) (m : SMap α) (k : Nat) (v : α) : SMap α :=
  if v = d then tdel m k else tins m k v

/-- The keys of a table rise strictly from above `lo`, and no entry equals the default. -/
def twfFrom {α : Type} [DecidableEq α] (d : α) : Option Nat → SMap α → Bool
  | _, [] => true
  | lo, (i, a) :: m =>
    (match lo with | none => true | some l => decide (l < i)) && decide (a ≠ d) && twfFrom d (some i) m

/-- The canonical form of a sparse table. -/
def twf {α : Type} [DecidableEq α] (d : α) (m : SMap α) : Bool := twfFrom d none m

/-- The entry for `k` changed by `f`. -/
def tmod {α : Type} [DecidableEq α] (d : α) (m : SMap α) (k : Nat) (f : α → α) : SMap α :=
  tput d m k (f (tget d m k))

/-! ### Lists -/

/-- Entry `k` of a list changed by `f`. -/
def lmod {α : Type} (l : List α) (k : Nat) (f : α → α) : List α :=
  match l, k with
  | [], _ => []
  | a :: l, 0 => f a :: l
  | a :: l, k + 1 => a :: lmod l k f

/-- Insert into an ascending list without repeats. -/
def addSorted (l : List Nat) (k : Nat) : List Nat :=
  match l with
  | [] => [k]
  | a :: l => if k < a then k :: a :: l else if k = a then a :: l else a :: addSorted l k

/-- ⌈a / b⌉. -/
def cdiv (a b : Nat) : Nat := (a + b - 1) / b

/-- Results that may stop: the first stop of a list, or all values in order. -/
def collect {ε α : Type} : List (Except ε α) → Except ε (List α)
  | [] => .ok []
  | .error e :: _ => .error e
  | .ok a :: r => match collect r with
    | .ok l => .ok (a :: l)
    | .error e => .error e

/-! ### The codewords of a lane (R206): RS(544,514) over symbols of 10 bits (log 116) -/

/-- The product in GF(2^10) by x^10 + x^3 + 1. -/
def gf10 (a b : Nat) : Nat :=
  ((List.range 10).foldl (fun (x : Nat × Nat) i =>
    (if bit b i then x.1 ^^^ x.2 else x.1, if x.2 < 512 then 2 * x.2 else (2 * x.2) ^^^ 0x409)) (0, a)).1

/-- The coefficients below the leading one, lowest first, of the polynomial with the roots 1, 2, 2^2 .. 2^29 of the field. -/
def rsGen : List Nat :=
  ((List.range 30).foldl (fun (x : List Nat × Nat) _ =>
    (List.zipWith (· ^^^ ·) (0 :: x.1) (x.1.map (gf10 x.2) ++ [0]), gf10 x.2 2)) ([1], 1)).1.take 30

/-- The 30 check symbols of a message, the first message symbol that of the highest power, in the same order. -/
def rsCheck (msg : List Nat) : List Nat :=
  let g := rsGen
  (msg.foldl (fun r m =>
    let f := m ^^^ r.getLastD 0
    List.zipWith (· ^^^ ·) (0 :: r) (g.map (gf10 f))) (List.replicate 30 0)).reverse

/-- The codeword that carries a flit on a lane: the header with the lane index, bit 3 zero, then the flit, each from its lowest bit
on; then the check symbols. -/
def codeword (lane : Nat) (flit : Bytes) : List Nat :=
  let n := lane % 8 + 16 * leNat flit
  let msg := (List.range 514).map (fun i => n / 1024 ^ i % 1024)
  msg ++ rsCheck msg

end Sys2Proof.Machine
end

