-- ==== Sys2Proof/Machine/Objects.lean ====
section
/-! DEFINITION. The objects the module keeps: completion statuses, formats, work-list entries, tensor
descriptors, context records, charters, queues, faults, buckets, ports. Plain data. -/

namespace Sys2Proof.Machine

/-- Completion statuses (R268), in code order. -/
inductive Status where
  | ok | aborted | faultUnmapped | faultPermission | faultTag | faultReplay | lateDropped | resetLost
  | shardVersion | nonfinite | charterDenied | cryptoExhausted | abandoned | peerLost
  | contractUnsupported | unitAbsent
  deriving DecidableEq, Repr

/-- A real or non-finite value: (−1)^neg · m · 2^e, an infinity, or NaN. -/
inductive Val where
  | fin (neg : Bool) (m : Nat) (e : Int)
  | inf (neg : Bool)
  | nan
  deriving DecidableEq, Repr

/-- Format codes (R93) and the index code X16 (R65). -/
inductive Fmt where
  | b16 | bf16 | p16 | s8e4 | s8e5 | mxfp8 | mxfp4 | l8 | i8 | x16
  deriving DecidableEq, Repr

/-! ### What a core holds (R131, R137, R150, R166 to R169) -/

/-- A tile in the finished-tile queue (R137, R169): the entry's queue, and the tile's number in the entry. -/
structure FTile where
  q    : QRef
  tile : Nat
  deriving DecidableEq, Repr

/-- The work of an entry on a core: the bytes its operand panels, P16 running sums and parked accumulators take in the operand
store (R137), and how many K chunks of its block are done (R150). -/
structure Load where
  q      : QRef
  tag    : Nat
  panels : Nat
  sums   : Nat
  accs   : Nat
  chunks : Nat
  deriving DecidableEq, Repr

/-- The operand cache (R166, R167): 1,024 rows of 256 words of 32 bits; rows 0 to 63 are the state region, rows 64 to 1,023 the
working region, which belongs to one entry on the core. A region is zeroed (none) or holds words that the lowering chooses, named by
the number of their draw (log 96). -/
structure OpCache where
  state   : Option Nat := none
  working : Option Nat := none
  owner   : Option QRef := none
  deriving DecidableEq, Repr

/-- The word of a row and lane. -/
def OpCache.word (c : OpCache) (row lane : Nat) : Nat :=
  match (if row < 64 then c.state else c.working) with
  | some n => Config.cacheWord n (256 * row + lane) % 2 ^ 32
  | none => 0

/-- The operand store, the accumulator banks of both arrays, two each, and the transposing buffer (R131): zeroed, or words of free
draws as in the operand cache (log 96). -/
structure Crucible where
  store  : Option Nat := none
  banks  : List Nat := []
  buffer : Option Nat := none
  deriving DecidableEq, Repr

/-- The core state a pre-emption has saved in one core's part of the save area (R150, R168): the loads, whose panels are fetched
again, the sums and accumulators among their words, and the state region. -/
structure Saved where
  core  : Nat
  loads : List Load
  state : Option Nat
  words : Crucible
  deriving DecidableEq, Repr

/-! ### Work lists -/

/-- A 64-byte entry (R60). -/
structure Entry where
  op          : Nat := 0
  flags       : Nat := 0
  variant     : Nat := 0
  desc        : List Nat := [0xFFFF, 0xFFFF, 0xFFFF, 0xFFFF, 0xFFFF, 0xFFFF]
  imm0        : Nat := 0
  imm1        : Nat := 0
  waitFence   : Nat := 0xFFFF
  signalFence : Nat := 0xFFFF
  tag         : Nat := 0
  waitValue   : Nat := 0
  signalValue : Nat := 0
  hint        : Nat := 0
  rsvd        : Nat := 0
  deriving DecidableEq, Repr

/-- A 128-byte tensor descriptor (R63). -/
structure Desc where
  base       : Nat := 0
  side       : Nat := 0
  tensorId   : Nat := 0
  fmt        : Nat := 0
  rank       : Nat := 0
  cls        : Nat := 0
  scaleSlot  : Nat := 0xFFFF
  shardDim   : Nat := 0xFF
  shardCount : Nat := 1
  shardIndex : Nat := 0
  dims       : List Nat := []
  strides    : List Int := []
  group      : Nat := 0
  versionVa  : Nat := 0
  loopStride : Int := 0
  rsvd       : Nat := 0
  deriving DecidableEq, Repr

/-- A micro-op (R158). -/
structure MicroOp where
  op   : Nat
  dst  : Nat
  a    : Nat
  b    : Nat
  c    : Nat
  rsvd : Nat
  md   : Nat
  imm  : Nat
  deriving DecidableEq, Repr

/-- The admitted copy of one list (R56, R57, R162): entries, descriptors, micro-op lists by address. -/
structure AdmList where
  addr    : Nat
  entries : List Entry
  descs   : List Desc
  micro   : List (Nat × List MicroOp)
  numrev  : Nat := 1
  version : Nat := 0x0300
  deriving DecidableEq, Repr

/-- A loop in progress (R69, R87): index of its LOOP_BEGIN, count, iteration. -/
structure Loop where
  start : Nat
  count : Nat
  iter  : Nat
  deriving DecidableEq, Repr

/-- A list in progress (R59): its address, the position of the current entry, the loops it stands in
(innermost first), the first status other than OK, where it jumps to at the next completion, whether only FINALLY
entries still run (`failing`; `skipAt`: until the loop at that depth ends its iteration, after SHARD_VERSION;
`dropping`: until PERIOD_MARK). -/
structure Frame where
  addr     : Nat
  pos      : Nat := 0
  loops    : List Loop := []
  first    : Status := .ok
  failing  : Bool := false
  skipAt   : Option Nat := none
  jump     : Option Nat := none
  dropping : Bool := false
  deriving DecidableEq, Repr

/-- Where a parked entry goes on when it is resumed (R265). -/
inductive Back where
  | ready
  | waiting
  | running
  | done (st : Status)
  deriving DecidableEq, Repr

/-- The phase of a queue's current entry. -/
inductive Phase where
  | idle
  | waiting
  | ready
  | held (bp : Nat)
  | running
  | treeWait
  | parked (rid : Nat) (back : Back)
  | done (st : Status)
  deriving DecidableEq, Repr

/-- What an entry that completes by later events is waiting for; `hostRead`: the ranges of host memory that have arrived
for it; `scrub`: the frames a RETIRE scrubs before it completes (R258); `settled`: its outputs hold what its status leaves (R127). -/
inductive Flight where
  | none
  | collective (tags : List Nat) (nonfinite lost : Bool)
  | exchange (start deadline : Nat) (late : List Nat)
  | gather (start : Nat) (missing : List Nat)
  | recv (start : Nat)
  | barrier (scope ident start patience : Nat)
  | reshard (epoch : Nat)
  | period
  | fresh (start : Nat)
  | hostRead (done : List (Nat × Nat))
  | scrub (frames : List Nat)
  | settled
  deriving DecidableEq, Repr

/-- What a write folds into a scale slot (R112, R119, R120): the binade of its largest finite magnitude (0: none),
a non-finite value seen, overflowed tiles. -/
structure SlotUpd where
  slot : Nat
  hist : Nat
  nf   : Bool
  ovf : Nat
  deriving DecidableEq, Repr

/-- What an entry writes: bytes, slot updates, whether a computed value is non-finite, overflowed tiles. -/
structure Eff where
  writes : List (Nat × Bytes) := []
  slots  : List SlotUpd := []
  nf     : Bool := false
  ovf   : Nat := 0
  deriving DecidableEq, Repr

/-- What an operator gives: its writes, the TENSOR_IDs it accumulated into, a status of its own, its part of the step's
loss (R92). -/
structure Done where
  eff  : Eff := {}
  bump : List Nat := []
  st   : Option Status := none
  loss : Option Val := none
  deriving DecidableEq, Repr

/-- A queue of a context (R255 to R257), with its current entry: whether it has started, the step number it took then (R89),
the rounded tiles that a fault found before their first line was written keeps in the restart state, and the state its work on the
cores has in the save area while it is parked (R152). -/
structure Queue where
  enable     : Bool := false
  error      : Bool := false
  err        : Nat := 0
  base       : Nat := 0
  depth      : Nat := 6
  sprig      : Bool := false
  head       : Nat := 0
  tail       : Nat := 0
  lastStatus : Nat := 0
  cur        : Option Entry := none
  stack      : List Frame := []
  tree       : List AdmList := []
  phase      : Phase := .idle
  flight     : Flight := .none
  begun      : Bool := false
  startStep  : Nat := 0
  startedAt  : Nat := 0
  kept       : Option Done := none
  work       : List Saved := []
  deriving DecidableEq, Repr

/-! ### Context objects -/

/-- The on-die copy of a context record (R248). -/
structure CtxRec where
  ptRoot      : Nat := 0
  mode        : Nat := 0
  job         : Nat := 0
  position    : Nat := 0
  groupCount  : Nat := 1
  groupTable  : Nat := 0
  jobSeed     : Nat := 0
  scaleTable  : Nat := 0
  logRing     : Nat := 0
  logEntries  : Nat := 16
  patience    : Nat := 0
  fenceTable  : Nat := 0
  fenceCount  : Nat := 1
  faultEntries : Nat := 64
  faultRing   : Nat := 0
  saveArea    : Nat := 0
  objectTable : Nat := 0
  charterVa   : Nat := 0
  keyrangeVa  : Nat := 0
  schedVa     : Nat := 0
  winBase     : Nat := 0
  rsvd        : Nat := 0
  deriving DecidableEq, Repr

/-- A key-range entry (R302) with the key slot it holds (R303). -/
structure KeyRange where
  base   : Nat := 0
  length : Nat := 0
  replay : Nat := 0
  owner  : Nat := 0xFF
  rsvd   : Nat := 0
  slot   : Nat := 0
  deriving DecidableEq, Repr

/-- Charter entries (R332). -/
structure CharterKey where
  keyId : Nat
  owner : Nat
  use   : Nat
  key   : Nat
  deriving DecidableEq, Repr

structure CharterDigest where
  digest : Nat
  kind   : Nat
  ranges : Nat
  deriving DecidableEq, Repr

structure CharterRule where
  tensorId   : Nat
  range      : Nat
  form       : Nat
  recipient  : Nat
  releaseKey : Nat
  limit      : Nat
  deriving DecidableEq, Repr

/-- The on-die copy of a charter with its digest and unwrapped keys (R331, R360). -/
structure Charter where
  owners     : Nat
  job        : Nat
  flags      : Nat
  logRelease : Nat
  digest     : Nat
  ownerKeys  : List (Nat × Nat)
  keys       : List CharterKey
  digests    : List CharterDigest
  rules      : List CharterRule
  touchmarks : List Nat
  deriving DecidableEq, Repr

/-- A scheduling record (R281). -/
structure SchedRec where
  cls    : Nat := 0
  flags  : Nat := 0
  cores  : Nat := 1
  weight : Nat := 1
  slots  : Nat := 0
  period : Nat := 0
  phase  : Nat := 0
  rsvd   : Nat := 0
  deriving DecidableEq, Repr

/-- A parked restart identifier (R263, R264): the page it stands for, the access, and whether its record
has been written. -/
structure Parked where
  rid     : Nat
  page    : Nat
  va      : Nat
  tag     : Nat
  source  : Nat
  reason  : Nat
  queue   : Nat
  write   : Bool
  replayable : Bool
  written : Bool
  time    : Nat
  deriving DecidableEq, Repr

/-- The counts of the step under way (R48, R91). -/
structure Stats where
  overflow      : Nat := 0
  skipped       : Nat := 0
  lateBuckets   : Nat := 0
  lateRanks     : List Nat := []
  shardVersion  : Nat := 0
  useLatest     : Nat := 0
  resetLost     : Nat := 0
  carriedIn     : Nat := 0
  dropped       : Nat := 0
  assay         : Nat := 0
  diverge       : Bool := false
  notIdentical  : Bool := false
  lossSeen      : Bool := false
  lossBad       : Bool := false
  lossM         : Int := 0
  lossE         : Int := 0
  numrev        : Nat := 1
  lsExp         : Option Nat := none
  metrics       : SMap (Nat × Nat × Nat) := []
  deriving DecidableEq, Repr

/-- A range of element addresses whose optimiser update is skipped (R77). -/
structure Skip where
  base : Nat
  len  : Nat
  deriving DecidableEq, Repr

/-- A message stream being received (R211), by message identifier and sender. -/
structure Msg where
  src   : Nat
  mid   : Nat
  bytes : Bytes
  got   : List (Nat × Nat)
  last  : Bool
  deriving DecidableEq, Repr

/-- A gather request the module holds (R80, R211). -/
structure HeldGather where
  rid      : Option Nat := none
  src       : Nat
  tensorId  : Nat
  iter      : Nat
  shard     : Nat
  start     : Nat
  count     : Nat
  step      : Nat
  deriving DecidableEq, Repr

/-- A device reference that a queue's call holds on an object (R274): entry of the table, base address, length. -/
structure ObjRef where
  queue : Nat
  index : Nat
  base  : Nat
  len   : Nat
  deriving DecidableEq, Repr

/-- A contribution carried to the next step (R227). -/
structure Carry where
  index : Nat
  step  : Nat
  data  : Bytes
  deriving DecidableEq, Repr

/-- A context slot (R247, R277, R348): `ending`: the FINALLY entries of an ended period still run (R297); `periodAt`: the round of its
latest boundary, or of CREATE; `scratch`: pages of period-scoped ranges of lists that have ended in the period (R70); `updated`:
TENSOR_IDs and byte ranges (first, last) that optimiser entries have updated in the step (R45); `past`: the counts of steps that are
no longer in force (R92); `usedIdx`: bucket indices used in the epoch, with their step (R78); `owes`: its save area has faulted, so
that a quench is due (R250); state 0 FREE, 1 LIVE, 2 QUENCHING, 3 QUENCHED, 4 DRAINING; generation; the copies made at CREATE; queues;
faults; the step under way; message streams; observation counters. -/
structure Ctx where
  state      : Nat := 0
  gen        : Nat := 0
  createErr  : Nat := 0
  recAddr    : Nat := 0
  record     : Option CtxRec := none
  charter    : Option Charter := none
  ranges     : List KeyRange := []
  groups     : List (List Nat) := []
  sched      : SchedRec := {}
  reload     : Option SchedRec := none
  step       : Nat := 0
  epoch      : Nat := 0
  usedIdx    : List (Nat × Nat) := []
  queues     : SMap Queue := []
  qsel       : Nat := 0
  fenceSel   : Nat := 0
  produced   : Nat := 0
  consumed   : Nat := 0
  overflow   : Bool := false
  parked     : List Parked := []
  nextRid    : Nat := 0
  invalVa    : Nat := 0
  invalPages : Nat := 0
  invalGo    : Bool := false
  obsSel     : Nat := 0
  obs        : SMap Nat := []
  obsLatch   : SMap Nat := []
  hostMode   : Nat := 3
  winErr     : Bool := false
  stats      : Stats := {}
  past       : SMap Stats := []
  span       : Bool := false
  skips      : List Skip := []
  accN       : SMap Nat := []
  msgs       : List Msg := []
  gathers    : List HeldGather := []
  ending     : Bool := false
  carries    : List Carry := []
  sent       : List (Nat × List Nat) := []
  dead       : List (Nat × Nat) := []
  updated    : List (Nat × Int × Int) := []
  session    : Option Nat := none
  releases   : SMap Nat := []
  segs       : List (Nat × List Bytes) := []
  resegs     : List (Nat × List Bytes) := []
  drained    : Bool := false
  saved      : List Saved := []
  owes       : Bool := false
  scratch    : List Nat := []
  time       : Nat := 0
  sprigUs    : Nat := 0
  sprigRound : Nat := 0
  overruns   : Nat := 0
  periodAt   : Nat := 0
  peerGens   : SMap Nat := []
  objRefs    : List ObjRef := []
  deriving DecidableEq, Repr

/-! ### Reduction -/

/-- A summary (R212): masks by rank-list position. -/
structure Summary where
  nf        : Bool := false
  abandoned : Bool := false
  members   : List Nat := []
  offenders : List Nat := []
  carried   : List Nat := []
  deriving DecidableEq, Repr

/-- The state of one input of a member (R226). -/
inductive InSt where
  | waiting
  | ready (s : Summary)
  | absent
  deriving DecidableEq, Repr

/-- A right group a member receives from: level, representative, settled state, pull sent (`early`: into the reduction buffer,
R230), and the partial received so far with its byte ranges. -/
structure Input where
  level  : Nat
  rep    : Nat
  st     : InSt := .waiting
  part   : Bytes := []
  ranges : List (Nat × Nat) := []
  got    : Nat := 0
  pulled : Bool := false
  early  : Bool := false
  full   : Bool := false
  deriving DecidableEq, Repr

/-- A bucket this module holds a part in (R223 to R232): `sentBlk`, `streamed`: the blocks of 32 elements of its partial sent for the
present pull, and whether that was all of it (R230); `gone`: the entry that issued it has ended before it. -/
structure Bucket where
  job      : Nat
  tag      : Nat
  slot     : Nat
  queue    : Nat := 0
  issued   : Bool := false
  started  : Bool := false
  scatter  : Bool := false
  fmt      : Nat := 0
  elems    : Nat := 0
  elem0    : Nat := 0
  d0       : Option Desc := none
  d1       : Option Desc := none
  index    : Nat := 0
  step     : Nat := 0
  patience : Nat := 0
  nfPolicy : Nat := 0
  latePolicy : Nat := 0
  contrib  : Option Bytes := none
  carriedIn : Bool := false
  anchor   : Option Nat := none
  own      : InSt := .waiting
  inputs   : List Input := []
  readySent : Bool := false
  sentTo   : Option Nat := none
  summary  : Summary := {}
  pullFrom : Option (Nat × Nat × Nat) := none
  sentBlk  : List Nat := []
  streamed : Bool := false
  gone     : Bool := false
  pass     : Nat := 1
  redoMask : List Nat := []
  lost     : Bool := false
  result   : Bytes := []
  resGot   : Nat := 0
  final    : Option Summary := none
  doneAt   : Option Nat := none
  sumBytes : SMap Bytes := []
  skip     : List Nat := []
  planned  : Bool := false
  deriving DecidableEq, Repr

/-! ### Ports -/

/-- A link session (R361 to R363, R328): own ephemeral key and nonce by the number of their fresh draw and own
HELLO payload; keys, salts and finish keys of R363; what the session has exchanged under R339. `giver`: the peer of the join session has
no domain and this module has one (R357); `ephNew`: the ephemeral key of a REKEY on its way (R363). -/
structure Link where
  helloSent   : Bool := false
  eph         : Nat := 0
  hello       : Bytes := []
  peerHello   : Option Bytes := none
  certs       : List (Nat × Bytes) := []
  proofOk     : Bool := false
  finishSent  : Bool := false
  finishOk    : Bool := false
  established : Bool := false
  join        : Bool := false
  at_         : Nat := 0
  txKey       : Bytes := []
  txSalt      : Bytes := []
  rxKey       : Bytes := []
  rxSalt      : Bytes := []
  finOwn      : Bytes := []
  finPeer     : Bytes := []
  giver       : Bool := false
  ephNew      : Nat := 0
  oldRx       : Option Bytes := none
  txCtr       : Nat := 0
  rxHigh      : Option Nat := none
  oldHigh     : Option Nat := none
  rekeySent   : Bool := false
  digests     : List (Nat × Nat) := []
  sentDigests : List (Nat × Nat) := []
  deriving DecidableEq, Repr

/-- A lane (R202, R203, `PORT.LANE_STAT`): 0 off, 1 active, 2 recalibrating, 3 failed; `next`: what it becomes at the flit of an
announced lane map (R204). -/
structure Lane where
  st       : Nat := 0
  rxpwr    : Nat := 0
  margin   : Nat := 0
  corr     : Nat := 0
  uncorr   : Nat := 0
  failedAt : Nat := 0
  was      : Nat := 0
  next     : Option Nat := none
  deriving DecidableEq, Repr

/-- An item whose accepted bytes a receiver remembers (R213). -/
structure Seen where
  key    : List Nat
  ranges : List (Nat × Nat)
  doneAt : Option Nat
  deriving DecidableEq, Repr

/-- A flit of the replay window (R208): its bytes, and the packets whose last byte it carries. -/
structure Win where
  fseq  : Nat
  bytes : Bytes
  pkts  : List Packet
  deriving DecidableEq, Repr

/-- A port (R198 to R214, R239). `joinReq`: DOMAIN_JOIN has named it; `back`: the state its moving light returns to (R205); `early`:
flits ahead of the awaited one (R206); `unsaid`: job packets that
wait for the peer's charter digest (R339); `lastLane`: the lane of its last flit; `mapAt`, `mapRx`: the own and the peer's announced lane
sets (R204); `syncSeq`: its latest TIME_SYNC request (R211). State: 0 down, 1 training, 2 session, 3 up, 4 waiting to retry. -/
structure Port where
  enable    : Bool := true
  st        : Nat := 0
  light     : Bool := false
  lightAt   : Nat := 0
  retryAt   : Nat := 0
  locked    : Bool := false
  trained   : Bool := false
  moving    : Bool := false
  movedAt   : Nat := 0
  back      : Nat := 3
  source    : Option Nat := none
  lanes     : SMap Lane := []
  mask      : Nat := 0
  peerMask  : Nat := 0
  laneOff   : Nat := 0
  laneSel   : Nat := 0
  recalLane : Nat := 0
  recalReq  : List Nat := []
  recalOps  : List Nat := []
  peerId    : Nat := 0
  peerPort  : Nat := 0
  usedId    : Nat := 0
  credits   : List Nat := [0, 0, 0, 0]
  owed      : List Nat := [0, 0, 0, 0]
  fseqTx    : Nat := 0
  fseqRx    : Nat := 0
  ackRx     : Nat := 0xFFFF
  nakOut    : Bool := false
  window    : List Win := []
  rxBuf     : Bytes := []
  early     : List (Nat × Bytes) := []
  rxPkts    : List Bytes := []
  txQueue   : List Packet := []
  unsaid    : List Packet := []
  txRest    : Bytes := []
  txLast    : Option Packet := none
  lastLane  : Nat := 7
  mapAt     : Option (Nat × Nat) := none
  mapRx     : Option (Nat × Nat) := none
  syncSeq   : Option Nat := none
  replays   : Nat := 0
  genDrop   : Nat := 0
  dupDrop   : Nat := 0
  badDrop   : Nat := 0
  link      : Link := {}
  sessions  : Nat := 0
  authFail  : Nat := 0
  ctrDrop   : Nat := 0
  removed   : Bool := false
  joinReq   : Bool := false
  deadAt    : Option Nat := none
  deriving DecidableEq, Repr

end Sys2Proof.Machine
end

