-- ==== Sys2Proof/Machine/State.lean ====
section
/-! DEFINITION. The state of the module: everything the spec gives it, the model's own fields (free, out,
pending), the outcomes that stop it, and the state right after reset. -/

namespace Sys2Proof.Machine

/-- The variants (R1, R2). -/
inductive Variant where
  | ulk8480 | ulk8462 | ulk8440
  deriving DecidableEq, Repr

/-- What is fixed at manufacture (R1, R411), and the locations retired per stack since (R4, R197):
near stacks at their index, bulk stacks at 16 + index. `latched` is the total that FRAME_COUNT leaves out
since the latest package reset, `nearLatched` the near part of it (R183). -/
structure Ident where
  variant : Variant := .ulk8480
  serial  : Nat := 1
  retired : SMap Nat := []
  latched : Nat := 0
  nearLatched : Nat := 0
  deriving DecidableEq, Repr

/-- Clocks (R11, R221, R392): `now` is the interval clock, `time` the device time; `free`: the parent port has gone down and no other
has been named since (R222). -/
structure Clock where
  now      : Nat := 0
  time     : Nat := 0
  held     : Bool := false
  pcieLost : Bool := false
  slew     : Int := 0
  locked   : Bool := false
  root     : Bool := false
  parent   : Option Nat := none
  hops     : Nat := 0
  offset   : Int := 0
  stepNext : Bool := true
  free     : Bool := false
  deriving DecidableEq, Repr

/-- Boot phases (R22, R364, R386, R393). -/
inductive Boot where
  | off | standby | resetHeld | booting | running | recovery | tripHeld
  deriving DecidableEq, Repr

/-- The 54 V input and the pins of the edge connector (R16 to R22). `holdUntil`: the end of the internal reset (R25, R386). -/
structure Pins where
  inputOn   : Bool := true
  lowInput  : Bool := false
  inputMv   : Nat := 0
  inputDa   : Nat := 0
  pwrgd     : Bool := true
  modResetN : Bool := true
  holdUntil : Nat := 0
  perstN    : Bool := false
  strap     : Nat := 0
  slotId    : Nat := 0
  onBattery : Bool := false
  ledTamper : Bool := false
  tripAlert : Bool := false
  deriving DecidableEq, Repr

/-- A host request in flight or waiting for a tag (R242, R271): the tag, the function it is made as (R243), the virtual and the
host address; a FetchAdd has its operand and the object it counts (R274). -/
structure HostRead where
  tag   : Nat
  fn    : Nat
  slot  : Nat
  queue : Nat
  gen   : Nat
  va    : Nat
  addr  : Nat
  len   : Nat
  fetchAdd : Option (Nat × Nat × Nat) := none
  deriving DecidableEq, Repr

/-- A window access that an engine reset holds (R379): a write has data. -/
structure WinReq where
  fn   : Nat
  off  : Nat
  len  : Nat
  data : Option Bytes
  deriving DecidableEq, Repr

/-- The PCIe endpoint and the HOSTIF page (R22, R24, R242 to R244, R341, R413). `sessions`: SPDM sessions with their transcript;
`held`: window accesses held, in arrival order (R379);
`xfers`: by session, the last SEQ accepted and the next SEQ of the device (R326). -/
structure Pcie where
  linkUp   : Bool := false
  crs      : Bool := true
  speed    : Nat := 0
  width    : Nat := 0
  flit     : Bool := false
  sriov    : Bool := false
  numVfs   : Nat := 0
  tdi      : SMap Nat := []
  ide      : SMap Bool := []
  tdiSel   : Nat := 0
  reads    : List HostRead := []
  waiting  : List HostRead := []
  timeouts : Nat := 0
  bar4     : Bool := true
  bar4Next : Bool := true
  sessions : List (Nat × Nat) := []
  xfers    : SMap (Option Nat × Nat) := []
  held     : List WinReq := []
  stage    : List ((Nat × Nat) × Nat) := []
  latch    : List ((Nat × Nat) × (Nat × Nat)) := []
  deriving DecidableEq, Repr

/-- What waits for fresh random values (R350): CREATE of a slot, DOMAIN_CREATE and SET_LIFECYCLE of a request, the HELLO of a port, the
anneal at the front of the queue, the factory's provisioning, a REKEY of a port, the boot. -/
inductive Wait where
  | create (slot : Nat) | domain (msg : Call) | lifecycle (msg : Call) | hello (port : Nat) | anneal | provision
  | rekey (port : Nat) | boot
  deriving DecidableEq, Repr

/-- An identity certificate (R356): the state it names, and the root from which the key it certifies derives. -/
structure IdCert where
  state : Lifecycle
  root  : Nat
  deriving DecidableEq, Repr

/-- The security controller (R349 to R357, R369). The root is named by the number of the fresh draw that made it
(log 6); the domain secret is its 384-bit value, which a DOMAIN packet can bring from a peer; the trust anchor is named
by its SHA-384 digest; `certs`: the identity certificates up to the current state (R356); `waits`: operations that wait for fresh values
(R350), with the moment they began to; `sealed`: units the checkpoint sealer
has sealed (R323). -/
structure Sec where
  lifecycle   : Lifecycle := .deployed
  fuse        : Bool := false
  latch       : Bool := false
  source      : Option TamperSource := none
  root        : Option Nat := some 1
  certs       : List IdCert := [⟨.provisioned, 0⟩, ⟨.deployed, 1⟩]
  domain      : Option Nat := none
  anchor      : Option Nat := some 0
  months      : Nat := 120
  batteryLow  : Bool := false
  batteryTold : Bool := false
  trngOk      : Bool := true
  requests    : Nat := 0
  reseeds     : Nat := 1
  waits       : List (Nat × Wait) := []
  nextSecret  : Nat := 2
  debugBoot   : Nat := 0
  debugLife   : Nat := 0
  debugFirst  : Nat := 0
  pending     : Option Lifecycle := none
  sealed      : Nat := 0
  deriving DecidableEq, Repr

/-- A firmware bank (R364, R365). -/
structure Bank where
  valid  : Bool := true
  secver : Nat := 0
  build  : Nat := 0
  digest : Nat := 0
  deriving DecidableEq, Repr

/-- A firmware component: banks A and B, the running bank (0 A, 1 B), the fuse counter, and whether the
inactive bank holds a staged image (R364, R366); `parts`: the fragments of an image under way, by offset and length (R372). -/
structure Fw where
  a      : Bank := {}
  b      : Bank := { valid := false }
  run    : Nat := 0
  fuse   : Nat := 0
  staged : Bool := false
  parts  : List (Nat × Nat) := []
  deriving DecidableEq, Repr

/-- Firmware and live activation (R364 to R368). `act`: the moment an activation was accepted; `creates`: slots whose CREATE
waits for its end (R367). -/
structure Firmware where
  rom      : Nat := 0
  sec      : Fw := {}
  mgmt     : Fw := {}
  ctrl     : Fw := {}
  link     : Fw := {}
  act      : Option Nat := none
  creates  : List Nat := []
  failed   : Bool := false
  lastOk   : Bool := false
  deriving DecidableEq, Repr

/-- An open Oliastor connection (R371). -/
structure Conn where
  id     : Nat
  role   : Role
  anchor : Nat
  sub    : Bool := false
  deriving DecidableEq, Repr

/-- The Oliastor service (R371, R372). `held`: hallmark requests held (R367, R370), with the request's header, or none for SPDM; `line`:
requests not answered yet and the answers that stand behind them, in the order of the requests (R372). -/
structure Mgmt where
  conns    : List Conn := []
  nextConn : Nat := 1
  allow    : List Nat := []
  held     : List (Option Call × HallmarkRequest) := []
  line     : List (Call × Option Bytes) := []
  deriving DecidableEq, Repr

/-- A RAS record (R376). -/
structure RasRec where
  time   : Nat
  seq    : Nat
  page   : Nat
  cls    : Nat
  code   : Nat
  ctx    : Option (Nat × Nat)
  routed : Bool
  acked  : Bool := false
  info   : Nat
  deriving DecidableEq, Repr

/-- The RAS page and its log (R376 to R387, R395, R398), newest record first. -/
structure Ras where
  log       : List RasRec := []
  produced  : Nat := 0
  logSel    : Nat := 0
  mask      : Nat := 0xFC
  bootCause : Nat := 0
  cpCause   : Nat := 0
  cpCount   : Nat := 0
  cpActive  : Bool := false
  cpAt      : Nat := 0
  cpTimes   : List Nat := []
  cpLost    : Nat := 0
  sweep     : Bool := false
  sweepCore : Nat := 0
  interval  : Nat := 0
  lanes     : Bool := true
  failed    : Nat := 0
  sweeps    : Nat := 0
  deriving DecidableEq, Repr

/-- A rail (R388, R389): state 0 normal, 1 below warning, 2 absent, as RAIL_STAT. -/
structure Rail where
  st         : Nat := 0
  mv         : Nat := 0
  excursions : Nat := 0
  at_        : Nat := 0
  resetLevel : Bool := false
  deriving DecidableEq, Repr

/-- A region (R390 to R394): clock, voltage, temperature, throttling, the moment its pair was found beyond a limit
and of what (0 clock, 1 voltage, 2 temperature), drain and its cause (0 none, 1 skew, 2 temperature), the moment it
came back within. -/
structure Region where
  mhz      : Nat := 1600
  mv       : Nat := 0
  temp     : Nat := 0
  throttle : Bool := false
  pulling  : Option (Nat × Nat) := none
  drained  : Nat := 0
  drainAt  : Nat := 0
  okAt     : Option Nat := none
  deriving DecidableEq, Repr

/-- Power, clocks and temperature (R20, R388 to R394, R399). `thrAt`: since when module-wide throttling or an issue
hold lasts. -/
structure Pwr where
  railSel   : Nat := 0
  rails     : SMap Rail := []
  hold      : Bool := false
  regionSel : Nat := 0
  regions   : SMap Region := []
  limitReg  : Option Nat := none
  watts     : Nat := 0
  sysdie    : Nat := 0
  inlet     : Nat := 0
  outlet    : Nat := 0
  limSys    : Bool := false
  limCool   : Bool := false
  limInlet  : Bool := false
  refresh   : SMap Bool := []
  halved    : SMap Bool := []
  allowed   : Nat := 1600
  throttleNs : Nat := 0
  thrAt     : Option Nat := none
  deriving DecidableEq, Repr

/-- A laser bay (R34 to R36, R414). `latchOpen`: its latch is open. -/
structure Laser where
  present   : Bool := true
  healthy   : Bool := true
  emitting  : Bool := true
  latchOpen : Bool := false
  released  : Bool := false
  safe      : Bool := false
  amber     : Bool := false
  power     : Nat := 0
  deriving DecidableEq, Repr

/-- Routing and REDUCE page state (R216 to R219, R230, R231, R240, R241). `barred`, `cpNotices`: slots and modules, of ranks a
charter shuts out (R339) and of ranks in a compute-part reset (R387). -/
structure Fabric where
  moduleId   : Nat := 0
  rtIdx      : Nat := 0
  table      : SMap (List Nat) := []
  hopDrop    : Nat := 0
  guard      : Nat := 10
  high       : Nat := 0
  bufPeak    : Nat := 0
  lateDrop   : Nat := 0
  epochDrop  : Nat := 0
  nfBuckets  : Nat := 0
  lostBuckets : Nat := 0
  lcSel      : Nat := 0
  xferFail   : Nat := 0
  seen       : List Seen := []
  heldPkts   : List Packet := []
  barred     : List (Nat × Nat) := []
  cpNotices  : List (Nat × Nat) := []
  deriving DecidableEq, Repr

/-- A backed frame (R181): tier (0 near, 1 bulk), stack, the key instance and mode under which its lines were initialised; `bad`: its
location is retired and the frame is still to leave it (R183). -/
structure Backing where
  tier   : Nat
  stack  : Nat
  key    : Nat
  replay : Bool
  bad    : Bool := false
  deriving DecidableEq, Repr

/-- What is stored of a line (R305, R308, R428): the key instance and mode that wrote it, its poison mark,
ciphertext and tag put there by the frame view, and the version it was written under when a re-encryption of its block has
left it out (R317). -/
structure Line where
  key    : Nat
  replay : Bool
  poison : Bool := false
  raw    : Option (Bytes × Nat) := none
  ver    : Option Nat := none
  deriving DecidableEq, Repr

/-- The counters of a 16 KiB block (R309, R310): major, the minor of lines without an entry, others. -/
structure Block where
  major : Nat := 0
  minor : Nat := 0
  ovf  : SMap Nat := []
  deriving DecidableEq, Repr

/-- A write held behind a migration (R189): frame address, bytes, key instance, mode, arrival. `raw`: a write of the frame view, which
puts ciphertext and tag there, or leaves a line's own (R428), and a poison mark. -/
structure HeldWrite where
  fa     : Nat
  data   : Bytes
  key    : Nat
  replay : Bool
  at_    : Nat
  raw    : Option (Option (Bytes × Nat) × Bool) := none
  deriving DecidableEq, Repr

/-- A cached structure (R309, R313): the tag line of 16 lines, the minor line of a 16 KiB block, a counter line, or a node of a
level. -/
inductive Cstr where
  | tag (i : Nat)
  | minor (i : Nat)
  | counter (i : Nat)
  | node (level i : Nat)
  deriving DecidableEq, Repr

/-- A migration in progress (R188, R189): frame, destination tier and stack, held writes in arrival order. -/
structure Migration where
  frame : Nat
  tier  : Nat
  stack : Nat
  held  : List HeldWrite := []
  deriving DecidableEq, Repr

/-- A sealed anneal sweep (R319 to R321): slot, range, new key slot, sweep pointer, frames swept. -/
structure Anneal where
  slot    : Nat
  range   : Nat
  newSlot : Nat
  ptr     : Nat
  swept   : List Nat := []
  deriving DecidableEq, Repr

/-- A tracked sequence (R195): context, TENSOR_ID, written extent, and the moment no admitted call named it. -/
structure Seq where
  slot   : Nat
  tensor : Nat
  extent : Nat := 0
  idleAt : Option Nat := none
  deriving DecidableEq, Repr

/-- A pinned page that has been accessed (R186): slot, page address, frame, near or bulk, honoured or waiting. -/
structure Pin where
  slot  : Nat
  va    : Nat
  frame : Nat
  near  : Bool
  ok    : Bool
  deriving DecidableEq, Repr

/-- Device memory, keys and placement (R177 to R197, R246, R273, R301 to R322, R329). `pins` stand in the order of first access,
`seqWait` holds untracked sequences (slot, TENSOR_ID) in the order of admission; `cells` holds the plaintext under the writer's key of
every byte that is not 0; a byte not listed reads 0 (R181). `cached`: the structures the counter-and-tag caches hold, newest first,
and whether they are still to be written back (R313); `treeCtr`: the counters of counter lines and nodes in their parents (R310);
`corrupt`: structures whose stored copy has an uncorrectable error; `failed`: those that have failed (R316); `latent`: lines whose
stack cells show an error at their next access, 1 corrected, 2 uncorrectable (R183, log 95). `classes`, `hits`: what the placement
engine holds of a frame (R184), its class plus 16 times the REUSE hint plus 64 for a gathered view (R193), and its sampled accesses,
one in 64 line accesses, which `sample` counts; `moves`: frames that wait to go near, for a tracked sequence or for a prefetch. Key
instances: 0 is a zeroed key; others are numbers of fresh draws. -/
structure Mem where
  cells      : SMap Byte := []
  frames     : SMap (Option Backing) := []
  lines      : SMap (Option Line) := []
  blocks     : SMap Block := []
  fver       : SMap Nat := []
  failed     : List Cstr := []
  corrupt    : List Cstr := []
  cached     : List (Cstr × Bool) := []
  treeCtr    : SMap Nat := []
  latent     : SMap Nat := []
  classes    : SMap Nat := []
  hits       : SMap Nat := []
  sample     : Nat := 0
  moves      : List (Nat × Bool) := []
  readonly   : List Nat := []
  migr       : List Migration := []
  cooldown   : SMap Nat := []
  keySlots   : SMap Nat := []
  tableKey   : Nat := 0
  reserveKey : Nat := 0
  anneals    : List Anneal := []
  annealQ    : List (Nat × Nat) := []
  annealReq  : Nat := 0
  annealDone : Nat := 0
  annealBw   : Nat := 64
  reenc      : Nat := 0
  exhausted  : Nat := 0
  tagFail    : Nat := 0
  replayFail : Nat := 0
  failedFrame : Option Nat := none
  migrate    : Bool := true
  migBw      : Nat := 512
  pinSel     : Nat := 0
  pinQuota   : SMap (Option Nat) := []
  pins       : List Pin := []
  migDone    : Nat := 0
  migCancel  : Nat := 0
  stallMax   : Nat := 0
  retiredNow : Nat := 0
  spares     : Nat := 1024
  seqPerCtx  : Nat := 16
  seqs       : List Seq := []
  seqWait    : List (Nat × Nat) := []
  untracked  : Nat := 0
  winCtrl    : Nat := 0
  scrubFrame : Nat := 0
  scrubCount : Nat := 0
  scrubGo    : Option (Nat × Nat) := none
  expIdx     : Nat := 0
  exports    : SMap Nat := []
  host       : SMap Byte := []
  deriving DecidableEq, Repr

/-- A memory controller page (R197): patrol settings and counts; corrected errors in this pass of the locations that hold frames. -/
structure Mc where
  hours   : Nat := 24
  patrol  : Bool := true
  passes  : Nat := 0
  percent : Nat := 0
  corr    : Nat := 0
  uncorr  : Nat := 0
  perLoc  : SMap Nat := []
  deriving DecidableEq, Repr

/-- A matrix core (R130, R131, R154, R155, R381). `holds`: the slot whose data lies in its crucible parts, none when they are
zeroed (R151); `ftq`: the finished-tile queue, oldest first; `loads`: the working sets in its operand store; `used`: it has had work
since its reset, so that single-bit errors may have been corrected. -/
structure Core where
  st        : Nat := 0
  drain     : Bool := false
  selftest  : Bool := false
  runs      : Nat := 0
  last      : Nat := 0
  tiles     : Nat := 0
  corr      : Nat := 0
  holds     : Option Nat := none
  cache     : OpCache := {}
  words     : Crucible := {}
  ftq       : List FTile := []
  ftqHigh   : Nat := 0
  loads     : List Load := []
  peak      : Nat := 0
  ctx       : Option Nat := none
  sprig     : Option Nat := none
  sprigAt   : Nat := 0
  preempt   : Bool := false
  used      : Bool := false
  deriving DecidableEq, Repr

/-- The scheduler (R279 to R300); `short`: the reservations of the quantum exceed the pool (R287). -/
structure Sched where
  quantum   : Nat := 1000
  round     : Nat := 8
  strict    : Option Nat := none
  maxUs     : Nat := 200
  idleUs    : Nat := 20
  sprigs    : Bool := true
  resSel    : Nat := 0
  sel       : Nat := 0
  reloadCtx : Nat := 0
  reloadErr : Bool := false
  rr        : Nat := 0
  k         : Nat := 0
  lastAt    : Nat := 0
  order     : List Nat := []
  short     : Bool := false
  deriving DecidableEq, Repr

/-- The common header of a page (R406 to R409): pending events, enables, routing, the latched error, the
watchdogs; engine resets: since when, why, the context they name (R375, R379), their moments (R381). -/
structure Hdr where
  stat      : Nat := 0
  en        : Option Nat := none
  route     : Nat := 0
  errValid  : Bool := false
  errClass  : Nat := 0
  errCode   : Nat := 0
  errCount  : Nat := 0
  errCtx    : Option (Nat × Nat) := none
  errInfo   : Nat := 0
  hangMs    : Nat := 20
  expiries  : Nat := 0
  longest   : Nat := 0
  reset     : Bool := false
  resetAt   : Nat := 0
  reason    : Nat := 0
  resetCtx  : Option Nat := none
  times     : List Nat := []
  deriving DecidableEq, Repr

/-- The assay unit (R123 to R125). -/
structure Numeric where
  log2n    : Nat := 12
  enable   : Bool := true
  threshA  : Nat := 0x10101010
  threshB  : Nat := 16
  sampled  : Nat := 0
  diverge  : Nat := 0
  lastTag  : Nat := 0
  lastInfo : Nat := 0
  histSel  : Nat := 0
  hist     : SMap Nat := []
  deriving DecidableEq, Repr

/-- A counter set (R433). `open_`: it has counted an event the model does not count exactly, so that its value is free. -/
structure Pc where
  cfg  : Nat := 0xFF00
  tag  : Nat := 0
  val  : Nat := 0
  open_ : Bool := false
  deriving DecidableEq, Repr

/-- PERF and PERTURB (R431 to R433). -/
structure Test where
  pcSel   : Nat := 0
  pcs     : SMap Pc := []
  freeze  : Bool := false
  arms    : Nat := 0
  arm     : Bool := false
  ptPort  : Nat := 0
  delays  : SMap Nat := []
  every   : Nat := 0
  holdNs  : Nat := 0
  redbuf  : Nat := 0
  osKib   : Nat := 0
  ftq     : Nat := 0
  stall   : Nat := 0
  force   : Bool := false
  region  : Nat := 0
  mhz     : Nat := 1600
  deriving DecidableEq, Repr

/-- A control processor as the debug port sees it (R424): halted, next instruction, breakpoints, the words
written through space 2, heartbeat expiries. -/
structure Cp where
  halt    : Bool := false
  pc      : Nat := 0
  bps     : List Nat := [0, 0, 0, 0]
  words   : SMap (Option Nat) := []
  expired : List Nat := []
  deriving DecidableEq, Repr

/-- A work-list breakpoint (R426): control word fields, tag, the held queue, the list (queue, address) whose next entry it holds
after a STEP. -/
structure WlBp where
  enable : Bool := false
  step   : Bool := false
  slot   : Nat := 0
  tag    : Nat := 0
  held   : Option QRef := none
  next   : Option (QRef × Nat) := none
  deriving DecidableEq, Repr

/-- The debug port (R415 to R430). -/
structure Debug where
  session  : Bool := false
  boundary : Nat := 0
  driven   : Bool := false
  dal      : Nat × Nat × Nat := (0, 0, 0)
  cpSel    : Nat := 0
  cps      : SMap Cp := []
  wl       : SMap WlBp := []
  fvAddr   : Nat := 0
  fvWrite  : Bool := false
  fvValid  : Bool := false
  fvReplay : Bool := false
  fvData   : Bytes := []
  fvTag    : Nat := 0
  fvPoison : Bool := false
  fvMinor  : Nat := 0
  deriving DecidableEq, Repr

/-- The module-wide values of the epoch that ended most recently (R346); `since`, `ns`: since when the module is throttled, and how
long it was before in the epoch under way. -/
structure Epoch where
  number   : Nat := 0
  throttle : Nat := 0
  temp     : Nat := 0
  power    : Nat := 0
  since    : Option Nat := none
  ns       : Nat := 0
  deriving DecidableEq, Repr

/-- What the module sends out (log 5). -/
inductive Out where
  /-- An MSI-X message of a function (R245, R408). -/
  | msix (fn vector : Nat)
  /-- A packet handed to a port for its peer (R209). -/
  | packet (port : Nat) (p : Packet)
  /-- A flit sent on a lane of a port: the codeword's symbols in the order they leave (R206, R207). -/
  | flit (port lane : Nat) (word : List Nat)
  /-- The value a register read returns (R401). -/
  | reg (fn : Nat) (value : Nat)
  /-- The bytes a window read returns (R246). -/
  | window (fn : Nat) (data : Bytes)
  /-- An Oliastor response on a connection: header and payload (R372). -/
  | olia (conn : Nat) (message : Bytes)
  /-- A pushed event: connection, RAS record number or notice code (R376, R387). -/
  | event (conn : Nat) (kind : Nat) (value : Nat)
  /-- The result byte of an SPDM vendor-defined response (R342). -/
  | spdm (session result : Nat)
  /-- A hallmark asked for through SPDM (R369): its measurement block, and what accompanies it. -/
  | hallmark (block chain : Bytes)
  /-- What a TAP data-register scan captures (R416, R418). -/
  | tap (bits : Nat)
  /-- A host read request: function, tag, host address, length (R243, R271). -/
  | hostRead (fn tag addr len : Nat)
  /-- A host write: function, host address, at most 512 bytes (R242, R243). -/
  | hostWrite (fn addr : Nat) (data : Bytes)
  /-- A 64-bit FetchAdd on host memory: function, tag, host address, operand (R242, R274). -/
  | hostAtomic (fn tag addr operand : Nat)
  /-- A completion of an entry: slot, queue, entry TAG, status (R59). -/
  | entry (slot queue tag : Nat) (st : Status)
  deriving DecidableEq, Repr

/-- Why the machine stops with a fault. -/
inductive Fault where
  /-- Raised by POWER_UP with an input beyond the absolute limit of R43, where the manual specifies no
  behaviour. Safe: the model stops where the hardware may do anything. -/
  | absoluteLimit
  deriving DecidableEq, Repr

/-- Why a command is refused. -/
inductive Refusal where
  /-- Raised by Dispatch for a command that has no meaning yet. Safe: nothing is claimed of it. -/
  | notModelled (mnemonic : String)
  /-- Raised by DAL_FACTORY_OP with a code to which the manual gives no effect (R418, R421: the factory
  protocol lies outside the contract). Safe: the model stops where the manual says nothing. -/
  | factoryOperation
  deriving DecidableEq, Repr

/-- The module. -/
structure State where
  ident   : Ident := {}
  clk     : Clock := {}
  boot    : Boot := .booting
  pins    : Pins := {}
  pcie    : Pcie := {}
  sec     : Sec := {}
  fw      : Firmware := {}
  mgmt    : Mgmt := {}
  ras     : Ras := {}
  pwr     : Pwr := {}
  lasers  : SMap Laser := []
  ports   : SMap Port := []
  fab     : Fabric := {}
  buckets : List Bucket := []
  mem     : Mem := {}
  mcs     : SMap Mc := []
  ctxs    : SMap Ctx := []
  cores   : SMap Core := []
  sched   : Sched := {}
  hdrs    : SMap Hdr := []
  num     : Numeric := {}
  test    : Test := {}
  dbg     : Debug := {}
  epoch   : Epoch := {}
  free    : Nat := 0
  out     : List Out := []
  pending : List Instr := []
  deriving DecidableEq, Repr

/-- The module right after a package reset: every register at its reset column (R405), memory with nothing
listed (R181), every slot FREE, the module booting (R386), no command waiting. The values the spec does not
give are those of log 4. -/
def State.reset : State := {}

end Sys2Proof.Machine
end

