-- ==== Sys2Proof/Machine/Ops.lean ====
section
/-! DEFINITION. The named reads and writes of the state, the composition of the variants, the passage of time. -/

namespace Sys2Proof.Machine

/-- The outcome of a command: it always leaves a next state, but for the stops NOTES.md lists. -/
abbrev Res := Host.Outcome State Fault Refusal

/-! ### Composition (R2, R411) -/

def Variant.order : Variant → Nat
  | .ulk8480 => 8480 | .ulk8462 => 8462 | .ulk8440 => 8440

def Variant.dies : Variant → Nat
  | .ulk8440 => 1 | _ => 2

def Variant.cores : Variant → Nat
  | .ulk8440 => 40 | _ => 80

def Variant.near : Variant → Nat
  | .ulk8440 => 4 | _ => 8

def Variant.bulk : Variant → Nat
  | .ulk8480 => 16 | _ => 8

def Variant.ports : Variant → Nat
  | .ulk8480 => 32 | .ulk8462 => 24 | .ulk8440 => 16

def Variant.assay : Variant → Bool
  | .ulk8440 => false | _ => true

def Variant.bank1 : Variant → Bool
  | .ulk8480 => true | _ => false

def Variant.maxPower : Variant → Nat
  | .ulk8480 => 2800 | .ulk8462 => 2400 | .ulk8440 => 1500

def Variant.nominalFrames : Variant → Nat
  | .ulk8480 => 38952960 | .ulk8462 => 23371776 | .ulk8440 => 19476480

/-- Usable near locations (R177): 475.5 GiB, or 237.75 GiB on ULK-8440, in frames. -/
def Variant.nearFrames : Variant → Nat
  | .ulk8440 => 3895296 | _ => 7790592

def Variant.saveKib : Variant → Nat
  | .ulk8440 => 85024 | _ => 169984

/-- Tree levels with the on-die level (R309): 4 on ULK-8480; the same rule gives 4 on the other variants. -/
def Variant.treeLevels : Variant → Nat
  | _ => 4

/-- Valid frames (R4, R179, R183): the nominal figure less the locations retired, as of the latest package
reset. -/
def State.frameCount (s : State) : Nat := s.ident.variant.nominalFrames - s.ident.latched

/-! ### Reading and writing the tables of units -/

def State.ctx (s : State) (c : Nat) : Ctx := tget {} s.ctxs c
def State.setCtx (s : State) (c : Nat) (x : Ctx) : State := { s with ctxs := tput {} s.ctxs c x }
def State.modCtx (s : State) (c : Nat) (f : Ctx → Ctx) : State := s.setCtx c (f (s.ctx c))

def State.core (s : State) (c : Nat) : Core := tget {} s.cores c
def State.setCore (s : State) (c : Nat) (x : Core) : State := { s with cores := tput {} s.cores c x }
def State.modCore (s : State) (c : Nat) (f : Core → Core) : State := s.setCore c (f (s.core c))

def State.port (s : State) (p : Nat) : Port := tget {} s.ports p
def State.setPort (s : State) (p : Nat) (x : Port) : State := { s with ports := tput {} s.ports p x }
def State.modPort (s : State) (p : Nat) (f : Port → Port) : State := s.setPort p (f (s.port p))

def State.hdr (s : State) (p : Nat) : Hdr := tget {} s.hdrs p
def State.setHdr (s : State) (p : Nat) (x : Hdr) : State := { s with hdrs := tput {} s.hdrs p x }
def State.modHdr (s : State) (p : Nat) (f : Hdr → Hdr) : State := s.setHdr p (f (s.hdr p))

def State.laser (s : State) (u : Nat) : Laser := tget {} s.lasers u
def State.setLaser (s : State) (u : Nat) (x : Laser) : State := { s with lasers := tput {} s.lasers u x }

/-- Memory controller: near stack i at i, bulk stack i at 16 + i. -/
def State.mc (s : State) (i : Nat) : Mc := tget {} s.mcs i
def State.setMc (s : State) (i : Nat) (x : Mc) : State := { s with mcs := tput {} s.mcs i x }

def State.rail (s : State) (r : Nat) : Rail := tget {} s.pwr.rails r
def State.setRail (s : State) (r : Nat) (x : Rail) : State :=
  { s with pwr := { s.pwr with rails := tput {} s.pwr.rails r x } }

def State.region (s : State) (r : Nat) : Region := tget {} s.pwr.regions r
def State.setRegion (s : State) (r : Nat) (x : Region) : State :=
  { s with pwr := { s.pwr with regions := tput {} s.pwr.regions r x } }

def Ctx.queue (x : Ctx) (q : Nat) : Queue := tget {} x.queues q
def Ctx.setQueue (x : Ctx) (q : Nat) (y : Queue) : Ctx := { x with queues := tput {} x.queues q y }

/-- A count of an entry of step n (R89, R91): it enters the record of its own step. -/
def Ctx.book (x : Ctx) (n : Nat) (f : Stats → Stats) : Ctx :=
  if n = x.step then { x with stats := f x.stats } else { x with past := tmod {} x.past n f }

/-- The counts of step n. -/
def Ctx.statsOf (x : Ctx) (n : Nat) : Stats := if n = x.step then x.stats else tget {} x.past n

def State.queue (s : State) (q : QRef) : Queue := (s.ctx q.slot).queue q.queue
def State.setQueue (s : State) (q : QRef) (y : Queue) : State :=
  s.modCtx q.slot (fun x => x.setQueue q.queue y)
def State.modQueue (s : State) (q : QRef) (f : Queue → Queue) : State := s.setQueue q (f (s.queue q))

def Port.lane (p : Port) (l : Nat) : Lane := tget {} p.lanes l
def Port.setLane (p : Port) (l : Nat) (x : Lane) : Port := { p with lanes := tput {} p.lanes l x }

/-- Active lanes of a port: locked at both ends, not failed, not off, not recalibrating (R202). -/
def Port.active (p : Port) : List Nat := (List.range 8).filter (fun l => (p.lane l).st = 1)

/-- The lanes a port deals its flits to (R206): the active ones, during training those with codeword lock. -/
def Port.dealt (p : Port) : List Nat := if p.active.isEmpty then (List.range 8).filter (fun l => bit p.mask l) else p.active

/-- The lane of a port's next flit: the next one above that of the last. -/
def Port.dealLane (p : Port) : Nat := ((p.dealt.filter (· > p.lastLane)) ++ p.dealt).headD 0

/-- A bay's unit gives light. -/
def Laser.lit (l : Laser) : Bool := l.present && l.healthy && l.emitting

/-- Neither laser unit gives light (R37). -/
def State.dark (s : State) : Bool := !(s.laser 0).lit && !(s.laser 1).lit

def State.cp (s : State) (n : Nat) : Cp := tget {} s.dbg.cps n
def State.setCp (s : State) (n : Nat) (x : Cp) : State :=
  { s with dbg := { s.dbg with cps := tput {} s.dbg.cps n x } }

def State.wl (s : State) (n : Nat) : WlBp := tget {} s.dbg.wl n
def State.setWl (s : State) (n : Nat) (x : WlBp) : State :=
  { s with dbg := { s.dbg with wl := tput {} s.dbg.wl n x } }

/-- Something leaves the module (log 5). -/
def State.emit (s : State) (o : Out) : State := { s with out := o :: s.out }

/-! ### Oliastor messages (R372) -/

def resOk : Nat := 0
def resDenied : Nat := 1
def resBusy : Nat := 2
def resInvalid : Nat := 3
def resSignature : Nat := 4
def resRollback : Nat := 5
def resState : Nat := 6
def resUnitAbsent : Nat := 7

/-- The response to a request: its header (FUNCTION, FLAGS with the response bit, REQUEST, LENGTH), the result byte, the payload. -/
def answerTo (m : Call) (result : Nat) (payload : Bytes) : Bytes :=
  toLE 2 m.function ++ toLE 2 1 ++ toLE 4 m.request ++ toLE 4 (1 + payload.length) ++ toLE 1 result ++ payload

/-- The answers of a connection that no unanswered request stands before leave. -/
def State.flushLine (conn : Nat) : Nat → State → State
  | 0, s => s
  | fuel + 1, s =>
    match s.mgmt.line.find? (fun x => x.1.conn = conn) with
    | some (m, some b) =>
      State.flushLine conn fuel
        (State.emit { s with mgmt := { s.mgmt with line := s.mgmt.line.eraseP (fun x => x.1.conn = conn) } } (.olia m.conn b))
    | _ => s

/-- Requests on one connection complete in the order they were sent: an answer waits behind the requests before it that have none. -/
def State.reply (s : State) (m : Call) (result : Nat) (payload : Bytes) : State :=
  let b := answerTo m result payload
  let line := if s.mgmt.line.contains (m, none) then
      s.mgmt.line.modify (s.mgmt.line.findIdx (fun x => x = (m, none))) (fun _ => (m, some b))
    else s.mgmt.line ++ [(m, some b)]
  State.flushLine m.conn line.length { s with mgmt := { s.mgmt with line } }

/-- A response without further payload. -/
def State.respond (s : State) (m : Call) (result : Nat) : State := s.reply m result []

/-- The answer to a request comes later. -/
def State.owe (s : State) (m : Call) : State :=
  if s.mgmt.line.contains (m, none) then s else { s with mgmt := { s.mgmt with line := s.mgmt.line ++ [(m, none)] } }

/-- A free value of the model and the state with the counter advanced (log 7). -/
def State.draw (s : State) : Nat × State := (Config.value s.free, { s with free := s.free + 1 })

/-- A fresh random instance of the security controller's DRBG (R350): its number, and the DRBG's request
count, reseeded after every 2^20 requests. -/
def State.secret (s : State) : Nat × State :=
  (s.sec.nextSecret,
   { s with sec := { s.sec with
      nextSecret := s.sec.nextSecret + 1
      requests := (s.sec.requests + 1) % 1048576
      reseeds := s.sec.reseeds + (if s.sec.requests + 1 = 1048576 then 1 else 0) } })

/-- An operation waits for fresh values (R350). -/
def State.waitFresh (s : State) (w : Wait) : State :=
  if s.sec.waits.any (fun x => x.2 = w) then s
  else { s with sec := { s.sec with waits := s.sec.waits ++ [(s.clk.now, w)] } }

/-! ### Page indices (R400) -/

def pgTop : Nat := 0
def pgCore (c : Nat) : Nat := 0x10 + c
def pgNear (i : Nat) : Nat := 0x80 + i
def pgBulk (i : Nat) : Nat := 0x90 + i
def pgPlace : Nat := 0xA0
def pgMmu : Nat := 0xB0
def pgCtx (c : Nat) : Nat := 0xC0 + c
def pgPort (p : Nat) : Nat := 0x200 + p
def pgRoute : Nat := 0x220
def pgReduce : Nat := 0x230
def pgMemcrypt : Nat := 0x300
def pgLinkcrypt : Nat := 0x310
def pgHostif : Nat := 0x320
def pgSched : Nat := 0x400
def pgNumeric : Nat := 0x410
def pgRas : Nat := 0x420
def pgPwrclk : Nat := 0x430
def pgPerf : Nat := 0x440
def pgPerturb : Nat := 0x450
def pgDebug : Nat := 0x460

/-- The blocks of the page map (R400), with their instance. -/
inductive Page where
  | top | core (c : Nat) | near (i : Nat) | bulk (i : Nat) | place | mmu | ctx (c : Nat) | port (p : Nat)
  | route | reduce | memcrypt | linkcrypt | hostif | sched | numeric | ras | pwrclk | perf | perturb | debug
  | none
  deriving DecidableEq, Repr

/-- The block a BAR0 page index is assigned to (R400). -/
def pageOf (i : Nat) : Page :=
  if i = 0 then .top
  else if 0x10 ≤ i ∧ i ≤ 0x5F then .core (i - 0x10)
  else if 0x80 ≤ i ∧ i ≤ 0x87 then .near (i - 0x80)
  else if 0x90 ≤ i ∧ i ≤ 0x9F then .bulk (i - 0x90)
  else if i = 0xA0 then .place
  else if i = 0xB0 then .mmu
  else if 0xC0 ≤ i ∧ i ≤ 0xFF then .ctx (i - 0xC0)
  else if 0x200 ≤ i ∧ i ≤ 0x21F then .port (i - 0x200)
  else if i = 0x220 then .route
  else if i = 0x230 then .reduce
  else if i = 0x300 then .memcrypt
  else if i = 0x310 then .linkcrypt
  else if i = 0x320 then .hostif
  else if i = 0x400 then .sched
  else if i = 0x410 then .numeric
  else if i = 0x420 then .ras
  else if i = 0x430 then .pwrclk
  else if i = 0x440 then .perf
  else if i = 0x450 then .perturb
  else if i = 0x460 then .debug
  else .none

/-- The unit behind a page is fitted (R5, R410). -/
def State.present (s : State) : Page → Bool
  | .core c => decide (c < s.ident.variant.cores)
  | .near i => decide (i < s.ident.variant.near)
  | .bulk i => decide (i < s.ident.variant.bulk)
  | .port p => decide (p < s.ident.variant.ports)
  | .numeric => s.ident.variant.assay
  | .none => false
  | _ => true

/-! ### Conditions of the module -/

/-- Firmware is running (R386). -/
def State.running (s : State) : Bool := s.boot = .running

/-- The tampered condition, or RETIRED (R352, R355). -/
def State.dead (s : State) : Bool := s.sec.fuse || decide (s.sec.lifecycle = .retired)

/-- The module runs contexts and serves its engines. -/
def State.live (s : State) : Bool := s.running && !s.dead

/-- The end of the 1 ms for which the device holds its internal reset has come (R25, R386). -/
def State.resetOver (s : State) : Bool := decide (s.pins.holdUntil ≤ s.clk.now)

/-- Nothing holds the host link in reset (R24, R25, R386, R392, R393). -/
def State.linkFree (s : State) : Bool :=
  decide (s.boot ≠ .off) && decide (s.boot ≠ .tripHeld) && s.pins.perstN && s.pins.modResetN && !s.clk.pcieLost && s.resetOver

/-- The host link trains where nothing holds it any more. -/
def State.linkTrains (s : State) : State := { s with pcie := { s.pcie with linkUp := s.pcie.linkUp || s.linkFree } }

/-- MOD_PWRGD is high while every rail is in regulation (R16). -/
def State.regulate (s : State) : State :=
  { s with pins := { s.pins with
    pwrgd := decide (s.boot ≠ .off) && decide (s.boot ≠ .tripHeld) && s.pwr.rails.all (fun r => !r.2.resetLevel) } }

/-- Rails chosen by `p` are in regulation again (log 104). -/
def State.railsBack (s : State) (p : Nat → Bool) : State :=
  State.regulate ((List.range 16).foldl (fun s r =>
    if p r && (s.rail r).resetLevel then s.setRail r { s.rail r with resetLevel := false } else s) s)

/-- The host reaches the endpoint's functions: PERST_N released, the link up (R24, R25), not in ROM recovery (R364). -/
def State.hostUp (s : State) : Bool := s.pins.perstN && s.pcie.linkUp && decide (s.boot ≠ .recovery)

/-- A virtual function exists: SR-IOV enabled with NumVFs above the slot (R243). -/
def State.bound (s : State) (c : Nat) : Bool := s.pcie.sriov && decide (c < s.pcie.numVfs)

/-- The function that makes slot c's host requests (R243). -/
def State.fnOf (s : State) (c : Nat) : Nat := if s.bound c then c + 1 else 0

/-- The slot's TDI is CONFIG_LOCKED or RUN (R344). -/
def State.tdiLocked (s : State) (c : Nat) : Bool :=
  let v := tget 0 s.pcie.tdi c
  decide (v = 1 ∨ v = 2)

def State.tdiRun (s : State) (c : Nat) : Bool := decide (tget 0 s.pcie.tdi c = 2)

/-- A function may write the CTX page of slot c (R277, R344, R420): PF0 and the debug layer, but for the
limits of a locked TDI, which leave them QUENCH and RELEASE alone (`lockOk`); or the bound function. -/
def State.mayWriteCtx (s : State) (fn c : Nat) (lockOk : Bool) : Bool :=
  if fn = 0 ∨ fn = 65 then lockOk || !s.tdiLocked c
  else decide (fn = c + 1) && s.bound c

/-- PF0 or the debug layer (R420). -/
def pf0 (fn : Nat) : Bool := decide (fn = 0 ∨ fn = 65)

/-- A function reaches a page (R5, R400, R420): host functions need the endpoint, the layer a session; the page must be present;
a virtual function reaches its own CTX page alone. -/
def State.reaches (s : State) (fn i : Nat) : Bool :=
  (fn = 65 && s.dbg.session || fn ≠ 65 && s.hostUp) && s.present (pageOf i)
    && (pf0 fn || (match pageOf i with | .ctx c => decide (fn = c + 1) && s.bound c | _ => false))

/-- An engine reset of the page, or for CORE pages a compute-part reset, is running (R405, R406). -/
def State.pageReset (s : State) (i : Nat) : Bool :=
  (s.hdr i).reset || (match pageOf i with | .core _ => s.ras.cpActive | _ => false)

/-- The device acts on a register write of `fn` to page `i` (R405, R422): the page is reached and not in reset; the module is
booted and not in the tampered condition. -/
def State.opens (s : State) (fn i : Nat) : Bool := s.reaches fn i && s.live && !s.pageReset i

/-- An access of a function to a page ends the latch of a `_LO` read (R404). -/
def State.access (s : State) (fn i : Nat) : State :=
  { s with pcie := { s.pcie with latch := s.pcie.latch.filter (fun p => p.1 ≠ (fn, i)) } }

/-! ### Time (R11, R221, R392, log 2) -/

/-- The interval clock reaches `t`. Device time counts with it unless it is held (R41); a slew moves it by at
most 100 ppm of the elapsed time (R221), by a free amount within that (log 7). -/
def State.tick (s : State) (t : Nat) : State :=
  let dt := t - s.clk.now
  if s.clk.held then { s with clk := { s.clk with now := s.clk.now + dt } }
  else
    let lim := min s.clk.slew.natAbs (dt / 10000)
    if lim = 0 then
      { s with clk := { s.clk with now := s.clk.now + dt, time := (s.clk.time + dt) % 2 ^ 64 } }
    else
      let d : Int := ((Config.value s.free % (lim + 1) : Nat) : Int) * s.clk.slew.sign
      { s with
        free := s.free + 1
        clk := { s.clk with
          now := s.clk.now + dt
          time := (((s.clk.time + dt : Nat) : Int) + d).toNat % 2 ^ 64
          slew := s.clk.slew - d } }

/-- Charge every context for the cores it holds (R284), in core-ns, up to now. -/
def State.charge (s : State) : State :=
  let dt := s.clk.now - s.sched.lastAt
  let s := { s with sched := { s.sched with lastAt := s.clk.now } }
  s.cores.foldl (fun s p =>
    match p.2.ctx with
    | some c => s.modCtx c (fun x => { x with time := x.time + dt })
    | none => s) s

/-- The registers' statuses as codes (R268). -/
def Status.code : Status → Nat
  | .ok => 0 | .aborted => 1 | .faultUnmapped => 2 | .faultPermission => 3 | .faultTag => 4
  | .faultReplay => 5 | .lateDropped => 6 | .resetLost => 7 | .shardVersion => 8 | .nonfinite => 9
  | .charterDenied => 10 | .cryptoExhausted => 11 | .abandoned => 12 | .peerLost => 13
  | .contractUnsupported => 14 | .unitAbsent => 15

/-- The status of a code; codes above 0x0F are never written (R268). -/
def Status.ofCode : Nat → Status
  | 0 => .ok | 1 => .aborted | 2 => .faultUnmapped | 3 => .faultPermission | 4 => .faultTag
  | 5 => .faultReplay | 6 => .lateDropped | 7 => .resetLost | 8 => .shardVersion | 9 => .nonfinite
  | 10 => .charterDenied | 11 => .cryptoExhausted | 12 => .abandoned | 13 => .peerLost
  | 14 => .contractUnsupported | _ => .unitAbsent

/-- The state after a command that has no effect now: its enabling condition does not hold (log 3). -/
def idle (s : State) : Res := .next s

/-- A command whose effect takes place only when a condition holds (log 3). -/
def guardNext (g : Bool) (s s' : State) : Res := if g then .next s' else .next s

/-- A context's observation counter (R345, R348). -/
def Ctx.tally (x : Ctx) (i n : Nat) : Ctx := { x with obs := tmod 0 x.obs i (fun v => wrapAdd 64 v n) }

end Sys2Proof.Machine
end

