-- ==== Sys2Proof/Machine/Flags.lean ====
section
/-! DEFINITION. Status and interrupt flags: the common header's events and messages (R406 to R409), RAS records
(R376 to R378), MOD_ALERT_N (R18). -/

namespace Sys2Proof.Machine

/-- The defined `IRQ_STAT` bits of a page, as a mask (R406 and the block chapters). -/
def irqMask : Page → Nat
  | .top => 0 | .core _ => 7 | .near _ => 3 | .bulk _ => 3 | .place => 7 | .mmu => 1 | .ctx _ => 15
  | .port _ => 7 | .route => 3 | .reduce => 1 | .memcrypt => 7 | .linkcrypt => 3 | .hostif => 3
  | .sched => 7 | .numeric => 1 | .ras => 7 | .pwrclk => 15 | .perf => 1 | .perturb => 0 | .debug => 7
  | .none => 0

/-- `IRQ_EN` of a page: its reset value is 0, and 0xF on CTX pages. -/
def State.irqEn (s : State) (i : Nat) : Nat :=
  match (s.hdr i).en with
  | some v => v
  | none => match pageOf i with | .ctx _ => 15 | _ => 0

/-- Send per-slot vector v of slot c (R243, R245): to the bound function, else PF0 vector 8c + v. -/
def State.slotVector (s : State) (c v : Nat) : State :=
  if s.bound c then s.emit (.msix (c + 1) v) else s.emit (.msix 0 (8 * c + v))

/-- The messages of a page whose enabled pending bits were `old` and are `new` (R408). On CTX pages vector v
is raised when bit v turns from 0 to 1; on other pages one message when the value turns non-zero. -/
def State.sendRise (s : State) (i old new : Nat) : State :=
  match pageOf i with
  | .ctx c =>
    [0, 1, 2, 3].foldl (fun s v => if bit new v && !bit old v then s.slotVector c v else s) s
  | _ =>
    let r := (s.hdr i).route
    if old = 0 ∧ new ≠ 0 ∧ bit r 31 then s.emit (.msix 0 (512 + sl r 8 0)) else s

/-- `IRQ_STAT` bits are set by an event or by `IRQ_SET` (R403, R408). An absent unit raises none (R5). -/
def State.raise (s : State) (i bits : Nat) : State :=
  if s.present (pageOf i) then
    let m := irqMask (pageOf i)
    let old := (s.hdr i).stat &&& s.irqEn i
    let st := (s.hdr i).stat ||| (bits &&& m)
    let s' := s.modHdr i (fun h => { h with stat := st })
    s'.sendRise i old (st &&& s.irqEn i)
  else s

/-- A write to `IRQ_EN`: enabling a pending bit raises it (R408). -/
def State.setEn (s : State) (i v : Nat) : State :=
  let m := irqMask (pageOf i)
  let st := (s.hdr i).stat
  let old := st &&& s.irqEn i
  let s' := s.modHdr i (fun h => { h with en := some (v &&& m) })
  s'.sendRise i old (st &&& (v &&& m))

/-- A W1C write to `IRQ_STAT`, with the further messages of R408. -/
def State.clearStat (s : State) (i v : Nat) : State :=
  let st := (s.hdr i).stat
  let st' := st - (st &&& v)
  let s' := s.modHdr i (fun h => { h with stat := st' })
  let left := st' &&& s.irqEn i
  match pageOf i with
  | .ctx c => [0, 1, 2, 3].foldl (fun s v => if bit left v then s.slotVector c v else s) s'
  | _ =>
    let r := (s.hdr i).route
    if left ≠ 0 ∧ bit r 31 then s'.emit (.msix 0 (512 + sl r 8 0)) else s'

/-- The open Oliastor connections (R371): during an activation they close at t0 + 2 ms (R367). -/
def State.conns (s : State) : List Conn :=
  match s.fw.act with
  | some a => if a + 2000000 ≤ s.clk.now then [] else s.mgmt.conns
  | none => s.mgmt.conns

/-- Connections close but for those that stay; what they asked for goes unanswered. -/
def State.closeConns (s : State) (stay : Conn → Bool) : State :=
  let cs := s.mgmt.conns.filter stay
  let on := fun (m : Call) => cs.any (fun c => c.id = m.conn)
  { s with
    mgmt := { s.mgmt with
      conns := cs
      held := s.mgmt.held.filter (fun p => match p.1 with | some m => on m | none => true)
      line := s.mgmt.line.filter (fun x => on x.1) }
    sec := { s.sec with
      waits := s.sec.waits.filter (fun w => match w.2 with | .domain m | .lifecycle m => on m | _ => true) } }

/-- Push an event to every subscribed connection (R372, R376, R387). -/
def State.push (s : State) (kind value : Nat) : State :=
  s.conns.foldl (fun s c => if c.sub then s.emit (.event c.id kind value) else s) s

/-- Latch the first error of classes 1 to 7 of a page, or count a later one (R409). -/
def State.latchErr (s : State) (i cls code : Nat) (ctx : Option (Nat × Nat)) (info : Nat) : State :=
  if cls = 0 then s
  else s.modHdr i (fun h =>
    if h.errValid then { h with errCount := satAdd 32 h.errCount 1 }
    else { h with
      errValid := true, errClass := cls, errCode := code, errCtx := ctx, errInfo := info % 2 ^ 32
      errCount := satAdd 32 h.errCount 1 })

/-- A RAS record is written (R376 to R378): the ring keeps the latest 1,024; a record is routed to MOD_ALERT_N by
its class, records 0x01 and 0x02 always; the reporting page latches the error; RAS bit 0 is raised; the
record is pushed to subscribers. DESIGN CHOICE (log 106): a record that newer ones push out of the ring no longer asserts MOD_ALERT_N
and can no longer be acknowledged. Before boot has the firmware running no record is written (R376: the first is
0x40). -/
def State.logRas (s : State) (page cls code : Nat) (ctx : Option Nat) (info : Nat) : State :=
  if !s.running then s
  else
  let named := ctx.map (fun c => (c, (s.ctx c).gen))
  let r : RasRec :=
    { time := s.clk.time, seq := s.ras.produced, page, cls, code, ctx := named
      routed := bit s.ras.mask cls || decide (code = 1 ∨ code = 2), info }
  let s := { s with ras := { s.ras with log := (r :: s.ras.log).take 1024, produced := s.ras.produced + 1 } }
  let s := s.latchErr page cls code named info
  (s.raise pgRas 1).push 0 r.seq

/-- A counter set counts an event now, of a slot, an opcode and an entry TAG (R433); a slot of 64, an opcode of 0x100 and a TAG
of 2^32 stand for none. -/
def Pc.counts (x : Pc) (ev slot op tag : Nat) : Bool :=
  bit x.cfg 31 && sl x.cfg 23 16 = ev && (bit x.cfg 29 || sl x.cfg 5 0 = slot)
    && (sl x.cfg 15 8 = 0xFF || sl x.cfg 15 8 = op) && (!bit x.cfg 30 || x.tag = tag)

/-- Count `n` of an event in the sets that count it; a set that reaches its end raises PERF bit 0. -/
def State.perf (s : State) (ev slot op tag n : Nat) : State :=
  if s.test.freeze then s
  else (List.range 8).foldl (fun s i =>
    let x := tget {} s.test.pcs i
    if x.counts ev slot op tag then
      let v := satAdd 64 x.val n
      let s' := { s with test := { s.test with pcs := tput {} s.test.pcs i { x with val := v } } }
      if v = 2 ^ 64 - 1 ∧ x.val ≠ v then s'.raise pgPerf 1 else s'
    else s) s

/-- A flit leaves on the next lane of a port as a codeword (R206); its bytes are counted (R433). -/
def State.putFlit (s : State) (q : Nat) (b : Bytes) : State :=
  let l := (s.port q).dealLane
  ((s.modPort q (fun x => { x with lastLane := l })).perf 0x06 64 0x100 (2 ^ 32) b.length).emit (.flit q l (codeword l b))

/-- MOD_ALERT_N is asserted (low): a routed record is unacknowledged (R18, R378), or tamper (R351, R352), or a
thermal trip (R393). RETIRED releases it (R355); without the 54 V input none of it runs (R351). -/
def State.alert (s : State) : Bool :=
  if s.sec.lifecycle = .retired ∨ s.boot = .off then false
  else s.sec.fuse || s.sec.latch || s.pins.tripAlert || s.ras.log.any (fun r => r.routed && !r.acked)

/-- Unacknowledged routed records (`RAS.LOG_STAT.UNACK`). -/
def State.unack (s : State) : Nat := (s.ras.log.filter (fun r => r.routed && !r.acked)).length

end Sys2Proof.Machine
end

