-- ==== Sys2Proof/Machine/Memory.lean ====
section
/-! DEFINITION. Device memory: frames, lines, keys, counters, poison, migration's held writes (R177 to R190, R301 to R318);
address translation (R251 to R254); reads and writes of a context's virtual addresses. -/

namespace Sys2Proof.Machine

/-- Why an access stops: a translation fault (R263, with its REASON), a tag or poison failure (R315), a failed
counter structure (R316), an exhausted block (R318), or a status an entry takes at once. -/
inductive Acc where
  | fault (va reason : Nat) (write replayable : Bool)
  | tag (fa : Nat)
  | replay (fa : Nat)
  | exhausted (fa : Nat)
  | stop (st : Status)
  deriving DecidableEq, Repr

/-- Cut [a, a + n) at multiples of `g`: pieces (address, length) in ascending order. -/
def pieces (g : Nat) : Nat → Nat → Nat → List (Nat × Nat)
  | 0, _, _ => []
  | fuel + 1, a, n =>
    if n = 0 then []
    else
      let k := min n (g - a % g)
      (a, k) :: pieces g fuel (a + k) (n - k)

def piecesOf (g a n : Nat) : List (Nat × Nat) := pieces g (n / g + 2) a n

/-! ### The form of memory -/

/-- The canonical form of memory: in each sparse table of it the keys rise strictly, and no entry equals what an unlisted
key reads as. -/
def Mem.wf (m : Mem) : Bool :=
  twf 0 m.cells && twf none m.frames && twf none m.lines && twf {} m.blocks && twf 0 m.fver && twf 0 m.host

/-! ### Lines -/

def State.backing (s : State) (f : Nat) : Option Backing := tget none s.mem.frames f

/-- What is stored of line `ln` of device memory: its own entry, or what its frame was initialised with (R181). -/
def State.line (s : State) (ln : Nat) : Option Line :=
  match s.backing (ln / 512) with
  | none => none
  | some b =>
    match tget none s.mem.lines ln with
    | some l => some l
    | none => some { key := b.key, replay := b.replay }

def State.setLine (s : State) (ln : Nat) (l : Line) : State :=
  { s with mem := { s.mem with lines := tput none s.mem.lines ln (some l) } }

def State.block (s : State) (b : Nat) : Block := tget {} s.mem.blocks b

/-- The minor counter of a line (R309). -/
def State.minor (s : State) (ln : Nat) : Nat :=
  let b := s.block (ln / 128)
  tget b.minor b.ovf (ln % 128)

/-- The version of a replay-protected line (R306). -/
def State.version (s : State) (ln : Nat) : Nat := ((s.block (ln / 128)).major % 2 ^ 56) * 256 + s.minor ln % 256

/-! ### Counter structures and their cache (R309 to R313, R316) -/

/-- The number of a counter line or node in `treeCtr`: its level (counter lines at 0) below its index. -/
def Cstr.code : Cstr → Nat
  | .tag i => 8 * i + 6
  | .minor b => 8 * b + 7
  | .counter i => 8 * i
  | .node l i => 8 * i + l

/-- The structure that vouches for one: a counter line for minors, nodes above it; level 4 is the node store on die. -/
def Cstr.parent : Cstr → Option Cstr
  | .tag _ => none
  | .minor b => some (.counter (b / 12))
  | .counter k => some (.node 1 (k / 8))
  | .node l i => if l < 3 then some (.node (l + 1) (i / 8)) else none

/-- The lowest frame under a structure. -/
def Cstr.frame : Cstr → Nat
  | .tag i => i / 32
  | .minor b => b / 4
  | .counter k => 3 * k
  | .node l i => 3 * 8 ^ l * i

/-- The structures over a 16 KiB block in the order of their verification (R311). -/
def cpath (b : Nat) : List Cstr :=
  [.minor b, .counter (b / 12), .node 1 (b / 96), .node 2 (b / 768), .node 3 (b / 6144)]

/-- A structure is in a cache, and so trusted. -/
def Mem.holds (m : Mem) (c : Cstr) : Bool := m.cached.any (fun e => e.1 = c)

/-- The structures an access to a replay-protected line of the block verifies, up to the first one a cache holds (R311). -/
def Mem.verified (m : Mem) (b : Nat) : List Cstr := (cpath b).takeWhile (fun c => !m.holds c)

/-- The first of them that fails: its stored copy is damaged. -/
def Mem.badStructure (m : Mem) (b : Nat) : Option Cstr :=
  if m.corrupt.isEmpty then none else (m.verified b).find? (fun c => m.corrupt.contains c)

/-- A replay-protected access to the block fails: it lies under a structure that has failed (R316), or it meets one that fails now. -/
def State.counterFailed (s : State) (b : Nat) : Bool :=
  (cpath b).any (fun c => s.mem.failed.contains c) || (s.mem.badStructure b).isSome

/-- The controller that caches a structure (R313): that of the frame's data for tag and minor lines, else the one whose reserve
holds it (not given: free among those present, log 93). -/
def State.cacheOf (s : State) (c : Cstr) : Nat :=
  let at_ := fun f => match s.backing f with | some b => if b.tier = 0 then b.stack else 16 + b.stack | none => 0
  match c with
  | .tag i => at_ (i / 32)
  | .minor b => at_ (b / 4)
  | c =>
    let k := Config.reserveAt c.code / 2 ^ 35 % (s.ident.variant.near + s.ident.variant.bulk)
    if k < s.ident.variant.near then k else 16 + (k - s.ident.variant.near)

/-- A structure leaves its cache: written back when it has changed, which makes its stored copy good, counts in its parent and
changes the parent. -/
def Mem.evict (m : Mem) (e : Cstr × Bool) : Mem :=
  let m := { m with cached := m.cached.filter (fun x => x.1 ≠ e.1) }
  if !e.2 then m
  else
    let m := { m with corrupt := m.corrupt.filter (· ≠ e.1) }
    match e.1 with
    | .counter _ | .node _ _ =>
      let m := { m with treeCtr := tmod 0 m.treeCtr e.1.code (· + 1) }
      match e.1.parent with
      | some p => { m with cached := (p, true) :: m.cached.filter (fun x => x.1 ≠ p) }
      | none => m
    | _ => m

/-- A structure enters its cache, or is found there, changed or not. A cache of 16,384 lines makes room for it: which line goes is
free (log 93). -/
def State.bring (s : State) (c : Cstr) (dirty : Bool) : State :=
  match s.mem.cached.find? (fun e => e.1 = c) with
  | some e =>
    if e.2 || !dirty then s
    else { s with mem := { s.mem with cached := s.mem.cached.map (fun e => if e.1 = c then (c, true) else e) } }
  | none =>
    let mine := if s.mem.cached.length < 16384 then [] else s.mem.cached.filter (fun e => s.cacheOf e.1 = s.cacheOf c)
    let s :=
      if mine.length < 16384 then s
      else
        let v := s.draw
        match mine[v.1 % mine.length]? with
        | some e => { v.2 with mem := v.2.mem.evict e }
        | none => s
    { s with mem := { s.mem with cached := (c, dirty) :: s.mem.cached } }

/-- What an access to a line leaves in the caches (R310, R311, R313): its tag line and, in a replay-protected range, the structures it
verified; a write changes the tag line, the minor line and the frame's version in the counter line. -/
def State.fill (s : State) (replay write : Bool) (ln : Nat) : State :=
  let s := s.bring (.tag (ln / 16)) write
  let b := ln / 128
  if !replay || s.counterFailed b then s
  else
    let s := (s.mem.verified b).reverse.foldl (fun s c => s.bring c false) s
    if write then (s.bring (.counter (b / 12)) true).bring (.minor b) true else s

/-- An access to a run of bytes. -/
def State.fillAt (s : State) (replay write : Bool) (fa n : Nat) : State :=
  (piecesOf 128 fa n).foldl (fun s p => s.fill replay write (p.1 / 128)) s

/-! ### Reads of lines -/

/-- The check a read of a line makes through a key instance and a mode (R183, R305, R311, R315, R316); an unbacked
frame reads zero (R181). -/
def State.checkLine (s : State) (key : Nat) (replay : Bool) (ln : Nat) : Option Acc :=
  match s.line ln with
  | none => none
  | some l =>
    if replay && s.counterFailed (ln / 128) then some (.replay (ln * 128))
    else if l.poison || l.raw.isSome || l.key ≠ key || l.replay ≠ replay || key = 0 || tget 0 s.mem.latent ln = 2 then some (.tag (ln * 128))
    else none

/-- One byte of device memory under its writer's key; 0 where nothing is listed (R181). -/
def State.byteAt (s : State) (fa : Nat) : Byte := tget 0 s.mem.cells fa

def State.setByte (s : State) (fa : Nat) (b : Byte) : State :=
  { s with mem := { s.mem with cells := tput 0 s.mem.cells fa b } }

/-- Store a run of bytes. -/
def State.setBytes (s : State) : Nat → Bytes → State
  | _, [] => s
  | fa, b :: bs => (s.setByte fa b).setBytes (fa + 1) bs

def State.bytesAt (s : State) (fa n : Nat) : Bytes := (List.range n).map (fun i => s.byteAt (fa + i))

/-! ### Keys (R302, R303, R319, R320) -/

def State.ctxRec (s : State) (c : Nat) : CtxRec := ((s.ctx c).record).getD {}

/-- The key-range entry that covers a virtual address: entries 1 to 7, else entry 0 (R302). -/
def rangeOf (rs : List KeyRange) (va : Nat) : Nat :=
  match [1, 2, 3, 4, 5, 6, 7].find? (fun i =>
      match rs[i]? with
      | some r => r.length ≠ 0 && r.base ≤ va && va < r.base + r.length
      | none => false) with
  | some i => i
  | none => 0

/-- The key slot of an access: the range's, or the anneal's new slot below its pointer (R320). -/
def State.keySlotOf (s : State) (c va : Nat) : Nat × Bool :=
  let x := s.ctx c
  let i := rangeOf x.ranges va
  let r := (x.ranges[i]?).getD {}
  let slot :=
    match s.mem.anneals.find? (fun a => a.slot = c && a.range = i) with
    | some a => if va < a.ptr then a.newSlot else r.slot
    | none => r.slot
  (slot, r.replay = 1)

/-- The key instance and mode of an access of slot c at a virtual address. -/
def State.keyOf (s : State) (c va : Nat) : Nat × Bool :=
  let k := s.keySlotOf c va
  (tget 0 s.mem.keySlots k.1, k.2)

/-- Queue a range for anneal (R319), unless the slot is FREE, the entry unused, or the range queued or annealing. -/
def State.queueAnneal (s : State) (c r : Nat) : State :=
  let x := s.ctx c
  if x.state = 0 || r ≥ 8 || (r ≠ 0 && ((x.ranges[r]?).getD {}).length = 0) || s.mem.annealQ.contains (c, r)
      || s.mem.anneals.any (fun a => a.slot = c && a.range = r) then s
  else { s with mem := { s.mem with annealQ := s.mem.annealQ ++ [(c, r)] } }

/-- The key ranges that hold a key instance are queued (R318). -/
def State.annealKey (s : State) (key : Nat) : State :=
  (List.range 64).foldl (fun s c =>
    ((s.ctx c).ranges.zipIdx.filter (fun r => r.1.replay = 1 && tget 0 s.mem.keySlots r.1.slot = key)).foldl
      (fun s r => s.queueAnneal c r.2) s) s

/-! ### Writes -/

/-- A minor of the block is 255. -/
def Block.full (b : Block) : Bool := decide (b.minor ≥ 255) || b.ovf.any (fun p => decide (p.2 ≥ 255))

/-- Raise every minor of a block by one. -/
def Block.raiseAll (b : Block) : Block := { b with minor := b.minor + 1, ovf := b.ovf.map (fun p => (p.1, p.2 + 1)) }

def State.setBlock (s : State) (b : Nat) (x : Block) : State :=
  { s with mem := { s.mem with blocks := tput {} s.mem.blocks b x } }

def State.bumpFver (s : State) (f n : Nat) : State :=
  { s with mem := { s.mem with fver := tput 0 s.mem.fver f (tget 0 s.mem.fver f + n) } }

/-- The lines of a block that fail verification are poisoned, and keep the version they were written under. -/
def State.poisonFailing (s : State) (b key : Nat) : State :=
  ((List.range 128).map (fun i => b * 128 + i)).foldl (fun s ln =>
    match s.line ln with
    | some l => match s.checkLine key true ln with
      | some _ => s.setLine ln { l with poison := true, ver := some (l.ver.getD (s.version ln)) }
      | none => s
    | none => s) s

/-- Re-encrypt a block (R317): lines that fail verification are poisoned, the major rises by one, the minors
become 0. A major that reaches 2^56 − 1 makes the block read-only, and its range is queued for anneal (R318). -/
def State.reencrypt (s : State) (b key : Nat) : State :=
  let s := s.poisonFailing b key
  let major := (s.block b).major + 1
  let s := s.setBlock b { major, minor := 0, ovf := [] }
  let s := { s with mem := { s.mem with reenc := wrapAdd 64 s.mem.reenc 1 } }
  if major = 2 ^ 56 - 1 then
    let s := { s with mem := { s.mem with
      readonly := addSorted s.mem.readonly b, exhausted := satAdd 32 s.mem.exhausted 1 } }
    ((s.raise pgMemcrypt 2).logRas pgMemcrypt 1 0x12 none (b * 16384)).annealKey key
  else s

/-- The initialisation of a frame counts as a write to every line of a block (R310); a minor of 255 first re-encrypts it (R317): the
order of the writes is not given, that line's is the first (log 109). -/
def State.initBlock (s : State) (b key : Nat) : State :=
  let s := if (s.block b).full then s.reencrypt b key else s
  s.setBlock b (s.block b).raiseAll

/-- Count a write of a replay-protected line (R310, R317). -/
def State.countWrite (s : State) (ln key : Nat) : State :=
  let b := ln / 128
  let s := if s.minor ln ≥ 255 then s.reencrypt b key else s
  let x := s.block b
  let s := s.setBlock b { x with ovf := tput x.minor x.ovf (ln % 128) (s.minor ln + 1) }
  s.bumpFver (ln / 512) 1

/-- A write within one line of a backed frame that is not migrating (R310, R314, R315, R317, R318). -/
def State.lineWrite (s : State) (key : Nat) (replay : Bool) (fa : Nat) (d : Bytes) : State × Option Acc :=
  let ln := fa / 128
  if replay && s.counterFailed (ln / 128) then (s, some (.replay fa))
  else if replay && s.mem.readonly.contains (ln / 128) then (s, some (.exhausted fa))
  else if d.length < 128 then
    match s.checkLine key replay ln with
    | some e =>
      match s.line ln, e with
      | some l, .tag _ => (s.setLine ln { l with poison := true }, some e)
      | _, _ => (s, some e)
    | none =>
      let s := if replay then s.countWrite ln key else s
      ((s.setLine ln { key, replay }).setBytes fa d, none)
  else
    let s := { s with mem := { s.mem with latent := tput 0 s.mem.latent ln 0 } }
    let s := if replay then s.countWrite ln key else s
    ((s.setLine ln { key, replay }).setBytes fa d, none)

/-! ### Reads behind a migration (R189) -/

/-- The migration of a frame. -/
def State.migrating (s : State) (f : Nat) : Option Migration := s.mem.migr.find? (fun m => m.frame = f)

/-- A held write is made. -/
def State.putHeld (s : State) (w : HeldWrite) : State × Option Acc :=
  match w.raw, s.line (w.fa / 128) with
  | some r, some l => (s.setLine (w.fa / 128) { l with raw := r.1, poison := r.2 }, none)
  | some _, none => (s, none)
  | none, _ => s.lineWrite w.key w.replay w.fa w.data

/-- The held writes of a migration in arrival order. -/
def State.heldWrites (s : State) (m : Migration) : State := m.held.foldl (fun s w => (s.putHeld w).1) s

/-- Memory as a read of the frame finds it: a read of a line with a held write waits behind it (log 14). -/
def State.view (s : State) (f : Nat) : State :=
  match s.migrating f with
  | some m => s.heldWrites m
  | none => s

/-- A read of `n` bytes at a frame address through a key instance and a mode. -/
def State.physRead (s : State) (key : Nat) (replay : Bool) (fa n : Nat) : Except Acc Bytes :=
  let s := s.view (fa / 65536)
  match (piecesOf 128 fa n).findSome? (fun p => s.checkLine key replay (p.1 / 128)) with
  | some e => .error e
  | none => .ok (s.bytesAt fa n)

/-- Do one thing after another until one of them stops. -/
def untilStop {α : Type} (f : State → α → State × Option Acc) (l : List α) (s : State) : State × Option Acc :=
  l.foldl (fun (r : State × Option Acc) a => match r.2 with | some _ => r | none => f r.1 a) (s, none)

/-! ### Translation (R251 to R253) -/

/-- A translation: a frame address or a host bus address, and the leaf's PIN and CLASS. -/
structure Xlat where
  host : Bool
  addr : Nat
  pin  : Nat
  cls  : Nat
  deriving DecidableEq, Repr

/-- A page-table entry at a frame address, read under the table key (R246, R251). -/
def State.pte (s : State) (fa : Nat) : Except Acc Nat :=
  match s.physRead s.mem.tableKey false fa 8 with
  | .ok b => .ok (leNat b)
  | .error e => .error e

/-- A leaf (R252): its checks, then the translation of an address with `off` the offset within its page. -/
def State.leaf (s : State) (va e off : Nat) (big write : Bool) : Except Acc Xlat :=
  let target := bit e 3
  if sl e 15 10 ≠ 0 then .error (.fault va 0 write true)
  else if !target && e ≥ 2 ^ 42 then .error (.fault va 0 write true)
  else if target then
    if write && !bit e 2 then .error (.fault va 1 write true)
    else .ok { host := true, addr := (e / 65536) * 65536 + off, pin := 0, cls := 0 }
  else
    let frame := sl e 41 16
    if big && frame % 32 ≠ 0 then .error (.fault va 0 write true)
    else
      let f := frame + off / 65536
      if f ≥ s.frameCount then .error (.fault va 2 write true)
      else if write && !bit e 2 then .error (.fault va 1 write true)
      else
        .ok { host := false, addr := f * 65536 + off % 65536
              pin := if sl e 9 8 = 3 then 0 else sl e 9 8
              cls := if sl e 7 4 ≥ 6 then 0 else sl e 7 4 }

/-- A table entry is well formed: no LEAF or reserved bit, and the alignment of the table it names (R252). -/
def tableEntryOk (e level : Nat) : Bool :=
  e < 2 ^ 42 && sl e 7 1 = 0 && (level = 1 || sl e 11 8 = 0)

/-- The index of an address at a level (R251). -/
def levelIndex (va level : Nat) : Nat :=
  if level = 0 then sl va 20 16 else sl va (20 + 9 * level) (12 + 9 * level)

/-- The walk from a table at a level. -/
def State.walk (s : State) (va : Nat) (write : Bool) : Nat → Nat → Except Acc Xlat
  | 0, table =>
    match s.pte (table + 8 * levelIndex va 0) with
    | .error e => .error e
    | .ok e =>
      if !bit e 0 then .error (.fault va 0 write (!bit e 10))
      else if !bit e 1 then .error (.fault va 0 write true)
      else s.leaf va e (va % 65536) false write
  | level + 1, table =>
    match s.pte (table + 8 * levelIndex va (level + 1)) with
    | .error e => .error e
    | .ok e =>
      if !bit e 0 then .error (.fault va 0 write (!bit e 10))
      else if level = 0 && bit e 1 then s.leaf va e (va % 2097152) true write
      else if !tableEntryOk e (level + 1) then .error (.fault va 0 write true)
      else s.walk va write level ((e / 256) * 256)

/-- The translation of one address of slot c (R251). -/
def State.translate (s : State) (c va : Nat) (write : Bool) : Except Acc Xlat :=
  if va ≥ 2 ^ 57 then .error (.fault va 0 write false)
  else s.walk va write 4 (s.ctxRec c).ptRoot

/-! ### Where an anneal stands (R319 to R322) -/

/-- Anneals that run: one stops when its context leaves LIVE and DRAINING (R322). -/
def State.annealing (s : State) : List Anneal :=
  s.mem.anneals.filter (fun a => (s.ctx a.slot).state = 1 || (s.ctx a.slot).state = 4)

/-- The lowest page at or above `lo` that a valid leaf with TARGET 0 maps, with its frame, under a table at a level whose
first address is `va`. -/
def State.nextPage (s : State) (lo : Nat) : Nat → Nat → Nat → Option (Nat × Nat)
  | 0, table, va =>
    (List.range 32).findSome? (fun i =>
      let a := va + 65536 * i
      if a + 65536 ≤ lo then none
      else
        match s.pte (table + 8 * i) with
        | .ok e =>
          if bit e 0 && bit e 1 then
            match s.leaf a e 0 false false with
            | .ok x => if x.host then none else some (a, x.addr / 65536)
            | .error _ => none
          else none
        | .error _ => none)
  | level + 1, table, va =>
    (List.range 512).findSome? (fun i =>
      let span := 2 ^ (21 + 9 * level)
      let a := va + span * i
      if a + span ≤ lo then none
      else
        match s.pte (table + 8 * i) with
        | .error _ => none
        | .ok e =>
          if !bit e 0 then none
          else if level = 0 && bit e 1 then
            let p := if a < lo then (lo - a) / 65536 else 0
            match s.leaf a e (65536 * p) true false with
            | .ok x => if x.host then none else some (a + 65536 * p, x.addr / 65536)
            | .error _ => none
          else if !tableEntryOk e (level + 1) then none
          else s.nextPage lo level ((e / 256) * 256) a)

/-- The next block an anneal processes: its address, frame and index in the frame. Pages of other ranges and frames swept
already are passed. -/
def State.nextBlock (s : State) (a : Anneal) : Nat → Nat → Option (Nat × Nat × Nat)
  | 0, _ => none
  | fuel + 1, ptr =>
    match s.nextPage ptr 4 (s.ctxRec a.slot).ptRoot 0 with
    | none => none
    | some (va, f) =>
      let rs := (s.ctx a.slot).ranges
      let r := (rs[a.range]?).getD {}
      if a.range ≠ 0 ∧ va ≥ r.base + r.length then none
      else if rangeOf rs va ≠ a.range ∨ (a.swept.contains f ∧ ptr ≤ va) then s.nextBlock a fuel (va + 65536)
      else
        let b := if ptr ≤ va then va else ptr - ptr % 16384
        some (b, f, b % 65536 / 16384)

/-- The search ends within the pages of the address space. -/
def State.blockOf (s : State) (a : Anneal) : Option (Nat × Nat × Nat) := s.nextBlock a (2 ^ 41) a.ptr

/-- Anneal has begun to rewrite a frame and has not swept it whole. -/
def State.rewriting (s : State) (f : Nat) : Bool :=
  s.annealing.any (fun a => match s.blockOf a with | some (_, g, i) => decide (g = f ∧ i ≠ 0) | none => false)

/-! ### Failures, retired locations and migrations (R183, R187 to R190, R197, R315, R316) -/

/-- A counter structure has failed its verification (R316) at an access of a context, or of none: `FAILED_FRAME` is the lowest frame under
it. -/
def State.failStructure (s : State) (c : Cstr) (ctx : Option Nat) : State :=
  let s := { s with mem := { s.mem with
    failed := c :: s.mem.failed
    corrupt := s.mem.corrupt.filter (· ≠ c)
    failedFrame := some c.frame
    replayFail := satAdd 32 s.mem.replayFail 1 } }
  (s.raise pgMemcrypt 4).logRas pgMemcrypt 7 0x71 ctx c.frame

/-- Mark a line poisoned. -/
def State.poison (s : State) (ln : Nat) : State :=
  match s.line ln with
  | some l => s.setLine ln { l with poison := true }
  | none => s

/-- The controller of a location: its number and its page. -/
def mcOf (tier stack : Nat) : Nat × Nat := if tier = 0 then (stack, pgNear stack) else (16 + stack, pgBulk stack)

/-- The placement engine, the MMU or the scheduler is in its engine reset: all device accesses are held (R379). -/
def State.allHeld (s : State) : Bool := (s.hdr pgPlace).reset || (s.hdr pgMmu).reset || (s.hdr pgSched).reset

/-- Accesses to a frame are held: all are, or its stack's controller is in its engine reset (R379). -/
def State.frameHeld (s : State) (f : Nat) : Bool :=
  s.allHeld || (match s.backing f with | some b => (s.hdr (mcOf b.tier b.stack).2).reset | none => false)

/-- An access of a context to a run of bytes is held. -/
def State.accessHeld (s : State) (c va n : Nat) : Bool :=
  s.allHeld || (piecesOf 65536 va n).any (fun p =>
    match s.translate c p.1 false with
    | .ok x => !x.host && s.frameHeld (x.addr / 65536)
    | .error _ => false)

/-- Stacks of a tier. -/
def State.stacks (s : State) (tier : Nat) : Nat := if tier = 0 then s.ident.variant.near else s.ident.variant.bulk

/-- Locations retired since manufacture, in all and in the near tier. -/
def Ident.total (i : Ident) : Nat := i.retired.foldl (fun a p => a + p.2) 0
def Ident.near (i : Ident) : Nat := i.retired.foldl (fun a p => if p.1 < 16 then a + p.2 else a) 0

/-- Usable near locations, usable bulk locations, and the limit on near pins (R177, R186). -/
def State.nearUsable (s : State) : Nat := s.ident.variant.nearFrames - s.ident.nearLatched
def State.bulkUsable (s : State) : Nat := s.frameCount - s.nearUsable
def State.nearPinLimit (s : State) : Nat := s.nearUsable - 1048576
def State.pinQuota (s : State) (c : Nat) : Nat := (tget none s.mem.pinQuota c).getD s.nearPinLimit

/-- Locations of a tier that can back frames now: a spare in the bulk tier has replaced each one retired since reset (R183). -/
def State.capacity (s : State) (tier : Nat) : Nat :=
  let near := s.ident.variant.nearFrames - s.ident.near
  if tier = 0 then near else s.frameCount - near

/-- A tier has a location free: neither a frame nor a migration to it holds it (R177). -/
def State.room (s : State) (tier : Nat) : Bool :=
  decide (s.mem.frames.foldl (fun n p => match p.2 with | some b => if b.tier = tier then n + 1 else n | none => n) 0
    + (s.mem.migr.filter (fun m => m.tier = tier)).length < s.capacity tier)

/-- A frame takes a location. How many errors the location has shown in this pass is not known: free, at most those of its stack
(R183, log 110). -/
def State.place (s : State) (f : Nat) (b : Backing) : State :=
  let s := match s.backing f with
    | some o =>
      let c := (mcOf o.tier o.stack).1
      s.setMc c { s.mc c with perLoc := tput 0 (s.mc c).perLoc f 0 }
    | none => s
  let s := { s with mem := { s.mem with frames := tput none s.mem.frames f (some b) } }
  let c := (mcOf b.tier b.stack).1
  let m := s.mc c
  if m.corr = 0 then s
  else
    let v := s.draw
    v.2.setMc c { m with perLoc := tput 0 m.perLoc f (min (v.1 % 16) m.corr) }

/-- Frames whose pin of a kind is honoured; those of one slot. -/
def State.pinnedFrames (s : State) (near : Bool) : List Nat :=
  ((s.mem.pins.filter (fun p => p.ok && p.near = near)).map (·.frame)).eraseDups

def State.pinnedOf (s : State) (c : Nat) : List Nat :=
  ((s.mem.pins.filter (fun p => p.ok && p.near && p.slot = c)).map (·.frame)).eraseDups

/-- The engine may select a frame for a migration now: none within 1 ms of a cancel (R189), none while anneal rewrites it (R190). -/
def State.movable (s : State) (f : Nat) : Bool :=
  (s.backing f).isSome && (s.migrating f).isNone && tget 0 s.mem.cooldown f ≤ s.clk.now && !s.rewriting f

/-- Where a frame that waits to move is to go: from a retired location to a spare, in the bulk tier, or for an honoured near pin near
(R183, R187, log 94); to the near tier where that is wanted of it. -/
def State.moveTo (s : State) (f : Nat) : Option Nat :=
  match s.backing f with
  | none => none
  | some b =>
    let pinned := (s.pinnedFrames true).contains f
    if b.bad then some (if pinned then 0 else 1)
    else
      match s.mem.moves.find? (fun m => m.1 = f) with
      | some m =>
        if b.tier = 1 && (m.2 || s.mem.migrate) && !(s.pinnedFrames false).contains f && tget 0 s.mem.classes f % 16 ≠ 5 then some 0
        else none
      | none => none

/-- Start what moves can start, at most 256 at once (R188); the stack is free (log 7). -/
def State.startMoves (s : State) : State :=
  let bad := (s.mem.frames.filter (fun p => match p.2 with | some b => b.bad | none => false)).map (·.1)
  (bad ++ s.mem.moves.map (·.1)).foldl (fun s f =>
    match s.moveTo f with
    | none => { s with mem := { s.mem with moves := s.mem.moves.filter (fun m => m.1 ≠ f) } }
    | some tier =>
      if s.movable f && s.mem.migr.length < 256 && (tier = 1 || s.room 0) then
        let v := s.draw
        { v.2 with mem := { v.2.mem with
          migr := v.2.mem.migr ++ [{ frame := f, tier, stack := v.1 % v.2.stacks tier }]
          moves := v.2.mem.moves.filter (fun m => m.1 ≠ f) } }
      else s) s

/-- A frame is wanted near: of a tracked sequence (R195), or of a prefetch (R62). -/
def State.wantNear (s : State) (f : Nat) (seq : Bool) : State :=
  match s.backing f with
  | some b =>
    if b.tier = 0 || s.mem.moves.contains (f, seq) then s
    else { s with mem := { s.mem with moves := s.mem.moves ++ [(f, seq)] } }
  | none => s

/-- A location is retired while a spare remains; the frame it backs is to move. -/
def State.retireLocation (s : State) (mcx pg : Nat) (frame : Option Nat) : State :=
  if s.mem.spares > 0 then
    let s := { s with
      ident := { s.ident with retired := tmod 0 s.ident.retired mcx (fun n => satAdd 16 n 1) }
      mem := { s.mem with spares := s.mem.spares - 1, retiredNow := satAdd 16 s.mem.retiredNow 1 } }
    let s := match frame with
      | some f =>
        match s.backing f with
        | some b => State.startMoves { s with mem := { s.mem with frames := tput none s.mem.frames f (some { b with bad := true }) } }
        | none => s
      | none => s
    (s.raise pgPlace 4).raise pg 2
  else (s.raise pgPlace 2).logRas pgPlace 0 0x02 none 0

/-- A corrected error at a location; 16 in one pass retire it. Of a location that holds no frame the command does not say
which it is: whether it has reached 16 is free (log 7). -/
def State.correctedAt (s : State) (mcx pg : Nat) (frame : Option Nat) : State :=
  let m := s.mc mcx
  let m := { m with corr := satAdd 32 m.corr 1 }
  match frame with
  | some f =>
    let n := tget 0 m.perLoc f + 1
    let s := s.setMc mcx { m with perLoc := tput 0 m.perLoc f (if n ≥ 16 then 0 else n) }
    if n ≥ 16 then (s.logRas pg 0 0x01 none f).retireLocation mcx pg frame else s
  | none =>
    let v := s.draw
    let s := v.2.setMc mcx m
    if v.1 % 2 = 1 then
      let w := s.draw
      (w.2.logRas pg 0 0x01 none (w.1 % 2 ^ 64)).retireLocation mcx pg none
    else s

/-- An uncorrectable error in a line: it is poisoned and its location retires (R183, R197). A demand read names its context. -/
def State.uncorrectableAt (s : State) (ctx : Option (Option Nat)) (ln : Nat) : State :=
  match s.backing (ln / 512) with
  | none => s
  | some b =>
    let c := mcOf b.tier b.stack
    let s := { s with mem := { s.mem with latent := tput 0 s.mem.latent ln 0 } }
    let s := (s.setMc c.1 { s.mc c.1 with uncorr := satAdd 32 (s.mc c.1).uncorr 1 }).raise c.2 1
    let s := match ctx with
      | some x => s.logRas c.2 1 0x10 x (128 * ln)
      | none => s
    (s.poison ln).retireLocation c.1 c.2 (some (ln / 512))

/-- The counts and records of an access that failed (R183, R316, R329, R375, R377): a tag failure, that of a poisoned line among them
(log 111), an error of the stack, a structure that fails now. -/
def State.noteAcc (s : State) (c : Option Nat) (e : Acc) : State :=
  match e with
  | .tag fa =>
    let s := { s with mem := { s.mem with tagFail := satAdd 32 s.mem.tagFail 1 } }
    if tget 0 s.mem.latent (fa / 128) = 2 then s.uncorrectableAt (some c) (fa / 128)
    else s.logRas pgMemcrypt 1 0x11 c fa
  | .replay fa =>
    match s.mem.badStructure (fa / 16384) with
    | some r => s.failStructure r c
    | none => s
  | _ => s

/-- Errors that correction has taken out of the lines of an access (R183, R197). -/
def State.corrections (s : State) (fa n : Nat) : State :=
  if s.mem.latent.isEmpty then s
  else (piecesOf 128 fa n).foldl (fun s p =>
    let ln := p.1 / 128
    match s.backing (ln / 512) with
    | some b =>
      if tget 0 s.mem.latent ln = 1 then
        let c := mcOf b.tier b.stack
        ({ s with mem := { s.mem with latent := tput 0 s.mem.latent ln 0 } }).correctedAt c.1 c.2 (some (ln / 512))
      else s
    | none => s) s

/-- The longest hold so far (`PLACE.STALL_MAX`). -/
def State.noteHold (s : State) (m : Migration) : State :=
  match m.held with
  | [] => s
  | w :: _ =>
    let s := { s with mem := { s.mem with stallMax := max s.mem.stallMax (min 4000 (s.clk.now - w.at_)) } }
    s.perf 0x08 64 0x100 (2 ^ 32) (m.held.foldl (fun a h => a + min 4000 (s.clk.now - h.at_)) 0)

/-- What the copy of a frame met in its source: lines with an uncorrectable error arrive poisoned (R190). -/
def State.copyErrors (s : State) (f : Nat) : State :=
  let bad := (s.mem.latent.filter (fun p => p.1 / 512 = f && p.2 = 2)).map (·.1)
  bad.foldl (fun s ln => s.uncorrectableAt none ln) s

/-- The tag and minor lines of a frame leave the cache of the controller that held its data (R313). -/
def State.dropLines (s : State) (f : Nat) : State :=
  let mine := s.mem.cached.filter (fun e => match e.1 with
    | .tag i => decide (i / 32 = f)
    | .minor b => decide (b / 4 = f)
    | _ => false)
  { s with mem := mine.foldl Mem.evict s.mem }

/-- The end of a frame's migration, one way or the other: its held writes are applied in arrival order (R189), each of whose writers has
had its fault when it came (R190). Frames that wait to move follow. -/
def State.endMigration (s : State) (m : Migration) : State :=
  let s := { s with mem := { s.mem with migr := s.mem.migr.filter (fun o => o.frame ≠ m.frame) } }
  State.startMoves ((s.noteHold m).heldWrites m)

/-- A migration is cancelled: its held writes are applied at the source, and the frame is not chosen again within 1 ms (R189). -/
def State.cancelMigration (s : State) (m : Migration) : State :=
  State.endMigration { s with mem := { s.mem with
    migCancel := satAdd 32 s.mem.migCancel 1
    cooldown := tput 0 s.mem.cooldown m.frame (s.clk.now + 1000000) } } m

/-- A migration completes: what the copy met, then the placement table switches (R189). -/
def State.switchTo (s : State) (m : Migration) : State :=
  let s := (s.copyErrors m.frame).dropLines m.frame
  match s.backing m.frame with
  | none => s
  | some b =>
    let s := s.place m.frame { b with tier := m.tier, stack := m.stack, bad := false }
    State.endMigration { s with mem := { s.mem with migDone := wrapAdd 64 s.mem.migDone 1 } } m

/-! ### Pins (R177, R183, R186, R187) -/

/-- A pin lies within the limits. -/
def State.pinFits (s : State) (c f : Nat) (near : Bool) : Bool :=
  let fs := s.pinnedFrames near
  if near then
    (fs.contains f || decide (fs.length < s.nearPinLimit))
      && ((s.pinnedOf c).contains f || decide ((s.pinnedOf c).length < s.pinQuota c))
  else fs.contains f || decide (fs.length < s.bulkUsable - 1048576)

/-- A full tier gives up a frame without a pin, which the engine chooses (free, log 7), to the other tier. -/
def State.makeRoom (s : State) (tier : Nat) : State :=
  if s.room tier then s
  else
    let fs := (s.mem.frames.filter (fun p => match p.2 with | some b => b.tier = tier && s.movable p.1 | none => false)).filter
      (fun p => !(s.pinnedFrames (tier = 0)).contains p.1)
    let v := s.draw
    match fs[v.1 % max fs.length 1]? with
    | some p =>
      let w := v.2.draw
      w.2.switchTo { frame := p.1, tier := 1 - tier, stack := w.1 % w.2.stacks (1 - tier) }
    | none => s

/-- Move a backed frame to the tier of its pin, a migration that a pin completes at once (R187): one that was taking it away is
cancelled, one to elsewhere goes to the pin's tier. The stack is the engine's choice (free, log 7). -/
def State.toTier (s : State) (f tier : Nat) : State :=
  match s.backing f, s.migrating f with
  | none, _ => s
  | some b, none =>
    if b.tier = tier then s
    else
      let s := s.makeRoom tier
      let v := s.draw
      v.2.switchTo { frame := f, tier, stack := v.1 % v.2.stacks tier }
  | some b, some m =>
    if b.tier = tier then (if m.tier = tier then s else s.cancelMigration m)
    else if m.tier = tier then s.switchTo m
    else
      let s := s.makeRoom tier
      let v := s.draw
      v.2.switchTo { m with tier, stack := v.1 % v.2.stacks tier }

/-- A pin can take effect now: its frame is in the tier, or unbacked, or may be moved. One that cannot yet waits (log 112). -/
def State.pinReady (s : State) (f : Nat) (near : Bool) : Bool :=
  match s.backing f with
  | none => true
  | some b => b.tier = (if near then 0 else 1) || (s.migrating f).isSome || s.movable f

/-- A bulk pin counts only while no near pin stands on its frame (R186). -/
def State.pinHidden (s : State) (near : Bool) (f : Nat) : Bool := !near && s.mem.pins.any (fun p => p.near && p.frame = f)

/-- An access of slot c to a page with a pin: the first is honoured, or counted and reported. -/
def State.notePin (s : State) (c va f pin : Nat) : State :=
  let near : Bool := decide (pin = 1)
  if pin = 0 then s
  else if s.mem.pins.any (fun p => p.slot = c && p.va = va && p.frame = f && p.near = near) then s
  else
    let rest : List Pin := if near then s.mem.pins.map (fun (p : Pin) => if !p.near && p.frame = f then { p with ok := false } else p)
      else s.mem.pins
    let s : State := { s with mem := { s.mem with pins := rest } }
    let hidden : Bool := s.pinHidden near f
    let fits : Bool := s.pinFits c f near
    let ok : Bool := !hidden && fits && s.pinReady f near
    let s : State := { s with mem := { s.mem with pins := rest ++ [({ slot := c, va, frame := f, near, ok } : Pin)] } }
    if ok then s.toTier f (if near then 0 else 1) else if hidden || fits then s else s.raise pgPlace 1

def insPin (p : Pin) : List Pin → List Pin
  | [] => [p]
  | q :: r => if p.frame < q.frame then p :: q :: r else q :: insPin p r

/-- Waiting pins are honoured in ascending frame number, up to the limits. -/
def State.honourPins (s : State) : State :=
  ((s.mem.pins.filter (fun p => !p.ok)).foldl (fun l p => insPin p l) []).foldl (fun s p =>
    if !s.pinHidden p.near p.frame && s.pinFits p.slot p.frame p.near && s.pinReady p.frame p.near then
      let s := { s with mem := { s.mem with pins := s.mem.pins.map (fun (q : Pin) => if q = p then { q with ok := true } else q) } }
      s.toTier p.frame (if p.near then 0 else 1)
    else s) s

/-- Pins that no longer hold go, and waiting ones take their room. -/
def State.dropPins (s : State) (gone : Pin → Bool) : State :=
  if s.mem.pins.any gone then
    State.honourPins { s with mem := { s.mem with pins := s.mem.pins.filter (fun p => !gone p) } }
  else s

/-- Give an unbacked frame a location and initialise its 512 lines as encrypted zeros under the write's key
(R181). The tier is that of its pin, else bulk for classes 3 and 5 (R185), else the placement engine's choice from what it knows of the
frame (R184, log 113); a full tier is passed over. -/
def State.back (s : State) (f key : Nat) (replay : Bool) : State :=
  match s.backing f with
  | some _ => s
  | none =>
    let k := tget 0 s.mem.classes f
    let cls := k % 16
    let near := (s.pinnedFrames true).contains f
    let s := if near then s.makeRoom 0 else s
    let p := if near then 0
      else if (s.pinnedFrames false).contains f || cls = 3 || cls = 5 then 1
      else Config.place cls (k / 16 % 4) (tget 0 s.mem.hits f) % 2
    let tier := if near || s.room p then p else 1 - p
    let v := s.draw
    let s := v.2.place f { tier, stack := v.1 % s.stacks tier, key, replay }
    if replay then
      let s := [0, 1, 2, 3].foldl (fun s i => s.initBlock (4 * f + i) key) s
      s.bumpFver f 512
    else s

/-- Remove the keys of a table in [lo, hi). -/
def dropRange {α : Type} (m : SMap α) (lo hi : Nat) : SMap α := m.filter (fun p => p.1 < lo || hi ≤ p.1)

/-- A migration of a frame is cancelled (R190). -/
def State.cancelMove (s : State) (f : Nat) : State :=
  match s.migrating f with
  | some m => s.cancelMigration m
  | none => s

/-- The corrected errors counted at a frame's location are the location's no more (R183). -/
def State.dropCounts (s : State) (f : Nat) : State :=
  match s.backing f with
  | some o =>
    let c := (mcOf o.tier o.stack).1
    s.setMc c { s.mc c with perLoc := tput 0 (s.mc c).perLoc f 0 }
  | none => s

/-- Unback a frame (R181): a migration of it is cancelled first; its location is released and overwritten; its minors and
majors stay with the frame address (R188). -/
def State.unback (s : State) (f : Nat) : State :=
  let s := (s.cancelMove f).dropCounts f
  let s := { s with mem := { s.mem with
    cells := dropRange s.mem.cells (f * 65536) ((f + 1) * 65536)
    lines := dropRange s.mem.lines (f * 512) ((f + 1) * 512)
    latent := dropRange s.mem.latent (f * 512) ((f + 1) * 512)
    frames := tput none s.mem.frames f none
    classes := tput 0 s.mem.classes f 0
    hits := tput 0 s.mem.hits f 0 } }
  s.dropPins (fun p => p.frame = f)

/-- A write to a frame under migration is held; one that will fail faults its writer (R189, R190). -/
def State.holdWrite (s : State) (w : HeldWrite) : State × Option Acc :=
  let f := w.fa / 65536
  ({ s with mem := { s.mem with migr := s.mem.migr.map (fun m =>
    if m.frame = f then { m with held := m.held ++ [w] } else m) } }, ((s.view f).putHeld w).2)

/-- One piece of a write to device memory, within a line: it backs the frame (R181), and is held behind a migration of
the frame (R189) or applied. -/
def State.physPiece (s : State) (key : Nat) (replay : Bool) (fa : Nat) (d : Bytes) : State × Option Acc :=
  let s := s.back (fa / 65536) key replay
  if (s.migrating (fa / 65536)).isSome then s.holdWrite { fa, data := d, key, replay, at_ := s.clk.now }
  else s.lineWrite key replay fa d

/-- A write to device memory, line by line; the first failing line stops it. -/
def State.physWrite (s : State) (key : Nat) (replay : Bool) (fa : Nat) (d : Bytes) : State × Option Acc :=
  untilStop (fun s p => s.physPiece key replay p.1 (bslice d (p.1 - fa) p.2)) (piecesOf 128 fa d.length) s

/-! ### What the placement engine knows of a frame (R184) -/

/-- What an entry makes of a frame's placement: the descriptor's class [3:0], REUSE [5:4], a gathered view [6] (R193), a class-4
descriptor without a tracking slot [7] (R195); of an access without a descriptor, none. The class is that of the page-table entry when it
is not zero (R70), and a view keeps its own whatever the hints say. -/
def State.noteClass (s : State) (f pte : Nat) (desc : Option Nat) : State :=
  let old := tget 0 s.mem.classes f
  let new :=
    if bit old 6 then old
    else
      match desc with
      | none => if pte ≠ 0 then pte + 16 * (old / 16) else old
      | some k =>
        if bit k 6 then 1 + 32 + 64
        else (if pte ≠ 0 && !(bit k 7 && pte = 4) then pte else k % 16) + 16 * (k / 16 % 4)
  { s with mem := { s.mem with classes := tput 0 s.mem.classes f new } }

/-- An access of a run of bytes in a frame: one in 64 line accesses is a sample of its frame, which one in the order they come (log 113);
and what the access leaves in the caches. -/
def State.noteLines (s : State) (replay write : Bool) (fa n : Nat) : State :=
  let k := s.mem.sample + (piecesOf 128 fa n).length
  let s := { s with mem := { s.mem with
    sample := k % 64
    hits := if k < 64 then s.mem.hits else tmod 0 s.mem.hits (fa / 65536) (· + k / 64) } }
  (s.corrections fa n).fillAt replay write fa n

/-! ### Host pages (R253, R341) -/

/-- Which class of `CTX.HOST_MODE` an access belongs to (R348): rings and the object table, or COPY data; sealed
units of kinds 1 to 3 travel unchanged in either mode (R341). -/
inductive HostUse where
  | no | ring | data | sealed
  deriving DecidableEq, Repr

/-- An access of this use may reach a host page now (R253, R341, R342). -/
def State.hostOpen (s : State) (c : Nat) (u : HostUse) : Bool :=
  let x := s.ctx c
  let bounce := fun (i : Nat) => bit x.hostMode i
  match u with
  | .no => false
  | .ring => if bounce 0 then x.session.isSome else s.tdiRun c
  | .data => if bounce 1 then x.session.isSome else s.tdiRun c
  | .sealed => true

def State.hostByte (s : State) (a : Nat) : Byte := tget 0 s.mem.host a

def State.setHostBytes (s : State) : Nat → Bytes → State
  | _, [] => s
  | a, b :: bs =>
    State.setHostBytes { s with mem := { s.mem with host := tput 0 s.mem.host a b } } (a + 1) bs

/-! ### Virtual accesses of a context -/

/-- An access beyond 57 bits, or whose range crosses 2^57, has no translation (R251). -/
def beyond57 (va n : Nat) (write : Bool) : Option Acc := if va + n > 2 ^ 57 then some (.fault va 0 write false) else none

/-- Read `n` bytes at a virtual address of slot c, by the 16 KiB blocks in which an anneal changes the slot (R320). -/
def State.vread (s : State) (c va n : Nat) (u : HostUse := .no) : Except Acc Bytes :=
  match beyond57 va n false with
  | some a => .error a
  | none => (piecesOf 16384 va n).foldl (fun (r : Except Acc Bytes) p =>
    match r with
    | .error e => .error e
    | .ok acc =>
      match s.translate c p.1 false with
      | .error e => .error e
      | .ok x =>
        if x.host then
          if s.hostOpen c u then .ok (acc ++ (List.range p.2).map (fun i => s.hostByte (x.addr + i)))
          else .error (.fault p.1 3 false true)
        else
          let k := s.keyOf c p.1
          match s.physRead k.1 k.2 x.addr p.2 with
          | .ok b => .ok (acc ++ b)
          | .error e => .error e) (.ok [])

/-- Data of a charter-bound context goes to a host page from an open range alone (R334, R338). -/
def State.hostBarred (s : State) (c va : Nat) (u : HostUse) : Bool :=
  u = .data && (s.ctx c).charter.isSome && (((s.ctx c).ranges[rangeOf (s.ctx c).ranges va]?).getD {}).owner ≠ 0xFF

/-- Where a write of `n` bytes at a virtual address goes, piece by piece, or the first fault it meets in translation
(R152: every line is translated before the first is written). -/
def State.storeTargets (s : State) (c va n : Nat) (u : HostUse) : Except Acc (List (Nat × Nat × Xlat)) :=
  match beyond57 va n true with
  | some a => .error a
  | none => collect ((piecesOf 16384 va n).map (fun p =>
    match s.translate c p.1 true with
    | .error e => .error e
    | .ok x =>
      if x.host && s.hostBarred c p.1 u then .error (.stop .charterDenied)
      else if x.host && !s.hostOpen c u then .error (.fault p.1 3 true true)
      else .ok (p.1, p.2, x)))

/-- The first fault that a write meets in translation. -/
def State.writeFault (s : State) (c va n : Nat) (u : HostUse) : Option Acc :=
  match s.storeTargets c va n u with
  | .error e => some e
  | .ok _ => none

/-- The ranges of device memory that writes of a context store to: frame address and length. -/
def State.stores (s : State) (c : Nat) (ws : List (Nat × Nat)) (u : HostUse := .no) : List (Nat × Nat) :=
  ws.flatMap (fun w =>
    match s.storeTargets c w.1 w.2 u with
    | .ok ts => ts.filterMap (fun p => if p.2.2.host then none else some (p.2.2.addr, p.2.1))
    | .error _ => [])

/-- Store one piece of a write at its target. -/
def State.storePiece (s : State) (c va : Nat) (d : Bytes) (p : Nat × Nat × Xlat) : State × Option Acc :=
  let chunk := bslice d (p.1 - va) p.2.1
  let x := p.2.2
  if x.host then
    ((piecesOf 512 x.addr chunk.length).foldl (fun s r =>
      s.emit (.hostWrite (s.fnOf c) r.1 (bslice chunk (r.1 - x.addr) r.2))) (s.setHostBytes x.addr chunk), none)
  else
    let k := s.keyOf c p.1
    let f := x.addr / 65536
    let w := ((s.notePin c (p.1 - p.1 % 65536) f x.pin).noteClass f x.cls none).physWrite k.1 k.2 x.addr chunk
    ((w.1.noteLines k.2 true x.addr p.2.1).modCtx c (fun y => y.tally 3 (piecesOf 128 x.addr p.2.1).length), w.2)

/-- Write bytes at a virtual address of slot c, its targets as `s0` translates them. -/
def State.vwriteAt (s s0 : State) (c va : Nat) (d : Bytes) (u : HostUse) : State × Option Acc :=
  match s0.storeTargets c va d.length u with
  | .error e => (s, some e)
  | .ok ts => untilStop (fun s p => s.storePiece c va d p) ts s

/-- Write bytes at a virtual address of slot c. -/
def State.vwrite (s : State) (c va : Nat) (d : Bytes) (u : HostUse := .no) : State × Option Acc := s.vwriteAt s c va d u

/-- The writes of an operator as the lines meet them: a write joins the run that it stands right before, unless one between them stores to
its bytes (R310, R314: a line is written once for each run of its bytes, log 114). -/
def joinRuns (ws : List (Nat × Bytes)) : List (Nat × Bytes) :=
  ws.foldr (fun w acc =>
    let e := w.1 + w.2.length
    match acc.findIdx? (fun x => x.1 = e) with
    | none => w :: acc
    | some i =>
      if (acc.take i).any (fun x => x.1 < e && w.1 < x.1 + x.2.length) then w :: acc
      else
        match acc[i]? with
        | some x => acc.take i ++ (w.1, w.2 ++ x.2) :: acc.drop (i + 1)
        | none => w :: acc) []

/-- One piece of an operand is accessed: its pin, what it makes of the frame's placement, its lines. A piece that is written counts its
lines when the store is made. -/
def State.touchPiece (s : State) (c : Nat) (desc : Option Nat) (written : Bool) (p : Nat × Nat) : State :=
  match s.translate c p.1 false with
  | .error _ => s
  | .ok x =>
    if x.host then s
    else
      let s := (s.notePin c (p.1 - p.1 % 65536) (x.addr / 65536) x.pin).noteClass (x.addr / 65536) x.cls desc
      if written then s
      else (s.noteLines (s.keyOf c p.1).2 false x.addr p.2).modCtx c (fun y => y.tally 2 (piecesOf 128 x.addr p.2).length)

/-- A context's structure is read: a ring, a list, a table, a fence (R186: the first access of a page meets its pin). -/
def State.meet (s : State) (c va n : Nat) : State := (piecesOf 65536 va n).foldl (fun s p => s.touchPiece c none false p) s

/-- Several writes in order, all translated before the first is made (R152). -/
def State.vwrites (s : State) (c : Nat) (ws : List (Nat × Bytes)) (u : HostUse := .no) : State × Option Acc :=
  match ws.findSome? (fun w => s.writeFault c w.1 w.2.length u) with
  | some e => (s, some e)
  | none => untilStop (fun s' w => s'.vwriteAt s c w.1 w.2 u) (joinRuns ws) s

/-- The status an access that failed gives its entry, when it does not park (R265, R315, R316, R318). -/
def Acc.status : Acc → Status
  | .fault _ 1 _ _ => .faultPermission
  | .fault _ _ _ _ => .faultUnmapped
  | .tag _ => .faultTag
  | .replay _ => .faultReplay
  | .exhausted _ => .cryptoExhausted
  | .stop st => st

end Sys2Proof.Machine
end

