-- ==== Sys2Proof/Machine/HostReads.lean ====
section
/-! DEFINITION. The requests the device makes of the host: reads in flight and waiting, FetchAdds, and what a completion brings
(R242, R243, R253, R271, R274). -/

namespace Sys2Proof.Machine

/-- Host pieces of a range that have not arrived for this entry. -/
def State.hostNeeds (s : State) (c va n : Nat) (u : HostUse) (done : List (Nat × Nat)) : List (Nat × Nat × Nat) :=
  (piecesOf 65536 va n).filterMap (fun p =>
    match s.translate c p.1 false with
    | .ok x =>
      if x.host && s.hostOpen c u && !done.any (fun d => d.1 ≤ x.addr && x.addr + p.2 ≤ d.1 + d.2) then
        some (p.1, x.addr, p.2)
      else none
    | .error _ => none)

/-- What has arrived for the current entry of a queue, in whole ranges of host memory. -/
def Queue.arrived (y : Queue) : List (Nat × Nat) := match y.flight with | .hostRead d => d | _ => []

/-- The tag of a function's next request: its 10-bit tag above 1,024 times the function (R242, log 99). -/
def freeTag (rs : List HostRead) (fn : Nat) : Nat :=
  1024 * fn + ((List.range 768).find? (fun t => rs.all (fun r => r.tag ≠ 1024 * fn + t))).getD 768

/-- Requests that may leave: fewer than 768 of the function are outstanding (R242). Each takes a tag. -/
def State.pumpReads (s : State) : State :=
  s.pcie.waiting.foldl (fun s r =>
    if (s.pcie.reads.filter (fun x => x.fn = r.fn)).length < 768 then
      let r' := { r with tag := freeTag s.pcie.reads r.fn }
      ({ s with pcie := { s.pcie with reads := r' :: s.pcie.reads, waiting := s.pcie.waiting.erase r } } : State).emit
        (match r.fetchAdd with
         | some f => .hostAtomic r.fn r'.tag r.addr f.1
         | none => .hostRead r.fn r'.tag r.addr r.len)
    else s) s

/-- Send the host reads an entry needs, each of at most 4,096 bytes (R242); it goes on when all have arrived. -/
def State.askHost (s : State) (q : QRef) (l : List (Nat × Nat × Nat)) : State :=
  let rs := l.flatMap (fun p => (piecesOf 4096 p.2.1 p.2.2).map (fun a =>
    ({ tag := 0, fn := s.fnOf q.slot, slot := q.slot, queue := q.queue, gen := (s.ctx q.slot).gen
       va := p.1 + (a.1 - p.2.1), addr := a.1, len := a.2 } : HostRead)))
  let s := State.pumpReads { s with pcie := { s.pcie with waiting := s.pcie.waiting ++ rs } }
  s.modQueue q (fun y => { y with phase := .running, flight := .hostRead y.arrived })

/-- A 64-bit FetchAdd on host memory by AtomicOp (R274): the operand, and the object it counts. -/
def State.hostAdd (s : State) (c va addr operand base len : Nat) : State :=
  let r : HostRead := { tag := 0, fn := s.fnOf c, slot := c, queue := 16, gen := (s.ctx c).gen, va, addr, len := 8
                        fetchAdd := some (operand, base, len) }
  State.pumpReads { s with pcie := { s.pcie with waiting := s.pcie.waiting ++ [r] } }

/-- The entry a read belongs to still waits for it: same generation, its queue waits for host data. -/
def State.waitsRead (s : State) (r : HostRead) : Bool :=
  let x := s.ctx r.slot
  x.gen = r.gen && (x.state = 1 || x.state = 4) && (match (x.queue r.queue).flight with | .hostRead _ => true | _ => false)

/-- A request is over: its tag is free, and the next one that waits takes its place. -/
def State.freeRead (s : State) (tag : Nat) : State :=
  State.pumpReads { s with pcie := { s.pcie with reads := s.pcie.reads.filter (fun x => x.tag ≠ tag) } }

/-- A read in flight or waiting belongs to the same work as this one. -/
def HostRead.mate (r x : HostRead) : Bool := x.slot = r.slot && x.queue = r.queue && x.gen = r.gen && x.fetchAdd.isNone

/-- Two neighbouring ranges of host memory that have arrived are one. -/
def joinRange (r : Nat × Nat) : List (Nat × Nat) → List (Nat × Nat)
  | [] => [r]
  | x :: l =>
    if x.1 + x.2 = r.1 then joinRange (x.1, x.2 + r.2) l
    else if r.1 + r.2 = x.1 then joinRange (r.1, r.2 + x.2) l
    else x :: joinRange r l

/-- Data has arrived for a queue: its entry, or its ring fetch, goes on when none is outstanding. -/
def State.readArrived (s : State) (r : HostRead) (data : Bytes) : State :=
  let s := s.setHostBytes r.addr (bslice data 0 r.len)
  let all := (s.pcie.reads ++ s.pcie.waiting).all (fun x => !r.mate x)
  s.modQueue ⟨r.slot, r.queue⟩ (fun y => { y with
    flight := .hostRead (joinRange (r.addr, r.len) y.arrived)
    phase := if y.phase = .running ∧ all then (if y.cur.isNone then .idle else .ready) else y.phase })

end Sys2Proof.Machine
end

