-- ==== Sys2Proof/Machine/Numerics.lean ====
section
/-! DEFINITION. Exact values, the number formats, rounding, stochastic rounding and its generator (R93 to R110). -/

namespace Sys2Proof.Machine

/-! ### Exact values -/

/-- The position of the highest set bit, plus one; 0 for 0. -/
def bitLen (n : Nat) : Nat := if n = 0 then 0 else Nat.log2 n + 1

def Val.zero : Val := .fin false 0 0
def Val.one : Val := .fin false 1 0

def Val.isFin : Val → Bool
  | .fin _ _ _ => true
  | _ => false

def Val.isZero : Val → Bool
  | .fin _ m _ => m = 0
  | _ => false

def Val.sign : Val → Bool
  | .fin n _ _ => n
  | .inf n => n
  | .nan => false

def Val.negate : Val → Val
  | .fin n m e => .fin (!n) m e
  | .inf n => .inf (!n)
  | .nan => .nan

def Val.abs : Val → Val
  | .fin _ m e => .fin false m e
  | .inf _ => .inf false
  | .nan => .nan

/-- The signed integer of a finite value on the grid 2^g, for g at or below its exponent. -/
def onGrid (n : Bool) (m : Nat) (e g : Int) : Int :=
  let k : Int := ((m <<< (e - g).toNat : Nat) : Int)
  if n then -k else k

/-- A finite value from a signed integer times 2^e; a zero is positive. -/
def ofInt (v : Int) (e : Int) : Val := .fin (decide (v < 0)) v.natAbs e

/-- The exact sum; a sum of two zeros is negative only when both are. -/
def Val.add : Val → Val → Val
  | .fin n m e, .fin n' m' e' =>
    if m = 0 ∧ m' = 0 then .fin (n && n') 0 0
    else
      let g := min e e'
      ofInt (onGrid n m e g + onGrid n' m' e' g) g
  | .nan, _ => .nan
  | _, .nan => .nan
  | .inf n, .inf n' => if n = n' then .inf n else .nan
  | .inf n, .fin _ _ _ => .inf n
  | .fin _ _ _, .inf n => .inf n

/-- The exact product. -/
def Val.mul : Val → Val → Val
  | .fin n m e, .fin n' m' e' => .fin (xor n n') (m * m') (e + e')
  | .nan, _ => .nan
  | _, .nan => .nan
  | .inf n, .inf n' => .inf (xor n n')
  | .inf n, .fin n' m' _ => if m' = 0 then .nan else .inf (xor n n')
  | .fin n m _, .inf n' => if m = 0 then .nan else .inf (xor n n')

/-- The value times 2^k. -/
def Val.scale (v : Val) (k : Int) : Val :=
  match v with
  | .fin n m e => .fin n m (e + k)
  | v => v

/-- Order of two values that are not NaN: −1, 0 or 1. Zeros of either sign are equal. -/
def Val.cmp : Val → Val → Int
  | .fin n m e, .fin n' m' e' =>
    let g := min e e'
    let a := onGrid n m e g
    let b := onGrid n' m' e' g
    if a < b then -1 else if a = b then 0 else 1
  | .inf n, .inf n' => if n = n' then 0 else if n then -1 else 1
  | .inf n, _ => if n then -1 else 1
  | _, .inf n => if n then 1 else -1
  | _, _ => 0

/-- ⌊log₂ |v|⌋ of a finite value other than 0. -/
def binade (m : Nat) (e : Int) : Int := (Nat.log2 m : Nat) + e

/-! ### Rounding to nearest even -/

/-- m · 2^e rounded to nearest even on the grid 2^q, in units of 2^q. -/
def rneGrid (m : Nat) (e q : Int) : Nat :=
  if q ≤ e then m <<< (e - q).toNat
  else
    let k := (q - e).toNat
    let d := m >>> k
    let r := m % 2 ^ k
    if 2 * r > 2 ^ k ∨ (2 * r = 2 ^ k ∧ d % 2 = 1) then d + 1 else d

/-- The grid of a floating-point format with `p` significant bits and lowest normal exponent `emin` at a
magnitude. -/
def gridOf (p : Nat) (emin : Int) (m : Nat) (e : Int) : Int :=
  max (binade m e - (p - 1 : Nat)) (emin - (p - 1 : Nat))

/-- Round to nearest even in a floating-point format, subnormals included; beyond `emax` the result is
infinite. -/
def roundFloat (p : Nat) (emin emax : Int) (v : Val) : Val :=
  match v with
  | .fin n m e =>
    if m = 0 then .fin n 0 0
    else
      let q := gridOf p emin m e
      let d := rneGrid m e q
      if d = 0 then .fin n 0 0
      else if binade d q > emax then .inf n
      else .fin n d q
  | v => v

/-- V24 (R107). -/
def v24 (v : Val) : Val := roundFloat 16 (-126) 127 v

/-- The accumulator of R106: 26-bit significand, 10-bit exponent. DESIGN CHOICE (log 108): the exponent runs from −510 to 511. -/
def acc26 (v : Val) : Val := roundFloat 26 (-510) 511 v

/-- An IEEE-style code of a rounded value: `fb` fraction bits, `eb` exponent bits, bias; `nan` the NaN code. -/
def encFloat (fb eb : Nat) (bias : Int) (nan : Nat) (v : Val) : Nat :=
  let sgn := fun (n : Bool) => (b2n n) <<< (fb + eb)
  match v with
  | .nan => nan
  | .inf n => sgn n ||| ((2 ^ eb - 1) <<< fb)
  | .fin n m e =>
    if m = 0 then sgn n
    else
      let b := binade m e
      if b + bias ≥ 1 then
        let f := rneGrid m e (b - (fb : Nat))
        sgn n ||| (((b + bias).toNat) <<< fb) ||| (f % 2 ^ fb)
      else
        sgn n ||| rneGrid m e (1 - bias - (fb : Nat))

/-- The value of an IEEE-style code. -/
def decFloat (fb eb : Nat) (bias : Int) (c : Nat) : Val :=
  let n := bit c (fb + eb)
  let x := (c >>> fb) % 2 ^ eb
  let f := c % 2 ^ fb
  if x = 2 ^ eb - 1 then (if f = 0 then .inf n else .nan)
  else if x = 0 then .fin n f (1 - bias - (fb : Nat))
  else .fin n (2 ^ fb + f) ((x : Nat) - bias - (fb : Nat))

/-- V24 words: sign [23], exponent [22:15], fraction [14:0] (R107, R158); a computed NaN is 0x7FC000. -/
def encV24 (v : Val) : BitVec 24 := BitVec.ofNat 24 (encFloat 15 8 127 0x7FC000 v)
def decV24 (b : BitVec 24) : Val := decFloat 15 8 127 b.toNat

/-! ### Elements of S8, MX and I8 -/

/-- An 8-bit or 4-bit floating format: fraction bits, exponent bits, bias, largest finite magnitude (m · 2^e). -/
structure Small where
  fb   : Nat
  eb   : Nat
  bias : Int
  maxM : Nat
  maxE : Int
  deriving DecidableEq, Repr

def e4m3 : Small := { fb := 3, eb := 4, bias := 7, maxM := 7, maxE := 6 }
def e5m2 : Small := { fb := 2, eb := 5, bias := 15, maxM := 7, maxE := 13 }
def e2m1 : Small := { fb := 1, eb := 2, bias := 1, maxM := 3, maxE := 1 }

def Small.top (f : Small) : Val := .fin false f.maxM f.maxE

/-- The value of an element code (R96): E4M3 has one NaN and no infinity, E5M2 both, E2M1 neither. -/
def Small.dec (f : Small) (c : Nat) : Val :=
  let n := bit c (f.fb + f.eb)
  let x := (c >>> f.fb) % 2 ^ f.eb
  let fr := c % 2 ^ f.fb
  if f.eb = 4 ∧ x = 15 ∧ fr = 7 then .nan
  else if f.eb = 5 ∧ x = 31 then (if fr = 0 then .inf n else .nan)
  else if x = 0 then .fin n fr (1 - f.bias - (f.fb : Nat))
  else .fin n (2 ^ f.fb + fr) ((x : Nat) - f.bias - (f.fb : Nat))

/-- The code of a finite value on the format's grid. -/
def Small.code (f : Small) (n : Bool) (m : Nat) (e : Int) : Nat :=
  let sgn := b2n n <<< (f.fb + f.eb)
  if m = 0 then sgn
  else
    let b := binade m e
    if b + f.bias ≥ 1 then
      let k := rneGrid m e (b - (f.fb : Nat))
      sgn ||| (((b + f.bias).toNat) <<< f.fb) ||| (k % 2 ^ f.fb)
    else sgn ||| rneGrid m e (1 - f.bias - (f.fb : Nat))

/-- The code of a non-finite value (R101). -/
def Small.nonfinite (f : Small) (v : Val) : Nat :=
  if f.eb = 5 then
    match v with
    | .inf n => (b2n n <<< 7) ||| 0x7C
    | _ => 0x7E
  else 0x7F

/-- Round to nearest even; a finite value beyond the largest finite code saturates and overflows (R101, R119). -/
def Small.rne (f : Small) (v : Val) : Nat × Bool :=
  match v with
  | .fin n m e =>
    if m = 0 then (f.code n 0 0, false)
    else
      let q := gridOf (f.fb + 1) (1 - f.bias) m e
      let d := rneGrid m e q
      if Val.cmp (.fin false d q) f.top > 0 then (f.code n f.maxM f.maxE, true)
      else (f.code n d q, false)
  | v => (f.nonfinite v, false)

/-- ⌊v / 2^q⌋ and ⌊frac · 65,536⌋ of a finite value (R103). -/
def floorGrid (n : Bool) (m : Nat) (e q : Int) : Int × Nat :=
  let g := min e (q - 16)
  let x := onGrid n m e g
  let k := (q - g).toNat
  let fl := x >>> k
  let rest := (x - (fl <<< k)).toNat
  (fl, rest >>> (k - 16))

/-- Stochastic rounding on a grid with the draw `r` of 16 bits (R103). -/
def stochGrid (n : Bool) (m : Nat) (e q : Int) (r : Nat) : Int :=
  let p := floorGrid n m e q
  if r < p.2 then p.1 + 1 else p.1

/-- Stochastic rounding of an S8 moment (R103): beyond the largest finite value it saturates without a draw; a
zero result takes the sign of v. -/
def Small.stoch (f : Small) (v : Val) (r : Nat) : Nat × Bool :=
  match v with
  | .fin n m e =>
    if m = 0 then (f.code n 0 0, false)
    else if Val.cmp (.fin false m e) f.top > 0 then (f.code n f.maxM f.maxE, true)
    else
      let q := gridOf (f.fb + 1) (1 - f.bias) m e
      let d := stochGrid n m e q r
      (f.code n d.natAbs q, false)
  | v => (f.nonfinite v, false)

/-- I8 (R100, R101). -/
def encI8 (v : Val) : Nat × Bool :=
  match v with
  | .fin n m e =>
    let d := rneGrid m e 0
    if n then (if d > 128 then (0x80, true) else ((256 - d) % 256, false))
    else (if d > 127 then (0x7F, true) else (d, false))
  | _ => (0, false)

def decI8 (c : Nat) : Val := ofInt (toSigned 8 c) 0

/-! ### L8 (R99, R103) -/

/-- The V24 significand (16 bits) of 2^(j/4), j from 0 to 3, rounded to nearest. -/
def quarter (j : Nat) : Nat :=
  if j = 0 then 32768
  else (Nat.sqrt (Nat.sqrt (2 ^ (64 + j))) + 1) / 2

/-- q(c): the V24 value of an L8 code. -/
def decL8 (c : Nat) : Val :=
  if c = 0 then .zero
  else
    let k : Int := (c : Int) - 128
    .fin false (quarter (k % 4).toNat) (k / 4 - 15)

/-- The greatest code whose value is at or below |v|, by bits. -/
def l8Floor (v : Val) : Nat :=
  [7, 6, 5, 4, 3, 2, 1, 0].foldl
    (fun c b => if Val.cmp (decL8 (c + 2 ^ b)) v ≤ 0 then c + 2 ^ b else c) 0

/-- Stochastic rounding onto the codes, linear between neighbours. -/
def encL8 (v : Val) (r : Nat) : Nat :=
  match v.abs with
  | .fin _ m e =>
    let a := Val.fin false m e
    let c := l8Floor a
    if c = 255 then 255
    else
      match decL8 c, decL8 (c + 1) with
      | .fin _ ma ea, .fin _ mb eb =>
        let g := min e (min ea eb)
        let x := (onGrid false m e g).toNat
        let lo := (onGrid false ma ea g).toNat
        let hi := (onGrid false mb eb g).toNat
        if r < (x - lo) * 65536 / (hi - lo) then c + 1 else c
      | _, _ => 255
  | _ => 255

/-! ### P16 and MX blocks (R97, R98, R102) -/

/-- An element of a P16 block (R97, R98). DESIGN CHOICE (log 125): one of a non-finite block reads as NaN. -/
def decP16 (f e : Nat) : Val :=
  if e = 255 then .nan else ofInt (toSigned 16 f) ((e : Int) - 142)

/-- The largest magnitude of a block of finite values as (m, e); (0, 0) for zeros. -/
def maxMag (vs : List Val) : Nat × Int :=
  vs.foldl (fun (a : Nat × Int) v =>
    match v with
    | .fin _ m e =>
      if m = 0 then a
      else if a.1 = 0 ∨ Val.cmp (.fin false a.1 a.2) (.fin false m e) < 0 then (m, e) else a
    | _ => a) (0, 0)

/-- The fractions of a block at exponent E, stochastic with the draws `rs`, or to nearest even without. -/
def p16Fracs (e : Nat) (vs : List Val) (rs : Option (List Nat)) : List Int :=
  let q : Int := (e : Int) - 142
  (List.range vs.length).map (fun i =>
    match (vs[i]?).getD Val.zero with
    | .fin n m x =>
      match rs with
      | some l => stochGrid n m x q ((l[i]?).getD 0)
      | none => let d : Int := (rneGrid m x q : Nat); if n then -d else d
    | _ => 0)

/-- A P16 block (R102): its exponent byte and fractions. E = 0xFF: non-finite, fractions 0. -/
def p16Block (vs : List Val) (rs : Option (List Nat)) : Nat × List Int :=
  let bad := (255, vs.map (fun _ => (0 : Int)))
  if vs.any (fun v => !v.isFin) then bad
  else
    let m := maxMag vs
    if m.1 = 0 then (0, vs.map (fun _ => 0))
    else
      let e := (binade m.1 m.2 + 128).toNat
      if e > 254 then bad
      else
        let fs := p16Fracs e vs rs
        if fs.any (fun f => decide (f > 32767)) then
          if e + 1 > 254 then bad else (e + 1, p16Fracs (e + 1) vs rs)
        else (e, fs)

/-- An MX block (R101, R102): scale byte and element codes; `sh` is 8 for E4M3, 2 for E2M1. -/
def mxBlock (f : Small) (sh : Int) (vs : List Val) : Nat × List Nat :=
  if vs.any (fun v => !v.isFin) then (255, vs.map (fun _ => 0))
  else
    let m := maxMag vs
    let b : Nat := if m.1 = 0 then 0 else min 254 (binade m.1 m.2 - sh + 127).toNat
    (b, vs.map (fun v => (f.rne (v.scale (127 - (b : Int)))).1))

/-! ### The generator (R104) -/

def mulHiLo (a b : Nat) : Nat × Nat := ((a * b) >>> 32, (a * b) % 2 ^ 32)

def philoxRounds : Nat → Nat × Nat × Nat × Nat → Nat → Nat → Nat × Nat × Nat × Nat
  | 0, c, _, _ => c
  | n + 1, (c0, c1, c2, c3), k0, k1 =>
    let p := mulHiLo 0xD2511F53 c0
    let q := mulHiLo 0xCD9E8D57 c2
    philoxRounds n (q.1 ^^^ c1 ^^^ k0, q.2, p.1 ^^^ c3 ^^^ k1, p.2)
      ((k0 + 0x9E3779B9) % 2 ^ 32) ((k1 + 0xBB67AE85) % 2 ^ 32)

/-- Philox-4×32-10 under a 64-bit seed; word o0. -/
def philox0 (seed : Nat) (c0 c1 c2 c3 : Nat) : Nat :=
  (philoxRounds 10 (c0 % 2 ^ 32, c1 % 2 ^ 32, c2 % 2 ^ 32, c3 % 2 ^ 32)
    (seed % 2 ^ 32) (sl seed 63 32)).1

/-- An ordinary draw: purpose, PASS, element position, TENSOR_ID, step. -/
def draw0 (seed purpose pass pos tensor step : Nat) : Nat :=
  philox0 seed (pos % 2 ^ 32) ((purpose <<< 28) ||| ((pass % 4096) <<< 16) ||| sl pos 47 32) tensor step

/-- A link adder's draw (purpose 7): element index in the bucket, level, receiving position, bucket tag. -/
def drawRed (seed idx level pos tag : Nat) : Nat :=
  philox0 seed idx ((7 <<< 28) ||| ((level % 32) <<< 14) ||| (pos % 16384)) (tag % 2 ^ 32) (sl tag 47 32)

end Sys2Proof.Machine
end

