-- ==== Sys2Proof/Machine/Vector.lean ====
section
/-! DEFINITION. The vector engine's V24 operations (R157, R160), the exact references of the operators whose results R128 bounds,
and the free values held within those bounds. -/

namespace Sys2Proof.Machine

/-! ### References to 96 fractional bits

A real number stands as an integer in units of 2^−96; an exponential, whose size varies, as a value of 96 significant bits. They
lie within 2^−80 relative of what they stand for, far below the bounds they serve (log 8). -/

def fxBits : Int := 79228162514264337593543950336

/-- ln 2 and log₂ e. -/
def fxLn2 : Int := 54916777467707473351141471128
def fxLog2e : Int := 114302077158074026402637675937

/-- A finite value in units of 2^−96, rounded down in magnitude. -/
def fxOf (v : Val) : Int :=
  match v with
  | .fin n m e =>
    let x : Int := (if e + 96 ≥ 0 then m <<< (e + 96).toNat else m >>> (-(e + 96)).toNat : Nat)
    if n then -x else x
  | _ => 0

def fxVal (x : Int) : Val := ofInt x (-96)

def fxMul (a b : Int) : Int := a * b / fxBits

/-- 2^f for f from 0 to 1, by the series of e^(f ln 2). -/
def fxPow (f : Int) : Int :=
  let y := fxMul f fxLn2
  (List.range 28).foldl (fun (acc : Int) (i : Nat) => fxBits + fxMul acc y / (28 - (i : Int))) fxBits

/-- 2^x; below −500 it is 0, above 500 it stands for any such value. -/
def refExp2 (x : Int) : Val :=
  let n := x / fxBits
  if n < -500 then .zero
  else if n > 500 then .fin false 1 500
  else .fin false (fxPow (x % fxBits)).toNat (n - 96)

def refExp (x : Int) : Val := refExp2 (fxMul x fxLog2e)

/-- log₂ of a positive value: its binade, and twice the series of artanh at (u − 1) / (u + 1) for the significand u. -/
def fxLog2 (m : Nat) (e : Int) : Int :=
  let b := binade m e
  let u := fxOf (.fin false m (e - b))
  let r : Int × Int := if 2 * u > 3 * fxBits then (b + 1, u / 2) else (b, u)
  let z := (r.2 - fxBits) * fxBits / (r.2 + fxBits)
  let q := fxMul z z
  let s := (List.range 24).foldl (fun (acc : Int) (i : Nat) => fxBits / (47 - 2 * (i : Int)) + fxMul acc q) (fxBits / 49)
  r.1 * fxBits + fxMul (2 * fxMul z s) fxLog2e

def fxLn (m : Nat) (e : Int) : Int := fxMul (fxLog2 m e) fxLn2

/-- A finite value divided by a whole number, to 120 further bits. -/
def Val.quot (v : Val) (k : Nat) : Val :=
  match v with
  | .fin n m e => .fin n (m * 2 ^ 120 / max k 1) (e - 120)
  | v => v

/-- 1 / √v of a positive finite value. -/
def refRsqrt (m : Nat) (e : Int) : Val :=
  let h := if e % 2 = 0 then (m, e) else (2 * m, e - 1)
  .fin false (Nat.sqrt (2 ^ (400 + 2 * bitLen m) / max h.1 1)) (-(200 + bitLen m : Nat) - h.2 / 2)

/-! ### Free values within a bound -/

/-- A value as words: kind and sign, the odd part, the exponent (even codes for exponents from 0 on). -/
def Val.words : Val → List Nat
  | .nan => [4, 0, 0]
  | .inf n => [2 + b2n n, 0, 0]
  | .fin n m e =>
    if m = 0 then [b2n n, 0, 0]
    else
      let k := Nat.log2 (m ^^^ (m &&& (m - 1)))
      let x := e + (k : Int)
      [b2n n, m >>> k, if x ≥ 0 then 2 * x.toNat else 2 * x.natAbs + 1]

/-- Two finite values lie within `tol` of each other. -/
def nearTo (c ref tol : Val) : Bool := c.isFin && ref.isFin && tol.isFin && Val.cmp ((c.add ref.negate).abs) tol ≤ 0

/-- 2^−15 relative, and half the subnormal spacing for a result below 2^−126, less than the references are off. -/
def tol15 (ref : Val) : Val :=
  if Val.cmp ref.abs (.fin false 1 (-126)) < 0 then .fin false 1073741823 (-172) else ref.abs.mul (.fin false 1073741823 (-45))

/-- A free function of R157 on a V24 word (log 8). -/
def vecFree (op : Nat) (a : Val) : Val := decV24 (Config.vecFn op (encV24 a))

/-- A function of R157: free within 2^−15 of the exact result, or 2^−142 of a subnormal one, and of its sign; the exact result stands in
rounded where the free value lies outside. -/
def vecNear (op : Nat) (a ref : Val) : Val :=
  match v24 ref with
  | .inf n => .inf n
  | r =>
    let c := vecFree op a
    if nearTo c ref (tol15 ref) && c.sign = ref.sign then c else r

/-- An operator quantity whose bits the manual does not fix (log 9): free in its exact operands. -/
def opFree (what : Nat) (vs : List Val) : Val :=
  decV24 (Config.opFn what (vs.foldr (fun v l => v.words ++ l) []))

/-- The same, held within the bound of R128: a reference and the distance from it; no reference, for operands that are not finite,
leaves it free. -/
def opNear (what : Nat) (vs : List Val) (ref : Option (Val × Val)) : Val :=
  match ref with
  | none => opFree what vs
  | some r =>
    let c := opFree what vs
    if nearTo c r.1 r.2 then c else v24 r.1

/-- `k` roundings of a quantity of magnitude `S` in V24: k × 2^−16 × S. -/
def units (k : Nat) (S : Val) : Val := S.mul (.fin false k (-16))

/-! ### V24 operations (R157) -/

def vAdd (a b : Val) : Val := v24 (a.add b)
def vSub (a b : Val) : Val := v24 (a.add b.negate)
def vMul (a b : Val) : Val := v24 (a.mul b)
def vFma (a b c : Val) : Val := v24 ((a.mul b).add c)

def vMax (a b : Val) : Val :=
  match a, b with
  | .nan, _ => .nan
  | _, .nan => .nan
  | a, b => if a.isZero && b.isZero then (if a.sign then b else a) else if Val.cmp a b ≥ 0 then a else b

def vMin (a b : Val) : Val :=
  match a, b with
  | .nan, _ => .nan
  | _, .nan => .nan
  | a, b => if a.isZero && b.isZero then (if a.sign then a else b) else if Val.cmp a b ≤ 0 then a else b

/-- The comparison that MOD names (R160); NaN makes all false but ≠. -/
def vCmp (md : Nat) (a b : Val) : Bool :=
  match a, b with
  | .nan, _ => md = 1
  | _, .nan => md = 1
  | a, b =>
    let c := Val.cmp a b
    if md = 0 then c = 0 else if md = 1 then c ≠ 0 else if md = 2 then c < 0
    else if md = 3 then c ≤ 0 else if md = 4 then c > 0 else c ≥ 0

/-- 2^A for A from −142 (excluded) to −126 (excluded), A = x / 512 − 141, onto the spacing 2^−141, to nearest: the
greatest n with (2n − 1)^512 < 2^(x + 512). -/
def exp2Sub (x : Nat) : Nat :=
  [15, 14, 13, 12, 11, 10, 9, 8, 7, 6, 5, 4, 3, 2, 1, 0].foldl
    (fun n b => if (2 * (n + 2 ^ b) - 1) ^ 512 < 2 ^ (x + 512) then n + 2 ^ b else n) 0

def vExp2 (a : Val) : Val :=
  match a with
  | .nan => .nan
  | .inf n => if n then .zero else .inf false
  | .fin n m e =>
    if Val.cmp a (.fin false 128 0) ≥ 0 then .inf false
    else if Val.cmp a (.fin true 142 0) ≤ 0 then .zero
    else if Val.cmp a (.fin true 126 0) < 0 then
      .fin false (exp2Sub (onGrid n m (max e (-9)) (-9) + 141 * 512).toNat) (-141)
    else vecNear 0x0A a (refExp2 (fxOf a))

def vLog2 (a : Val) : Val :=
  match a with
  | .nan => .nan
  | .inf n => if n then .nan else .inf false
  | .fin n m e =>
    if m = 0 then .inf true
    else if n then .nan
    else if Val.cmp a .one = 0 then .zero
    else vecNear 0x0B a (fxVal (fxLog2 m e))

/-- |r · a − 1| ≤ 2^−15 for finite values. -/
def rcpOk (r a : Val) : Bool :=
  match (r.mul a).add (.fin true 1 0) with
  | .fin _ m e => Val.cmp (.fin false m e) (.fin false 1 (-15)) ≤ 0
  | _ => false

/-- RCP (R157): a free value within the bound; the correctly rounded result where the free value lies outside, or where the result
is subnormal. -/
def vRcp (a : Val) : Val :=
  match a with
  | .nan => .nan
  | .inf n => .fin n 0 0
  | .fin n m e =>
    if m = 0 then .inf n
    else
      let exact := v24 (.fin n (2 ^ (bitLen m + 60) * 2 / m ||| 1) (-(e + (bitLen m + 61 : Nat))))
      let exact := if m &&& (m - 1) = 0 then v24 (.fin n 1 (-(binade m e))) else exact
      match exact with
      | .inf n => .inf n
      | x =>
        let r := vecFree 0x0C a
        if rcpOk r a && r.sign = n && Val.cmp a.abs (.fin false 1 126) ≤ 0 then r else x

/-- |r · √a − 1| ≤ 2^−15, by the square of it. -/
def rsqrtOk (r a : Val) : Bool :=
  let x := (r.mul r).mul a
  !r.sign && x.isFin && Val.cmp (.fin false (32767 * 32767) (-30)) x ≤ 0 && Val.cmp x (.fin false (32769 * 32769) (-30)) ≤ 0

def vRsqrt (a : Val) : Val :=
  match a with
  | .nan => .nan
  | .inf n => if n then .nan else .zero
  | .fin n m e =>
    if m = 0 then .inf n
    else if n then .nan
    else
      let h := if e % 2 = 0 then (m, e) else (2 * m, e - 1)
      let x := v24 (.fin false (Nat.sqrt (2 ^ 240 / h.1) * 2 + 1) (-121 - h.2 / 2))
      let r := vecFree 0x0D a
      if rsqrtOk r a then r else x

/-- tanh: a (1 − a² / 3) below 2^−10, 1 from 24 on, else (E − 1) / (E + 1) with E = e^(2 |a|). -/
def refTanh (n : Bool) (m : Nat) (e : Int) : Val :=
  let a := Val.fin false m e
  if Val.cmp a (.fin false 1 (-10)) < 0 then .fin n (m * (fxBits - fxMul (fxOf a) (fxOf a) / 3).toNat) (e - 96)
  else if Val.cmp a (.fin false 24 0) ≥ 0 then .fin n 1 0
  else
    let x := fxOf (refExp (2 * fxOf a))
    .fin n ((x - fxBits) * fxBits / (x + fxBits)).toNat (-96)

def vTanh (a : Val) : Val :=
  match a with
  | .nan => .nan
  | .inf n => .fin n 1 0
  | .fin n m e => if m = 0 then .fin n 0 0 else vecNear 0x0E a (refTanh n m e)

/-- 1 / (1 + e^−a), as e^a / (1 + e^a) for a negative a. -/
def refSigmoid (n : Bool) (m : Nat) (e : Int) : Val :=
  let x := refExp (-(fxOf (.fin false m e)))
  let d := fxBits + fxOf x
  match x with
  | .fin _ k g => if n then .fin false (k * 2 ^ 96 / d.toNat) g else .fin false (2 ^ 192 / d.toNat) (-96)
  | v => v

def vSigmoid (a : Val) : Val :=
  match a with
  | .nan => .nan
  | .inf n => if n then .zero else .one
  | .fin n m e => vecNear 0x0F a (refSigmoid n m e)

/-- v / √d, with a sticky bit below 200 further bits (R144's τ). -/
def Val.overSqrt (v : Val) (d : Nat) : Val :=
  match v with
  | .fin n m e =>
    let x := m * m * 2 ^ 400
    let r := Nat.sqrt (x / d)
    .fin n (2 * r + (if r * r * d = x then 0 else 1)) (e - 201)
  | v => v

/-! ### References of the bounded operators (R128): the exact result, and the distance its class allows before rounding -/

def allFin (vs : List Val) : Bool := vs.all Val.isFin
def sumVals (vs : List Val) : Val := vs.foldl Val.add .zero
def sumAbs (vs : List Val) : Val := sumVals (vs.map Val.abs)

def fxMax : List Int → Int
  | [] => 0
  | x :: r => r.foldl max x

/-- ln Σ e^x. -/
def fxLse (xs : List Int) : Int :=
  let m := fxMax xs
  match sumVals (xs.map (fun x => refExp (x - m))) with
  | .fin _ k e => if k = 0 then m else m + fxLn k e
  | _ => m

/-- Products of a query row with a key row, times τ. -/
def refProducts (d : Nat) (q k : List Val) : List Val := (q.zip k).map (fun p => (p.1.mul p.2).overSqrt d)

/-- Softmax attention for one output element: Σ p v over the keys (ATTN). -/
def refAttn (d : Nat) (q : List Val) (ks : List (List Val)) (vs : List Val) : Option (Val × Val) :=
  if !allFin (q ++ ks.flatMap id ++ vs) then none
  else
    let xs := ks.map (fun k => fxOf (sumVals (refProducts d q k)))
    let l := fxLse xs
    let ts := (xs.zip vs).map (fun p => (refExp (p.1 - l)).mul p.2)
    some (sumVals ts, units (ks.length + 32) (sumAbs ts))

/-- The row maximum is that of S or of τ S: the manual does not say, one of the two throughout (log 9). -/
def rawMax : Bool := (Config.opFn 0x35 []).toNat % 2 = 1

/-- The statistics of a query row: its maximum (0), its log-sum-exp (1), ATTN. -/
def refStat (d : Nat) (q : List Val) (ks : List (List Val)) (which : Nat) : Option (Val × Val) :=
  if !allFin (q ++ ks.flatMap id) then none
  else
    let ps := ks.map (refProducts (if which = 0 && rawMax then 1 else d) q)
    let xs := ps.map (fun p => fxOf (sumVals p))
    let S := fxVal (fxMax (ps.map (fun p => fxOf (sumAbs p))))
    let r := fxVal (if which = 0 then fxMax xs else fxLse xs)
    some (r, units (ks.length + 32) (if which = 0 then S else S.add r.abs))

/-- P = exp(τ S − L), to 32 roundings (ATTN). -/
def refP (sv l : Val) (d : Nat) : Option (Val × Val) :=
  if !allFin [sv, l] then none
  else
    let p := refExp (fxOf ((sv.overSqrt d).add l.negate))
    some (p, units 32 p)

/-- μ and s of a row: 1 / rms, or 1 / σ; none for a row without spread. -/
def refNormRow (two : Bool) (row : List Val) : Option (Val × Val) :=
  let w := row.length
  let t := sumVals row
  let dev := if two then row.map (fun x => (x.mul (.fin false w 0)).add t.negate) else row
  match (sumVals (dev.map (fun x => x.mul x))).quot (if two then w * w * w else w) with
  | .fin _ m e => if m = 0 || !allFin row then none else some (if two then t.quot w else .zero, refRsqrt m e)
  | _ => none

/-- y = (x − μ) s γ + β at column i (NORM). -/
def refNorm (two : Bool) (row : List Val) (i : Nat) (g b : Val) : Option (Val × Val) :=
  match refNormRow two row with
  | none => none
  | some r =>
    if !allFin [g, b] then none
    else
      let x := ((row[i]?).getD .zero).mul (r.2.mul g)
      let m := r.1.mul (r.2.mul g)
      some (sumVals [x, m.negate, b], units (row.length + 8) (sumAbs [x, m, b]))

/-- A statistic of a row (NORM): μ, or s. -/
def refNormStat (two : Bool) (row : List Val) (mean : Bool) : Option (Val × Val) :=
  match refNormRow two row with
  | none => none
  | some r => some (if mean then (r.1, units (row.length + 8) ((sumAbs row).quot row.length)) else (r.2, units (row.length + 8) r.2))

/-- dx = s (g − r2 / W − x̂ r1 / W) from the reductions of the row, to 8 roundings (R147). -/
def refDx (sc g xh r1 r2 : Val) (w : Nat) : Option (Val × Val) :=
  if !allFin [sc, g, xh, r1, r2] then none
  else
    let ts := [sc.mul g, (sc.mul (r2.quot w)).negate, (sc.mul (xh.mul (r1.quot w))).negate]
    some (sumVals ts, units 8 (sumAbs ts))

/-- Softmax cross-entropy of a row with target t: its loss, ln Σ e^x − x_t (NORM). -/
def refLoss (row : List Val) (t : Nat) : Option (Val × Val) :=
  if !allFin row then none
  else
    let l := fxVal (fxLse (row.map fxOf))
    let x := (row[t]?).getD .zero
    some (l.add x.negate, units (row.length + 8) (sumAbs [l, x]))

/-- Its gradient at column i: p_i, less 1 at the target (NORM). -/
def refLossGrad (row : List Val) (i t : Nat) : Option (Val × Val) :=
  if !allFin row then none
  else
    let xs := row.map fxOf
    let ts := [refExp ((xs[i]?).getD 0 - fxLse xs), if i = t then Val.one.negate else .zero]
    some (sumVals ts, units (row.length + 8) (sumAbs ts))

/-- The softmax gates of a row divide by the selected logits or by all: the manual does not say, one of the two throughout (log 9). -/
def gateAll : Bool := (Config.opFn 0x36 []).toNat % 2 = 1

/-- The gate of the j-th selected logit, with one operation for each term and four more (ELEM, log 9). -/
def refGate (row : List Val) (sel : List Nat) (j : Nat) : Option (Val × Val) :=
  if !allFin row then none
  else
    let at_ := fun (i : Nat) => fxOf ((row[i]?).getD .zero)
    let xs := if gateAll then row.map fxOf else sel.map at_
    let p := refExp (at_ ((sel[j]?).getD 0) - fxLse xs)
    some (p, units (3 * (xs.length + 4)) .one)

/-- The gradient of the i-th logit of a row from the gradients of its gates: what the softmax of the forward form, over the logits its
gates divide by, makes of them (ELEM, log 9). -/
def refGateBack (row : List Val) (sel : List Nat) (gs : List Val) (i : Nat) : Option (Val × Val) :=
  if !allFin (row ++ gs) || sel.any (fun k => decide (k ≥ row.length)) then none
  else
    let at_ := fun (k : Nat) => fxOf ((row[k]?).getD .zero)
    let xs := if gateAll then row.map fxOf else sel.map at_
    let l := fxLse xs
    let p := fun (k : Nat) => refExp (at_ k - l)
    let ps := (sel.zip gs).map (fun x => (p x.1).mul x.2)
    let own := ((sel.zip gs).filter (fun x => x.1 = i)).map (·.2)
    let ts := if gateAll || sel.contains i then own.map (fun g => (p i).mul g) ++ ps.map (fun t => ((p i).mul t).negate) else []
    let S := sumAbs gs
    some (sumVals ts, units (3 * (xs.length + 2 * sel.length + 4)) (if Val.cmp S .one > 0 then S else .one))

end Sys2Proof.Machine
end

