-- ==== Sys2Proof/Machine/Operands.lean ====
section
/-! DEFINITION. The operand forms: tensors named by descriptors, their shards, element addresses, byte streams, scale
slots and tiles; reading an element, and the one write rule of R101 with what it folds into the scale table. -/

namespace Sys2Proof.Machine

/-! ### Formats -/

def Fmt.ofCode : Nat → Option Fmt
  | 0x01 => some .b16 | 0x02 => some .bf16 | 0x03 => some .p16 | 0x10 => some .s8e4 | 0x11 => some .s8e5
  | 0x12 => some .mxfp8 | 0x13 => some .mxfp4 | 0x14 => some .l8 | 0x20 => some .i8 | 0x30 => some .x16
  | _ => none

def Desc.format (d : Desc) : Fmt := (Fmt.ofCode d.fmt).getD .x16

/-- Bits of one element (R93). -/
def Fmt.bits : Fmt → Nat
  | .b16 | .bf16 | .p16 | .x16 => 16
  | .mxfp4 => 4
  | _ => 8

/-- Formats with a side array (R64). -/
def Fmt.block : Fmt → Bool
  | .p16 | .mxfp8 | .mxfp4 => true
  | _ => false

/-- Formats a scale slot can serve (R112). -/
def Fmt.scaled : Fmt → Bool
  | .s8e4 | .s8e5 | .i8 => true
  | _ => false

/-! ### Geometry -/

def Desc.dim (d : Desc) (k : Nat) : Nat := (d.dims[k]?).getD 0
def Desc.stride (d : Desc) (k : Nat) : Int := (d.strides[k]?).getD 0

/-- DIMd, or 1 at and above RANK. -/
def Desc.len (d : Desc) (k : Nat) : Nat := if k < d.rank then d.dim k else 1

def Desc.sharded (d : Desc) : Bool := d.shardDim ≠ 0xFF

/-- Indices along dimension k that shard `i` holds (R66): first and count. -/
def Desc.range (d : Desc) (i k : Nat) : Nat × Nat :=
  if d.shardDim = k then
    let n := d.len k / d.shardCount
    (i * n, n)
  else (0, d.len k)

/-- The descriptor in iteration i of the innermost loop (R69). -/
def Desc.eff (d : Desc) (i : Nat) : Desc :=
  let b : Int := (d.base : Int) + (i : Int) * d.loopStride * (d.format.bits : Int) / 8
  let sd : Int := (d.side : Int) + (i : Int) * d.loopStride / 32
  let v : Int := (d.versionVa : Int) + 4 * (i : Int) * d.loopStride.sign
  { d with
    base := b.toNat
    side := if d.format.block then sd.toNat else d.side
    versionVa := if d.versionVa = 0 then 0 else v.toNat }

/-- Index lists of a box of dimensions, DIM0 fastest. -/
def boxIdx : List (Nat × Nat) → List (List Nat)
  | [] => [[]]
  | (lo, n) :: r => (boxIdx r).foldr (fun rest acc => (List.range n).map (fun i => (lo + i) :: rest) ++ acc) []

/-- The indices of the elements shard `i` holds, in ascending element position (R66, R68). -/
def Desc.shardIdx (d : Desc) (i : Nat) : List (List Nat) :=
  boxIdx ((List.range d.rank).map (d.range i))

/-- The indices of this module's elements. -/
def Desc.own (d : Desc) : List (List Nat) := d.shardIdx d.shardIndex

/-- Element position (R68). -/
def posOf : List Nat → List Nat → Nat
  | n :: ns, i :: is => i + n * posOf ns is
  | _, _ => 0

def Desc.pos (d : Desc) (ix : List Nat) : Nat := posOf d.dims ix

/-- Elements of the full logical tensor. -/
def Desc.count (d : Desc) : Nat := (List.range d.rank).foldl (fun a k => a * d.dim k) 1

/-- Offset from BASE, in elements, of an element of shard i stored at this descriptor. -/
def Desc.offIn (d : Desc) (i : Nat) (ix : List Nat) : Int :=
  (List.range d.rank).foldl (fun a k =>
    a + ((((ix[k]?).getD 0 : Nat) : Int) - ((d.range i k).1 : Int)) * d.stride k) 0

def Desc.off (d : Desc) (ix : List Nat) : Int := d.offIn d.shardIndex ix

/-- Byte address of the element at an offset. -/
def Desc.addr (d : Desc) (o : Int) : Nat := ((d.base : Int) + o * (d.format.bits : Int) / 8).toNat

/-- Side-array address of the block of an offset (R67). -/
def Desc.sideAddr (d : Desc) (o : Int) : Nat := ((d.side : Int) + o / 32).toNat

/-- Byte addresses of the elements at the given indices and of their side-array bytes: the order in which a
stream carries them (R211). -/
def Desc.streamIn (d : Desc) (i : Nat) (ixs : List (List Nat)) : List Nat × List Nat :=
  let offs := ixs.map (fun ix => (d.offIn i ix, (ix[0]?).getD 0))
  let el := offs.foldr (fun p acc =>
    match d.format.bits with
    | 16 => d.addr p.1 :: (d.addr p.1 + 1) :: acc
    | 4 => if p.2 % 2 = 0 then d.addr p.1 :: acc else acc
    | _ => d.addr p.1 :: acc) []
  let sd := if d.format.block then
      offs.foldr (fun p acc => if p.2 % 32 = 0 then d.sideAddr p.1 :: acc else acc) []
    else []
  (el, sd)

def Desc.stream (d : Desc) : List Nat :=
  let p := d.streamIn d.shardIndex d.own
  p.1 ++ p.2

/-- Consecutive addresses joined into runs (address, length). -/
def runsOf : List Nat → List (Nat × Nat)
  | [] => []
  | a :: r =>
    match runsOf r with
    | (b, n) :: rs => if b = a + 1 then (a, n + 1) :: rs else (a, 1) :: (b, n) :: rs
    | [] => [(a, 1)]

/-- Read the bytes at a list of addresses. -/
def State.readAddrs (s : State) (c : Nat) (as : List Nat) (u : HostUse := .no) : Except Acc Bytes :=
  match collect ((runsOf as).map (fun r => s.vread c r.1 r.2 u)) with
  | .ok bs => .ok (bs.foldr (fun b acc => b ++ acc) [])
  | .error e => .error e

/-- The writes that put a byte string at a list of addresses. -/
def writesAt (as : List Nat) (d : Bytes) : List (Nat × Bytes) :=
  ((runsOf (as.take d.length)).foldl (fun (r : List (Nat × Bytes) × Bytes) p =>
    ((p.1, r.2.take p.2) :: r.1, r.2.drop p.2)) ([], d)).1.reverse

/-! ### Scale slots (R111 to R115) -/

def State.slotAddr (s : State) (c k : Nat) : Nat := (s.ctxRec c).scaleTable + 64 + 64 * k

/-- The fields of a slot an element access uses: EXP, FMT, FLAGS, HIST_POS, OVERFLOW_COUNT, TILE_ADJ_VA, ORIGIN_VA,
ITEM_BYTES, TILES_PER_ITEM, ITEM_COUNT, HIST. -/
structure Slot where
  exp    : Nat
  fmt    : Nat
  flags  : Nat
  pos    : Nat
  ovf   : Nat
  adjVa  : Nat
  origin : Nat
  item   : Nat
  tiles  : Nat
  items  : Nat
  hist   : List Nat
  deriving DecidableEq, Repr

def slotOf (b : Bytes) : Slot :=
  { exp := fld b 0 1, fmt := fld b 1 1, flags := fld b 2 1, pos := fld b 3 1 % 16, ovf := fld b 4 4
    adjVa := fld b 8 8, origin := fld b 0x10 8, item := fld b 0x18 8, tiles := fld b 0x20 4
    items := fld b 0x24 4, hist := (bslice b 0x30 16).map (·.toNat) }

def State.readSlot (s : State) (c k : Nat) : Except Acc Slot :=
  match s.vread c (s.slotAddr c k) 64 with
  | .ok b => .ok (slotOf b)
  | .error e => .error e

/-- The contract tile of an element: (t0, t1, b) folded into its local index (R73, R113). -/
def Desc.tile (d : Desc) (ix : List Nat) : Nat :=
  let g := fun k => (ix[k]?).getD 0
  let t0 := cdiv (d.len 0) 128
  let t1 := if d.rank ≤ 1 then 1 else cdiv (d.len 1) 128
  let b := posOf (d.dims.drop 2) (ix.drop 2)
  g 0 / 128 + t0 * (g 1 / 128 + t1 * b)

/-- Address of a tile's adjustment entry (R113). -/
def tileVa (sl : Slot) (d : Desc) (t : Nat) : Nat :=
  let k := if sl.item = 0 then 0 else (d.base - sl.origin) / sl.item
  sl.adjVa + 4 * (k * sl.tiles + t)

/-- The exponent an element decodes with (R96, R115). -/
def State.readExp (s : State) (c : Nat) (d : Desc) (ix : List Nat) : Except Acc Int :=
  if d.scaleSlot = 0xFFFF || !d.format.scaled then .ok 0
  else
    match s.readSlot c d.scaleSlot with
    | .error e => .error e
    | .ok sl =>
      if sl.adjVa = 0 then .ok ((sl.exp : Int) - 127)
      else
        match s.vread c (tileVa sl d (d.tile ix)) 1 with
        | .error e => .error e
        | .ok b => .ok ((sl.exp : Int) - 127 + toSigned 8 (leNat b))

/-! ### Reading an element -/

/-- The stored code of an element. -/
def State.readCode (s : State) (c : Nat) (d : Desc) (ix : List Nat) : Except Acc Nat :=
  let o := d.off ix
  match d.format.bits with
  | 16 =>
    match s.vread c (d.addr o) 2 with
    | .ok b => .ok (leNat b)
    | .error e => .error e
  | 4 =>
    match s.vread c (d.addr o) 1 with
    | .ok b => .ok (if o % 2 = 0 then leNat b % 16 else leNat b / 16)
    | .error e => .error e
  | _ =>
    match s.vread c (d.addr o) 1 with
    | .ok b => .ok (leNat b)
    | .error e => .error e

/-- The side byte of an element's block. -/
def State.readSide (s : State) (c : Nat) (d : Desc) (ix : List Nat) : Except Acc Nat :=
  match s.vread c (d.sideAddr (d.off ix)) 1 with
  | .ok b => .ok (leNat b)
  | .error e => .error e

/-- The value of a code of a format, with its side byte or exponent. -/
def decode (f : Fmt) (code side : Nat) (e : Int) : Val :=
  match f with
  | .b16 => decFloat 10 5 15 code
  | .bf16 => decFloat 7 8 127 code
  | .p16 => decP16 code side
  | .s8e4 => (e4m3.dec code).scale e
  | .s8e5 => (e5m2.dec code).scale e
  | .mxfp8 => if side = 255 then .nan else (e4m3.dec code).scale ((side : Int) - 127)
  | .mxfp4 => if side = 255 then .nan else (e2m1.dec code).scale ((side : Int) - 127)
  | .l8 => decL8 code
  | .i8 => (decI8 code).scale e
  | .x16 => .fin false code 0

/-- Read the element at an index (R66, R96 to R100, R115). -/
def State.readElem (s : State) (c : Nat) (d : Desc) (ix : List Nat) : Except Acc Val :=
  match s.readCode c d ix with
  | .error e => .error e
  | .ok code =>
    if d.format.block then
      match s.readSide c d ix with
      | .error e => .error e
      | .ok b => .ok (decode d.format code b 0)
    else
      match s.readExp c d ix with
      | .error e => .error e
      | .ok x => .ok (decode d.format code 0 x)

/-- Read the elements at a list of indices. -/
def State.readElems (s : State) (c : Nat) (d : Desc) (ixs : List (List Nat)) : Except Acc (List Val) :=
  collect (ixs.map (s.readElem c d))

/-- An index of X16 elements. -/
def State.readIndex (s : State) (c : Nat) (d : Desc) (ix : List Nat) : Except Acc Nat := s.readCode c d ix

/-- A tensor read whole: this module's elements with their indices. -/
def State.readOwn (s : State) (c : Nat) (d : Desc) : Except Acc (List (List Nat × Val)) :=
  match s.readElems c d d.own with
  | .ok vs => .ok (d.own.zip vs)
  | .error e => .error e

/-- The value found at an index. -/
def valAt (t : List (List Nat × Val)) (ix : List Nat) : Val :=
  match t.find? (fun p => p.1 = ix) with
  | some p => p.2
  | none => .zero

/-! ### The write rule (R101) -/

def Eff.join (a b : Eff) : Eff :=
  { writes := a.writes ++ b.writes, slots := a.slots ++ b.slots, nf := a.nf || b.nf, ovf := a.ovf + b.ovf }

/-- How a write rounds: to nearest even or stochastically where R101 says so, with the draw of an element
position; `opt`: an optimiser entry's write. -/
structure Rnd where
  seed    : Nat
  purpose : Nat
  pass    : Nat
  tensor  : Nat
  step    : Nat
  opt     : Bool := false
  deriving DecidableEq, Repr

def Rnd.at (r : Rnd) (pos : Nat) : Nat := draw0 r.seed r.purpose r.pass pos r.tensor r.step % 65536

/-- Consecutive groups of `n` of a list. -/
def groupsOf {α : Type} (n : Nat) (l : List α) : List (List α) :=
  (List.range (cdiv l.length (max n 1))).map (fun i => (l.drop (i * n)).take n)

/-- The bytes of a block format's write: blocks of 32 along DIM0 (R102). -/
def blockWrite (d : Desc) (r : Rnd) (vals : List (List Nat × Val)) : Eff :=
  (groupsOf 32 vals).foldl (fun a g =>
    let o := match g with | p :: _ => d.off p.1 | [] => 0
    let vs := g.map (·.2)
    let bad := vs.any (fun v => !v.isFin)
    match d.format with
    | .p16 =>
      let b := p16Block vs (some (g.map (fun p => r.at (d.pos p.1))))
      a.join { writes := [(d.addr o, b.2.foldr (fun f acc => toLE 2 (ofSigned 16 f) ++ acc) []),
                          (d.sideAddr o, toLE 1 b.1)]
               nf := decide (b.1 = 255) }
    | .mxfp8 =>
      let b := mxBlock e4m3 8 vs
      a.join { writes := [(d.addr o, b.2.map (fun x => BitVec.ofNat 8 x)), (d.sideAddr o, toLE 1 b.1)], nf := bad }
    | _ =>
      let b := mxBlock e2m1 2 vs
      let bytes := (groupsOf 2 b.2).map (fun p =>
        BitVec.ofNat 8 ((p[0]?).getD 0 + 16 * (p[1]?).getD 0))
      a.join { writes := [(d.addr o, bytes), (d.sideAddr o, toLE 1 b.1)], nf := bad }) {}

/-- The code of one element of a format without blocks: code, overflow. -/
def encElem (f : Fmt) (r : Rnd) (pos : Nat) (e : Int) (v : Val) : Nat × Bool :=
  match f with
  | .b16 => (encFloat 10 5 15 0x7E00 (roundFloat 11 (-14) 15 v), false)
  | .bf16 => (encFloat 7 8 127 0x7FC0 (roundFloat 8 (-126) 127 v), false)
  | .s8e4 => if r.opt then e4m3.stoch (v.scale (-e)) (r.at pos) else e4m3.rne (v.scale (-e))
  | .s8e5 => if r.opt then e5m2.stoch (v.scale (-e)) (r.at pos) else e5m2.rne (v.scale (-e))
  | .l8 => (encL8 v (r.at pos), false)
  | .i8 => encI8 (v.scale (-e))
  | _ => (match v with | .fin _ m x => rneGrid m x 0 % 65536 | _ => 0, false)

/-- A write is non-finite when its stored element is (R101, R120): the value, or a B16 or BF16 value beyond range. -/
def storesNf (f : Fmt) (v : Val) : Bool :=
  match f with
  | .b16 => !(roundFloat 11 (-14) 15 v).isFin
  | .bf16 => !(roundFloat 8 (-126) 127 v).isFin
  | _ => !v.isFin

/-- The biased binade of the largest finite magnitude (R112): 0 for none. -/
def histOf (vs : List Val) : Nat :=
  let m := maxMag vs
  if m.1 = 0 then 0 else (max 1 (min 254 (binade m.1 m.2 + 127))).toNat

/-- The write of a scaled format's elements of one tile: its entry, then the elements (R115, R119). -/
def tileWrite (d : Desc) (r : Rnd) (e : Int) (vals : List (List Nat × Val)) : Eff × Bool :=
  vals.foldr (fun p (a : Eff × Bool) =>
    let x := encElem d.format r (d.pos p.1) e p.2
    ({ a.1 with
        writes := (d.addr (d.off p.1), toLE 1 x.1) :: a.1.writes
        nf := a.1.nf || storesNf d.format p.2 }, a.2 || x.2)) ({}, false)

/-- The tiles that a list of elements touches. -/
def Desc.tiles (d : Desc) (vals : List (List Nat × Val)) : List Nat :=
  vals.foldl (fun a p => addSorted a (d.tile p.1)) []

/-- The elements of a tile that a write leaves out, as they are: with the tile's new adjustment they are encoded anew and keep their
values (R114, R115). -/
def State.restOf (s : State) (c : Nat) (d : Desc) (t : Nat) (mine : List (List Nat × Val)) : Except Acc (List (List Nat × Val)) :=
  let out := (d.own.filter (fun ix => d.tile ix = t)).filter (fun ix => !mine.any (fun p => p.1 = ix))
  match collect (out.map (fun ix => s.readElem c d ix)) with
  | .error e => .error e
  | .ok l => .ok (out.zip l)

/-- A write of computed values through the rule of R101: `vals` are the elements with their indices, whole blocks
together. -/
def State.encode (s : State) (c : Nat) (d : Desc) (r : Rnd) (vals : List (List Nat × Val)) : Except Acc Eff :=
  if vals.isEmpty then .ok {}
  else if d.format.block then .ok (blockWrite d r vals)
  else if d.format.scaled then
    if d.scaleSlot = 0xFFFF then
      .ok ((d.tiles vals).foldl (fun a t =>
        let w := tileWrite d r 0 (vals.filter (fun p => d.tile p.1 = t))
        a.join { w.1 with ovf := b2n w.2 }) {})
    else
      match s.readSlot c d.scaleSlot with
      | .error e => .error e
      | .ok sl =>
        let each := (d.tiles vals).map (fun t =>
          let mine := vals.filter (fun p => d.tile p.1 = t)
          if sl.adjVa = 0 then
            let w := tileWrite d r ((sl.exp : Int) - 127) mine
            Except.ok { w.1 with ovf := b2n w.2 }
          else
            let va := tileVa sl d t
            match s.vread c va 4, s.restOf c d t mine with
            | .error e, _ => .error e
            | _, .error e => .error e
            | .ok b, .ok rest =>
              let boost := fld b 1 1
              let w := tileWrite d r ((sl.exp : Int) - 127 + ((boost % 16 : Nat) : Int)) (mine ++ rest)
              .ok { w.1 with
                nf := mine.any (fun p => storesNf d.format p.2)
                writes := (va, toLE 1 (boost % 16) ++ bslice b 1 1 ++ toLE 1 (if w.2 then fld b 2 1 ||| 1 else fld b 2 1)
                  ++ bslice b 3 1) :: w.1.writes
                ovf := b2n w.2 })
        match collect each with
        | .error e => .error e
        | .ok l =>
          let a := l.foldl Eff.join {}
          .ok { a with slots := [{ slot := d.scaleSlot, hist := histOf (vals.map (·.2)), nf := a.nf, ovf := a.ovf }] }
  else
    .ok (vals.foldr (fun p a =>
      let x := encElem d.format r (d.pos p.1) 0 p.2
      { a with
        writes := (d.addr (d.off p.1), toLE (d.format.bits / 8) x.1) :: a.writes
        nf := a.nf || storesNf d.format p.2 }) {})

/-- Fold one update into a slot's history, flags and count (R112), at the address as `s0` translates it. -/
def State.foldSlot (s s0 : State) (c : Nat) (u : SlotUpd) : State × Option Acc :=
  let a := s.slotAddr c u.slot
  match s.vread c a 64 with
  | .error e => (s, some e)
  | .ok b =>
    let sl := slotOf b
    let h := max u.hist ((sl.hist[sl.pos]?).getD 0)
    let b := bput b 2 (toLE 1 (if u.nf then sl.flags ||| 4 else sl.flags))
    let b := bput b 4 (toLE 4 (satAdd 32 sl.ovf u.ovf))
    let b := bput b (0x30 + sl.pos) (toLE 1 h)
    s.vwriteAt s0 c a (bslice b 0 64) .no

/-- The first translation fault of an entry's writes (R152: found before the first line is written). -/
def State.effFault (s : State) (c : Nat) (f : Eff) : Option Acc :=
  match f.writes.findSome? (fun w => s.writeFault c w.1 w.2.length .no) with
  | some e => some e
  | none => f.slots.findSome? (fun u => s.writeFault c (s.slotAddr c u.slot) 64 .no)

/-- Apply an entry's writes. -/
def State.applyEff (s : State) (c : Nat) (f : Eff) : State × Option Acc :=
  match s.vwrites c f.writes with
  | (s1, some e) => (s1, some e)
  | (s1, none) => untilStop (fun s' u => s'.foldSlot s c u) f.slots s1

/-- The bytes of the virtual addresses an entry's writes cover: address and length. -/
def State.writtenBy (s : State) (c : Nat) (f : Eff) : List (Nat × Nat) :=
  f.writes.map (fun w => (w.1, w.2.length)) ++ f.slots.map (fun u => (s.slotAddr c u.slot, 64))

end Sys2Proof.Machine
end

