-- ==== Sys2Proof/Machine/Crypto.lean ====
section
/-! DEFINITION. The published algorithms the manual names (PRESUMED from their standards, log 16): SHA-384, HMAC, HKDF,
AES-256, XTS, GCM, key wrap, ECDSA and ECDH over P-384, the CRC of R207; and the line tag of R307. -/

namespace Sys2Proof.Machine

/-! ### SHA-384 (FIPS 180-4) -/

/-- Whether n has no divisor from 2 to d. -/
def noDivisor (n : Nat) : Nat → Bool
  | 0 => true
  | d + 1 => if d + 1 ≥ 2 ∧ n % (d + 1) = 0 then false else noDivisor n d

/-- The first `k` primes from `n` on, searching `fuel` numbers. -/
def primesFrom : Nat → Nat → Nat → List Nat
  | 0, _, _ => []
  | fuel + 1, n, k =>
    if k = 0 then []
    else if n ≥ 2 && noDivisor n (Nat.sqrt n) then n :: primesFrom fuel (n + 1) (k - 1)
    else primesFrom fuel (n + 1) k

/-- ⌊n^(1/3)⌋ by bits. -/
def icbrt (n : Nat) : Nat := go n 72 0
where
  go (n : Nat) : Nat → Nat → Nat
    | 0, r => if (r + 1) ^ 3 ≤ n then r + 1 else r
    | b + 1, r => if (r + 2 ^ (b + 1)) ^ 3 ≤ n then go n b (r + 2 ^ (b + 1)) else go n b r

def isqrtBits (n : Nat) : Nat := go n 260 0
where
  go (n : Nat) : Nat → Nat → Nat
    | 0, r => if (r + 1) ^ 2 ≤ n then r + 1 else r
    | b + 1, r => if (r + 2 ^ (b + 1)) ^ 2 ≤ n then go n b (r + 2 ^ (b + 1)) else go n b r

/-- Round constants: fractional parts of the cube roots of the first 80 primes, 64 bits. -/
def sha512K : List Nat := (primesFrom 500 2 80).map (fun p => icbrt (p * 2 ^ 192) % 2 ^ 64)

/-- SHA-384 initial words: fractional parts of the square roots of the 9th to 16th primes, 64 bits. -/
def sha384H0 : List Nat := ((primesFrom 500 2 16).drop 8).map (fun p => isqrtBits (p * 2 ^ 128) % 2 ^ 64)

def rotr64 (x n : Nat) : Nat := ((x >>> n) ||| (x <<< (64 - n))) % 2 ^ 64

def shaSchedule : Nat → List Nat → List Nat
  | 0, w => w.reverse
  | n + 1, w =>
    let g := fun i => (w[i]?).getD 0
    let s0 := rotr64 (g 14) 1 ^^^ rotr64 (g 14) 8 ^^^ (g 14 >>> 7)
    let s1 := rotr64 (g 1) 19 ^^^ rotr64 (g 1) 61 ^^^ (g 1 >>> 6)
    shaSchedule n (((s1 + g 6 + s0 + g 15) % 2 ^ 64) :: w)

structure Sha where
  a : Nat
  b : Nat
  c : Nat
  d : Nat
  e : Nat
  f : Nat
  g : Nat
  h : Nat

def shaRound (v : Sha) (kw : Nat × Nat) : Sha :=
  let s1 := rotr64 v.e 14 ^^^ rotr64 v.e 18 ^^^ rotr64 v.e 41
  let ch := (v.e &&& v.f) ^^^ ((2 ^ 64 - 1 - v.e) &&& v.g)
  let t1 := v.h + s1 + ch + kw.1 + kw.2
  let s0 := rotr64 v.a 28 ^^^ rotr64 v.a 34 ^^^ rotr64 v.a 39
  let mj := (v.a &&& v.b) ^^^ (v.a &&& v.c) ^^^ (v.b &&& v.c)
  { a := (t1 + s0 + mj) % 2 ^ 64, b := v.a, c := v.b, d := v.c
    e := (v.d + t1) % 2 ^ 64, f := v.e, g := v.f, h := v.g }

def shaBlock (k : List Nat) (h : Sha) (blk : Bytes) : Sha :=
  let w0 := (List.range 16).map (fun i => beNat (bslice blk (8 * i) 8))
  let w := shaSchedule 64 w0.reverse
  let v := (k.zip w).foldl shaRound h
  { a := (h.a + v.a) % 2 ^ 64, b := (h.b + v.b) % 2 ^ 64, c := (h.c + v.c) % 2 ^ 64, d := (h.d + v.d) % 2 ^ 64
    e := (h.e + v.e) % 2 ^ 64, f := (h.f + v.f) % 2 ^ 64, g := (h.g + v.g) % 2 ^ 64, h := (h.h + v.h) % 2 ^ 64 }

def shaPad (m : Bytes) : Bytes :=
  let z := (128 - (m.length + 17) % 128) % 128
  m ++ [0x80] ++ zeros z ++ toBE 16 (8 * m.length)

/-- Cut a string into blocks of `n` bytes. -/
def chunks (n : Nat) (b : Bytes) : List Bytes :=
  (List.range (cdiv b.length n)).map (fun i => (b.drop (i * n)).take n)

/-- SHA-384 of a byte string, as 48 bytes. -/
def sha384 (m : Bytes) : Bytes :=
  let i := fun n => (sha384H0[n]?).getD 0
  let h0 : Sha := { a := i 0, b := i 1, c := i 2, d := i 3, e := i 4, f := i 5, g := i 6, h := i 7 }
  let h := (chunks 128 (shaPad m)).foldl (shaBlock sha512K) h0
  toBE 8 h.a ++ toBE 8 h.b ++ toBE 8 h.c ++ toBE 8 h.d ++ toBE 8 h.e ++ toBE 8 h.f

/-- SHA-384 as a number, big-endian. -/
def sha384n (m : Bytes) : Nat := beNat (sha384 m)

/-! ### HMAC and HKDF (RFC 2104, RFC 5869) -/

def xorBytes (a b : Bytes) : Bytes := (a.zip b).map (fun p => p.1 ^^^ p.2)

def hmac384 (key m : Bytes) : Bytes :=
  let k0 := if key.length > 128 then sha384 key else key
  let k := k0 ++ zeros (128 - k0.length)
  let ip := k.map (fun b => b ^^^ 0x36)
  let op := k.map (fun b => b ^^^ 0x5C)
  sha384 (op ++ sha384 (ip ++ m))

def hkdfExpand (prk info : Bytes) : Nat → Bytes → Nat → Bytes
  | 0, _, _ => []
  | n + 1, prev, i =>
    let t := hmac384 prk (prev ++ info ++ [BitVec.ofNat 8 i])
    t ++ hkdfExpand prk info n t (i + 1)

/-- HKDF-SHA-384: input keying material, salt, info, output length. -/
def hkdf (ikm salt info : Bytes) (len : Nat) : Bytes :=
  let prk := hmac384 (if salt.isEmpty then zeros 48 else salt) ikm
  (hkdfExpand prk info (cdiv len 48) [] 1).take len

/-! ### AES-256 (FIPS 197) -/

/-- Multiplication by x in GF(2^8). -/
def xtime (a : Nat) : Nat := if a ≥ 128 then (2 * a) ^^^ 0x11B else 2 * a

def gmulBits : Nat → Nat → Nat → Nat
  | 0, _, _ => 0
  | n + 1, a, b => (if b % 2 = 1 then a else 0) ^^^ gmulBits n (xtime a) (b / 2)

def gmul (a b : Nat) : Nat := gmulBits 8 a b

/-- a^254, the inverse in GF(2^8), 0 for 0. -/
def ginv (a : Nat) : Nat :=
  let a2 := gmul a a
  let a4 := gmul a2 a2
  let a8 := gmul a4 a4
  let a16 := gmul a8 a8
  let a32 := gmul a16 a16
  let a64 := gmul a32 a32
  let a128 := gmul a64 a64
  gmul a128 (gmul a64 (gmul a32 (gmul a16 (gmul a8 (gmul a4 a2)))))

def rotl8 (x n : Nat) : Nat := ((x <<< n) ||| (x >>> (8 - n))) % 256

def sboxOf (a : Nat) : Nat :=
  let b := ginv a
  b ^^^ rotl8 b 1 ^^^ rotl8 b 2 ^^^ rotl8 b 3 ^^^ rotl8 b 4 ^^^ 0x63

def invSboxOf (a : Nat) : Nat := ginv (rotl8 a 1 ^^^ rotl8 a 3 ^^^ rotl8 a 6 ^^^ 0x05)

/-- The key schedule, newest word first. -/
def aesExpand : Nat → Nat → List (List Nat) → List (List Nat)
  | 0, _, w => w.reverse
  | n + 1, i, w =>
    let prev := (w[0]?).getD []
    let t :=
      if i % 8 = 0 then
        let r := (prev.drop 1 ++ prev.take 1).map sboxOf
        match r with
        | x :: xs => (x ^^^ (2 ^ (i / 8 - 1))) :: xs
        | [] => []
      else if i % 8 = 4 then prev.map sboxOf
      else prev
    let x := (t.zip ((w[7]?).getD [])).map (fun p => p.1 ^^^ p.2)
    aesExpand n (i + 1) (x :: w)

/-- The 15 round keys of a 32-byte key, 16 numbers each. -/
def aesKeys (key : Bytes) : List (List Nat) :=
  let k := key.map (·.toNat)
  let w0 := (List.range 8).map (fun i => (k.drop (4 * i)).take 4)
  let w := aesExpand 52 8 w0.reverse
  (List.range 15).map (fun r => ((w.drop (4 * r)).take 4).flatten)

def addKey (s k : List Nat) : List Nat := (s.zip k).map (fun p => p.1 ^^^ p.2)

def shiftRows (s : List Nat) : List Nat :=
  (List.range 16).map (fun i => (s[(i + 4 * (i % 4)) % 16]?).getD 0)

def invShiftRows (s : List Nat) : List Nat :=
  (List.range 16).map (fun i => (s[(i + 12 * (i % 4)) % 16]?).getD 0)

def mixWith (a b c d : Nat) (s : List Nat) : List Nat :=
  (List.range 16).map (fun i =>
    let col := 4 * (i / 4)
    let g := fun j => (s[col + (i + j) % 4]?).getD 0
    gmul a (g 0) ^^^ gmul b (g 1) ^^^ gmul c (g 2) ^^^ gmul d (g 3))

def aesRounds : List (List Nat) → List Nat → List Nat
  | [], s => s
  | [k], s => addKey (shiftRows (s.map sboxOf)) k
  | k :: ks, s => aesRounds ks (addKey (mixWith 2 3 1 1 (shiftRows (s.map sboxOf))) k)

/-- AES-256 encryption of one block. -/
def aesEnc (key blk : Bytes) : Bytes :=
  match aesKeys key with
  | [] => []
  | k :: ks => (aesRounds ks (addKey (blk.map (·.toNat)) k)).map (BitVec.ofNat 8)

def aesInvRounds : List (List Nat) → List Nat → List Nat
  | [], s => s
  | [k], s => addKey ((invShiftRows s).map invSboxOf) k
  | k :: ks, s => aesInvRounds ks (mixWith 14 11 13 9 (addKey ((invShiftRows s).map invSboxOf) k))

/-- AES-256 decryption of one block. -/
def aesDec (key blk : Bytes) : Bytes :=
  match (aesKeys key).reverse with
  | [] => []
  | k :: ks => (aesInvRounds ks (addKey (blk.map (·.toNat)) k)).map (BitVec.ofNat 8)

/-! ### XTS and the line tag (IEEE 1619; R306, R307) -/

/-- Multiplication of a 128-bit tweak by α. -/
def xtsAlpha (t : Nat) : Nat := if t ≥ 2 ^ 127 then ((2 * t) % 2 ^ 128) ^^^ 0x87 else 2 * t

def xtsBlocks (k1 : Bytes) : List Bytes → Nat → Bytes
  | [], _ => []
  | b :: bs, t =>
    let tb := toLE 16 t
    xorBytes (aesEnc k1 (xorBytes b tb)) tb ++ xtsBlocks k1 bs (xtsAlpha t)

/-- The tweak input of R306: version, line address, protection, domain. -/
def tweakIn (v a : Nat) (p : Bool) (d : Nat) : Nat := v ||| (a <<< 64) ||| (b2n p <<< 99) ||| (d <<< 100)

/-- The ciphertext of a 128-byte line (R306). -/
def lineCipher (k1 k2 : Bytes) (t : Nat) (pt : Bytes) : Bytes :=
  xtsBlocks k1 (chunks 16 pt) (leNat (aesEnc k2 (toLE 16 t)))

/-- Multiplication in GF(2^64) with x^64 + x^4 + x^3 + x + 1 (R307). -/
def gf64 : Nat → Nat → Nat → Nat
  | 0, _, _ => 0
  | n + 1, a, b =>
    let a2 := if a ≥ 2 ^ 63 then ((2 * a) % 2 ^ 64) ^^^ 0x1B else 2 * a
    (if b % 2 = 1 then a else 0) ^^^ gf64 n a2 (b / 2)

/-- The tag of a line's ciphertext (R307). -/
def lineTag (km : Bytes) (h t : Nat) (ct : Bytes) : Nat :=
  let s := (List.range 16).foldl (fun s i => gf64 64 (s ^^^ leNat (bslice ct (8 * i) 8)) h) 0
  s ^^^ (leNat (aesEnc km (toLE 16 t)) % 2 ^ 64)

/-! ### GCM (SP 800-38D) -/

/-- Multiplication in GCM's field, bit 0 the most significant. -/
def ghashMul : Nat → Nat → Nat → Nat
  | 0, _, _ => 0
  | n + 1, x, v =>
    let v2 := if v % 2 = 1 then (v / 2) ^^^ (0xE1 <<< 120) else v / 2
    (if x.testBit n then v else 0) ^^^ ghashMul n x v2

def ghash (h : Nat) (d : Bytes) : Nat :=
  (chunks 16 d).foldl (fun y b => ghashMul 128 (y ^^^ beNat (b ++ zeros (16 - b.length))) h) 0

def pad16 (b : Bytes) : Bytes := b ++ zeros ((16 - b.length % 16) % 16)

def gcmCtr (key iv d : Bytes) : Bytes :=
  ((chunks 16 d).zipIdx.map (fun p => xorBytes p.1 (aesEnc key (iv ++ toBE 4 (p.2 + 2))))).flatten

def gcmTag (key iv aad ct : Bytes) : Bytes :=
  let h := beNat (aesEnc key (zeros 16))
  let y := ghash h (pad16 aad ++ pad16 ct ++ toBE 8 (8 * aad.length) ++ toBE 8 (8 * ct.length))
  xorBytes (toBE 16 y) (aesEnc key (iv ++ toBE 4 1))

/-- AES-256-GCM seal: ciphertext and tag. -/
def gcmSeal (key iv aad pt : Bytes) : Bytes × Bytes :=
  let ct := gcmCtr key iv pt
  (ct, gcmTag key iv aad ct)

/-- AES-256-GCM open: the plaintext, when the tag verifies. -/
def gcmOpen (key iv aad ct tag : Bytes) : Option Bytes :=
  if gcmTag key iv aad ct = tag then some (gcmCtr key iv ct) else none

/-! ### AES key wrap (RFC 3394), four 64-bit blocks -/

def unwrapStep (kek : Bytes) (st : Bytes × List Bytes) (t : Nat) : Bytes × List Bytes :=
  let i := (t - 1) % 4
  let a := toBE 8 (beNat st.1 ^^^ t)
  let b := aesDec kek (a ++ (st.2[i]?).getD [])
  (b.take 8, lmod st.2 i (fun _ => b.drop 8))

/-- Unwrap a 256-bit key from 40 bytes; none when the integrity check fails. -/
def keyUnwrap (kek w : Bytes) : Option Bytes :=
  let r := (List.range 4).map (fun i => bslice w (8 + 8 * i) 8)
  let st := (List.range 24).foldl (fun st n => unwrapStep kek st (24 - n)) (bslice w 0 8, r)
  if st.1 = List.replicate 8 0xA6 then some st.2.flatten else none

/-! ### P-384 (FIPS 186-4) -/

def p384 : Nat := 2 ^ 384 - 2 ^ 128 - 2 ^ 96 + 2 ^ 32 - 1
def n384 : Nat := 0xFFFFFFFFFFFFFFFFFFFFFFFFFFFFFFFFFFFFFFFFFFFFFFFFC7634D81F4372DDF581A0DB248B0A77AECEC196ACCC52973
def b384 : Nat := 0xB3312FA7E23EE7E4988E056BE3F82D19181D9C6EFE8141120314088F5013875AC656398D8A2ED19D2A85C8EDD3EC2AEF
def gx384 : Nat := 0xAA87CA22BE8B05378EB1C71EF320AD746E1D3B628BA79B9859F741E082542A385502F25DBF55296C3A545E3872760AB7
def gy384 : Nat := 0x3617DE4A96262C6F5D9E98BF9292DC29F8F41DBD289A147CE9DA3113B5F0B8C00A60B1CE1D7E819D7A431D7C90EA0E5F

def powMod (m : Nat) : Nat → Nat → Nat → Nat
  | 0, _, _ => 1 % m
  | f + 1, b, e => if e = 0 then 1 % m else
    let r := powMod m f (b * b % m) (e / 2)
    if e % 2 = 1 then b * r % m else r

def invMod (m a : Nat) : Nat := powMod m 390 (a % m) (m - 2)

/-- A point of the curve; none is the point at infinity. -/
abbrev Pt := Option (Nat × Nat)

def ptAdd (a b : Pt) : Pt :=
  match a, b with
  | none, q => q
  | p, none => p
  | some (x1, y1), some (x2, y2) =>
    if x1 = x2 ∧ (y1 + y2) % p384 = 0 then none
    else
      let l :=
        if x1 = x2 then (3 * x1 * x1 + p384 - 3) * invMod p384 (2 * y1) % p384
        else (y2 + p384 - y1) * invMod p384 (x2 + p384 - x1) % p384
      let x3 := (l * l + 2 * p384 - x1 - x2) % p384
      some (x3, (l * (x1 + p384 - x3) + p384 - y1) % p384)

def ptMul : Nat → Nat → Pt → Pt
  | 0, _, _ => none
  | f + 1, k, p => if k = 0 then none else
    let r := ptMul f (k / 2) (ptAdd p p)
    if k % 2 = 1 then ptAdd p r else r

def onCurve (x y : Nat) : Bool :=
  x < p384 && y < p384 && (y * y) % p384 = (x * x * x + (p384 - 3) * x + b384) % p384

/-- ECDSA P-384 verification: public key, digest of the message, r, s. -/
def ecdsaOk (qx qy digest r s : Nat) : Bool :=
  if r = 0 || s = 0 || r ≥ n384 || s ≥ n384 || !onCurve qx qy then false
  else
    let w := invMod n384 s
    match ptAdd (ptMul 384 (digest * w % n384) (some (gx384, gy384))) (ptMul 384 (r * w % n384) (some (qx, qy))) with
    | none => false
    | some (x, _) => x % n384 = r

/-- The ECDH shared secret: the x coordinate of d·Q, 48 bytes. -/
def ecdh (d qx qy : Nat) : Bytes :=
  match ptMul 384 d (some (qx, qy)) with
  | some (x, _) => toBE 48 x
  | none => zeros 48

/-- The public key of a private key: x then y, big-endian, 96 bytes (R332). -/
def pubOf (d : Nat) : Bytes :=
  match ptMul 384 d (some (gx384, gy384)) with
  | some (x, y) => toBE 48 x ++ toBE 48 y
  | none => zeros 96

/-! ### The flit CRC (ECMA-182, initial value all ones, final inversion; R207) -/

def crcBits : Nat → Nat → Nat
  | 0, c => c
  | n + 1, c => crcBits n (if c ≥ 2 ^ 63 then ((2 * c) % 2 ^ 64) ^^^ 0x42F0E1EBA9EA3693 else 2 * c)

def crc64 (d : Bytes) : Nat :=
  (d.foldl (fun c b => crcBits 8 (c ^^^ (b.toNat <<< 56))) (2 ^ 64 - 1)) ^^^ (2 ^ 64 - 1)

end Sys2Proof.Machine
end

