-- ==== Sys2Proof/Machine/Packets.lean ====
section
/-! DEFINITION. Packets: their encoding, sealing and routing, the ports they leave by, message identifiers and
summaries (R207 to R220, R327). -/

namespace Sys2Proof

open Machine

/-! ### Encoding (R209, R210) -/

def Packet.red (p : Packet) : Bool := 2 ≤ p.ptype && p.ptype ≤ 6

/-- Credit class (R210): DATA 2, RED_DATA and RED_RESULT 1, the others 0. -/
def Machine.classOf (ptype : Nat) : Nat :=
  if ptype = 1 then 2 else if ptype = 4 ∨ ptype = 5 then 1 else 0

/-- TRAIN and SESSION packets have no class (R210). -/
def Packet.classed (p : Packet) : Bool := p.ptype < 0x0B

/-- Credit units a packet consumes (R214). -/
def Packet.units (p : Packet) : Nat := if p.classed then cdiv (48 + p.payload.length) 256 else 0

def Packet.header (p : Packet) : Bytes :=
  toLE 1 p.ptype ++ toLE 1 p.ctl ++ toLE 2 p.payload.length ++ toLE 2 p.dst ++ toLE 2 p.src ++ toLE 2 p.job
    ++ toLE 1 p.gen ++ toLE 1 p.hops ++ toLE 6 p.tag
    ++ (if p.red then toLE 1 p.level ++ toLE 1 0 else toLE 2 (p.offset >>> 32))
    ++ toLE 4 p.offset ++ toLE 8 p.ctr

def Packet.last (p : Packet) : Bool := bit p.ctl 2
def Packet.lost (p : Packet) : Bool := bit p.ctl 3
def Packet.summary (p : Packet) : Bool := bit p.ctl 4

/-- SESSION subtypes 1 to 4 and TRAIN travel unprotected (R201, R361). -/
def Packet.plain (p : Packet) : Bool :=
  p.ptype = 0x0B || (p.ptype = 0x0C && (match p.payload with | b :: _ => decide (b.toNat ≤ 4) | [] => true))

end Sys2Proof

namespace Sys2Proof.Machine

/-- The bytes of a packet on a link (R209, R327). DESIGN CHOICE (log 125): the tag field of a TRAIN packet holds zeros, as R361 says
of the SESSION packets that are not encrypted. -/
def sealPacket (l : Link) (p : Packet) : Bytes :=
  if p.plain then p.header ++ p.payload ++ zeros 16
  else
    let x := gcmSeal l.txKey (l.txSalt ++ toLE 8 p.ctr) p.header p.payload
    p.header ++ x.1 ++ x.2

/-! ### Identifiers (R211) -/

/-- A message identifier: step, iteration, and the entry's TAG or a TENSOR_ID. -/
def msgId (step iter low : Nat) : Nat := ((step % 16) <<< 44) ||| ((iter % 4096) <<< 32) ||| (low % 2 ^ 32)

/-- A bucket tag (R75). -/
def bucketTag (job epoch index step : Nat) : Nat :=
  ((job % 2 ^ 16) <<< 32) ||| ((epoch % 256) <<< 24) ||| ((index % 2 ^ 20) <<< 4) ||| (step % 16)

/-! ### Summaries (R212) -/

def maskBytes (n : Nat) (ps : List Nat) : Bytes :=
  (List.range (cdiv n 8)).map (fun j =>
    BitVec.ofNat 8 (ps.foldl (fun a p => if p / 8 = j then a ||| (1 <<< (p % 8)) else a) 0))

def maskPos (b : Bytes) : List Nat := (List.range (8 * b.length)).filter (fun p => bit (fld b (p / 8) 1) (p % 8))

def Summary.enc (x : Summary) (n elems : Nat) : Bytes :=
  toLE 1 (b2n x.nf + 2 * b2n x.abandoned) ++ toLE 1 0 ++ toLE 2 n ++ toLE 4 elems ++ zeros 8
    ++ maskBytes n x.members ++ maskBytes n x.offenders ++ maskBytes n x.carried

def Summary.dec (b : Bytes) : Summary :=
  let m := cdiv (fld b 2 2) 8
  { nf := bit (fld b 0 1) 0, abandoned := bit (fld b 0 1) 1
    members := maskPos (bslice b 16 m), offenders := maskPos (bslice b (16 + m) m)
    carried := maskPos (bslice b (16 + 2 * m) m) }

/-- Bytes of a whole summary of a job of n ranks. -/
def summaryLen (n : Nat) : Nat := 16 + 3 * cdiv n 8

def joinSummary (a b : Summary) : Summary :=
  { nf := a.nf || b.nf, abandoned := a.abandoned || b.abandoned
    members := b.members.foldl addSorted a.members
    offenders := b.offenders.foldl addSorted a.offenders
    carried := b.carried.foldl addSorted a.carried }

/-! ### Routing (R218, R219) -/

/-- A port the routing chooses: up, or down and not yet detected (R219). -/
def Port.chosen (p : Port) : Bool := p.st = 3 || p.deadAt.isSome

/-- A port whose light moves keeps what it carries (R35, R205): it is an alternative when no other is live (log 100). -/
def Port.waits (p : Port) : Bool := p.moving && p.back = 3

def State.alts (s : State) (dst : Nat) : List Nat := tget [] s.fab.table (dst % 16384)

def State.inPartition (s : State) (dst : Nat) : Bool := dst / 16384 = s.fab.moduleId / 16384

/-- A destination with a live alternative (R219). -/
def State.reachable (s : State) (dst : Nat) : Bool :=
  dst = s.fab.moduleId || (s.inPartition dst && (s.alts dst).any (fun q => (s.port q).chosen || (s.port q).waits))

/-- The alternative for a packet: the hash's, or the next live one (R219), or one whose light moves. -/
def State.route (s : State) (p : Packet) : Option Nat :=
  let as := s.alts p.dst
  let k := Config.routeHash p.src p.dst p.job p.tag (if p.red then p.level else 0) % max as.length 1
  let l := as.drop k ++ as.take k
  if s.inPartition p.dst then
    match l.find? (fun q => (s.port q).chosen) with
    | some q => some q
    | none => l.find? (fun q => (s.port q).waits)
  else none

/-- Put a packet into a port's send queue; its PKT_CTR is given when it is sealed (R327). -/
def State.enqueue (s : State) (q : Nat) (p : Packet) : State :=
  (s.modPort q (fun x => { x with txQueue := x.txQueue ++ [p] })).emit (.packet q p)

/-- Send a packet on its route; with no live alternative nothing is sent. -/
def State.send (s : State) (p : Packet) : State :=
  match s.route p with
  | some q => s.enqueue q p
  | none => s

/-- Tell the peer of a link the charter digest under which the module holds a job, 0 for none (R339), unless it knows it. -/
def State.sayDigest (s : State) (q job digest : Nat) : State :=
  let x := s.port q
  if x.link.sentDigests.contains (job, digest) then s
  else
    let s := s.setPort q { x with link := { x.link with
      sentDigests := (job, digest) :: x.link.sentDigests.filter (fun d => d.1 ≠ job) } }
    s.enqueue q { ptype := 0x0C, ctl := 0, dst := x.peerId, src := s.fab.moduleId,
                  payload := toLE 1 6 ++ toLE 2 job ++ toBE 48 digest }

/-- The peer of the link has told its charter digest for a job (R339). -/
def Link.told (l : Link) (job : Nat) : Bool := l.digests.any (fun d => d.1 = job)

/-- Send a packet of slot c on its route. A charter-bound job's digest is exchanged with the peer of the link before the job's first
packet on it: until the peer's has come the packet waits (R339). -/
def State.sendOn (s : State) (c : Nat) (p : Packet) : State :=
  match s.route p, (s.ctx c).charter with
  | none, _ => s
  | some q, none => s.enqueue q p
  | some q, some ch =>
    let s := s.sayDigest q ch.job ch.digest
    if (s.port q).link.told p.job then s.enqueue q p else s.modPort q (fun x => { x with unsaid := x.unsaid ++ [p] })

/-- Send a packet of slot c's job: stamped with its job number and generation (R209, R216), counted (R348). A rank that a charter shuts
out gets none (R339). -/
def State.sendFor (s : State) (c : Nat) (p : Packet) : State :=
  let x := s.ctx c
  let p := { p with src := s.fab.moduleId, job := (x.record.getD {}).job, gen := x.gen }
  if s.fab.barred.contains (c, p.dst) || (s.route p).isNone then s
  else (s.sendOn c p).modCtx c (fun x => x.tally 4 1)

/-- Send bytes of a stream that ends at `fin`, from a byte offset, as packets of at most 4,096 bytes; LAST on the one with the final
byte (R209, R212). -/
def State.sendPart (s : State) (c : Nat) (p : Packet) (off fin : Nat) (d : Bytes) : State :=
  let cs := if d.isEmpty then [([] : Bytes)] else chunks 4096 d
  (cs.foldl (fun (r : State × Nat) b =>
    let last := decide (r.2 + b.length ≥ fin)
    (r.1.sendFor c { p with offset := r.2, payload := b, ctl := p.ctl ||| (if last then 4 else 0) },
     r.2 + b.length)) (s, off)).1

/-- Send a byte stream from a byte offset. -/
def State.sendStream (s : State) (c : Nat) (p : Packet) (off : Nat) (d : Bytes) : State :=
  s.sendPart c p off (off + d.length) d

/-- How far accepted byte ranges reach from a byte on without a gap. -/
def reachFrom : Nat → List (Nat × Nat) → Nat → Nat
  | 0, _, r => r
  | fuel + 1, got, r =>
    match got.find? (fun g => g.1 ≤ r && r < g.1 + g.2) with
    | some g => reachFrom fuel got (g.1 + g.2)
    | none => r

/-! ### Groups of a job -/

/-- A rank list of slot c (R248): module identifiers in position order. -/
def State.ranks (s : State) (c g : Nat) : List Nat := ((s.ctx c).groups[g]?).getD []

/-- This module's position in a rank list. -/
def State.myPos (s : State) (c g : Nat) : Nat :=
  if g = 0 then (s.ctxRec c).position else ((s.ranks c g).findIdx? (· = s.fab.moduleId)).getD 0

/-- The module at a position of group 0. -/
def State.rankAt (s : State) (c p : Nat) : Nat := ((s.ranks c 0)[p]?).getD 0

/-- A peer can be reached for the job: a live route, no other charter on its link (R339). -/
def State.peerOk (s : State) (c dst : Nat) : Bool :=
  dst = s.fab.moduleId ||
    (s.reachable dst && !s.fab.barred.contains (c, dst))

/-- The slot whose context holds a job (R216): a slot that is not FREE. -/
def State.slotOfJob (s : State) (job : Nat) : Option Nat :=
  (List.range 64).find? (fun c => (s.ctx c).state ≠ 0 && (s.ctxRec c).job = job && (s.ctx c).record.isSome)

/-- Send a packet again by the routes of now: one of a job of this module is handed over as `sendOn` does. -/
def State.resend (s : State) (p : Packet) : State :=
  let p := { p with ctr := 0 }
  match if p.src = s.fab.moduleId then s.slotOfJob p.job else none with
  | some c => if s.fab.barred.contains (c, p.dst) then s else s.sendOn c p
  | none => s.send p

/-- The packets a port had not delivered: of unacknowledged flits, half sent, and waiting. Those of the link itself go
with it. -/
def Port.undelivered (x : Port) : List Packet :=
  (x.window.flatMap (·.pkts) ++ x.txLast.toList ++ x.txQueue ++ x.unsaid).filter (fun p => p.ptype ≤ 8)

end Sys2Proof.Machine
end

