-- ==== Sys2Proof/Machine/Reduce.lean ====
section
/-! DEFINITION. In-link reduction: the tree, the additions, late members, moving the data, results (R223 to R234). -/

namespace Sys2Proof.Machine

/-! ### The tree (R223) -/

/-- A reduction tree over rank-list positions: `node level l r` adds the right partial to the left. -/
inductive Tree where
  | leaf (p : Nat)
  | node (level : Nat) (l r : Tree)
  deriving DecidableEq, Repr

/-- The representative: the lowest position. -/
def Tree.rep : Tree → Nat
  | .leaf p => p
  | .node _ l _ => l.rep

def Tree.members : Tree → List Nat
  | .leaf p => [p]
  | .node _ l r => l.members ++ r.members

/-- One level: pairs of neighbours are added; an unpaired last group passes. -/
def pairUp (level : Nat) : List Tree → List Tree
  | a :: b :: r => .node level a b :: pairUp level r
  | l => l

/-- Levels from `level` on, while more than one group remains. -/
def pairAll : Nat → Nat → List Tree → List Tree
  | 0, _, ts => ts
  | fuel + 1, level, ts => if ts.length ≤ 1 then ts else pairAll fuel (level + 1) (pairUp level ts)

/-- The node of a module identifier (R218). -/
def nodeOf (m : Nat) : Nat := sl m 13 3

/-- Distinct nodes in ascending order of their lowest member position. -/
def nodesOf (ranks : List Nat) : List Nat :=
  ranks.foldl (fun a m => if a.contains (nodeOf m) then a else a ++ [nodeOf m]) []

/-- The tree of a rank list (R223). -/
def treeOf (ranks : List Nat) : Tree :=
  let ps := (List.range ranks.length).zip ranks
  let groups := (nodesOf ranks).flatMap (fun v =>
    pairUp 2 (pairUp 1 (pairUp 0 ((ps.filter (fun p => nodeOf p.2 = v)).map (fun p => Tree.leaf p.1)))))
  match pairAll 20 3 groups with
  | t :: _ => t
  | [] => .leaf 0

/-- The right groups position `self` receives from, with the level of their addition; a group whose
representative is not reachable is taken apart (R229). -/
def Tree.inputs (ok : Nat → Bool) (self : Nat) : Tree → Nat → List (Nat × Nat)
  | .leaf p, lvl => if p ≠ self && ok p then [(lvl, p)] else []
  | .node lv l r, lvl =>
    if l.rep ≠ self && ok l.rep then [(lvl, l.rep)]
    else l.inputs ok self lvl ++ r.inputs ok self lv

/-- The largest subtree whose representative is `self`, the level at which it is added, and the receiving
positions above it, nearest first. -/
def Tree.place (self : Nat) : Tree → Nat → List Nat → Option (Tree × Nat × List Nat)
  | .leaf p, lvl, up => if p = self then some (.leaf p, lvl, up) else none
  | .node lv l r, lvl, up =>
    if l.rep = self then some (.node lv l r, lvl, up)
    else
      match l.place self lvl up with
      | some x => some x
      | none => r.place self lv (l.rep :: up)

/-- A role in a tree: the subtree to evaluate, its level, and the receiver (none: this member is the root). -/
structure RedRole where
  tree  : Tree
  level : Nat
  dest    : Option Nat
  deriving DecidableEq, Repr

def roleOf (ranks : List Nat) (ok : Nat → Bool) (self : Nat) : RedRole :=
  let t := treeOf ranks
  match t.place self 0 [] with
  | none => { tree := .leaf self, level := 0, dest := none }
  | some (sub, lvl, up) =>
    match up.find? ok with
    | some q => { tree := sub, level := lvl, dest := some q }
    | none =>
      match (List.range ranks.length).find? (fun p => p = self || ok p) with
      | some p => if p = self then { tree := t, level := 0, dest := none } else { tree := sub, level := lvl, dest := some p }
      | none => { tree := t, level := 0, dest := none }

def State.posOk (s : State) (c p : Nat) : Bool := s.peerOk c (s.rankAt c p)

/-- A member takes part in a bucket as this module sees it: reachable, and not passed over by a sender (R229). -/
def State.okFor (s : State) (b : Bucket) (p : Nat) : Bool := s.posOk b.slot p && !b.skip.contains p

def State.role (s : State) (b : Bucket) : RedRole :=
  roleOf (s.ranks b.slot 0) (s.okFor b) (s.ctxRec b.slot).position

/-! ### Bucket streams and additions (R110, R211, R224) -/

/-- Bytes of a bucket stream: elements, then one exponent byte per P16 block. -/
def streamLen (fmt elems : Nat) : Nat := 2 * elems + (if fmt = 3 then cdiv elems 32 else 0)

/-- The values of a bucket stream. -/
def streamVals (fmt elems : Nat) (b : Bytes) : List Val :=
  (List.range elems).map (fun i =>
    let code := fld b (2 * i) 2
    if fmt = 3 then decP16 code (fld b (2 * elems + i / 32) 1)
    else if fmt = 2 then decFloat 7 8 127 code
    else decFloat 10 5 15 code)

/-- The stream of exact values after one rounding: stochastic with the given draws for P16, else to nearest even. -/
def streamRound (fmt : Nat) (vs : List Val) (draw : Nat → Nat) : Bytes :=
  if fmt = 3 then
    let blocks := (List.range (cdiv vs.length 32)).map (fun i =>
      p16Block ((vs.drop (32 * i)).take 32) (some ((List.range 32).map (fun j => draw (32 * i + j) % 65536))))
    blocks.foldr (fun b acc => b.2.foldr (fun f acc => toLE 2 (ofSigned 16 f) ++ acc) [] ++ acc) []
      ++ blocks.map (fun b => BitVec.ofNat 8 b.1)
  else
    vs.foldr (fun v acc =>
      (if fmt = 2 then toLE 2 (encFloat 7 8 127 0x7FC0 (roundFloat 8 (-126) 127 v))
       else toLE 2 (encFloat 10 5 15 0x7E00 (roundFloat 11 (-14) 15 v))) ++ acc) []

/-- One addition: exact, then one rounding drawn with its level and receiving position. -/
def addStreams (fmt elems seed level pos tag : Nat) (a b : Bytes) : Bytes :=
  streamRound fmt ((streamVals fmt elems a).zipWith Val.add (streamVals fmt elems b))
    (fun i => drawRed seed i level pos tag)

def streamBad (fmt elems : Nat) (b : Bytes) : Bool := (streamVals fmt elems b).any (fun v => !v.isFin)

/-! ### Buckets -/

/-- The open bucket of a slot with a tag. -/
def State.bucket (s : State) (c tag : Nat) : Option Bucket :=
  s.buckets.find? (fun b => b.slot = c && b.tag = tag && b.doneAt.isNone)

/-- The first element that satisfies p, changed. -/
def modFirst {α : Type} (p : α → Bool) (f : α → α) : List α → List α
  | [] => []
  | a :: l => if p a then f a :: l else a :: modFirst p f l

def State.setBucket (s : State) (b : Bucket) : State :=
  { s with buckets := modFirst (fun x => x.slot = b.slot && x.tag = b.tag && x.doneAt.isNone) (fun _ => b) s.buckets }

/-- The entry that issued a bucket still waits for it. -/
def State.claimed (s : State) (b : Bucket) : Bool :=
  match (s.queue ⟨b.slot, b.queue⟩).flight with
  | .collective tags _ _ => b.issued && tags.contains b.tag
  | _ => false

/-- Buckets in flight (R231): RED_READY sent, RED_RESULT not yet received. -/
def State.inFlight (s : State) : Nat :=
  (s.buckets.filter (fun b => b.sentTo.isSome && b.final.isNone && b.doneAt.isNone)).length

/-- The reduction buffer in use, in bytes: partials pulled before their left partial was ready and not yet consumed (R230). -/
def State.redUsed (s : State) : Nat :=
  s.buckets.foldl (fun a b =>
    if b.doneAt.isSome || b.streamed then a
    else a + streamLen b.fmt b.elems * (b.inputs.filter (fun i => i.pulled && i.early)).length) 0

/-- A right group of the one member at a position whose compute-part reset the fabric manager has relayed is late
(R233, R387). -/
def State.cpLate (s : State) (b : Bucket) (p : Nat) : Bool :=
  s.fab.cpNotices.contains (b.slot, s.rankAt b.slot p)
    && (match (treeOf (s.ranks b.slot 0)).place p 0 [] with | some x => decide (x.1.members = [p]) | none => false)

/-- What all settled inputs say together (R226). -/
def Bucket.union (b : Bucket) : Summary :=
  b.inputs.foldl (fun a i => match i.st with | .ready x => joinSummary a x | _ => a)
    (match b.own with | .ready x => x | _ => {})

/-- Without light a member goes on alone: its partial is of what it has (R37). -/
def Bucket.alone (b : Bucket) (dark : Bool) : Bucket :=
  if dark && b.readySent && b.final.isNone && b.pass = 1 then
    { b with summary := { b.union with abandoned := b.summary.abandoned } }
  else b

/-- Give the bucket the inputs its role has now; those it already has keep their state, and one received whole stays. -/
def State.refreshInputs (s : State) (b : Bucket) : Bucket :=
  let self := (s.ctxRec b.slot).position
  let r := s.role b
  let ok := fun (p : Nat) => s.okFor b p || b.inputs.any (fun i => i.rep = p && i.full)
  let want := r.tree.inputs ok self r.level
  let gone := b.inputs.any (fun i => !want.contains (i.level, i.rep) && i.st ≠ .waiting && i.st ≠ .absent && !i.full)
  ({ b with
    lost := b.lost || (gone && !s.dark)
    inputs := want.map (fun w =>
      let i := (b.inputs.find? (fun i => i.level = w.1 && i.rep = w.2)).getD { level := w.1, rep := w.2 }
      if i.st = .waiting && s.cpLate b w.2 then { i with st := .absent } else i) } : Bucket).alone s.dark

/-! ### What the admitted lists say of a bucket (R75) -/

/-- Elements of this module's part. -/
def Desc.ownCount (d : Desc) : Nat := (List.range d.rank).foldl (fun a k => a * (d.range d.shardIndex k).2) 1

/-- Elements of a bucket, and the number of buckets of a contribution. -/
def bucketElems (imm1 : Nat) (d : Desc) : Nat := 2 ^ (20 + sl imm1 36 34) / (d.format.bits / 8)
def bucketCount (imm1 : Nat) (d : Desc) : Nat := cdiv d.ownCount (bucketElems imm1 d)

/-- Index of the first bucket of an entry in iteration i. -/
def bucketBase (imm0 i : Nat) : Int := (sl imm0 19 0 : Nat) + (i : Int) * toSigned 20 (sl imm0 39 20)

/-- Bucket j of a collective entry with its descriptors. -/
def Bucket.plan (b : Bucket) (e : Entry) (d0 d1 : Desc) (j : Nat) : Bucket :=
  let n := bucketElems e.imm1 d0
  { b with planned := true, scatter := e.op = 0x51, fmt := d0.fmt, elem0 := j * n, elems := min n (d0.ownCount - j * n)
           d0 := some d0, d1 := some d1, nfPolicy := b2n (bit e.imm1 33), latePolicy := b2n (bit e.imm1 32)
           patience := if sl e.imm1 31 0 = 0 then b.patience else sl e.imm1 31 0 }

/-- The iteration and bucket number in which an entry uses an index. -/
def usesIndex (imm0 count index : Nat) : Option (Nat × Nat) :=
  let inc := toSigned 20 (sl imm0 39 20)
  (List.range count).findSome? (fun (j : Nat) =>
    let d : Int := (index : Int) - (j : Int) - (sl imm0 19 0 : Nat)
    if d = 0 then some (0, j)
    else if inc ≠ 0 ∧ d % inc = 0 ∧ d / inc ≥ 0 then some ((d / inc).toNat, j) else none)

/-- What the admitted lists of the context say of a bucket, when one of their collective entries uses its index. -/
def State.planned (s : State) (b : Bucket) : Bucket :=
  let index := sl b.tag 23 4
  let found := (s.ctx b.slot).queues.findSome? (fun p => p.2.tree.findSome? (fun l =>
    l.entries.findSome? (fun e =>
      if e.op = 0x50 ∨ e.op = 0x51 then
        match l.descs[(e.desc[0]?).getD 0xFFFF]?, l.descs[(e.desc[1]?).getD 0xFFFF]? with
        | some d0, some d1 =>
          (usesIndex e.imm0 (bucketCount e.imm1 d0) index).map (fun u => b.plan e (d0.eff u.1) (d1.eff u.1) u.2)
        | _, _ => none
      else none)))
  found.getD b

/-- The bucket of a slot with a tag, opened if there is none; a completed one that no entry has claimed makes room. -/
def State.openBucket (s : State) (c tag : Nat) : State :=
  match s.bucket c tag with
  | some _ => s
  | none =>
    let b := s.refreshInputs (s.planned { job := (s.ctxRec c).job, tag, slot := c, patience := (s.ctxRec c).patience })
    { s with buckets := s.buckets.filter (fun x => !(x.slot = c && x.tag = tag && !x.issued)) ++ [b] }

/-- A deadline in ns of interval time (R226): none without an anchor or with unlimited patience. -/
def State.deadline (s : State) (b : Bucket) (guards : Nat) : Option Nat :=
  match b.anchor with
  | none => none
  | some a =>
    if b.patience = 0xFFFFFFFF ∨ b.pass = 2 then none else some (a + (b.patience + guards * s.fab.guard) * 1000)

def InSt.data : InSt → Bool
  | .ready x => !x.members.isEmpty
  | _ => false

def InSt.settled (x : InSt) : Bool := x ≠ .waiting

/-- An input whose data has all arrived, or that has none. -/
def Input.complete (i : Input) : Bool := !i.st.data || i.full

/-- Bytes [a, a + n) of a right group's partial have arrived. -/
def Input.holds (i : Input) (a n : Nat) : Bool := i.full || decide (a + n ≤ reachFrom i.ranges.length i.ranges a)

/-- The elements of block k of 32 of a bucket. -/
def Bucket.block (b : Bucket) (k : Nat) : List Nat := (List.range (min 32 (b.elems - 32 * k))).map (32 * k + ·)

/-- Block k of the partial can be computed (R230): every input with data has its elements and their exponent. -/
def Bucket.blockReady (b : Bucket) (k : Nat) : Bool :=
  b.inputs.all (fun i => !i.st.data || (i.holds (64 * k) (2 * (b.block k).length)
    && (b.fmt ≠ 3 || i.holds (2 * b.elems + k) 1)))

/-- What an input's part holds so far, zeros beyond. -/
def Input.padded (i : Input) (n : Nat) : Bytes := i.part ++ zeros (n - i.part.length)

/-- The partial of a subtree at this member, right at every block that is ready: own contribution, received partials, additions in
tree order. -/
def evalTree (b : Bucket) (seed self : Nat) : Tree → Nat → Option Bytes
  | .leaf p, lvl =>
    if p = self then
      match b.own with
      | .ready _ =>
        if b.pass = 2 && b.redoMask.contains self then
          some (streamRound b.fmt ((List.range b.elems).map (fun _ => Val.zero)) (fun _ => 0))
        else b.contrib
      | _ => none
    else
      match b.inputs.find? (fun i => i.level = lvl && i.rep = p) with
      | some i => if i.st.data then some (i.padded (streamLen b.fmt b.elems)) else none
      | none => none
  | .node lv l r, lvl =>
    match b.inputs.find? (fun i => i.level = lvl && i.rep = l.rep) with
    | some i => if i.st.data then some (i.padded (streamLen b.fmt b.elems)) else none
    | none =>
      match evalTree b seed self l lvl, evalTree b seed self r lv with
      | some x, some y => some (addStreams b.fmt b.elems seed lv l.rep b.tag x y)
      | some x, none => some x
      | none, y => y

/-! ### Sending results (R225, R227) -/

/-- The bucket elements, by order, that a set of positions holds (R66, R225); all for ALL_REDUCE. -/
def Bucket.held (b : Bucket) (ps : List Nat) : List Nat :=
  match b.scatter, b.d0, b.d1 with
  | true, some d0, some d1 =>
    let n := d1.len d1.shardDim / max d1.shardCount 1
    let ixs := ((d0.own.drop b.elem0).take b.elems)
    (List.range ixs.length).filter (fun k =>
      match ixs[k]? with
      | some ix => ps.contains (((ix[d1.shardDim]?).getD 0) / max n 1)
      | none => false)
  | _, _, _ => List.range b.elems

/-- Byte runs of a bucket stream for a list of elements: the elements, then the exponent bytes of their blocks. -/
def Bucket.runs (b : Bucket) (es : List Nat) : List (Nat × Nat) :=
  let el := es.flatMap (fun k => [2 * k, 2 * k + 1])
  let sd := if b.fmt = 3 then (es.filter (fun k => k % 32 = 0)).map (fun k => 2 * b.elems + k / 32) else []
  runsOf (el ++ sd)

/-- The right groups that a broadcast goes to, highest level first (R223): in place of a child that cannot be reached its children
(R229). -/
def State.children (s : State) (b : Bucket) : List (Nat × Nat) :=
  b.inputs.reverse.flatMap (fun i =>
    if s.okFor b i.rep then [(i.level, i.rep)]
    else
      match (treeOf (s.ranks b.slot 0)).place i.rep 0 [] with
      | some x => (x.1.inputs (s.okFor b) (s.ctxRec b.slot).position i.level).reverse
      | none => [])

/-- Send the result and its final summary to every right group. -/
def State.broadcast (s : State) (b : Bucket) : State :=
  let n := (s.ranks b.slot 0).length
  let t := treeOf (s.ranks b.slot 0)
  (s.children b).foldl (fun s i =>
    let group := match t.place i.2 0 [] with | some x => x.1.members | none => [i.2]
    let p : Packet := { ptype := 5, ctl := 1 + (if b.lost then 8 else 0), dst := s.rankAt b.slot i.2,
                        tag := b.tag, level := i.1 }
    let s := (b.runs (b.held group)).foldl (fun s r =>
      ((chunks 4096 (bslice b.result r.1 r.2)).foldl (fun (a : State × Nat) ch =>
        (a.1.sendFor b.slot { p with offset := a.2, payload := ch }, a.2 + ch.length)) (s, r.1)).1) s
    s.sendStream b.slot { p with ctl := p.ctl ||| 16 } 0 ((b.final.getD {}).enc n b.elems)) s

/-- Bits of an element of the bucket. -/
def Bucket.fmtBits (b : Bucket) : Nat := match b.d1 with | some d => d.format.bits | none => 16

/-- Items are complete at this receiver (R213): those whose key begins so. -/
def State.closeSeen (s : State) (key : List Nat) : State :=
  { s with fab := { s.fab with seen := s.fab.seen.map (fun (x : Seen) =>
      if x.key.take key.length = key && x.doneAt.isNone then { x with doneAt := some s.clk.now } else x) } }

/-- Every item of a bucket is complete at this receiver. -/
def State.closeItems (s : State) (b : Bucket) : State :=
  [2, 3, 4, 5, 6].foldl (fun s k => s.closeSeen [0, b.job, k, b.tag]) s

/-- The elements of the result of the entry that issued a bucket (R77). -/
def Bucket.resultSkips (b : Bucket) : List Skip :=
  match b.d1 with
  | some d1 => d1.own.map (fun ix => { base := d1.addr (d1.off ix), len := max 1 (b.fmtBits / 8) })
  | none => []

/-- The late members of a bucket in the record of its step, and what they and carried parts mean for the bit-identity flag (R48,
R49); n: the ranks of the job. -/
def Bucket.lateStats (b : Bucket) (n : Nat) (st : Stats) : Stats :=
  let f := b.final.getD {}
  let missing := if b.final.isNone then [] else (List.range n).filter (fun p => !f.members.contains p)
  { st with
    lateBuckets := st.lateBuckets + b2n (!missing.isEmpty)
    lateRanks := missing.foldl addSorted st.lateRanks
    carriedIn := st.carriedIn + b2n (!f.carried.isEmpty)
    notIdentical := st.notIdentical || !missing.isEmpty || !f.carried.isEmpty }

/-- What a bucket that ended means for the entry that issued it (R77, R227): late and skip counts, policies, the
bit-identity flag (R49); one reduced with NF set skips the updates of the entry's whole result. -/
def State.account (s : State) (b : Bucket) : State :=
  let self := (s.ctxRec b.slot).position
  let f := b.final.getD {}
  let n := (s.ranks b.slot 0).length
  let late := b.final.isSome && !f.members.contains self
  let carry := late && b.latePolicy = 0
  let skipped := f.nf || b.pass = 2
  s.modCtx b.slot (fun x =>
    ({ x with
      carries := match carry, b.contrib with
        | true, some d => { index := b.index, step := b.step, data := d } :: x.carries
        | _, _ => x.carries
      span := x.span || skipped
      skips := if f.nf && !b.lost then b.resultSkips ++ x.skips else x.skips } : Ctx).book b.step (fun st =>
        let st := b.lateStats n st
        { st with
          skipped := st.skipped + b2n skipped
          dropped := st.dropped + b2n (late && b.latePolicy = 1 && b.contrib.isSome) }))

/-- The bucket ends here (R227): its record, the module's counts and IRQ, and the account of its entry; of an entry that has ended
before it, only the late members (R50). -/
def State.closeBucket (s : State) (b : Bucket) : State :=
  let f := b.final.getD {}
  let s := (s.setBucket { b with doneAt := some s.clk.now }).closeItems b
  let s := { s with fab := { s.fab with
      nfBuckets := if f.nf then satAdd 32 s.fab.nfBuckets 1 else s.fab.nfBuckets
      lostBuckets := if b.lost then satAdd 32 s.fab.lostBuckets 1 else s.fab.lostBuckets } }
  let s := if b.lost then s.raise pgReduce 1 else s
  if b.issued then s.account b
  else if b.gone then s.modCtx b.slot (fun x => x.book b.step (b.lateStats (s.ranks b.slot 0).length))
  else s

/-! ### Settling and finishing -/

/-- Start the second pass (R232): the offenders of the mask contribute zeros and no deadline applies. -/
def Bucket.redo (b : Bucket) (mask : List Nat) : Bucket :=
  { b with
    pass := 2, redoMask := mask, pullFrom := none, sentBlk := [], streamed := false
    inputs := b.inputs.map (fun i => { i with part := [], ranges := [], got := 0, pulled := false, early := false, full := false }) }

/-- Drop what the receiver remembers of the pulls and partials of a bucket, which a second pass sends again. -/
def State.forgetData (s : State) (b : Bucket) : State :=
  { s with fab := { s.fab with seen := s.fab.seen.filter (fun x =>
      !(x.key.take 4 = [0, b.job, 3, b.tag] || x.key.take 4 = [0, b.job, 4, b.tag])) } }

/-- The partial of the whole tree at the root. -/
def State.rootSum (s : State) (b : Bucket) : Bytes :=
  let r := s.role b
  (evalTree b (s.ctxRec b.slot).jobSeed (s.ctxRec b.slot).position r.tree r.level).getD
    (streamRound b.fmt ((List.range b.elems).map (fun _ => Val.zero)) (fun _ => 0))

/-- The root sends the result. DESIGN CHOICE (log 108): an adder overflow in the second pass of ZERO_OFFENDER sets NF again (R120,
R121). -/
def State.sendResult (s : State) (b : Bucket) : State :=
  let data := s.rootSum b
  let bad := streamBad b.fmt b.elems data
  let b := { b with result := data, final := some { b.summary with nf := if b.pass = 2 then bad else b.summary.nf || bad } }
  (s.broadcast b).closeBucket b

/-- The root has every partial (R121, R232): the second pass, or the result. -/
def State.finishRoot (s : State) (b : Bucket) : State :=
  if !(b.inputs.all Input.complete) then s.setBucket b
  else if b.pass = 1 && b.nfPolicy = 1 && !b.summary.offenders.isEmpty && !b.lost then
      let n := (s.ranks b.slot 0).length
      let b' := b.redo b.summary.offenders
      let s := (s.setBucket b').forgetData b'
      let s := (s.children b).foldl (fun s i =>
        s.sendStream b.slot { ptype := 6, ctl := 16, dst := s.rankAt b.slot i.2, tag := b.tag, level := i.1 } 0
          (b.summary.enc n b.elems)) s
      if b'.inputs.all Input.complete then s.sendResult b' else s
    else s.sendResult b

/-- Part [start, fin) of a byte run. -/
def clipRun (start fin : Nat) (r : Nat × Nat) : Option (Nat × Nat) :=
  let a := max r.1 start
  let e := min (r.1 + r.2) fin
  if a < e then some (a, e - a) else none

/-- Send blocks of a member's own partial `d` to the receiver that has pulled bytes [start, fin) of it. -/
def State.sendBlocks (s : State) (b : Bucket) (level dst start fin : Nat) (ks : List Nat) (d : Bytes) : State :=
  ((b.runs (ks.flatMap b.block)).filterMap (clipRun start fin)).foldl (fun s r =>
    s.sendPart b.slot { ptype := 4, ctl := 1, dst, tag := b.tag, level } r.1 fin (bslice d r.1 r.2)) s

/-- A member streams its own partial to the receiver that has pulled it, block by block as the additions of its levels proceed
(R230). -/
def State.tryStream (s : State) (b : Bucket) : State :=
  match b.pullFrom with
  | none => s.setBucket b
  | some (dst, start, count) =>
    let self := (s.ctxRec b.slot).position
    let r := s.role b
    match evalTree b (s.ctxRec b.slot).jobSeed self r.tree r.level with
    | none => s.setBucket { b with pullFrom := none }
    | some d =>
      let fin := if count = 0 then streamLen b.fmt b.elems else start + count
      let ks := (List.range (cdiv b.elems 32)).filter (fun k => !b.sentBlk.contains k && b.blockReady k)
      let all := b.sentBlk ++ ks
      let done := decide (all.length ≥ cdiv b.elems 32)
      (s.setBucket { b with sentBlk := all, streamed := done, pullFrom := if done then none else b.pullFrom }).sendBlocks
        b r.level dst start fin ks d

/-- Send RED_READY with the group's summary to the receiver at a position: the bucket is in flight (R231). -/
def State.sendReady (s : State) (b : Bucket) (level q : Nat) : State :=
  let s := s.setBucket { b with sentTo := some q }
  let s := { s with fab := { s.fab with high := max s.fab.high s.inFlight } }
  s.sendStream b.slot { ptype := 2, ctl := 16, dst := s.rankAt b.slot q, tag := b.tag, level } 0
    (b.summary.enc (s.ranks b.slot 0).length b.elems)

/-- When every input is settled, send RED_READY to the receiver, or finish at the root (R226); with 4,096 buckets in flight it waits
(R77, R231); a receiver that changed since hears it again (R229). -/
def State.settle (s : State) (b : Bucket) : State :=
  let r := s.role b
  let settled := b.own.settled && b.inputs.all (fun i => i.st.settled)
  if b.readySent then
    match r.dest with
    | none =>
      if b.pass = 2 then s.finishRoot b
      else if settled then s.finishRoot { b with summary := { b.union with abandoned := b.summary.abandoned } }
      else s.setBucket b
    | some q => if b.sentTo = some q ∨ b.final.isSome then s.tryStream b else s.sendReady b r.level q
  else if settled && (r.dest.isNone || decide (s.inFlight < 4096)) then
    let b := { b with readySent := true, summary := { b.union with abandoned := b.summary.abandoned } }
    match r.dest with
    | none => s.finishRoot b
    | some q => s.sendReady b r.level q
  else s.setBucket b

/-- Settle the buckets of a slot after its reachable peers changed (R217, R219, R229). -/
def State.resettle (s : State) (c : Nat) : State :=
  (s.buckets.filter (fun b => b.slot = c && b.doneAt.isNone)).foldl (fun s b =>
    match s.bucket c b.tag with
    | some x => s.settle (s.refreshInputs x)
    | none => s) s

/-- A rank is gone from a job (R217, R233): unreachable for the buckets that are open; one whose data was streaming from or
through it completes with PEER_LOST, and so does one in its second pass (R232). Without light it is only late (R37). -/
def State.dropRank (s : State) (c m : Nat) : State :=
  let pos := ((s.ranks c 0).findIdx? (· = m)).getD 0xFFFF
  let from_ := fun (i : Input) => match i.st with
    | .ready x => !i.full && x.members.contains pos
    | _ => false
  let s := { s with buckets := s.buckets.map (fun (b : Bucket) =>
    if b.slot = c && b.doneAt.isNone then
      { b with
        skip := addSorted b.skip pos
        lost := b.lost || (!s.dark && b.inputs.any from_)
          || (b.pass = 2 && b.final.isNone && b.summary.members.contains pos)
        inputs := b.inputs.map (fun (i : Input) => if from_ i then { i with st := .absent } else i) }
    else b) }
  s.resettle c

/-- The own contributions a slot still owes are settled as absent (R228). -/
def State.absentOwn (s : State) (c : Nat) : State :=
  (s.buckets.filter (fun b => b.slot = c && b.doneAt.isNone)).foldl (fun s b =>
    match s.bucket c b.tag with
    | some x => if x.own = .waiting then s.settle { x with own := .absent } else s
    | none => s) s

end Sys2Proof.Machine
end

