-- ==== Sys2Proof/Machine/Contexts.lean ====
section
/-! DEFINITION. Context objects shared by many commands: sealed units, rings, fences, faults and parking, quench
(R255 to R276, R323, R343). -/

namespace Sys2Proof.Machine

def str (x : String) : Bytes := x.toList.map (fun ch => BitVec.ofNat 8 ch.toNat)

/-! ### Sealed units (R323) -/

def magicUnit : Nat := 0x5EA1CA5E

/-- The 48-byte header of a sealed unit. -/
def unitHeader (kind keyId seq len ctx : Nat) (iv : Bytes) : Bytes :=
  toLE 4 magicUnit ++ toLE 1 kind ++ toLE 1 1 ++ toLE 2 0 ++ toLE 8 keyId ++ toLE 8 seq ++ toLE 4 len
    ++ toLE 4 ctx ++ bslice iv 0 12 ++ toLE 4 0

/-- Bytes a unit occupies: header, payload, tag, padded to 16. -/
def unitLen (n : Nat) : Nat := (48 + n + 16 + 15) / 16 * 16

/-- The unit as stored, and its tag. -/
def sealUnit (key iv hdr payload : Bytes) : Bytes × Bytes :=
  let x := gcmSeal key iv hdr payload
  (bslice (hdr ++ x.1 ++ x.2) 0 (unitLen payload.length), x.2)

/-- The header of a unit of a kind has the values of R323. -/
def headOk (kind : Nat) (b : Bytes) : Bool :=
  let h := bslice b 0 48
  let n := fld h 0x18 4
  fld h 0 4 = magicUnit && fld h 4 1 = kind && fld h 5 1 = 1 && fld h 6 2 = 0 && fld h 0x2C 4 = 0
    && (if kind ≤ 3 then 1 ≤ n && n ≤ 67108864 else 16 ≤ n && n ≤ 65536)
    && (kind ≠ 1 || fld h 0x1C 4 = 0)

/-- Open a unit of a kind under a key: none when header or tag fail. -/
def openUnit (key : Bytes) (kind : Nat) (b : Bytes) : Option Bytes :=
  let h := bslice b 0 48
  let n := fld h 0x18 4
  if headOk kind b then gcmOpen key (bslice h 0x20 12) h (bslice b 48 n) (bslice b (48 + n) 16)
  else none

/-- CONTEXT of kinds 2 to 5: job number and position. -/
def State.unitCtx (s : State) (c : Nat) : Nat := (s.ctxRec c).job + 65536 * (s.ctxRec c).position

/-- The bounce-buffer key of the session bound to a slot (R342, R358). -/
def xferKey (session c : Nat) : Bytes :=
  hkdf (toBE 48 (Config.fresh 5 session)) [] (str "ULK-XFER" ++ toLE 1 c) 32

/-- The IV of the device's next unit: the engine's salt, then a count (R323). -/
def deviceIv (salt n : Nat) : Bytes := toLE 4 (Config.fresh 6 salt) ++ toLE 8 n

/-! ### Rings in either mode (R326, R343) -/

/-- A ring whose first byte lies in a host page, in bounce mode, holds sealed units. -/
def State.bounceRing (s : State) (c base : Nat) : Bool :=
  match s.translate c base false with
  | .ok x => x.host && bit (s.ctx c).hostMode 0
  | .error _ => false

/-- The SEQs of a session (R326): the last accepted, and the device's next. -/
def State.xfer (s : State) (sn : Nat) : Option Nat × Nat := tget (none, 0) s.pcie.xfers sn
def State.setXfer (s : State) (sn : Nat) (v : Option Nat × Nat) : State :=
  { s with pcie := { s.pcie with xfers := tput (none, 0) s.pcie.xfers sn v } }

/-- A unit the device reads under the session key (R326): its payload, or FAULT_TAG or FAULT_REPLAY. -/
def State.takeUnit (s : State) (c : Nat) (b : Bytes) (len : Nat) : State × Except Acc Bytes :=
  let x := s.ctx c
  let fail := fun (st : Status) =>
    ({ s with fab := { s.fab with xferFail := satAdd 32 s.fab.xferFail 1 } }, Except.error (Acc.stop st))
  match x.session with
  | none => fail .faultTag
  | some sn =>
    match openUnit (xferKey sn c) 4 b with
    | none => fail .faultTag
    | some p =>
      if p.length ≠ len ∨ fld b 0x1C 4 ≠ s.unitCtx c ∨ fld b 8 8 ≠ sn then fail .faultTag
      else
        let q := fld b 0x10 8
        if (match (s.xfer sn).1 with | some k => decide (q ≤ k) | none => false) then fail .faultReplay
        else (s.setXfer sn (some q, (s.xfer sn).2), .ok p)

/-- A unit the device writes under the session key. -/
def State.makeUnit (s : State) (c : Nat) (d : Bytes) : State × Bytes :=
  let sn := ((s.ctx c).session).getD 0
  let n := (s.xfer sn).2
  let iv := deviceIv sn n
  let h := unitHeader 5 sn n d.length (s.unitCtx c) iv
  (s.setXfer sn ((s.xfer sn).1, n + 1), (sealUnit (xferKey sn c) iv h d).1)

/-- Read ring entry k of `len` bytes. -/
def State.ringRead (s : State) (c base k len : Nat) : State × Except Acc Bytes :=
  if s.bounceRing c base then
    let s := s.meet c (base + k * (len + 64)) (len + 64)
    match s.vread c (base + k * (len + 64)) (len + 64) .ring with
    | .error e => (s, .error e)
    | .ok b => s.takeUnit c b len
  else (s.meet c (base + k * len) len, s.vread c (base + k * len) len .ring)

/-- Write ring entry k. -/
def State.ringWrite (s : State) (c base k : Nat) (d : Bytes) : State × Option Acc :=
  if s.bounceRing c base then
    match s.writeFault c (base + k * (d.length + 64)) (d.length + 64) .ring with
    | some e => (s, some e)
    | none =>
      let u := s.makeUnit c d
      u.1.vwrite c (base + k * (d.length + 64)) u.2 .ring
  else s.vwrite c (base + k * d.length) d .ring

/-! ### Fences (R259 to R262) -/

def State.fenceVa (s : State) (c h : Nat) : Nat := (s.ctxRec c).fenceTable + 16 * h

/-- A fence record as a quench of its exporter leaves it (R262). -/
def abandonedFence (b : Bytes) : Bytes := toLE 8 (2 ^ 64 - 1) ++ toLE 1 Status.abandoned.code ++ bslice b 9 7

/-- The record a handle reads: its own, or the exporter's for an imported handle (R261), which its quench has abandoned for good (R262);
none when the export entry names no exported fence. -/
def State.fenceRec (s : State) (c h : Nat) : Except Acc (Option Bytes) :=
  match s.vread c (s.fenceVa c h) 16 with
  | .error e => .error e
  | .ok b =>
    if bit (fld b 9 1) 1 then
      let e := tget 0 s.mem.exports (fld b 0x0C 2 % 4096)
      if bit e 31 then
        let c' := sl e 21 16
        let h' := sl e 15 0
        if (s.ctx c').state ≠ 1 ∧ (s.ctx c').state ≠ 4 then .ok (some (abandonedFence b))
        else
          match s.vread c' (s.fenceVa c' h') 16 with
          | .ok r => .ok (if bit (fld r 9 1) 0 then some r else none)
          | .error _ => .ok none
      else .ok none
    else .ok (some b)

/-- Whether a wait is satisfied, with the status recorded (R260). -/
def State.fenceTest (s : State) (c h v : Nat) : Except Acc (Option Status) :=
  match s.fenceRec c h with
  | .error e => .error e
  | .ok none => .ok none
  | .ok (some b) => .ok (if fld b 0 8 ≥ v then some (Status.ofCode (fld b 8 1)) else none)

/-- A fence notification: vectors 4 to 7, and to 15 on a bound slot (R245). -/
def State.fenceVector (s : State) (c v : Nat) : State :=
  if 4 ≤ v ∧ v ≤ (if s.bound c then 15 else 7) then s.slotVector c v else s

/-- Raise the vectors of importers of an exported fence (R261). -/
def State.notifyImporters (s : State) (c h : Nat) : State :=
  (List.range 64).foldl (fun s c' =>
    if (s.ctx c').state = 0 then s
    else
      (List.range (s.ctxRec c').fenceCount).foldl (fun s h' =>
        let s := s.meet c' (s.fenceVa c' h') 16
        match s.vread c' (s.fenceVa c' h') 16 with
        | .ok b =>
          let f := fld b 9 1
          let e := tget 0 s.mem.exports (fld b 0x0C 2 % 4096)
          if bit f 1 && bit f 2 && bit e 31 && sl e 21 16 = c && sl e 15 0 = h then s.fenceVector c' (fld b 0x0A 1)
          else s
        | .error _ => s) s) s

/-- Signal a fence (R85, R260, R261). -/
def State.signalFence (s : State) (c h v : Nat) (st : Status) : State × Option Acc :=
  if h = 0xFFFF ∨ h ≥ (s.ctxRec c).fenceCount then (s, none)
  else
    let s := s.meet c (s.fenceVa c h) 16
    match s.vread c (s.fenceVa c h) 16 with
    | .error e => (s, some e)
    | .ok b =>
      let f := fld b 9 1
      if bit f 1 then (s, some (.stop .faultPermission))
      else
        let old := fld b 0 8
        match s.vwrite c (s.fenceVa c h) (toLE 8 (max old v) ++ toLE 1 st.code) with
        | (s, some e) => (s, some e)
        | (s, none) =>
          let s := if (v > old || st ≠ .ok) && bit f 2 then s.fenceVector c (fld b 0x0A 1) else s
          (if bit f 0 then s.notifyImporters c h else s, none)

/-- Exported fences of a quenched context (R262). -/
def State.abandonExports (s : State) (c : Nat) : State :=
  (List.range (s.ctxRec c).fenceCount).foldl (fun s h =>
    match s.vread c (s.fenceVa c h) 16 with
    | .ok b =>
      if bit (fld b 9 1) 0 then
        match s.vwrite c (s.fenceVa c h) (toLE 8 (2 ^ 64 - 1) ++ toLE 1 Status.abandoned.code) with
        | (s, none) =>
          let s := if bit (fld b 9 1) 2 then s.fenceVector c (fld b 0x0A 1) else s
          s.notifyImporters c h
        | (s, some _) => s
      else s
    | .error _ => s) s

/-! ### Lists in progress -/

def Queue.list (q : Queue) (a : Nat) : Option AdmList := q.tree.find? (fun l => l.addr = a)

/-- The current entry of a queue: of its innermost list, or the ring entry. -/
def Queue.entry (q : Queue) : Option Entry :=
  match q.stack with
  | f :: _ => (q.list f.addr).bind (fun l => l.entries[f.pos]?)
  | [] => q.cur

/-- Iteration of the innermost loop the current entry stands in; 0 outside loops. -/
def Queue.iter (q : Queue) : Nat :=
  match q.stack with
  | f :: _ => match f.loops with | l :: _ => l.iter | [] => 0
  | [] => 0

def Entry.finally_ (e : Entry) : Bool := bit e.flags 3
def Entry.ordered (e : Entry) : Bool := bit e.flags 2
def Entry.signals (e : Entry) : Bool := bit e.flags 1
def Entry.waits (e : Entry) : Bool := bit e.flags 0
def Entry.assaySkip (e : Entry) : Bool := bit e.flags 4

/-- The entries of a list in progress that have not completed, the current one first: from its position on, and those
before it in the loops that have iterations left. -/
def Frame.remaining (f : Frame) (l : AdmList) : List Entry :=
  let lo := f.loops.foldl (fun a p => if p.iter + 1 < p.count then min a p.start else a) f.pos
  l.entries.drop f.pos ++ (l.entries.take f.pos).drop lo

/-- Signal the fences of entries that complete without running. -/
def State.signalAll (s : State) (c : Nat) (st : Status) (es : List Entry) : State :=
  es.foldl (fun s e => if e.signals then (s.signalFence c e.signalFence e.signalValue st).1 else s) s

/-! ### Page-table edits of RETIRE (R258) -/

/-- The leaf that maps an address: where its entry lies, its value, its level. -/
def State.leafAt (s : State) (va : Nat) : Nat → Nat → Option (Nat × Nat × Nat)
  | 0, table =>
    match s.pte (table + 8 * levelIndex va 0) with
    | .ok e => if bit e 0 && bit e 1 then some (table + 8 * levelIndex va 0, e, 0) else none
    | .error _ => none
  | level + 1, table =>
    let a := table + 8 * levelIndex va (level + 1)
    match s.pte a with
    | .error _ => none
    | .ok e =>
      if !bit e 0 then none
      else if level = 0 && bit e 1 then some (a, e, 1)
      else if !tableEntryOk e (level + 1) then none
      else s.leafAt va level ((e / 256) * 256)

/-- The leaves of a range of 64 KiB pages, each once. -/
def State.leavesOf (s : State) (c a n : Nat) : List (Nat × Nat × Nat × Nat) :=
  ((List.range (n / 65536)).filterMap (fun i =>
    let va := a + 65536 * i
    (s.leafAt va 4 (s.ctxRec c).ptRoot).map (fun x => (if x.2.2 = 1 then va - va % 2097152 else va, x.1, x.2.1, x.2.2)))).eraseDups

/-- A pinned access still stands: its page still maps the frame with the pin. -/
def State.pinStands (s : State) (p : Pin) : Bool :=
  match s.translate p.slot p.va false with
  | .ok x => !x.host && decide (x.addr / 65536 = p.frame) && decide (x.pin = if p.near then 1 else 2)
  | .error _ => false

/-- The first two steps of RETIRE: every leaf of the range becomes invalid with FAIL_FAST, then its translations go; the frames
that are still to be scrubbed. A range that is not aligned, or that covers part of a 2 MiB leaf, is refused (log 34). -/
def State.retireEdit (s : State) (c a n : Nat) : State × Except Status (List Nat) :=
  let ls := s.leavesOf c a n
  if a % 65536 ≠ 0 ∨ n % 65536 ≠ 0 ∨ a + n > 2 ^ 57 then (s, .error .contractUnsupported)
  else if ls.any (fun x => x.2.2.2 = 1 && (x.1 < a || x.1 + 2097152 > a + n)) then (s, .error .contractUnsupported)
  else
    let key := s.mem.tableKey
    let s := ls.foldl (fun s x => (s.physWrite key false x.2.1 (toLE 8 1024)).1) s
    let s := s.dropPins (fun p => p.slot = c && a ≤ p.va && p.va < a + n && !s.pinStands p)
    (s, .ok (ls.flatMap (fun x =>
      if bit x.2.2.1 3 then []
      else (List.range (if x.2.2.2 = 1 then 32 else 1)).map (fun i => sl x.2.2.1 41 16 + i))))

/-- Frames are scrubbed (R258, R273). -/
def State.scrubFrames (s : State) (fs : List Nat) : State := fs.foldl (fun s f => s.unback f) s

/-- RETIRE of a range, to its end. -/
def State.retire (s : State) (c a n : Nat) : State × Status :=
  match s.retireEdit c a n with
  | (s, .ok fs) => (s.scrubFrames fs, .ok)
  | (s, .error st) => (s, st)

/-! ### Vilif object references (R274) -/

/-- An entry of the object table, and its bytes: a unit of one entry in bounce mode (R341, log 118). -/
def State.objectAt (s : State) (c k : Nat) : Nat × Nat :=
  let n := if s.bounceRing c (s.ctxRec c).objectTable then 96 else 32
  ((s.ctxRec c).objectTable + n * k, n)

/-- An entry as it stands: in bounce mode the payload of the unit, the host's or the device's own. -/
def State.objectNow (s : State) (c k : Nat) : Except Acc Bytes :=
  let a := s.objectAt c k
  match s.vread c a.1 a.2 .ring with
  | .error e => .error e
  | .ok b =>
    if a.2 = 32 then .ok b
    else
      let key := xferKey ((s.ctx c).session.getD 0) c
      match openUnit key 4 b, openUnit key 5 b with
      | some p, _ => .ok p
      | none, some p => .ok p
      | none, none => .error (.stop .faultTag)

/-- The device reads an entry; in bounce mode the host's unit is checked and accepted (R326). -/
def State.objectTake (s : State) (c k : Nat) : State × Except Acc Bytes :=
  let a := s.objectAt c k
  match s.vread c a.1 a.2 .ring with
  | .error e => (s, .error e)
  | .ok b => if a.2 = 32 then (s, .ok b) else s.takeUnit c b 32

/-- The object table ends at an entry of LENGTH 0, or at 65,536 entries (log 35). A fault on it is replayable (R250, R263). -/
def readObjects (c : Nat) : Nat → State → Nat → State × Except Acc (List (Nat × Nat × Nat))
  | 0, s, _ => (s, .ok [])
  | fuel + 1, s, k =>
    match s.objectTake c k with
    | (s, .error e) => (s, .error e)
    | (s, .ok b) =>
      if fld b 8 8 = 0 then (s, .ok [])
      else
        match readObjects c fuel s (k + 1) with
        | (s, .ok l) => (s, .ok ((k, fld b 0 8, fld b 8 8) :: l))
        | (s, .error e) => (s, .error e)

/-- The host pieces of the object table that a call must read first, one at a time: up to its end, from entry k on (R253). -/
def State.tableNeeds (s : State) (c : Nat) (done : List (Nat × Nat)) : Nat → Nat → List (Nat × Nat × Nat)
  | 0, _ => []
  | fuel + 1, k =>
    let a := s.objectAt c k
    match s.hostNeeds c a.1 a.2 .ring done with
    | [] =>
      match s.objectNow c k with
      | .error _ => []
      | .ok b => if fld b 8 8 = 0 then [] else s.tableNeeds c done fuel (k + 1)
    | p :: _ => [(p.1, p.2.1, 4096 - p.2.1 % 4096)]

/-- The COUNT words of some objects can be read and written now. -/
def State.countFault (s : State) (c : Nat) (os : List ObjRef) : Option Acc :=
  os.findSome? (fun o =>
    let a := s.objectAt c o.index
    match s.objectNow c o.index with
    | .error e => some e
    | .ok _ => s.writeFault c a.1 a.2 .ring)

/-- COUNT of an object with its reference added or subtracted: a subtraction that leaves it at FREE alone releases the object. -/
def countOperand (up : Bool) : Nat := if up then 2 ^ 32 else 2 ^ 64 - 2 ^ 32
def countFrees (operand old : Nat) : Bool := operand ≠ 2 ^ 32 && (old + operand) % 2 ^ 64 = 0x80000000

/-- FetchAdd on COUNT: an AtomicOp for a host page, whose completion brings what COUNT was, or in bounce mode a unit of the device with
the new entry (log 118); else at once. A subtraction that leaves COUNT at FREE alone retires the object's range. -/
def State.addRef (s : State) (c : Nat) (o : ObjRef) (up : Bool) : State :=
  let a := s.objectAt c o.index
  match s.translate c (a.1 + 16) true with
  | .error _ => s
  | .ok x =>
    if x.host && a.2 = 32 then s.hostAdd c (a.1 + 16) x.addr (countOperand up) o.base o.len
    else
      let s := s.meet c a.1 a.2
      match s.objectNow c o.index with
      | .error _ => s
      | .ok b =>
        let old := fld b 16 8
        let new := bput b 16 (toLE 8 ((old + countOperand up) % 2 ^ 64))
        let s := if a.2 = 32 then (s.vwrite c (a.1 + 16) (bslice new 16 8)).1
          else
            let u := s.makeUnit c new
            (u.1.vwrite c a.1 u.2 .ring).1
        if countFrees (countOperand up) old then (s.retire c (fld b 0 8) (fld b 8 8)).1 else s

/-- The completion of a FetchAdd: the host holds the sum, and the device releases an object that it leaves free. -/
def State.added (s : State) (r : HostRead) (f : Nat × Nat × Nat) (old : Nat) : State :=
  let s := s.setHostBytes r.addr (toLE 8 ((old + f.1) % 2 ^ 64))
  if countFrees f.1 old && (s.ctx r.slot).record.isSome && (s.ctx r.slot).gen = r.gen then (s.retire r.slot f.2.1 f.2.2).1 else s

/-- The device references of a queue's calls are subtracted. -/
def State.dropRefs (s : State) (q : QRef) : State :=
  let mine := (s.ctx q.slot).objRefs.filter (fun r => r.queue = q.queue)
  let s := s.modCtx q.slot (fun x => { x with objRefs := x.objRefs.filter (fun r => r.queue ≠ q.queue) })
  mine.foldl (fun s r => s.addRef q.slot r false) s

/-- A work-list entry (R60). -/
def entryOf (b : Bytes) : Entry :=
  { op := fld b 0 1, flags := fld b 1 1, variant := fld b 2 2
    desc := (List.range 6).map (fun i => fld b (4 + 2 * i) 2)
    imm0 := fld b 16 8, imm1 := fld b 24 8, waitFence := fld b 32 2, signalFence := fld b 34 2, tag := fld b 36 4
    waitValue := fld b 40 8, signalValue := fld b 48 8, hint := fld b 56 2, rsvd := fld b 58 6 }

/-- The entries of a ring that it has accepted and not fetched (R256, R270). -/
def State.ringLeft (s : State) (q : QRef) : List Entry :=
  let y := s.queue q
  let n := min ((y.tail + 2 ^ 32 - y.head) % 2 ^ 32) (2 ^ y.depth)
  let from_ := if y.cur.isSome then 1 else 0
  ((List.range n).drop from_).filterMap (fun i =>
    match (s.ringRead q.slot y.base ((y.head + i) % 2 ^ y.depth) 64).2 with
    | .ok b => some (entryOf b)
    | .error _ => none)

/-- Every incomplete entry of a queue completes with ABORTED, FINALLY entries and those not yet fetched included (R59, R257, R270);
its object references go (R274). A RETIRE that has edited its tables signals no fence and scrubs nothing (R271). -/
def State.abortQueue (s : State) (q : QRef) : State :=
  let y := s.queue q
  let inner := y.stack.flatMap (fun f => match y.list f.addr with | some l => f.remaining l | none => [])
  let all := inner ++ (match y.cur with | some e => [e] | none => []) ++ s.ringLeft q
  let s := all.foldl (fun s e => (s.emit (.entry q.slot q.queue e.tag .aborted)).modCtx q.slot (fun x => x.tally 0 1)) s
  let retired := y.begun && (match y.entry with | some e => e.op = 0x0C | none => false)
  let s := s.signalAll q.slot .aborted (if retired then all.drop 1 else all)
  let s := s.dropRefs q
  s.modQueue q (fun y => { y with
    cur := none, stack := [], tree := [], phase := .idle, flight := .none, begun := false, kept := none, work := [], head := y.tail
    lastStatus := if all.isEmpty then y.lastStatus else Status.aborted.code })

/-! ### Tracked sequences (R195) -/

/-- A tracking slot is free for a context. -/
def State.seqRoom (s : State) (c : Nat) : Bool :=
  decide (s.mem.seqs.length < 64) && decide ((s.mem.seqs.filter (fun x => x.slot = c)).length < s.mem.seqPerCtx)

/-- A released slot goes to the next untracked sequence in order of admission. -/
def State.grantSeqs (s : State) : State :=
  s.mem.seqWait.foldl (fun s p =>
    if s.seqRoom p.1 then
      { s with mem := { s.mem with
        seqs := s.mem.seqs ++ [{ slot := p.1, tensor := p.2 }], seqWait := s.mem.seqWait.filter (· ≠ p) } }
    else s) s

/-- The slots of sequences are released. -/
def State.dropSeqs (s : State) (gone : Seq → Bool) : State :=
  State.grantSeqs { s with mem := { s.mem with seqs := s.mem.seqs.filter (fun x => !gone x) } }

/-! ### Quench (R269 to R271, R190, R195, R322, R427) -/

/-- The crucible parts of a core zeroed (R151). -/
def Core.zeroed (k : Core) : Core := { k with holds := none, cache := {}, words := {}, ftq := [], loads := [] }

/-- Take a context off a core: it stops, discards and zeroes itself (R151); a sprig returns the core. -/
def Core.freed (k : Core) : Core :=
  { k.zeroed with st := if k.st = 2 then 1 else if k.st = 3 then 4 else k.st
                  ctx := none, sprig := none, preempt := false }

def Load.bytes (l : Load) : Nat := l.panels + l.sums + l.accs

/-- The working set of a core in KiB (R137): the finished-tile queue and the reserve, always present, and its work. -/
def Core.workKib (k : Core) : Nat := 776 + cdiv (k.loads.foldl (fun a l => a + l.bytes) 0) 1024

/-- Core k's part of a save area: 2,124 KiB each above the first 64 KiB (log 97). -/
def State.savePart (s : State) (c k : Nat) : Nat := (s.ctxRec c).saveArea + 65536 + 2174976 * k

/-- Bytes a pre-emption saves of a core (R150, R168): running sums, parked accumulators, the state region, and 12 KiB of positions
and sequencer state (log 97). -/
def Core.saveBytes (k : Core) : Nat := k.loads.foldl (fun a l => a + l.sums + l.accs) (65536 + 12288)

/-- A core has something of its context to save. -/
def Core.busy (k : Core) : Bool := !k.loads.isEmpty || k.cache.state.isSome

/-- What a core saves of its work: panels, the transposing buffer and the working region are discarded (R150, R168). -/
def Core.keeps (x : Core) (k : Nat) : Saved :=
  { core := k, loads := x.loads, state := x.cache.state, words := { x.words with buffer := none } }

/-- A core saves what it holds of slot c to that context's save area, then zeroes itself (R150, R151, R168); the bytes saved are
free (log 97). A fault on the save area makes a quench of c due (R250). -/
def State.saveWork (s : State) (k c : Nat) : State :=
  let x := s.core k
  let s := s.setCore k x.zeroed
  if x.holds ≠ some c || !x.busy then s
  else
    let v := s.draw
    match v.2.vwrite c (s.savePart c k) (toLE x.saveBytes v.1) with
    | (s, none) => s.modCtx c (fun y => { y with saved := y.saved ++ [x.keeps k] })
    | (s, some _) => s.modCtx c (fun y => { y with owes := true })

/-- A core with what was saved of slot c; `fill`, `buf`: the draws of what is fetched again. -/
def Core.taking (y : Core) (c : Nat) (x : Saved) (fill buf : Nat) : Core :=
  { y.zeroed with
    holds := some c, loads := x.loads
    cache := { state := x.state, working := some fill, owner := (x.loads.head?).map (·.q) }
    words := { x.words with buffer := some buf } }

/-- Core k becomes y, read from the save area of slot c at an address; a fault on the save area makes a quench of c due (R250). -/
def State.readSave (s : State) (k c va : Nat) (y : Core) : State :=
  let s := s.meet c va y.saveBytes
  match s.vread c va y.saveBytes with
  | .ok _ => s.setCore k { y with peak := max y.peak y.workKib }
  | .error _ => s.modCtx c (fun z => { z with owes := true })

/-- A core takes in what was saved of a slot; its panels, transposing buffer and working region are fetched again (R150, R168: free
words, log 96). -/
def State.takeBack (s : State) (k c : Nat) (x : Saved) : State :=
  let a := s.draw
  let b := a.2.draw
  b.2.readSave k c (s.savePart c x.core) ((b.2.core k).taking c x a.1 b.1)

/-- A core takes in the saved state of a context, zeroed before (R151, R283): the oldest that is saved. -/
def State.restoreWork (s : State) (k c : Nat) : State :=
  match (s.ctx c).saved with
  | [] => s.setCore k { (s.core k).zeroed with holds := some c, peak := max (s.core k).peak 776 }
  | x :: r => (s.modCtx c (fun z => { z with saved := r })).takeBack k c x

/-- End the sprig on a core (R293): its time is counted, its state saved, the core returns to its owner. -/
def State.endSprig (s : State) (k : Nat) : State :=
  match (s.core k).sprig with
  | none => s
  | some c =>
    let us := (s.clk.now - (s.core k).sprigAt) / 1000
    let s := s.modCtx c (fun x => { x with sprigUs := x.sprigUs + us, sprigRound := x.sprigRound + us })
    let s := s.saveWork k c
    let s := s.setCore k { s.core k with sprig := none }
    match (s.core k).ctx with
    | some d => s.restoreWork k d
    | none => s

/-- A sprig of slot c ends on a core without saving (R299): its time counts (R293, R348). -/
def State.cutSprig (s : State) (k c : Nat) : State :=
  let us := (s.clk.now - (s.core k).sprigAt) / 1000
  let s := s.modCtx c (fun x => { x with sprigUs := x.sprigUs + us, sprigRound := x.sprigRound + us })
  s.setCore k { (s.core k).zeroed with sprig := none }

/-- A core of a context that ends is free; one that was draining is drained now (R154, R155), and its test begins when a sweep has
come to it (R395). -/
def State.freeCore (s : State) (k : Nat) : State :=
  let x := s.core k
  let test := s.ras.sweep && s.ras.sweepCore = k
  if x.st = 3 then
    (s.setCore k { x.freed with st := if test then 5 else 4, selftest := test }).raise (pgCore k) 2
  else s.setCore k x.freed

/-- The cores of slot c stop and zero themselves; sprigs they run for others are saved, and sprigs of c end, their cores going back to
the donors' work (R270, R293, R299). -/
def State.freeCores (s : State) (c : Nat) : State :=
  (s.cores.map (·.1)).foldl (fun s k =>
    if (s.core k).ctx = some c then
      let s := match (s.core k).sprig with
        | some d => if d = c then s.cutSprig k c else s.endSprig k
        | none => s
      s.freeCore k
    else if (s.core k).sprig = some c then
      match (s.core k).ctx with
      | some d => (s.cutSprig k c).restoreWork k d
      | none => s.cutSprig k c
    else s) s.charge

/-- Canonical form again after a change of every core. -/
def State.tidyCores (s : State) : State :=
  { s with cores := s.cores.filter (fun p => decide (p.2 ≠ {})) }

/-- ABORT to every other member of group 0 (R216), with the old and the new generation. -/
def State.sendAborts (s : State) (c : Nat) : State :=
  let x := s.ctx c
  let d := toLE 1 x.gen ++ toLE 1 ((x.gen + 1) % 256) ++ toLE 2 (s.ctxRec c).position ++ toLE 4 0
  ((s.ranks c 0).filter (fun m => m ≠ s.fab.moduleId)).foldl (fun s m =>
    let v := s.draw
    v.2.sendFor c { ptype := 7, ctl := 0, dst := m, tag := v.1 % 2 ^ 48, payload := d }) s

/-- Work-list breakpoints of a quenched slot lose ENABLE (R427). -/
def State.clearBreaks (s : State) (c : Nat) : State :=
  [0, 1, 2, 3].foldl (fun s n =>
    let b := s.wl n
    let b := if (match b.held with | some q => decide (q.slot = c) | none => false) then { b with held := none } else b
    s.setWl n (if b.slot = c then { b with enable := false, next := none } else b)) s

/-- Release every halted control processor and clear every CP_BP enable (R425). -/
def State.releaseCps (s : State) : State :=
  let m := s.dbg.cps.map (fun (p : Nat × Cp) =>
    (p.1, { p.2 with halt := false, pc := 0, words := [], bps := p.2.bps.map (fun b => b - b % 2) }))
  { s with dbg := { s.dbg with cps := m.filter (fun p => decide (p.2 ≠ {})) } }

/-- The start of a quench (R270): nothing further issues, the generation advances, ABORT is sent, the cores stop,
parked work is discarded, every incomplete entry completes with ABORTED, exported fences are abandoned. -/
def State.quenchOne (s : State) (c : Nat) : State :=
  let x := s.ctx c
  if x.state = 1 ∨ x.state = 4 then
    let s := { s with pcie := { s.pcie with waiting := s.pcie.waiting.filter (fun r => r.slot ≠ c) } }
    let s := s.releaseCps
    let s := s.sendAborts c
    let s := s.modCtx c (fun x => { x with
      state := 2, gen := (x.gen + 1) % 256, parked := [], overflow := false, saved := [], owes := false
      carries := [], segs := [], resegs := [], gathers := [], msgs := [], reload := none, invalGo := false, drained := false })
    let s := (s.freeCores c).tidyCores
    let s := s.absentOwn c
    let s := (List.range 16).foldl (fun s q => s.abortQueue ⟨c, q⟩) s
    let s := s.abandonExports c
    let s := s.clearBreaks c
    let s := { s with mem := { s.mem with
        annealQ := s.mem.annealQ.filter (fun a => a.1 ≠ c)
        seqWait := s.mem.seqWait.filter (fun p => p.1 ≠ c) } }
    s.dropSeqs (fun x => x.slot = c)
  else s

/-- Contexts whose save area has faulted are quenched (R250, R269). -/
def State.quenchOwed : Nat → State → State
  | 0, s => s
  | n + 1, s =>
    match (List.range 64).find? (fun c => (s.ctx c).owes && ((s.ctx c).state = 1 || (s.ctx c).state = 4)) with
    | some c => State.quenchOwed n (s.quenchOne c)
    | none => s

def State.settleOwed (s : State) : State := State.quenchOwed 64 s

/-- A quench, and those it makes due. -/
def State.quench (s : State) (c : Nat) : State := (s.quenchOne c).settleOwed

/-- Quench every context (R25, R405). -/
def State.quenchAll (s : State) : State := (List.range 64).foldl (fun s c => s.quench c) s

/-- The key slots a context holds, those its anneals fill among them (R303, R320, R322). -/
def State.heldSlots (s : State) (c : Nat) : List Nat :=
  ((s.ctx c).ranges.map (·.slot) ++ (s.mem.anneals.filter (fun a => a.slot = c)).map (·.newSlot)).filter (· ≠ 0)

/-- Zero the keys of the slots a context holds (R304). -/
def State.zeroSlots (s : State) (c : Nat) : State :=
  { s with mem := { s.mem with keySlots := s.mem.keySlots.map (fun (p : Nat × Nat) => if (s.heldSlots c).contains p.1 then (p.1, 0) else p) } }

/-! ### Faults (R263 to R265) -/

def Parked.bytes (p : Parked) (gen : Nat) : Bytes :=
  toLE 8 (p.va % 2 ^ 57) ++ toLE 4 p.tag ++ toLE 2 p.rid ++ toLE 1 p.source ++ toLE 1 p.reason ++ toLE 1 p.queue
    ++ toLE 1 gen ++ toLE 1 (b2n p.replayable + 2 * b2n p.write) ++ zeros 5 ++ toLE 8 p.time

/-- Room in the fault ring (R264). -/
def State.faultRoom (s : State) (c : Nat) : Bool :=
  let x := s.ctx c
  (x.produced + 65536 - x.consumed) % 65536 < (s.ctxRec c).faultEntries

/-- Write the record of one fault; a fault on the ring quenches the context (R250). -/
def State.faultRecord (s : State) (c : Nat) (p : Parked) : State :=
  let x := s.ctx c
  let r := s.ctxRec c
  match s.ringWrite c r.faultRing (x.produced % max r.faultEntries 1) (p.bytes x.gen) with
  | (s, some _) => s.quench c
  | (s, none) =>
    (s.modCtx c (fun x => ({ x with produced := (x.produced + 1) % 65536 }).tally 6 1)).raise (pgCtx c) 1

/-- Write the records still owed, in order, while there is room (R264). -/
def State.flushFaults : Nat → State → Nat → State
  | 0, s, _ => s
  | fuel + 1, s, c =>
    match (s.ctx c).parked.find? (fun p => !p.written) with
    | none => s.modCtx c (fun x => { x with overflow := false })
    | some p =>
      if (s.ctx c).state ≠ 1 ∧ (s.ctx c).state ≠ 4 then s
      else if s.faultRoom c then
        let s := s.faultRecord c p
        let s := s.modCtx c (fun x => { x with
          parked := (x.parked.map (fun y => if y = p then { y with written := true } else y)).filter
            (fun y => y.replayable || !y.written) })
        flushFaults fuel s c
      else s.modCtx c (fun x => { x with overflow := true })

def State.flush (s : State) (c : Nat) : State := s.flushFaults ((s.ctx c).parked.length + 1) c

/-- A fault of a context's access: it takes or shares a restart identifier by 64 KiB page, and its record is
written when there is room (R263, R264). Gives the identifier. -/
def State.fault (s : State) (c queue tag source va reason : Nat) (write replayable : Bool) : State × Nat :=
  let x := s.ctx c
  match x.parked.find? (fun p => p.replayable && replayable && p.page = va / 65536) with
  | some p => (s, p.rid)
  | none =>
    let rid := x.nextRid % 65535
    let v := if replayable then (rid, s) else (s.draw.1 % 65535, s.draw.2)
    let p : Parked := { rid := v.1, page := va / 65536, va, tag, source, reason, queue, write, replayable,
                        written := false, time := s.clk.time }
    let s := v.2.modCtx c (fun x => { x with
      parked := x.parked ++ [p], nextRid := if replayable then x.nextRid + 1 else x.nextRid })
    let op := match ((s.ctx c).queue queue).entry with | some e => e.op | none => 0x100
    let s := if replayable then s.perf 0x09 c op tag 1 else s
    (s.flush c, rid)

/-- Sprigs of a context that has faulted end at once (R294). -/
def State.endSprigsOf (s : State) (c : Nat) : State :=
  State.settleOwed ((s.cores.map (·.1)).foldl (fun s k => if (s.core k).sprig = some c then s.endSprig k else s) s)

/-- An access of a queue's current entry failed: a replayable fault parks the entry, any other gives it a status
(R263, R315, R316, R318). -/
def State.failEntry (s : State) (q : QRef) (tag source : Nat) (back : Back) (e : Acc) : State :=
  let s := s.noteAcc (some q.slot) e
  match e with
  | .fault va reason w replayable =>
    let s := s.endSprigsOf q.slot
    if (s.ctx q.slot).state ≠ 1 ∧ (s.ctx q.slot).state ≠ 4 then s
    else if replayable then
      let r := s.fault q.slot q.queue tag source va reason w true
      if (r.1.ctx q.slot).state = 1 ∨ (r.1.ctx q.slot).state = 4 then
        r.1.modQueue q (fun y => { y with phase := .parked r.2 back })
      else r.1
    else
      let r := s.fault q.slot q.queue tag source va reason w false
      r.1.modQueue q (fun y => if y.entry.isNone ∧ y.cur.isNone then y else { y with phase := .done .faultUnmapped })
  | e => s.modQueue q (fun y => { y with phase := .done e.status })

/-- Stop a queue with an error reason and raise vector 1 (R256, R257). -/
def State.queueError (s : State) (q : QRef) (reason : Nat) : State :=
  (s.modQueue q (fun y => { y with error := true, err := reason })).raise (pgCtx q.slot) 2

/-- The current entry of a queue completes with a status (its completion is ENTRY_COMPLETE). -/
def State.finishEntry (s : State) (q : QRef) (st : Status) : State :=
  s.modQueue q (fun y => { y with phase := .done st, flight := .none })

end Sys2Proof.Machine
end

