-- ==== Sys2Proof/Machine/Admission.lean ====
section
/-! DEFINITION. Admission of a call tree: reading lists, the checks of entries, descriptors and micro-op lists, the
bucket indices of a tree, the charter (R51 to R57, R60 to R66, R69 to R78, R87, R93, R94, R110 to R115, R139, R146,
R149, R159 to R163, R172, R192, R194, R235, R335, R434 to R436). -/

namespace Sys2Proof.Machine

/-! ### Layouts (R60, R63, R158) -/

/-- A descriptor; in a Hualum 2.x list bytes 0x68 to 0x7F read as zero (R54). -/
def descOf (old : Bool) (b : Bytes) : Desc :=
  let b := if old then bslice b 0 0x68 else b
  { base := fld b 0 8, side := fld b 8 8, tensorId := fld b 0x10 4, fmt := fld b 0x14 1, rank := fld b 0x15 1
    cls := fld b 0x16 1, scaleSlot := fld b 0x18 2, shardDim := fld b 0x1A 1, shardCount := fld b 0x1C 2
    shardIndex := fld b 0x1E 2
    dims := (List.range 6).map (fun i => fld b (0x20 + 4 * i) 4)
    strides := (List.range 6).map (fun i => toSigned 64 (fld b (0x38 + 8 * i) 8))
    group := fld b 0x68 2, versionVa := fld b 0x70 8, loopStride := toSigned 64 (fld b 0x78 8)
    rsvd := fld b 0x17 1 + fld b 0x1B 1 + fld b 0x6A 6 }

def microOf (v : Nat) : MicroOp :=
  { op := sl v 63 56, dst := sl v 55 52, a := sl v 51 46, b := sl v 45 40, c := sl v 39 34, rsvd := sl v 33 27
    md := sl v 26 24, imm := sl v 23 0 }

/-- A tree is refused (R52, R57). -/
def refuse {α : Type} : Except Acc α := .error (.stop .contractUnsupported)

def check (b : Bool) : Except Acc Unit := if b then .ok () else refuse

/-! ### Descriptors (R63, R64, R70, R93, R94) -/

/-- A signed number whose bits [63:48] equal bit 47. -/
def fits48 (v : Int) : Bool := decide (-(2 ^ 47) ≤ v ∧ v < 2 ^ 47)

/-- Offsets, in elements, of the lowest and the highest element of this module's shard. -/
def Desc.reach (d : Desc) : Int × Int :=
  (List.range d.rank).foldl (fun (a : Int × Int) k =>
    let x : Int := (((d.range d.shardIndex k).2 : Nat) - 1 : Int) * d.stride k
    (a.1 + min 0 x, a.2 + max 0 x)) (0, 0)

/-- BASE, SIDE and VERSION_VA in iteration i, before any address is cut (R69). -/
def Desc.shift (d : Desc) (i : Nat) : Int × Int × Int :=
  ((d.base : Int) + (i : Int) * d.loopStride * (d.format.bits : Int) / 8,
   (d.side : Int) + (i : Int) * d.loopStride / 32,
   (d.versionVa : Int) + 4 * (i : Int) * d.loopStride.sign)

/-- The byte intervals (first, last) that a descriptor reaches in iteration i: elements, side array, version word. -/
def Desc.spans (d : Desc) (i : Nat) : List (Int × Int) :=
  let r := d.reach
  let x := d.shift i
  let bits : Int := d.format.bits
  [(x.1 + r.1 * bits / 8, x.1 + (r.2 * bits + bits - 1) / 8)]
    ++ (if d.format.block then [(x.2.1 + r.1 / 32, x.2.1 + r.2 / 32)] else [])
    ++ (if d.versionVa = 0 then [] else [(x.2.2, x.2.2 + 3)])

/-- The tensor of a descriptor and the bytes of this module's elements of it (first, last), as the iteration has them. -/
def Desc.held (d : Desc) : Nat × Int × Int :=
  let p := ((d.spans 0)[0]?).getD (0, 0)
  (d.tensorId, p.1, p.2)

/-- Every byte of iteration i lies at addresses 0 to 2^57 − 1. -/
def Desc.fitsAt (d : Desc) (i : Nat) : Bool := (d.spans i).all (fun p => decide (0 ≤ p.1 ∧ p.2 < 2 ^ 57))

/-- The conditions of R64 that do not depend on the iteration. -/
def Desc.valid (d : Desc) : Bool :=
  let low := List.range d.rank
  let high := (List.range 6).drop d.rank
  decide (1 ≤ d.rank ∧ d.rank ≤ 6) && low.all (fun k => d.dim k ≥ 1) && high.all (fun k => d.dim k = 0)
    && (Fmt.ofCode d.fmt).isSome && d.rsvd = 0
    && sl d.cls 3 0 ≤ 5 && sl d.cls 5 4 = 0 && !bit d.cls 7
    && decide (d.base < 2 ^ 57 ∧ d.side < 2 ^ 57 ∧ d.versionVa < 2 ^ 57)
    && d.strides.all fits48 && fits48 d.loopStride
    && (if d.format.block then
          d.stride 0 = 1 && d.dim 0 % 32 = 0 && [1, 2, 3, 4, 5].all (fun k => d.stride k % 32 = 0) && d.side ≠ 0
            && d.loopStride % 32 = 0
        else d.side = 0)
    && (d.format ≠ .mxfp4 || d.base % 16 = 0)
    && (if d.sharded then
          d.shardDim < d.rank && decide (1 ≤ d.shardCount ∧ d.shardCount ≤ 16384) && d.shardIndex < d.shardCount
            && d.dim d.shardDim % d.shardCount = 0
            && (!d.format.block || d.shardDim ≠ 0 || d.dim 0 / d.shardCount % 32 = 0)
        else d.versionVa = 0)
    && d.count ≤ 2 ^ 48

/-- Whether two descriptors agree in RANK, dimensions and sharding (R163, R436). -/
def Desc.same (a b : Desc) : Bool :=
  a.rank = b.rank && a.dims = b.dims && a.shardDim = b.shardDim && a.shardCount = b.shardCount && a.shardIndex = b.shardIndex

/-- Dimensions 0 to 5, 1 above RANK. -/
def Desc.lens (d : Desc) : List Nat := (List.range 6).map d.len

/-- Dimensions k to 5. -/
def Desc.from (d : Desc) (k : Nat) : List Nat := d.lens.drop k

/-- Indices along dimension k that this module holds: first, count. -/
def Desc.span (d : Desc) (k : Nat) : Nat × Nat := d.range d.shardIndex k

def within (a b : Nat × Nat) : Bool := b.1 ≤ a.1 && a.1 + a.2 ≤ b.1 + b.2

/-- Input `i` holds along ki what the output's shard needs along ko (R435). -/
def need (i : Desc) (ki : Nat) (o : Desc) (ko : Nat) : Bool := within (o.span ko) (i.span ki)

def needAll (i o : Desc) (ks : List Nat) : Bool := ks.all (fun k => need i k o k)

/-- Input `i` holds all of dimension k, which the operator sums (R435). -/
def whole (i : Desc) (k : Nat) : Bool := within (0, i.len k) (i.span k)

/-! ### Iterations (R56) -/

/-- The iterations a check is made for: of the innermost loop, or 0 outside loops and where its count is 0. -/
def iters (n : Option Nat) : List Nat :=
  match n with
  | none => [0]
  | some n => List.range (max n 1)

/-- Iterations that decide a check that is linear in the iteration. -/
def ends (n : Option Nat) : List Nat :=
  match n with
  | none => [0]
  | some n => [0, min 1 (n - 1), n - 1]

/-- The iterations in which a descriptor differs. -/
def Desc.iters (d : Desc) (n : Option Nat) : List Nat := if d.loopStride = 0 then [0] else Machine.iters n

/-- Bytes of each key range (by index) that an interval touches (R302): 0 is what entries 1 to 7 leave. -/
def touched (rs : List KeyRange) (lo hi : Nat) : List Nat :=
  let hits := ([1, 2, 3, 4, 5, 6, 7].map (fun i =>
    match rs[i]? with
    | some r =>
      let a := max lo r.base
      let b := min (hi + 1) (r.base + r.length)
      (i, b - a)
    | none => (i, 0))).filter (fun p => p.2 > 0)
  let rest := hi + 1 - lo - hits.foldl (fun a p => a + p.2) 0
  (if rest > 0 then [0] else []) ++ hits.map (·.1)

/-- The checks of one named descriptor: R64, its scale slot (R111 to R113, R115), its version word (R192). -/
def State.admitDesc (s : State) (c : Nat) (d : Desc) (n : Option Nat) : Except Acc Unit := do
  check (d.valid && (ends n).all d.fitsAt)
  if d.scaleSlot ≠ 0xFFFF then
    check ((s.ctxRec c).scaleTable ≠ 0 && d.scaleSlot < 16384)
    let x ← s.readSlot c d.scaleSlot
    check (bit x.flags 0 && x.fmt = d.fmt && d.format.scaled)
    if x.adjVa ≠ 0 then
      let tiles := cdiv (d.len 0) 128 * (if d.rank ≤ 1 then 1 else cdiv (d.len 1) 128) * (d.from 2).foldl (· * ·) 1
      check (tiles ≤ x.tiles)
      check ((ends n).all (fun i =>
        let b := (d.shift i).1
        if x.item = 0 then b = x.origin
        else decide (b ≥ x.origin ∧ (b - x.origin) % x.item = 0 ∧ (b - x.origin) / x.item < x.items)))
      check (d.format = .i8 || !d.sharded || d.shardDim ≥ 2 || d.len d.shardDim / d.shardCount % 128 = 0)
  if d.versionVa ≠ 0 then
    let rs := (s.ctx c).ranges
    let r := rangeOf rs d.base
    check (d.versionVa % 4 = 0 && ((rs[r]?).getD {}).replay = 1 && (d.iters n).all (fun i =>
      rangeOf rs (d.shift i).1.toNat = r && rangeOf rs (d.shift i).2.2.toNat = r))

/-! ### Micro-op lists (R158 to R162) -/

/-- How many of the sources A, B, C an operation reads (R160). -/
def microArity (op : Nat) : Option Nat :=
  match op with
  | 0x01 | 0x08 | 0x09 | 0x0A | 0x0B | 0x0C | 0x0D | 0x0E | 0x0F | 0x30 => some 1
  | 0x02 | 0x03 | 0x04 | 0x06 | 0x07 | 0x10 | 0x21 => some 2
  | 0x05 | 0x11 => some 3
  | 0x20 => some 0
  | _ => none

def MicroOp.valid (m : MicroOp) : Bool :=
  match microArity m.op with
  | none => false
  | some n =>
    (if n ≥ 1 then m.a ≤ 0x15 else m.a = 0) && (if n ≥ 2 then m.b ≤ 0x15 else m.b = 0)
      && (if n ≥ 3 then m.c ≤ 0x15 else m.c = 0) && m.rsvd = 0
      && (if m.op = 0x10 then m.md ≤ 5 else if m.op = 0x30 then m.md ≤ 3 && m.dst = 0 else m.md = 0)

/-- Each named output is written by exactly one OUT, and no OUT names another. -/
def microOuts (ops : List MicroOp) (outs : List Nat) : Bool :=
  let os := (ops.filter (fun m => m.op = 0x30)).map (·.md)
  os.all outs.contains && outs.all (fun o => os.count o = 1)

/-- A micro-op list read and validated; in a charter-bound context its digest is checked (R162, R335). -/
def State.admitMicro (s : State) (c addr len most : Nat) (outs : List Nat) : Except Acc (Nat × List MicroOp) := do
  check (addr % 8 = 0 && 1 ≤ len && len ≤ most)
  let b ← s.vread c addr (8 * len)
  let ops := (List.range len).map (fun i => microOf (fld b (8 * i) 8))
  check (ops.all MicroOp.valid && microOuts ops outs)
  match (s.ctx c).charter with
  | some ch =>
    if ch.digests.any (fun x => x.kind = 1 && x.digest = sha384n b) then .ok (addr, ops)
    else .error (.stop .charterDenied)
  | none => .ok (addr, ops)

/-! ### Operators (R71, R434) -/

/-- The positions of an operator: required, optional. None for a code that is no operator. -/
def positions (op variant : Nat) : Option (List Nat × List Nat) :=
  match op with
  | 0x00 | 0x01 | 0x02 | 0x03 | 0x04 | 0x05 | 0x06 | 0x07 | 0x08 | 0x09 | 0x0A | 0x0C | 0x62 | 0x72 => some ([], [])
  | 0x0B => some ([], [0])
  | 0x10 => some ([0, 1, 2], [3])
  | 0x11 => some (if bit variant 1 then ([0, 1, 2, 4], [3]) else ([0, 1, 2, 3, 4], []))
  | 0x12 => some ([0, 1, 2, 3], [])
  | 0x13 => some (if bit variant 1 then ([0, 1, 2, 4, 5], [3]) else ([0, 1, 2, 3, 4, 5], []))
  | 0x20 => some ([0, 1, 2], [])
  | 0x21 => some ([0, 1, 2, 3, 4], [])
  | 0x22 => some ([0, 1, 2, 3], [4])
  | 0x23 => some ([0, 1, 2, 3, 4, 5], [])
  | 0x24 => some ([0, 1, 2, 3], [])
  | 0x30 => some ([], [0, 1, 2, 3, 4, 5])
  | 0x31 | 0x32 | 0x33 => some ([0, 1], [])
  | 0x40 | 0x41 => some ([0, 1, 2], [])
  | 0x42 => some ([0, 1, 2, 3], [])
  | 0x43 => some (if bit variant 0 then ([0, 1, 2, 3, 4, 5], []) else ([0, 1, 2, 3], []))
  | 0x50 | 0x51 | 0x52 => some ([0, 1], [])
  | 0x53 => some (if variant = 0 then ([0, 1, 3], [2, 4]) else ([0, 1, 3], []))
  | 0x54 | 0x55 | 0x61 => some ([0], [])
  | 0x60 => some ([0, 1], [])
  | 0x70 => some ([0, 1, 2, 3, 4], [])
  | 0x71 => some ([0, 1, 3, 4], [])
  | 0x80 | 0x83 | 0x84 => some ([0], [])
  | 0x81 | 0x82 => some ([0], [1, 2, 3, 4, 5])
  | _ => none

/-- Positions that an operator writes (R71). -/
def outputs (op variant : Nat) : List Nat :=
  match op with
  | 0x10 | 0x12 => [2]
  | 0x11 | 0x13 => [3, 4]
  | 0x20 => [1, 2]
  | 0x21 => [4]
  | 0x22 | 0x24 => [2, 3]
  | 0x23 => [4, 5]
  | 0x30 => [3, 4, 5]
  | 0x31 | 0x32 | 0x33 | 0x50 | 0x51 | 0x52 | 0x60 => [1]
  | 0x40 => if bit variant 0 then [0] else [2]
  | 0x41 => if bit variant 0 then [0] else [1, 2]
  | 0x42 => if bit variant 0 then [0] else [2, 3]
  | 0x43 => if bit variant 0 then [4, 5] else [3]
  | 0x53 => if variant = 0 then [1, 3, 4] else [1]
  | 0x55 | 0x80 | 0x82 => [0]
  | 0x70 => [0, 1, 2, 3]
  | 0x71 => [0, 1, 3]
  | _ => []

/-- Operand positions that hold X16 (R65). -/
def x16At (op : Nat) : List Nat :=
  match op with
  | 0x12 => [3]
  | 0x13 => [5]
  | 0x24 | 0x40 | 0x41 | 0x43 => [1]
  | 0x42 => [1, 3]
  | 0x53 => [2, 3, 4]
  | 0x80 => [0]
  | _ => []

/-- Formats that a position fixes: statistics BF16, gates and hyperparameters B16, optimiser operands (R71). -/
def fixedFmt (op k : Nat) : Option Fmt :=
  match op, k with
  | 0x20, 2 | 0x21, 3 | 0x22, 3 | 0x23, 3 => some .bf16
  | 0x41, 2 | 0x43, 2 | 0x43, 4 | 0x70, 4 | 0x71, 4 => some .b16
  | 0x70, 0 | 0x70, 3 => some .p16
  | 0x70, 1 | 0x71, 1 => some .s8e4
  | 0x70, 2 => some .l8
  | _, _ => none

/-- Operand and output formats of bound class PROD (R71). -/
def prodOk (a b o : Fmt) : Bool :=
  if a = .i8 || b = .i8 then a = b && (o = .i8 || o = .b16)
  else
    let input := fun (f : Fmt) => f ≠ .l8 && f ≠ .x16
    input a && input b && o ≠ .l8 && o ≠ .x16 && o ≠ .mxfp4 && o ≠ .i8

/-- Opcodes and formats that a 2.x list may not use (R54). -/
def oldRefused (op : Nat) : Bool := [0x11, 0x13, 0x21, 0x23, 0x62, 0x80, 0x81, 0x82, 0x83].contains op
def oldFmtRefused (f : Nat) : Bool := [0x03, 0x12, 0x13, 0x30].contains f

/-- The largest summed dimension (R72, R139), row count (R149) and sequence (R194). -/
def maxSum : Nat := 1048576

/-! ### Shapes by operator -/

/-- MATMUL (R72, R435). -/
def shapeMatmul (a b o : Desc) (bias : Option Desc) : Bool :=
  a.rank ≥ 2 && b.rank ≥ 2 && o.rank ≥ 2
    && b.len 1 = a.len 0 && o.len 0 = b.len 0 && o.len 1 = a.len 1 && a.len 0 ≤ maxSum
    && a.from 2 = o.from 2 && (b.rank = 2 || b.from 2 = o.from 2)
    && whole a 0 && whole b 1 && needAll a o [1, 2, 3, 4, 5] && need b 0 o 0
    && (b.rank = 2 || needAll b o [2, 3, 4, 5])
    && (match bias with
      | none => true
      | some d => d.rank = 1 && d.dim 0 = o.len 0 && d.format ≠ .x16
          && (!d.sharded || (o.shardDim = 0 && d.shardCount = o.shardCount && d.shardIndex = o.shardIndex)))
    && prodOk a.format b.format o.format

/-- The counts of GROUPED_MATMUL and GROUPED_BWD_PAIR: one per group (R71). -/
def shapeCounts (n : Desc) (g : Nat) : Bool := n.rank = 1 && n.dim 0 = g

/-- GROUPED_MATMUL: groups in DIM2 of every operand. -/
def shapeGrouped (a b o n : Desc) : Bool :=
  shapeMatmul a b o none && a.rank ≥ 3 && b.rank ≥ 3 && o.rank ≥ 3 && b.from 2 = o.from 2
    && shapeCounts n (o.len 2) && need n 0 o 2

/-- The backward pair (R74, R435). -/
def shapePair (dy w x : Desc) (dx : Option Desc) (dw : Desc) (grouped : Bool) : Bool :=
  let shared := w.rank = 2
  let n := dy.len 0
  let m := dy.len 1
  let k := w.len 1
  dy.rank ≥ 2 && w.rank ≥ 2 && x.rank ≥ 2 && dw.rank ≥ 2
    && w.len 0 = n && x.len 0 = k && x.len 1 = m && dw.len 0 = n && dw.len 1 = k
    && x.from 2 = dy.from 2 && dw.from 2 = w.from 2 && (shared || w.from 2 = dy.from 2)
    && (!grouped || (dy.rank ≥ 3 && w.rank ≥ 3))
    && m * (if shared then (dy.from 2).foldl (· * ·) 1 else 1) ≤ maxSum
    && whole dy 1 && whole x 1 && need x 0 dw 1 && need dy 0 dw 0
    && (if shared then [2, 3, 4, 5].all (fun j => whole dy j && whole x j)
        else needAll dy dw [2, 3, 4, 5] && needAll x dw [2, 3, 4, 5])
    && prodOk x.format dy.format dw.format
    && (match dx with
      | none => true
      | some d =>
        d.rank ≥ 2 && n ≤ maxSum && d.len 0 = k && d.len 1 = m && d.from 2 = dy.from 2
          && whole dy 0 && whole w 0 && need dy 1 d 1 && need w 1 d 0 && needAll dy d [2, 3, 4, 5]
          && (shared || needAll w d [2, 3, 4, 5]) && prodOk dy.format w.format d.format)

/-- QKV and the heads (R146, R194). -/
def shapeQkv (q : Desc) (h : Nat) : Bool :=
  q.len 0 % 32 = 0 && 32 ≤ q.len 0 && q.len 0 ≤ 256 && h ≥ 1 && q.len 1 = 3 * h && q.len 2 ≤ maxSum
    && q.len 4 = 1 && q.len 5 = 1

/-- The statistics of attention: row maximum and log-sum-exp per head, row and batch. -/
def shapeStats (st q : Desc) (h : Nat) : Bool :=
  st.len 0 = 2 && st.len 1 = h && st.from 2 = q.from 2

/-- An output or output gradient of attention: d × heads × sequence × batch. -/
def shapeHeads (o q : Desc) (h : Nat) : Bool := o.len 0 = q.len 0 && o.len 1 = h && o.from 2 = q.from 2

/-- ATTN_FWD: every output row needs its query, and the keys and values up to it under the causal flag (R435). -/
def shapeAttnFwd (q o st : Desc) (h : Nat) (causal : Bool) : Bool :=
  let keys := fun (y : Desc) => if causal then (y.span 2).1 + (y.span 2).2 else q.len 2
  let heads := fun (y : Desc) => (List.range (y.span 1).2).all (fun i =>
    let j := (y.span 1).1 + i
    [j, h + j, 2 * h + j].all (fun k => within (k, 1) (q.span 1)))
  shapeQkv q h && shapeHeads o q h && shapeStats st q h && whole q 0
    && [o, st].all (fun y => heads y && within (0, keys y) (q.span 2) && need q 3 y 3)

/-- ATTN_BWD (R144, R435). -/
def shapeAttnBwd (dO q o st dq : Desc) (h : Nat) (causal : Bool) : Bool :=
  let sp := dq.span 1
  let rows := dq.span 2
  let hasQ := sp.1 < h
  let hasKV := sp.1 + sp.2 > h
  let lo := if causal && !hasQ then rows.1 else 0
  let hi := if causal && !hasKV then rows.1 + rows.2 else q.len 2
  let qlo := if causal || !hasKV then rows.1 else 0
  let qhi := if hasKV then q.len 2 else rows.1 + rows.2
  shapeQkv q h && shapeHeads dO q h && shapeHeads o q h && shapeStats st q h && dq.lens = q.lens
    && whole q 0 && whole dO 0 && whole o 0 && whole st 0
    && (List.range sp.2).all (fun i =>
      let j := (sp.1 + i) % h
      [j, h + j, 2 * h + j].all (fun k => within (k, 1) (q.span 1))
        && [dO, o, st].all (fun y => within (j, 1) (y.span 1)))
    && within (lo, hi - lo) (q.span 2) && [dO, o, st].all (fun y => within (qlo, qhi - qlo) (y.span 2))
    && [dO, q, o, st].all (fun y => need y 3 dq 3)

/-- A row vector: W along DIM0, 1 elsewhere. -/
def shapeRow (d : Desc) (w : Nat) : Bool := d.len 0 = w && (d.from 1).all (· = 1)

def rowDims : List Nat := [1, 2, 3, 4, 5]

/-- NORM_FWD (R147, R435). -/
def shapeNormFwd (x g y st : Desc) (b : Option Desc) (kind : Nat) : Bool :=
  kind ≤ 1 && y.lens = x.lens && shapeRow g (x.len 0) && st.len 0 = kind + 1 && st.from 1 = x.from 1
    && whole x 0 && [y, st].all (fun o => needAll x o rowDims) && need g 0 y 0
    && (match b with | none => true | some d => shapeRow d (x.len 0) && need d 0 y 0)

/-- NORM_BWD (R147, R149, R435). -/
def shapeNormBwd (dy x g st dx dg : Desc) : Bool :=
  let two := st.len 0 = 2
  (st.len 0 = 1 || two) && st.from 1 = x.from 1 && x.lens = dy.lens && dx.lens = dy.lens && shapeRow g (x.len 0)
    && dg.len 0 = x.len 0 && dg.len 1 = (if two then 2 else 1) && (dg.from 2).all (· = 1)
    && (dy.from 1).foldl (· * ·) 1 ≤ maxSum
    && whole dy 0 && whole x 0 && whole g 0 && whole st 0
    && [dy, x, st].all (fun i => needAll i dx rowDims && rowDims.all (whole i))
    && need dy 0 dg 0 && need x 0 dg 0

/-- LOSS_XENT (R436, R435). -/
def shapeXent (x t dl lo : Desc) : Bool :=
  let row := fun (d : Desc) => d.rank = x.rank && d.len 0 = 1 && d.from 1 = x.from 1
  dl.rank = x.rank && dl.dims = x.dims && row t && row lo && whole x 0
    && [dl, lo].all (fun o => needAll x o rowDims && needAll t o rowDims)

/-- ELEMENTWISE (R163): equal outputs, broadcast inputs. -/
def shapeElem (ins outs : List Desc) : Bool :=
  match outs with
  | [] => false
  | o :: r =>
    r.all (fun d => d.same o) && (o :: r).all (fun d => d.format ≠ .x16)
      && ins.all (fun d =>
        d.format ≠ .x16 && (List.range 6).all (fun k => d.len k = o.len k || d.len k = 1)
          && (!d.sharded
            || (d.shardDim = o.shardDim && d.shardCount = o.shardCount && d.shardIndex = o.shardIndex)))

/-- ROWREDUCE (R436). -/
def shapeReduce (x o : Desc) (v : Nat) : Bool :=
  v ≤ 2 && o.rank = x.rank && o.len 0 = 1 && o.from 1 = x.from 1 && whole x 0 && needAll x o rowDims

/-- EMBED: one table row per index, rows in the order of the indices. -/
def shapeEmbed (tb ix o : Desc) (back : Bool) : Bool :=
  tb.len 0 = o.len 0 && (tb.from 2).all (· = 1) && ix.count = (o.from 1).foldl (· * ·) 1
    && (if back then need o 0 tb 0 && rowDims.all (whole o) && (List.range 6).all (whole ix)
        else tb.format = o.format && need tb 0 o 0 && whole tb 1
          && ((List.range 6).all (whole ix)
            || (ix.len 0 = 1 && ix.from 1 = o.from 1 && needAll ix o rowDims)
            || (ix.lens.take 5 = o.from 1 && [0, 1, 2, 3, 4].all (fun k => need ix k o (k + 1)))))

/-- ROUTE_TOPK: k indices and gates for each row of logits. -/
def shapeTopk (x ix g : Desc) (k : Nat) (back : Bool) : Bool :=
  let shape := fun (d : Desc) => d.len 0 = k && d.from 1 = x.from 1
  1 ≤ k && k ≤ 8 && k ≤ x.len 0 && shape ix && shape g
    && (if back then whole g 0 && whole ix 0 && needAll g x rowDims && needAll ix x rowDims
        else whole x 0 && [ix, g].all (fun o => needAll x o rowDims))

/-- The routing operands (R172): row tensor, indices, dispatch. -/
def shapeRoute (x ix dsp : Desc) : Bool :=
  let w := x.len 0
  (x.from 2).all (· = 1) && ix.len 1 = x.len 1 && (ix.from 2).all (· = 1)
    && dsp.len 0 = w && (dsp.from 3).all (· = 1)
    && x.format = dsp.format && (!x.format.block || w % 32 = 0)

/-- COMPRESS (R172 to R174, R435). -/
def shapeCompress (x ix dsp n : Desc) (cap : Nat) (back : Bool) : Bool :=
  shapeRoute x ix dsp && dsp.len 1 = cap && 1 ≤ cap && cap ≤ 65535
    && n.len 0 = dsp.len 2 && n.len 1 = 2 && (n.from 2).all (· = 1)
    && [0, 1].all (whole ix)
    && (if back then need dsp 0 x 0 && whole dsp 1 && whole dsp 2 else need x 0 dsp 0 && whole x 1)

/-- EXPAND (R172, R175, R176, R435). DESIGN CHOICE (log 125): what R172 asks of x is asked of D3 with D0 too. -/
def shapeExpand (dsp ix g o : Desc) (dg dd : Option Desc) : Bool :=
  let gate := fun (d : Desc) => d.lens = ix.lens
  shapeRoute o ix dsp && gate g && [0, 1].all (whole ix)
    && (match dg, dd with
      | some dg, some dd =>
        gate dg && dd.lens = dsp.lens && need o 0 dd 0 && whole o 1 && whole g 0 && whole g 1
          && whole o 0 && [0, 1, 2].all (whole dsp)
      | _, _ => need dsp 0 o 0 && whole dsp 1 && whole dsp 2 && whole g 0 && need g 1 o 1)

/-- An S8 row tensor and its dispatch name one slot without a tile array (R172). DESIGN CHOICE (log 125): both naming none is as one. -/
def State.routeSlot (s : State) (c : Nat) (x dsp : Desc) : Except Acc Unit :=
  if (x.format = .s8e4 || x.format = .s8e5) && (x.scaleSlot ≠ 0xFFFF || dsp.scaleSlot ≠ 0xFFFF) then
    if x.scaleSlot ≠ dsp.scaleSlot then refuse
    else do
      let y ← s.readSlot c x.scaleSlot
      check (y.adjVa = 0)
  else .ok ()

/-- ALL_TO_ALL (R235). -/
def shapeA2a (d0 d1 : Desc) (d2 : Option Desc) (d3 : Desc) (d4 : Option Desc) (n : Nat) (back : Bool) : Bool :=
  let long := if back then d1 else d0
  let pack := if back then d0 else d1
  let g := long.len 2
  let cap := long.len 1
  n ≥ 1 && g % n = 0 && cap * n ≤ 65535 && (long.from 3).all (· = 1) && (pack.from 3).all (· = 1)
    && pack.len 0 = long.len 0 && pack.len 1 = cap * n && pack.len 2 = g / n && long.format = pack.format
    && d3.len 0 = n && d3.len 1 = g / n && (d3.from 2).all (· = 1)
    && (match d2 with | none => true | some d => d.rank = 1 && d.len 0 = g)
    && (match d4 with | none => true | some d => d.rank = 1 && d.len 0 = g / n)

/-- The optimiser's operands (R436). -/
def shapeOpt (ds : List Desc) (hy : Desc) : Bool :=
  (match ds with
   | [] => false
   | d :: r => r.all (fun x => x.same d)) && hy.rank = 1 && hy.dim 0 = 6 && !hy.sharded

/-! ### Buckets (R75 to R78) -/

/-- Summing collectives (R75, R76, R110). -/
def sumOk (e : Entry) (d0 d1 : Desc) (n : Option Nat) : Bool :=
  let f := d0.format
  (f = .p16 || f = .b16 || f = .bf16) && d1.format = f && sl e.imm1 63 37 = 0 && sl e.imm1 36 34 ≠ 7
    && (if e.op = 0x50 then d1.same d0 else d1.lens = d0.lens && !d0.sharded && d1.sharded)
    && (ends n).all (fun i =>
      let b := bucketBase e.imm0 i
      decide (0 ≤ b ∧ b + (bucketCount e.imm1 d0 : Nat) ≤ 2 ^ 20))

/-- An item of a list at one loop level: an entry, or a loop with its count and body. -/
inductive Item where
  | one (e : Entry)
  | loop (count : Nat) (body : List Entry)
  deriving DecidableEq, Repr

/-- Split entries into items of the outermost level: open loops, count, body so far (reversed). -/
def itemsOf : Nat → Nat → List Entry → List Entry → List Item
  | _, _, _, [] => []
  | 0, _, _, e :: r =>
    if e.op = 0x04 then itemsOf 1 (sl e.imm0 31 0) [] r else .one e :: itemsOf 0 0 [] r
  | d + 1, n, body, e :: r =>
    if e.op = 0x04 then itemsOf (d + 2) n (e :: body) r
    else if e.op = 0x05 then
      if d = 0 then .loop n body.reverse :: itemsOf 0 0 [] r else itemsOf d n (e :: body) r
    else itemsOf (d + 1) n (e :: body) r

/-- What a tree does to the record of used indices, in list order: an index run, or none where it is cleared by
STEP_BEGIN or RESHARD. -/
def usesOf (tree : List AdmList) (descs : List Desc) : Nat → Nat → List Entry → List (Option (Nat × Nat))
  | 0, _, _ => []
  | fuel + 1, i, es =>
    (itemsOf 0 0 [] es).flatMap (fun it =>
      match it with
      | .one e =>
        if e.op = 0x0A ∨ e.op = 0x62 then [none]
        else if e.op = 0x50 ∨ e.op = 0x51 then
          match descs[(e.desc[0]?).getD 0xFFFF]? with
          | some d => [some ((bucketBase e.imm0 i).toNat, bucketCount e.imm1 d)]
          | none => []
        else if e.op = 0x03 then
          match tree.find? (fun l => l.addr = e.imm0) with
          | some l => usesOf tree l.descs fuel 0 l.entries
          | none => []
        else []
      | .loop n body =>
        if body.all (fun e => e.op ≠ 0x0A && e.op ≠ 0x62 && e.op ≠ 0x50 && e.op ≠ 0x51 && e.op ≠ 0x03) then []
        else (List.range n).flatMap (fun k => usesOf tree descs fuel k body))

/-- Two uses of one index with no clearing between them (R78). -/
def usesClash : List (Nat × Nat) → List (Option (Nat × Nat)) → Bool
  | _, [] => false
  | _, none :: r => usesClash [] r
  | seen, some u :: r =>
    seen.any (fun v => u.1 < v.1 + v.2 && v.1 < u.1 + u.2) || usesClash (u :: seen) r

/-! ### Entries -/

/-- The checks of the operands of one entry: `ds` the descriptors by position, n the count of its innermost loop.
DESIGN CHOICE (log 125): IMM0 bit 57 of MATMUL belongs to no field (R161) and is refused when it is set. -/
def State.admitShapes (s : State) (c : Nat) (e : Entry) (ds : List (Option Desc)) (n : Option Nat) :
    Except Acc (Option (Nat × List MicroOp)) :=
  let at_ := fun (k : Nat) => (ds[k]?).getD none
  let d := fun (k : Nat) => (at_ k).getD {}
  let ok := fun (b : Bool) => (if b then Except.ok none else refuse : Except Acc (Option (Nat × List MicroOp)))
  let heads := sl e.imm0 15 0
  let back := bit e.variant 0
  match e.op with
  | 0x06 => ok (e.variant ≤ 2)
  | 0x10 =>
    if !shapeMatmul (d 0) (d 1) (d 2) (at_ 3) then refuse
    else if e.imm0 = 0 then .ok none
    else match s.admitMicro c (sl e.imm0 56 0) (sl e.imm0 63 58) 32 [0] with
      | .ok m => if bit e.imm0 57 then refuse else .ok (some m)
      | .error x => .error x
  | 0x11 => ok (shapePair (d 0) (d 1) (d 2) (if bit e.variant 1 then none else at_ 3) (d 4) false)
  | 0x12 => ok (shapeGrouped (d 0) (d 1) (d 2) (d 3))
  | 0x13 =>
    let dx := if bit e.variant 1 then none else at_ 3
    ok (shapePair (d 0) (d 1) (d 2) dx (d 4) true && shapeCounts (d 5) ((d 0).len 2)
      && need (d 5) 0 (d 4) 2 && (match dx with | some x => need (d 5) 0 x 2 | none => true))
  | 0x20 => ok (shapeAttnFwd (d 0) (d 1) (d 2) heads (bit e.imm0 16))
  | 0x21 => ok (shapeAttnBwd (d 0) (d 1) (d 2) (d 3) (d 4) heads (bit e.imm0 16))
  | 0x22 => ok (shapeNormFwd (d 0) (d 1) (d 2) (d 3) (at_ 4) e.variant)
  | 0x23 => ok (shapeNormBwd (d 0) (d 1) (d 2) (d 3) (d 4) (d 5))
  | 0x24 => ok (shapeXent (d 0) (d 1) (d 2) (d 3))
  | 0x30 =>
    let outs := [3, 4, 5].filter (fun k => (at_ k).isSome)
    if !shapeElem ([0, 1, 2].filterMap at_) (outs.map d) then refuse
    else match s.admitMicro c e.imm0 e.imm1 256 (outs.map (fun k => k - 3)) with
      | .ok m => .ok (some m)
      | .error x => .error x
  | 0x31 => ok (shapeReduce (d 0) (d 1) e.variant)
  | 0x32 => ok ((d 0).same (d 1))
  | 0x33 => ok ((d 0).same (d 1) && (d 0).fmt = (d 1).fmt)
  | 0x40 => ok (shapeEmbed (d 0) (d 1) (d 2) back)
  | 0x41 => ok (shapeTopk (d 0) (d 1) (d 2) e.imm0 back)
  | 0x42 =>
    match s.routeSlot c (d 0) (d 2) with
    | .ok _ => ok (shapeCompress (d 0) (d 1) (d 2) (d 3) e.imm0 back)
    | .error x => .error x
  | 0x43 =>
    match s.routeSlot c (d 3) (d 0) with
    | .ok _ => ok (shapeExpand (d 0) (d 1) (d 2) (d 3) (at_ 4) (at_ 5))
    | .error x => .error x
  | 0x50 | 0x51 => ok (sumOk e (d 0) (d 1) n)
  | 0x52 =>
    ok ((d 0).sharded && !(d 1).sharded && (d 0).format = (d 1).format && (d 0).lens = (d 1).lens
      && (d 0).group < (s.ctxRec c).groupCount)
  | 0x53 =>
    let m := (s.ranks c (d 0).group).length
    ok (e.variant ≤ 1 && (d 0).group < (s.ctxRec c).groupCount
      && shapeA2a (d 0) (d 1) (at_ 2) (d 3) (at_ 4) m (decide (e.variant = 1)))
  | 0x60 =>
    ok (e.variant ≤ 1 && (d 0).sharded && !(d 1).sharded && (d 0).format = (d 1).format && (d 0).lens = (d 1).lens
      && (d 0).group < (s.ctxRec c).groupCount)
  | 0x70 => ok (shapeOpt [d 0, d 1, d 2, d 3] (d 4))
  | 0x71 => ok (shapeOpt [d 0, d 1, d 3] (d 4))
  | 0x84 => ok ((d 0).count = 1 && !(d 0).sharded)
  | _ => .ok none

/-- The charter's RANGES mask against every descriptor of an entry (R335). -/
def charterRanges (rs : List KeyRange) (mask : Nat) (ds : List (Option Desc)) (n : Option Nat) : Bool :=
  ds.all (fun od =>
    match od with
    | none => true
    | some d => (d.iters n).all (fun i =>
        (d.spans i).all (fun p => (touched rs p.1.toNat p.2.toNat).all (fun r => bit mask r))))

/-- One entry of a list: codes, reserved fields, positions, descriptors, shapes (R60 to R62, R65, R71, R434). -/
def State.admitEntry (s : State) (c : Nat) (old : Bool) (descs : List Desc) (x : Entry × Option Nat) :
    Except Acc (Option (Nat × List MicroOp)) :=
  let e := x.1
  match positions e.op e.variant with
  | none => refuse
  | some (req, opt) =>
    if e.rsvd ≠ 0 ∨ e.flags ≥ 32 ∨ e.hint ≥ 16 ∨ (old && oldRefused e.op) then refuse
    else
      let idx := fun (k : Nat) => (e.desc[k]?).getD 0xFFFF
      let bad := [0, 1, 2, 3, 4, 5].any (fun k =>
        if idx k = 0xFFFF then req.contains k
        else idx k ≥ descs.length || !(req.contains k || opt.contains k))
      if bad then refuse
      else
        let ds := [0, 1, 2, 3, 4, 5].map (fun k => if idx k = 0xFFFF then none else descs[idx k]?)
        let fmtBad := [0, 1, 2, 3, 4, 5].any (fun k =>
          match (ds[k]?).getD none with
          | none => false
          | some d =>
            (old && oldFmtRefused d.fmt)
              || (e.op ≠ 0x33 && decide (d.format = .x16) != (x16At e.op).contains k)
              || (match fixedFmt e.op k with | some f => decide (d.format ≠ f) | none => false))
        match collect (ds.filterMap (fun od => od.map (fun d => s.admitDesc c d x.2))) with
        | .error a => .error a
        | .ok _ => if fmtBad then refuse else s.admitShapes c e ds x.2

/-- Entries with the count of their innermost loop; none when loops do not match or nest deeper than 8 (R87). -/
def loopScan : List Nat → List Entry → Option (List (Entry × Option Nat))
  | st, [] => if st.isEmpty then some [] else none
  | st, e :: r =>
    if e.op = 0x04 then
      if st.length ≥ 8 then none else (loopScan (sl e.imm0 31 0 :: st) r).map (fun l => (e, st.head?) :: l)
    else if e.op = 0x05 then
      match st with
      | [] => none
      | _ :: st' => (loopScan st' r).map (fun l => (e, st.head?) :: l)
    else (loopScan st r).map (fun l => (e, st.head?) :: l)

/-- LIST_HEAD first, LIST_END last, neither elsewhere (R55). -/
def framed (es : List Entry) : Bool :=
  match es with
  | [] => false
  | h :: r => h.op = 0x01 && (match r.getLast? with | some l => l.op = 0x02 | none => false)
      && r.dropLast.all (fun e => e.op ≠ 0x01 && e.op ≠ 0x02) && r.all (fun e => e.op ≠ 0x01)

/-- Whether a declared version is accepted (R52, R54). -/
def acceptVersion (r : CtxRec) (v : Nat) : Bool :=
  if bit r.mode 0 then 0x0200 ≤ v && v ≤ 0x0206 && !bit r.mode 1 else v = 0x0300

/-- Read and validate one list (R55, R56, R335); it holds each micro-op list it names once (R162). -/
def State.admitList (s : State) (c addr : Nat) : Except Acc AdmList :=
  if addr % 64 ≠ 0 then refuse
  else
    match s.vread c addr 64 with
    | .error a => .error a
    | .ok hb =>
      let h := entryOf hb
      let ver := sl h.imm0 15 0
      let rev := sl h.imm0 23 16
      let n := sl h.imm0 63 32
      if h.op ≠ 0x01 ∨ !acceptVersion (s.ctxRec c) ver ∨ rev > 1 ∨ n < 2 ∨ n > 65536 ∨ h.variant = 0
          ∨ h.imm1 % 128 ≠ 0 then refuse
      else
        match s.vread c addr (64 * n), s.vread c h.imm1 (128 * h.variant) with
        | .error a, _ => .error a
        | _, .error a => .error a
        | .ok eb, .ok tb =>
          let old := decide (ver < 0x0300)
          let es := (chunks 64 eb).map entryOf
          let ds := (chunks 128 tb).map (descOf old)
          if !framed es then refuse
          else
            match loopScan [] es with
            | none => refuse
            | some xs =>
              match collect (xs.map (s.admitEntry c old ds)) with
              | .error a => .error a
              | .ok ms =>
                let l : AdmList := { addr, entries := es, descs := ds, micro := (ms.filterMap id).eraseDups, numrev := 1, version := ver }
                match (s.ctx c).charter with
                | none => .ok l
                | some ch =>
                  match ch.digests.find? (fun x => x.kind = 0 && x.digest = sha384n (eb ++ tb)) with
                  | none => .error (.stop .charterDenied)
                  | some dg =>
                    let rs := (s.ctx c).ranges
                    let named := (List.range 8).filter (fun i => bit dg.ranges i)
                    let open_ := fun (i : Nat) => ((rs[i]?).getD {}).owner = 0xFF
                    let mixed := named.any open_ && named.any (fun i => !open_ i)
                    let fits := xs.all (fun x => charterRanges rs dg.ranges
                      (x.1.desc.map (fun k => if k = 0xFFFF then none else ds[k]?)) x.2)
                      && charterRanges rs dg.ranges (ds.map some) none
                    if mixed || !fits then .error (.stop .charterDenied) else .ok l

/-- The tree from a list, `d` levels deep at most; lists already read are kept (R55, R57). -/
def State.admitFrom (s : State) (c : Nat) : Nat → Nat → List AdmList → Except Acc (List AdmList)
  | 0, _, _ => refuse
  | d + 1, addr, got =>
    let here :=
      match got.find? (fun l => l.addr = addr) with
      | some l => Except.ok (l, got)
      | none => match s.admitList c addr with
        | .ok l => Except.ok (l, got ++ [l])
        | .error a => Except.error a
    match here with
    | .error a => .error a
    | .ok (l, got) =>
      let calls := ((l.entries.filter (fun e => e.op = 0x03)).map (·.imm0)).eraseDups
      calls.foldl (fun r a => match r with | .ok g => s.admitFrom c d a g | .error x => .error x) (.ok got)

/-- Bytes of firmware memory a tree takes (R57). -/
def treeSize (t : List AdmList) : Nat :=
  t.foldl (fun a l => a + 64 * l.entries.length + 128 * l.descs.length
    + l.micro.foldl (fun b m => b + 8 * m.2.length) 0) 0

def maxTree : Nat := 67108864

/-- Admission of the tree that a queue CALL names (R56, R57, R78). -/
def State.admitTree (s : State) (c addr : Nat) : Except Acc (List AdmList) :=
  match s.admitFrom c 4 addr [] with
  | .error a => .error a
  | .ok t =>
    let clash : Bool := match t with
      | l :: _ => usesClash [] (usesOf t l.descs 64 0 l.entries)
      | [] => false
    if treeSize t > maxTree ∨ clash then refuse else .ok t

/-- What the running trees of a context occupy (R57). -/
def Ctx.treeBytes (x : Ctx) : Nat := x.queues.foldl (fun a p => a + treeSize p.2.tree) 0

/-! ### Reading an admitted entry -/

/-- The descriptor at position k of the current entry, advanced to the iteration of its innermost loop (R69). -/
def Queue.desc (y : Queue) (k : Nat) : Option Desc :=
  match y.stack, y.entry with
  | f :: _, some e =>
    (y.list f.addr).bind (fun l =>
      let i := (e.desc[k]?).getD 0xFFFF
      if i = 0xFFFF then none else (l.descs[i]?).map (fun d => d.eff y.iter))
  | _, _ => none

/-- A descriptor the admission has ensured. -/
def Queue.d (y : Queue) (k : Nat) : Desc := (y.desc k).getD {}

/-- The admitted micro-op list at an address with a length. -/
def Queue.micro (y : Queue) (addr len : Nat) : List MicroOp :=
  match y.stack with
  | f :: _ =>
    match y.list f.addr with
    | some l => ((l.micro.find? (fun m => m.1 = addr && m.2.length = len)).map (·.2)).getD []
    | none => []
  | [] => []

end Sys2Proof.Machine
end

