-- ==== Sys2Proof/Machine/Resets.lean ====
section
/-! DEFINITION. Ports and resets shared by many commands: a port going down, engine, compute-part, host-interface and
package resets, tamper (R25, R351, R379 to R387, R405). -/

namespace Sys2Proof.Machine

/-! ### Cause codes of `RAS.RESET_STAT` (R398) -/

def causePowerUp : Nat := 0
def causeModReset : Nat := 1
def causeRail : Nat := 2
def causeCpWatchdog : Nat := 3
def causeCpLimit : Nat := 4
def causeHang : Nat := 5
def causeProcessor : Nat := 6
def causeTrip : Nat := 7
def causeTamper : Nat := 8
def causeEngineWatchdog : Nat := 9
def causePf0 : Nat := 10

/-! ### Ports -/

/-- The laser unit that feeds a port when both are in service (R34). -/
def State.homeUnit (s : State) (q : Nat) : Nat := if q < s.ident.variant.ports / 2 then 0 else 1

/-- The unit that should feed a port (R34, R36): its own while in service and not released, else the other; a
released unit feeds on while nothing else gives light. -/
def State.wanted (s : State) (q : Nat) : Option Nat :=
  let h := s.homeUnit q
  let fit := fun (u : Nat) => (s.laser u).lit && !(s.laser u).released
  if fit h then some h
  else if fit (1 - h) then some (1 - h)
  else if (s.laser h).lit then some h
  else if (s.laser (1 - h)).lit then some (1 - h)
  else none

/-- The unit that feeds a port now: the one its light last moved to, while that gives light. -/
def State.feeds (s : State) (q : Nat) : Option Nat :=
  match (s.port q).source with
  | some u => if (s.laser u).lit then some u else if (s.laser (1 - u)).lit then some (1 - u) else none
  | none => s.wanted q

/-- The ports the variant has. -/
def State.portList (s : State) : List Nat := List.range s.ident.variant.ports

def Port.activeMask (p : Port) : Nat := p.active.foldl (fun a l => a ||| (1 <<< l)) 0

/-- Lanes all set to one state. -/
def Port.setAll (p : Port) (st : Nat) : Port :=
  (List.range 8).foldl (fun p l => p.setLane l { p.lane l with st, next := none }) p

/-- The port carries traffic, or will again as soon as its light has moved (R205). -/
def Port.carries (p : Port) : Bool := p.st = 3 || (p.moving && p.back = 3)

/-- A port's light moves to a unit (R205): it keeps session, credits, sequence state and replay window, repeats the
first bring-up steps, and carries traffic again at codeword lock. -/
def State.moveLight (s : State) (q u : Nat) : State :=
  let p := s.port q
  let on := p.st = 2 || p.st = 3
  let s := s.setPort q { p with
    source := some u
    moving := on || p.moving
    back := if on then p.st else p.back
    movedAt := s.clk.now
    deadAt := if p.st = 3 then some s.clk.now else p.deadAt
    st := if on then 1 else p.st
    locked := false }
  (s.raise (pgPort q) 4).logRas (pgPort q) 6 0x62 none (q + 256 * u)

/-- Record which unit feeds every port. -/
def State.pinLight (s : State) : State :=
  s.portList.foldl (fun s q => s.setPort q { s.port q with source := s.feeds q }) s

/-- Move the light of ports towards the unit that should feed them, one port that carries traffic at a time (R36). -/
def State.shiftLight (s : State) : State :=
  s.portList.foldl (fun s q =>
    if s.portList.any (fun p => (s.port p).moving) then s
    else
      match s.wanted q with
      | some u => if s.feeds q = some u then s else s.moveLight q u
      | none => s) s

/-- The codewords of a port's active lanes up to now are in its counts (R239); how many were corrected or not corrected
is free (log 7). -/
def State.countFec (s : State) (q : Nat) : State :=
  if !(s.port q).light then s
  else (s.port q).active.foldl (fun s l =>
    let v := s.draw
    let x := (v.2.port q).lane l
    v.2.setPort q ((v.2.port q).setLane l { x with corr := satAdd 32 x.corr (v.1 / 2 ^ 32), uncorr := satAdd 32 x.uncorr (v.1 % 2 ^ 32) })) s

/-- A port goes down, or its bring-up fails (R200, R219, R239, R374): IRQ bit 0, and record 0x60 where it carried traffic; its
session and sequence state end; it stays chosen until the detection of R219; when the parent port goes down, device time runs free
until another is named (R222). -/
def State.portDrop (s : State) (q : Nat) : State :=
  let s := s.countFec q
  let p := s.port q
  if p.st = 0 ∨ p.st = 4 then s
  else
    let up := p.carries
    let p' := { p.setAll 0 with
      st := 0, light := false, locked := false, trained := false, moving := false, mask := 0
      deadAt := if up then some s.clk.now else p.deadAt
      link := { digests := [], sentDigests := [] }
      credits := [0, 0, 0, 0], owed := [0, 0, 0, 0], mapAt := none, mapRx := none, early := [], recalReq := [], recalOps := [] }
    let s := s.setPort q p'
    let s := if s.clk.parent = some q && up then
        let w := { s with clk := { s.clk with locked := false, stepNext := true, free := true } }
        if s.clk.locked then w.raise pgRoute 1 else w
      else s
    let s := s.raise (pgPort q) 1
    if up then s.logRas (pgPort q) 6 0x60 none q else s

/-- A port goes down; if its light was moving, that of the next port moves (R36). -/
def State.portDown (s : State) (q : Nat) : State :=
  if (s.port q).moving then (s.portDrop q).shiftLight else s.portDrop q

/-- Every port goes down; what has no traffic to move feeds from the unit it should (R36). -/
def State.portsDown (s : State) : State := ((List.range 32).foldl (fun s q => s.portDrop q) s).shiftLight

/-- A unit gives no light any more (R35, R37): its ports move to the other unit at once, or go down. -/
def State.darken (s : State) (u : Nat) (l : Laser) : State :=
  let mine := s.portList.filter (fun q => s.feeds q = some u)
  let s := s.setLaser u l
  mine.foldl (fun s q => if (s.laser (1 - u)).lit then s.moveLight q (1 - u) else s.portDown q) s

/-! ### The pool -/

/-- Whether the region of a core is drained (R391, R393). -/
def State.regionDrained (s : State) (c : Nat) : Bool := (s.region (c / 10)).drained ≠ 0

/-- The cores the variant has. -/
def State.coreList (s : State) : List Nat := List.range s.ident.variant.cores

/-- Cores in the pool (R279): states 1 and 2. -/
def State.pool (s : State) : List Nat := s.coreList.filter (fun c => (s.core c).st = 1 || (s.core c).st = 2)

/-- Cores enter the pool after boot or reset (R155, R384): all but failed cores and those of a drained region. -/
def State.enterPool (s : State) : State :=
  s.coreList.foldl (fun s c =>
    let k := s.core c
    if k.st = 6 then s else s.setCore c { k with st := if k.drain || s.regionDrained c then 4 else 1 }) s

/-- A core returns to its reset values, but one in state 6 keeps that state and CORE_TEST (R155, R405). -/
def Core.reset (k : Core) : Core :=
  if k.st = 6 then { st := 6, runs := k.runs, last := k.last } else {}

/-- A core is taken out of service (R381, R396): zeroed, state 6. -/
def Core.removed (k : Core) : Core := { k.freed with st := 6, drain := k.drain, selftest := false }

/-- A core leaves the work it holds to other cores (R154). -/
def Core.drained (k : Core) : Core := { k.freed with st := 4 }

/-! ### Package reset (R382, R386) -/

/-- The bank ROM boot starts (R364): the running one, the staged one of SEC and LINK at a package reset (R367), the
other one when a check fails; none when neither passes. -/
def Fw.bank (f : Fw) (i : Nat) : Bank := if i = 0 then f.a else f.b

def Fw.boot (f : Fw) (takeStaged : Bool) : Option Fw :=
  let ok := fun (i : Nat) => (f.bank i).valid && decide ((f.bank i).secver ≥ f.fuse)
  let first := if f.staged && takeStaged then 1 - f.run else f.run
  if ok first then some { f with run := first, staged := f.staged && first = f.run }
  else if ok (1 - first) then some { f with run := 1 - first, staged := f.staged && decide (1 - first = f.run) }
  else none

/-- The transition that waited for a package reset (R353): the old root and all that derives from it are
destroyed, then the new state is entered. It runs after the reset, the TRNG started again, so that its fresh root is at hand (log 122). -/
def State.transition (s : State) : State :=
  match s.sec.pending with
  | none => s
  | some .returned =>
    let v := s.secret
    { v.2 with sec := { v.2.sec with lifecycle := .returned, root := some v.1, certs := v.2.sec.certs ++ [⟨.returned, v.1⟩], domain := none, pending := none } }
  | some .retired =>
    { s with sec := { s.sec with lifecycle := .retired, root := none, certs := [], domain := none, pending := none } }
  | some _ => { s with sec := { s.sec with pending := none } }

/-- Rails that are out of regulation stay so through a package reset; what else is kept of them is lost. -/
def Pwr.outOf (p : Pwr) : SMap Rail :=
  (p.rails.filter (fun r => r.2.resetLevel)).map (fun r => (r.1, { resetLevel := true }))

/-- A package reset (R382, R386): volatile state is lost, the internal reset is held for 1 ms, the module boots again. `cause` is a
code of R398. DESIGN CHOICE (log 106): a package reset without MOD_RESET_N latches no SLOT_ID; MOD_RESET_RELEASE does. -/
def State.packageReset (s : State) (cause : Nat) : State :=
  let s := s.transition
  { s with
    ident := { s.ident with latched := s.ident.total, nearLatched := s.ident.near }
    clk := { now := s.clk.now, held := s.clk.held, pcieLost := s.clk.pcieLost }
    boot := if cause = causeTrip then .tripHeld else if s.pins.modResetN then .booting else .resetHeld
    pins := { s.pins with holdUntil := s.clk.now + 1000000
                          pwrgd := s.pins.pwrgd && decide (cause ≠ causeTrip)
                          tripAlert := decide (cause = causeTrip) || (s.pins.tripAlert && s.boot = .tripHeld) }
    pcie := { bar4 := s.pcie.bar4Next, bar4Next := s.pcie.bar4Next }
    sec := { s.sec with trngOk := true, waits := [], debugBoot := 0, debugFirst := 0 }
    fw := { s.fw with act := none, creates := [], failed := false }
    mgmt := { s.mgmt with conns := [], held := [], line := [] }
    ras := { bootCause := cause }
    pwr := { rails := s.pwr.outOf }
    ports := []
    fab := {}
    buckets := []
    mem := { host := s.mem.host }
    mcs := []
    ctxs := []
    cores := []
    sched := {}
    hdrs := []
    num := {}
    test := {}
    dbg := { boundary := s.dbg.boundary, driven := s.dbg.driven, dal := s.dbg.dal }
    epoch := {} }

/-! ### Compute-part reset (R382 to R384) -/

/-- Operators that run on the cores. -/
def onCores (op : Nat) : Bool :=
  (0x10 ≤ op && op ≤ 0x13) || (0x20 ≤ op && op ≤ 0x24) || (0x30 ≤ op && op ≤ 0x33) || (0x40 ≤ op && op ≤ 0x43)
    || op = 0x70 || op = 0x71

/-- Operators whose tiles need a core: those of the arrays and vector engines (R130, R131). -/
def needsCore (op : Nat) : Bool := onCores op && op ≠ 0x33

/-- Bound classes PROD, ATTN, NORM and ELEM (R71), whose tiles can run as sprigs (R292); EMBED forward is EXACT. -/
def sprigOp (op variant : Nat) : Bool :=
  (0x10 ≤ op && op ≤ 0x13) || (0x20 ≤ op && op ≤ 0x24) || (0x30 ≤ op && op ≤ 0x32) || op = 0x41 || op = 0x43
    || (op = 0x40 && bit variant 0)

/-- An entry of a called list that had started and not completed (R384): begun, or one of the cores' operators that its context's cores
are running (log 33); a CALL ends by its list. `cores`: the context holds cores. -/
def Queue.inFlight (y : Queue) (cores : Bool) : Bool :=
  !y.stack.isEmpty && (match y.phase with
    | .running => true
    | .parked _ .ready | .parked _ .running => true
    | .waiting | .parked _ .waiting => y.begun
    | .done _ | .parked _ (.done _) => y.begun && (match y.entry with | some e => decide (e.op ≠ 0x03) | none => false)
    | .ready => y.begun || (cores && (match y.entry with | some e => onCores e.op | none => false))
    | _ => false)

/-- The context of slot c holds cores. -/
def State.hasCores (s : State) (c : Nat) : Bool := s.cores.any (fun p => p.2.st = 2 && p.2.ctx = some c)

/-- A parked entry goes on where it stopped (R265). -/
def Queue.back (y : Queue) (b : Back) : Queue :=
  { y with phase := match b with
    | .ready => .ready
    | .waiting => if y.cur.isNone then .idle else .waiting
    | .running => .running
    | .done st => .done st }

/-- The entry's command has run: its outputs are written (log 33). -/
def Phase.ran : Phase → Bool
  | .done _ | .parked _ (.done _) => true
  | _ => false

/-- An entry that had started completes with RESET_LOST; what it has written stays. -/
def Queue.lose (y : Queue) (step : Nat) : Queue :=
  { y with phase := .done .resetLost, flight := if y.phase.ran then .settled else .none
           begun := true, startStep := if y.begun then y.startStep else step }

/-- What a compute-part reset does to one queue: an in-flight entry completes with RESET_LOST; parked entries that
are not in flight retry. -/
def Queue.cpReset (cores : Bool) (step : Nat) (y : Queue) : Queue :=
  if y.inFlight cores then y.lose step
  else match y.phase with
    | .parked _ b => y.back b
    | _ => y

/-- The number of entries in flight. -/
def State.inFlightEntries (s : State) : Nat :=
  s.ctxs.foldl (fun a x => a + (x.2.queues.filter (fun p => p.2.inFlight (s.hasCores x.1))).length) 0

/-- The buckets of entries that are lost: the result is discarded here, and a contribution not yet sent is late
(R384, R228). -/
def State.loseBuckets (s : State) (c : Nat) (lostQ : Nat → Bool) : State :=
  let hit := fun (b : Bucket) => b.slot = c && b.doneAt.isNone && b.issued && lostQ b.queue
  let tags := (s.buckets.filter hit).map (·.tag)
  let s := { s with buckets := s.buckets.map (fun b => if hit b then { b with issued := false, gone := true } else b) }
  tags.foldl (fun s t =>
    match s.bucket c t with
    | some b => if b.own = .waiting then s.settle { b with own := .absent } else s
    | none => s) s

/-- The die-to-die interface of die d has no page: its engine reset is kept at this index, above BAR0 (R379, log 50). -/
def pgLink2 (d : Nat) : Nat := 0x4000 + d

/-- Headers that a compute-part reset returns to reset values but for the moments of engine resets (R155, R381): of the cores and of the
die-to-die interfaces. -/
def cpHdr (i : Nat) : Bool := pgLink2 0 ≤ i || (match pageOf i with | .core _ => true | _ => false)

/-- The start of a compute-part reset. -/
def State.cpStart (s : State) (cause : Nat) : State :=
  if s.ras.cpActive then s
  else if (s.ras.cpTimes.filter (fun t => s.clk.now < t + 60000000000)).length ≥ 3 then s.packageReset causeCpLimit
  else
    let s := s.charge.releaseCps
    let s := s.coreList.foldl (fun s k => match (s.core k).sprig with | some c => s.cutSprig k c | none => s) s
    let n := s.inFlightEntries
    let s := { s with ras := { s.ras with
      cpActive := true, cpAt := s.clk.now, cpCause := cause, cpCount := satAdd 8 s.ras.cpCount 1
      cpTimes := s.clk.now :: s.ras.cpTimes.take 3, cpLost := n } }
    let s := s.logRas pgRas 3 0x30 none cause
    let s := s.push 1 s.fab.moduleId
    let s := (List.range 64).foldl (fun s c =>
      s.loseBuckets c (fun q => ((s.ctx c).queue q).inFlight (s.hasCores c))) s
    let s := { s with
      ctxs := s.ctxs.map (fun (p : Nat × Ctx) => (p.1, { p.2 with
        queues := p.2.queues.map (fun (q : Nat × Queue) => (q.1, q.2.cpReset (s.hasCores p.1) p.2.step))
        parked := [], overflow := false, saved := [] }))
      cores := s.cores.map (fun (p : Nat × Core) => (p.1, p.2.reset)) }
    let s := s.tidyCores
    let hs := s.hdrs.map (fun (p : Nat × Hdr) => (p.1, if cpHdr p.1 then { times := p.2.times } else p.2))
    { s with hdrs := hs.filter (fun p => decide (p.2 ≠ {})) }

/-- The end of a compute-part reset (R384): cores enter the pool, record 0x31, the event. -/
def State.cpDone (s : State) : State :=
  if s.ras.cpActive then
    let s := { s with ras := { s.ras with cpActive := false } }
    let s := s.enterPool.railsBack (fun r => decide (r < 8))
    let s := s.logRas pgRas 3 0x31 none s.ras.cpLost
    (s.raise pgRas 2).push 2 s.fab.moduleId
  else s

/-! ### Host interface reset (R25, R405) -/

/-- Every page's interrupt state returns to reset. -/
def State.clearIrqs (s : State) : State :=
  let m := s.hdrs.map (fun (p : Nat × Hdr) => (p.1, { p.2 with stat := 0, en := none, route := 0 }))
  { s with hdrs := m.filter (fun p => decide (p.2 ≠ {})) }

/-- What PERST_N and FLR of PF0 share. -/
def State.hostReset (s : State) : State :=
  let s := s.clearIrqs.quenchAll
  { s with pcie := { s.pcie with
    tdi := [], ide := [], tdiSel := 0, timeouts := 0
    stage := s.pcie.stage.filter (fun p => p.1.1 = 65), latch := s.pcie.latch.filter (fun p => p.1.1 = 65) } }

/-- PERST_N asserted, or the loss of REFCLK_PCIE (R25, R392): the endpoint resets too. -/
def State.endpointReset (s : State) : State :=
  let s := s.hostReset
  { s with pcie := { s.pcie with
    linkUp := false, crs := true, speed := 0, width := 0, flit := false, sriov := false, numVfs := 0
    reads := [], waiting := [], sessions := [], xfers := [], held := [] } }

/-! ### Engine reset (R379, R381) -/

/-- An entry has tiles on a core. -/
def Core.tilesOf (k : Core) (q : QRef) : Bool := k.loads.any (fun l => l.q = q) || k.ftq.any (fun t => t.q = q)

/-- Entries with tiles on cores that satisfy `p` complete with RESET_LOST (R153, R379, R382): those whose work lies there, and of the
operators that can run there and have not run yet some, a free choice (R90, log 33). -/
def State.loseTiles (s : State) (p : Nat → Bool) : State :=
  let ks := s.coreList.filter (fun k => p k && ((s.core k).st = 2 || (s.core k).st = 3))
  let slots := (ks.filterMap (fun k => match (s.core k).sprig with | some x => some x | none => (s.core k).ctx)).eraseDups
  slots.foldl (fun s c =>
    (List.range 16).foldl (fun s q =>
      let y := (s.ctx c).queue q
      let lost := s.setQueue ⟨c, q⟩ (y.lose (s.ctx c).step)
      if y.inFlight true && (match y.entry with | some e => onCores e.op | none => false) then
        if ks.any (fun k => (s.core k).tilesOf ⟨c, q⟩) then lost
        else if y.phase = .ready then
          let v := s.draw
          if v.1 % 2 = 0 then v.2 else v.2.setQueue ⟨c, q⟩ (y.lose (s.ctx c).step)
        else s
      else s) s) s

/-- The context whose work is on a core. -/
def Core.owner (k : Core) : Option Nat :=
  if k.st = 2 ∨ k.st = 3 then (match k.sprig with | some c => some c | none => k.ctx) else none

/-- Pages whose engine can be reset (R379): cores, controllers, ports, PLACE, MMU, SCHED. -/
def engineOf : Page → Bool
  | .core _ | .near _ | .bulk _ | .port _ | .place | .mmu | .sched => true
  | _ => false

/-- The start of an engine reset of a page (R379): ignored while one runs. -/
def State.engineStart (s : State) (page reason : Nat) : State :=
  let d2d := pgLink2 0 ≤ page && page < pgLink2 s.ident.variant.dies
  if !(d2d || engineOf (pageOf page) && s.present (pageOf page)) || (s.hdr page).reset then s
  else
    let h := s.hdr page
    let recent := h.times.filter (fun t => s.clk.now < t + 60000000000)
    let s := s.setHdr page { h with
      reset := true, resetAt := s.clk.now, reason, resetCtx := none, times := s.clk.now :: recent.take 3 }
    let third := decide (recent.length ≥ 2)
    match pageOf page with
    | .core c =>
      let owner := if reason = 0 then (s.core c).owner else none
      let s := s.charge.loseTiles (fun x => x = c)
      let s := match (s.core c).sprig with
        | some d => s.cutSprig c d
        | none => s
      let k := s.core c
      if third then (s.setCore c k.removed).logRas page 2 0x21 owner 0
      else s.setCore c { k.freed with st := if k.st = 6 then 6 else 0, drain := k.drain, selftest := false }
    | .port q =>
      if third then
        let s := s.portDown q
        let s := s.setPort q { s.port q with enable := false, removed := true }
        s.logRas page 2 0x21 none 0
      else if (s.port q).st = 3 then
        let p := s.port q
        s.setPort q { p with st := 1, moving := true, back := 3, movedAt := s.clk.now, locked := false, deadAt := some s.clk.now }
      else s
    | _ => if d2d then s.loseTiles (fun x => x / 40 = page - pgLink2 0) else s

/-- The end of an engine reset: record 0x20 with reason and duration; the engine returns to service. -/
def State.engineEnd (s : State) (page : Nat) : State :=
  let h := s.hdr page
  if !h.reset then s
  else
    let s := s.setHdr page { h with reset := false }
    let s := s.logRas (if pgLink2 0 ≤ page then pgRas else page) 2 0x20 h.resetCtx (h.reason + ((s.clk.now - h.resetAt) % 2 ^ 32) * 2 ^ 32)
    match pageOf page with
    | .core c =>
      let k := s.core c
      if k.st = 0 then s.setCore c { k with st := if k.drain then 4 else if s.regionDrained c then 4 else 1 } else s
    | _ => s

/-! ### Tamper (R351, R352) -/

/-- The first row: the battery domain zeroes its secrets and sets the latch. A life-cycle transition that waited for a
package reset goes: only the factory moves a tampered module (R352). -/
def State.tamperRoots (s : State) (src : TamperSource) : State :=
  { s with sec := { s.sec with root := none, domain := none, anchor := none, latch := true, source := some src, pending := none } }

/-- The rows from t0 + 20 µs on: keys zeroed, alert, fuse, package reset. -/
def State.tamperRest (s : State) : State :=
  let s := { s with
    mem := { s.mem with
      keySlots := s.mem.keySlots.map (fun (p : Nat × Nat) => (p.1, 0)), tableKey := 0, reserveKey := 0 }
    pins := { s.pins with ledTamper := true }
    sec := { s.sec with fuse := true, waits := [] } }
  let s := s.portsDown
  s.packageReset causeTamper

end Sys2Proof.Machine
end

