-- ==== Sys2Proof/Machine/Run.lean ====
section
/-! DEFINITION. Running the entries of a queue: which entry can run, its start, its end and what its status does to its list
(R55 to R59, R69, R87, R257, R260, R268, R298), and the calls of a Vilif-mode context (R274). -/

namespace Sys2Proof.Machine

/-! ### Which entry can run -/

/-- The module runs entries of slot c: firmware runs, no compute-part reset (R384) and no activation pause (R367) is
under way, the context is LIVE or DRAINING. -/
def State.serves (s : State) (c : Nat) : Bool :=
  s.live && !s.ras.cpActive && s.fw.act.isNone && ((s.ctx c).state = 1 || (s.ctx c).state = 4)

/-- While a period ends, only what is left of it runs: the FINALLY entries of the lists that drop, and what they call (R297). -/
def State.inPeriod (s : State) (q : QRef) : Bool := !(s.ctx q.slot).ending || (s.queue q).stack.any (·.dropping)

/-- Breakpoint n holds the current entry of a queue before it starts (R426): its TAG matches, or it is the next entry of the
list that a STEP named. -/
def State.breakHits (s : State) (q : QRef) (e : Entry) (n : Nat) : Bool :=
  let b := s.wl n
  b.enable && b.held.isNone && b.slot = q.slot &&
    (match (s.queue q).stack with
     | [] => false
     | f :: _ => match b.next with | some x => x = (q, f.addr) | none => e.tag = b.tag)

def State.breaks (s : State) (q : QRef) (e : Entry) : Bool := [0, 1, 2, 3].any (fun n => s.breakHits q e n)

/-- The entry gives its tiles to sprigs (R292). -/
def Queue.gives (y : Queue) (e : Entry) : Bool := y.sprig && sprigOp e.op e.variant && !e.finally_

/-- The cores that the tiles of an entry may run on (R191): in the pool, not draining, loaded with its context, the cores of sprigs
for the queues and operators that give tiles to them (R292); on a die whose die-to-die interface is in its engine reset none (R379). -/
def State.coresFor (s : State) (q : QRef) (e : Entry) : List Nat :=
  s.pool.filter (fun k =>
    let x := s.core k
    x.st = 2 && x.holds = some q.slot && (x.sprig.isNone || (s.queue q).gives e) && !(s.hdr (pgLink2 (k / 40))).reset)

/-- Service entries (R380): INGEST, CHECKPOINT, RESTORE, RELEASE, LOG. -/
def serviceOp (op : Nat) : Bool := 0x80 ≤ op && op ≤ 0x84

/-- The control processor that runs the service entries of a queue (log 64). -/
def serverOf (q : QRef) : Nat := Config.server q.slot q.queue % 16

/-- A service entry waits while its processor is halted (R424). -/
def State.serverHalted (s : State) (q : QRef) (op : Nat) : Bool := serviceOp op && (s.cp (serverOf q)).halt

/-- The descriptors an entry names, with their positions. -/
def Queue.named (y : Queue) (e : Entry) : List (Nat × Desc) :=
  match y.stack with
  | [] => []
  | f :: _ =>
    match y.list f.addr with
    | none => []
    | some l => (List.range 6).filterMap (fun k =>
        match e.desc[k]? with
        | some i => if i = 0xFFFF then none else (l.descs[i]?).map (fun d => (k, d))
        | none => none)

/-- The pieces of the ranges a descriptor reaches in an iteration, within pages. -/
def Desc.chunks (d : Desc) (i : Nat) : List (Nat × Nat) :=
  (d.spans i).flatMap (fun p => piecesOf 65536 p.1.toNat (p.2.toNat + 1 - p.1.toNat))

/-- An engine reset holds an operand of the entry (R379). -/
def State.entryHeld (s : State) (q : QRef) (e : Entry) : Bool :=
  let y := s.queue q
  s.allHeld || (y.named e).any (fun p => (p.2.chunks y.iter).any (fun r => s.accessHeld q.slot r.1 r.2))

/-- The same of the current entry of a queue. -/
def State.queueHeld (s : State) (q : QRef) : Bool :=
  match (s.queue q).entry with
  | some e => s.entryHeld q e
  | none => s.allHeld

/-- The current entry of a queue, when it has this opcode and can run now. An operator of the cores needs one (R191). -/
def State.ready (s : State) (q : QRef) (op : Nat) : Option Entry :=
  let y := s.queue q
  if s.serves q.slot && s.inPeriod q && y.phase = .ready then
    match y.entry with
    | some e =>
      if e.op = op && (y.begun || !s.breaks q e) && (!needsCore op || !(s.coresFor q e).isEmpty)
          && !s.serverHalted q op && !s.entryHeld q e then some e
      else none
    | none => none
  else none

/-- The current entry starts: it takes the step number in force (R89). -/
def State.start (s : State) (q : QRef) : State :=
  s.modQueue q (fun y =>
    if y.begun then y else { y with begun := true, startStep := (s.ctx q.slot).step, startedAt := s.clk.now })

/-- The pages a descriptor reaches in an iteration. -/
def Desc.pages (d : Desc) (i : Nat) : List Nat :=
  ((d.spans i).flatMap (fun p =>
    let lo := p.1.toNat / 65536
    (List.range (p.2.toNat / 65536 + 1 - lo)).map (fun j => (lo + j) * 65536))).eraseDups

/-- What an operand makes of its frames' placement, as `noteClass` codes it: the descriptor's class (R70) and the entry's REUSE; a
gathered view is class 1 with REUSE 2 (R193), a class-4 descriptor without a tracking slot class 0 (R195). -/
def State.operandClass (s : State) (c : Nat) (e : Entry) (k : Nat) (d : Desc) : Nat :=
  let cls := sl d.cls 3 0
  if e.op = 0x60 && k = 1 then 1 + 32 + 64
  else if cls = 4 && !s.mem.seqs.any (fun x => x.slot = c && x.tensor = d.tensorId) then 128 + 16 * sl e.hint 1 0
  else cls + 16 * sl e.hint 1 0

/-- An output's contract tiles that the module's shard touches, with the elements it holds of each (R73). -/
def Desc.ownTiles (d : Desc) : List (Nat × Nat) :=
  (d.own.foldl (fun (a : SMap Nat) ix => tmod 0 a (d.tile ix) (· + 1)) [])

/-- The scale slot of a descriptor is read, and the tile adjustments of the module's shard (R113). -/
def State.meetScale (s : State) (c : Nat) (d : Desc) : State :=
  if d.scaleSlot = 0xFFFF || !d.format.scaled then s
  else
    let s := s.meet c (s.slotAddr c d.scaleSlot) 64
    match s.readSlot c d.scaleSlot with
    | .error _ => s
    | .ok sl => if sl.adjVa = 0 then s else (d.ownTiles).foldl (fun s t => s.meet c (tileVa sl d t.1) 4) s

/-- The operands an entry names are accessed: pins are met (R186), classes and line accesses noted (R184). -/
def State.touch (s : State) (q : QRef) (e : Entry) : State :=
  let y := s.queue q
  (y.named e).foldl (fun s p =>
    let s := s.meetScale q.slot p.2
    (p.2.chunks y.iter).foldl (fun s c =>
      s.touchPiece q.slot (some (s.operandClass q.slot e p.1 p.2)) ((outputs e.op e.variant).contains p.1) c) s) s

/-- The written extent of tracked sequences grows with the elements an entry has written (R195). -/
def State.grow (s : State) (q : QRef) (e : Entry) : State :=
  let y := s.queue q
  let ends := ((y.named e).filter (fun p => (outputs e.op e.variant).contains p.1 && sl p.2.cls 3 0 = 4)).flatMap (fun p =>
    ((p.2.spans y.iter).take 1).map (fun i => (p.2.tensorId, i.2.toNat + 1 - p.2.base)))
  if ends.isEmpty then s
  else { s with mem := { s.mem with seqs := s.mem.seqs.map (fun (x : Seq) =>
      if x.slot = q.slot then
        { x with extent := (ends.filter (fun p => p.1 = x.tensor)).foldl (fun a p => max a p.2) x.extent }
      else x) } }

/-- A command that runs the current entry of a queue, of opcode `op`. -/
def State.runEntry (s : State) (t : Nat) (q : QRef) (op : Nat) (f : State → Entry → State) : Res :=
  let s := s.tick t
  match s.ready q op with
  | none => .next s
  | some e => .next (f ((s.start q).touch q e) e)

/-- The phase of an entry that becomes the current one (R61). -/
def Entry.first (e : Entry) : Phase := if e.waits then .waiting else .ready

/-- SOURCE of a fault record (R264): 8 in the scale table, else `d`. -/
def State.sourceAt (s : State) (c : Nat) (a : Acc) (d : Nat) : Nat :=
  match a with
  | .fault va _ _ _ =>
    let r := s.ctxRec c
    if r.scaleTable ≠ 0 ∧ r.scaleTable ≤ va ∧ va < r.scaleTable + 1048640 then 8 else d
  | _ => d

/-! ### The next entry of a list (R59, R87, R298) -/

/-- Index after the LOOP_END that closes the loop begun at `i`. -/
def afterLoop (es : List Entry) (i : Nat) : Nat :=
  (((es.drop (i + 1)).foldl (fun (a : Nat × Nat × Bool) e =>
    if a.2.2 then a
    else if e.op = 0x04 then (a.1 + 1, a.2.1 + 1, false)
    else if e.op = 0x05 then (if a.2.1 = 0 then (a.1 + 1, 0, true) else (a.1 + 1, a.2.1 - 1, false))
    else (a.1 + 1, a.2.1, false)) (i + 1, 0, false)).1)

/-- Only FINALLY entries run now. -/
def Frame.skips (f : Frame) : Bool := f.failing || f.skipAt.isSome || f.dropping

/-- An entry at the frame's position is passed over: it completes without running. After SHARD_VERSION the LOOP_END of the iteration
runs, so that the loop goes on. -/
def Frame.passes (f : Frame) (e : Entry) : Bool :=
  f.skips && !e.finally_ && !(e.op = 0x05 && !f.failing && !f.dropping && f.skipAt = some f.loops.length)

/-- The phase of an entry that becomes the current one of a frame (R59, R61). -/
def Frame.phaseOf (f : Frame) (e : Entry) : Phase :=
  if f.passes e then .done (if f.dropping then .lateDropped else .aborted) else e.first

/-- Where the list goes on after an entry, which ran or did not: a loop that is passed over is passed once, so that a FINALLY entry in it
runs once; a LOOP_END that ends a skipped iteration ends the skip. -/
def Frame.move (f : Frame) (es : List Entry) (e : Entry) (ran : Bool) : Frame :=
  let g := { f with pos := f.jump.getD (f.pos + 1), jump := none }
  if ran then
    if e.op = 0x05 && f.skipAt = some (if f.jump.isSome then f.loops.length else f.loops.length + 1) then { g with skipAt := none } else g
  else if e.op = 0x04 then
    if sl e.imm0 31 0 = 0 then { g with pos := afterLoop es f.pos }
    else { g with loops := { start := f.pos, count := sl e.imm0 31 0, iter := 0 } :: g.loops }
  else if e.op = 0x05 then { g with loops := g.loops.drop 1 }
  else g

/-- What a status does to the list of its entry (R59). -/
def Frame.struck (f : Frame) (periodic : Bool) (st : Status) : Frame :=
  match st with
  | .ok | .nonfinite => f
  | .shardVersion =>
    if f.loops.isEmpty then { f with failing := true }
    else if f.skips then f
    else { f with skipAt := some f.loops.length }
  | .lateDropped => if periodic then { f with dropping := true } else { f with failing := true }
  | _ => { f with failing := true }

/-- A list after one of its entries has completed; a list that drops resumes after its PERIOD_MARK (R298). -/
def Frame.after (f : Frame) (es : List Entry) (periodic : Bool) (e : Entry) (ran : Bool) (st : Status) : Frame :=
  let g := ({ f with first := if f.first = Status.ok then st else f.first } : Frame).move es e ran
  if !ran && f.passes e then
    if e.op = 0x09 && f.dropping then { g with dropping := false, failing := false, skipAt := none } else g
  else g.struck periodic st

/-- The status that ends the call of a list whose LIST_END completed with `st` (R59, R298). -/
def Frame.result (f : Frame) (st : Status) : Status :=
  if f.dropping then .lateDropped else if f.first = .ok then st else f.first

/-- The objects in which a descriptor of a tree has its BASE, for the call of a queue. -/
def State.objectsOf (s : State) (q : QRef) (t : List AdmList) : State × Except Acc (List ObjRef) :=
  match readObjects q.slot 65536 s 0 with
  | (s, .error e) => (s, .error e)
  | (s, .ok os) => (s, .ok (os.filterMap (fun o =>
    if t.any (fun l => l.descs.any (fun d => o.2.1 ≤ d.base && d.base < o.2.1 + o.2.2)) then
      some { queue := q.queue, index := o.1, base := o.2.1, len := o.2.2 }
    else none)))

/-! ### Tracked sequences (R195) -/

/-- TENSOR_IDs of class-4 descriptors of a tree. -/
def seqIds (t : List AdmList) : List Nat :=
  ((t.flatMap (fun l => l.descs)).filter (fun d => sl d.cls 3 0 = 4)).map (·.tensorId) |>.eraseDups

/-- Give a sequence a tracking slot, or count it. -/
def State.track (s : State) (c id : Nat) : State :=
  if s.mem.seqs.any (fun x => x.slot = c && x.tensor = id) then
    { s with mem := { s.mem with seqs := s.mem.seqs.map (fun (x : Seq) =>
        if x.slot = c && x.tensor = id then { x with idleAt := none } else x) } }
  else if s.seqRoom c then { s with mem := { s.mem with seqs := s.mem.seqs ++ [{ slot := c, tensor := id }] } }
  else if s.mem.seqWait.contains (c, id) then s
  else { s with mem := { s.mem with untracked := satAdd 16 s.mem.untracked 1, seqWait := s.mem.seqWait ++ [(c, id)] } }

/-- The entries of a list with the counts of the loops they stand in. -/
def AdmList.scan (l : AdmList) : List (Entry × Option Nat) := (loopScan [] l.entries).getD []

/-- The descriptors an entry of a list names. -/
def AdmList.descsOf (l : AdmList) (e : Entry) : List Desc := e.desc.filterMap (fun k => if k = 0xFFFF then none else l.descs[k]?)

/-- The pages an entry names that are wanted near: of a PREFETCH entry all of them (R62), but of class 5 none (R185); of ATTN_FWD and
ATTN_BWD those of tracked sequences within the extent written (R195). Sequence or not. -/
def State.wantedNear (s : State) (c : Nat) (l : AdmList) (x : Entry × Option Nat) : List (Nat × Bool) :=
  let e := x.1
  (l.descsOf e).flatMap (fun d =>
    (d.iters x.2).flatMap (fun i =>
      let seq :=
        if e.op = 0x20 ∨ e.op = 0x21 then
          match s.mem.seqs.find? (fun q => q.slot = c && q.tensor = d.tensorId && sl d.cls 3 0 = 4) with
          | some q => ((d.pages i).filter (fun va => va < d.base + q.extent)).map (fun va => (va, true))
          | none => []
        else []
      seq ++ (if bit e.hint 2 && sl d.cls 3 0 ≠ 5 then (d.pages i).map (fun va => (va, false)) else [])))

/-- What admitted entries of a slot want near is noted (R62, R195), and moves start as they can. -/
def State.wantSlot (s : State) (c : Nat) (prefetch : Bool) : State :=
  let ws := (s.ctx c).queues.flatMap (fun p => p.2.tree.flatMap (fun l => l.scan.flatMap (s.wantedNear c l)))
  State.startMoves ((ws.filter (fun w => w.2 || prefetch)).foldl (fun s w =>
    match s.translate c w.1 false with
    | .ok y => if y.host then s else s.wantNear (y.addr / 65536) w.2
    | .error _ => s) s)

/-- Sequences that no admitted call of a slot names any more. -/
def State.idleSeqs (s : State) (c : Nat) : State :=
  let named := (s.ctx c).queues.flatMap (fun p => seqIds p.2.tree)
  { s with mem := { s.mem with
    seqs := s.mem.seqs.map (fun (x : Seq) =>
      if x.slot = c && x.idleAt.isNone && !named.contains x.tensor then { x with idleAt := some s.clk.now } else x)
    seqWait := s.mem.seqWait.filter (fun p => p.1 ≠ c || named.contains p.2) } }

/-! ### Calls -/

/-- The lists of a tree are read at admission, with their tables and micro-op lists (R56, R186). -/
def State.meetTree (s : State) (c : Nat) (t : List AdmList) : State :=
  t.foldl (fun s l =>
    let s := s.meet c l.addr (64 * l.entries.length)
    let s := match l.entries with | h :: _ => s.meet c h.imm1 (128 * l.descs.length) | [] => s
    l.micro.foldl (fun s m => s.meet c m.1 (8 * m.2.length)) s) s

/-- The phase in which a queue stands at its next entry. -/
def Queue.entering (y : Queue) : Phase :=
  match y.entry with
  | some e => e.first
  | none => .ready

/-- The admitted tree of a queue CALL starts with its first list (R57). -/
def State.startTree (s : State) (q : QRef) (addr : Nat) : State :=
  let t := (s.queue q).tree
  let s := s.modQueue q (fun y => { y with stack := [{ addr }], phase := .ready, begun := false, flight := .none })
  let s := s.modQueue q (fun y => { y with phase := y.entering })
  let s := ((seqIds t).foldl (fun s i => s.track q.slot i) s).wantSlot q.slot true
  if bit (s.ctxRec q.slot).mode 0 then
    match s.objectsOf q t with
    | (s, .error _) => s
    | (s, .ok os) =>
      let s := (s.meet q.slot (s.ctxRec q.slot).objectTable 32).modCtx q.slot (fun x => { x with objRefs := x.objRefs ++ os })
      os.foldl (fun s o => s.addRef q.slot o true) s
  else s

/-- A fault that the object table of a Vilif-mode context gives a call that starts (R250, R263). -/
def State.tableFault (s : State) (q : QRef) (t : List AdmList) : Option Acc :=
  if bit (s.ctxRec q.slot).mode 0 then
    match s.objectsOf q t with
    | (_, .error e) => some e
    | (_, .ok os) => s.countFault q.slot os
  else none

/-! ### The end of a period (R70, R297) -/

/-- The pages of period-scoped descriptors of a list, in every iteration that names them. -/
def periodPages (l : AdmList) : List Nat :=
  (((loopScan [] l.entries).getD []).flatMap (fun x =>
    x.1.desc.flatMap (fun k =>
      match l.descs[k]? with
      | some d =>
        if k ≠ 0xFFFF && bit d.cls 6 then
          (d.iters x.2).flatMap (fun i =>
            (({ d with versionVa := 0 } : Desc).spans i).flatMap (fun p =>
              let lo := p.1.toNat / 65536
              (List.range (p.2.toNat / 65536 + 1 - lo)).map (fun j => lo + j)))
        else []
      | none => []))).eraseDups

/-- A queue CALL has completed: its tree and its object references go; the pages of its period-scoped ranges are kept for the end of
the period (R70). -/
def State.endTree (s : State) (q : QRef) : State :=
  let s := s.modCtx q.slot (fun x =>
    if bit (x.record.getD {}).mode 2 then
      { x with scratch := (x.scratch ++ (x.queue q.queue).tree.flatMap periodPages).eraseDups }
    else x)
  let s := s.modQueue q (fun y => { y with tree := [], stack := [] })
  (s.dropRefs q).idleSeqs q.slot

/-- The device unbacks the frames of a context's period-scoped ranges. -/
def State.clearPeriod (s : State) (c : Nat) : State :=
  let pages := ((s.ctx c).scratch ++ (s.ctx c).queues.flatMap (fun p => p.2.tree.flatMap periodPages)).eraseDups
  pages.foldl (fun s v =>
    match s.translate c (v * 65536) false with
    | .ok x => if x.host then s else s.unback (x.addr / 65536)
    | .error _ => s) s

/-- Nothing of the ended period is left on a queue but what waits for the new one. -/
def Queue.ended (y : Queue) : Bool :=
  (y.stack.all (fun f => !f.dropping) && decide (y.phase ≠ .done .lateDropped)) || (y.phase = .running && y.flight = .period)

/-- Step n begins, unless it is the one in force: the counts of a step go on where they stood when it was last in force (R92); rows
that came late eight steps ago are forgotten (R211, R237, log 115). -/
def Ctx.newStep (x : Ctx) (n : Nat) : Ctx :=
  if n = x.step then x
  else
    let past := tput {} x.past x.step x.stats
    { x with step := n, stats := tget {} past n, past := tput {} past n {}, accN := [], releases := [], updated := []
             dead := x.dead.filter (fun p => decide ((n % 16 + 16 - sl p.2 47 44) % 16 < 8)) }

/-- The last rows of R297: once its FINALLY entries have run, the period's scratch is unbacked, the step number rises,
and waiting PERIOD_MARKs complete. -/
def State.closePeriod (s : State) (c : Nat) : State :=
  if (s.ctx c).ending && (s.ctx c).queues.all (fun p => p.2.ended) then
    let s := s.clearPeriod c
    s.modCtx c (fun x => { x.newStep ((x.step + 1) % 2 ^ 64) with
      ending := false, scratch := []
      queues := x.queues.map (fun (p : Nat × Queue) =>
        (p.1, if p.2.flight = .period then { p.2 with phase := .done .ok, flight := .none } else p.2)) })
  else s

/-! ### Completion (R59, R85, R257) -/

/-- The step an entry of a queue belongs to (R89): the one it started in, else the one in force. -/
def Ctx.stepOf (x : Ctx) (y : Queue) : Nat := if y.begun then y.startStep else x.step

/-- Counts of a completed entry of a step: NONFINITE for the next SCALE_UPDATE (R122), SHARD_VERSION and RESET_LOST (R91). DESIGN CHOICE
(log 107): a CALL that passes such a status on is an entry that completed with it, and counts too. -/
def Ctx.count (x : Ctx) (step : Nat) (st : Status) : Ctx :=
  let x := x.tally 0 1
  ({ x with span := x.span || decide (st = Status.nonfinite) }).book step (fun r => { r with
    shardVersion := r.shardVersion + b2n (st = Status.shardVersion)
    resetLost := r.resetLost + b2n (st = Status.resetLost) })

/-- An entry's tiles have left the finished-tile queue, and with them, in order, those that entered it before (R169). -/
def leaveFtq (q : QRef) : List FTile → List FTile
  | [] => []
  | t :: r => if r.any (fun x => x.q = q) then leaveFtq q r else if t.q = q then r else t :: r

/-- An entry's work on the cores has ended: its loads and tiles go, and its words of the working regions are released (R137, R167)
unless the next entry is fused to it. -/
def Core.release (k : Core) (q : QRef) (fused : Bool := false) : Core :=
  { k with
    loads := k.loads.filter (fun l => l.q ≠ q)
    ftq := if k.ftq.any (fun t => t.q = q) then leaveFtq q k.ftq else k.ftq
    cache := if k.cache.owner = some q && !fused then { state := k.cache.state } else k.cache }

def State.releaseWork (s : State) (q : QRef) (fused : Bool := false) : State :=
  { s with cores := (s.cores.map (fun (p : Nat × Core) => (p.1, p.2.release q fused))).filter (fun p => decide (p.2 ≠ {})) }

/-- The entry behind the current one of a list is the NORM_BWD that the device fuses with this MATMUL_BWD_PAIR: it reads the pair's dX,
and 128 rows of it take at most 896 KiB (R148; log 98: the entry that stands next). -/
def Queue.fuses (y : Queue) (e : Entry) : Bool :=
  match y.stack with
  | [] => false
  | f :: _ =>
    match y.list f.addr with
    | none => false
    | some l =>
      match l.entries[f.pos + 1]?, y.desc 3 with
      | some n, some d => e.op = 0x11 && n.op = 0x23 && n.desc[0]? = e.desc[3]? && decide (128 * d.len 0 * d.format.bits ≤ 8 * 917504)
      | _, _ => false

/-- The current entry has completed with a status: the ring's next entry, the end of a call, or the list's next
entry. -/
def State.advance (s : State) (q : QRef) (e : Entry) (st : Status) : State :=
  let s := if st = .ok ∨ st = .nonfinite then (s.grow q e).wantSlot q.slot false else s
  let s := (s.emit (.entry q.slot q.queue e.tag st)).modCtx q.slot (fun x => x.count (x.stepOf (x.queue q.queue)) st)
  let s := s.releaseWork q ((s.queue q).fuses e)
  let s := s.perf 0x0A q.slot e.op e.tag 1
  let y := s.queue q
  match y.stack with
  | [] =>
    let s := if e.op = 0x03 then s.endTree q else s
    s.modQueue q (fun y => { y with
      cur := none, phase := .idle, flight := .none, begun := false, kept := none, work := []
      head := wrapAdd 32 y.head 1
      lastStatus := if st = .ok then y.lastStatus else st.code })
  | f :: r =>
    if e.op = 0x02 then
      s.setQueue q { y with stack := r, phase := .done (f.result st), flight := .none, begun := true, kept := none, work := [] }
    else
      match y.list f.addr with
      | none => s
      | some l =>
        let g := f.after l.entries (bit (s.ctxRec q.slot).mode 2) e y.begun st
        s.setQueue q { y with
          stack := g :: r, flight := .none, begun := false, kept := none, work := []
          phase := match l.entries[g.pos]? with | some e' => g.phaseOf e' | none => .ready }

/-- An access at the completion of an entry fails for good: its record or its counts (R264). -/
def State.noteStop (s : State) (q : QRef) (e : Entry) (a : Acc) : State :=
  match a with
  | .fault va r w _ => (s.fault q.slot q.queue e.tag 8 va r w false).1
  | a => s.noteAcc (some q.slot) a

/-- The status of an entry whose completion met such a failure. -/
def Status.worse (st : Status) (a : Acc) : Status := if st = .ok ∨ st = .nonfinite then a.status else st

/-- The completion of the current entry: a RETIRE scrubs its frames (R258), a call's object references must be within reach (R274), its
fence is signalled with its status (R85; a FENCE_SIGNAL that ran has signalled), then its list goes on. -/
def State.complete (s : State) (q : QRef) : State :=
  let y := s.queue q
  match y.phase, y.entry with
  | .done st, some e =>
    let done := fun (s : State) (st : Status) => (s.advance q e st).closePeriod q.slot
    let mine := if y.stack.isEmpty then (s.ctx q.slot).objRefs.filter (fun r => r.queue = q.queue) else []
    let s := match y.flight with | .scrub fs => s.scrubFrames fs | _ => s
    match s.countFault q.slot mine with
    | some (.fault va r w true) => s.failEntry q e.tag 8 (.done st) (.fault va r w true)
    | f =>
      let x := match f with | some a => (s.noteStop q e a, st.worse a) | none => (s, st)
      if e.signals && (e.op ≠ 0x08 || x.2 ≠ .ok) then
        match x.1.signalFence q.slot e.signalFence e.signalValue x.2 with
        | (s, none) => done s x.2
        | (s, some (.fault va r w true)) => s.failEntry q e.tag 8 (.done st) (.fault va r w true)
        | (s, some a) => done (s.noteStop q e a) (x.2.worse a)
      else done x.1 x.2
  | _, _ => s

/-! ### Fences of entries (R260) -/

/-- What the wait of an entry comes to now: none while it is not satisfied. -/
def State.waitTest (s : State) (c : Nat) (e : Entry) : Except Acc (Option Status) :=
  if e.waitFence = 0xFFFF then .ok (some (if e.op = 0x07 then .contractUnsupported else .ok))
  else if e.waitFence ≥ (s.ctxRec c).fenceCount then .ok (some .contractUnsupported)
  else
    match s.fenceTest c e.waitFence e.waitValue with
    | .error a => .error a
    | .ok none => .ok none
    | .ok (some st) => .ok (some (if st = .ok ∨ st = .nonfinite then .ok else .abandoned))

/-- A waiting entry starts, or completes without running. -/
def State.wake (s : State) (q : QRef) : State :=
  let y := s.queue q
  match y.phase, y.entry with
  | .waiting, some e =>
    let s := if e.waitFence < (s.ctxRec q.slot).fenceCount then s.meet q.slot (s.fenceVa q.slot e.waitFence) 16 else s
    match s.waitTest q.slot e with
    | .error a => s.failEntry q e.tag 8 .waiting a
    | .ok none => s
    | .ok (some .ok) => s.setQueue q { y with phase := if e.op = 0x07 then .done .ok else .ready }
    | .ok (some st) => s.setQueue q { y with phase := .done st }
  | _, _ => s

end Sys2Proof.Machine
end

