-- ==== Sys2Proof/Machine/Compute.lean ====
section
/-! DEFINITION. What the operators of the cores share: products in passes, P16 running sums, micro-op lists, moving rows, the
assay unit, and running a computing entry (R72 to R74, R101 to R109, R120, R123, R124, R152, R156 to R164). -/

namespace Sys2Proof.Machine

def each {α β : Type} (l : List α) (f : α → Except Acc β) : Except Acc (List β) := collect (l.map f)

/-- An index list cut or filled to a rank. -/
def fit (rank : Nat) (l : List Nat) : List Nat := (l ++ List.replicate 6 0).take rank

/-- The draws of an entry's write to a descriptor (R104, R105). -/
def State.rnd (s : State) (c : Nat) (y : Queue) (d : Desc) (purpose pass : Nat) (opt : Bool := false) : Rnd :=
  { seed := (s.ctxRec c).jobSeed, purpose, pass, tensor := d.tensorId, step := y.startStep % 2 ^ 32, opt }

/-- Earlier accumulating writes to a TENSOR_ID in the step (R105, purpose 2). -/
def State.accPass (s : State) (c : Nat) (d : Desc) : Nat := tget 0 (s.ctx c).accN d.tensorId % 4096

/-! ### Products (R106) -/

/-- One pass: exact products added in order into the 26-bit accumulator, starting from zero. -/
def passSum (terms : List (Val × Val)) : Val := terms.foldl (fun acc p => acc26 (acc.add (p.1.mul p.2))) .zero

/-- The results of the passes of one output element. -/
def passesOf (terms : List (Val × Val)) : List Val := (groupsOf 2048 terms).map passSum

/-- The values of a P16 block. -/
def blockVals (b : Nat × List Int) : List Val := b.2.map (fun f => decP16 (ofSigned 16 f) b.1)

/-- An output block's result: its P16 running sum when there is more than one pass, and the values. -/
def runPasses (draw : Nat → Nat → Nat) (pos : List Nat) : List (List Val) → Option (Nat × List Int) × List Val
  | [] => (none, pos.map (fun _ => Val.zero))
  | [v] => (none, v)
  | v :: r =>
    let b := (r.foldl (fun (a : (Nat × List Int) × Nat) w =>
      (p16Block ((blockVals a.1).zipWith Val.add w) (some (pos.map (draw a.2))), a.2 + 1))
      (p16Block v (some (pos.map (draw 0))), 1)).1
    (some b, blockVals b)

/-- One output block of up to 32 elements along DIM0. -/
structure OutBlock where
  ixs  : List (List Nat)
  raw  : Option (Nat × List Int)
  vals : List Val
  deriving DecidableEq, Repr

/-- Cut a list of indices, DIM0 fastest, at multiples of 32 along DIM0. -/
def blocksOf : List (List Nat) → List (List (List Nat))
  | [] => []
  | ix :: r =>
    match blocksOf r with
    | (jx :: b) :: bs =>
      if (ix[0]?).getD 0 / 32 = (jx[0]?).getD 0 / 32 ∧ ix.drop 1 = jx.drop 1 then (ix :: jx :: b) :: bs
      else [ix] :: (jx :: b) :: bs
    | bs => [ix] :: bs

/-- The blocks of an output from the pass results of each element (all of one number of passes). -/
def State.outBlocks (s : State) (c : Nat) (y : Queue) (d : Desc) (ixs : List (List Nat))
    (f : List Nat → Except Acc (List Val)) : Except Acc (List OutBlock) :=
  each (blocksOf ixs) (fun b => do
    let ps ← each b f
    let n := (ps.map List.length).foldl max 0
    let passes := (List.range n).map (fun p => ps.map (fun l => (l[p]?).getD .zero))
    let draw := fun (p pos : Nat) => (s.rnd c y d 1 p).at pos
    let r := runPasses draw (b.map d.pos) passes
    .ok { ixs := b, raw := r.1, vals := r.2 })

def valuesOf (bs : List OutBlock) : List (List Nat × Val) := bs.flatMap (fun b => b.ixs.zip b.vals)

/-- The P16 blocks that are their running sums (R106). -/
def rawWrite (d : Desc) (bs : List OutBlock) : Eff :=
  bs.foldl (fun a b =>
    match b.raw, b.ixs with
    | some r, ix :: _ =>
      a.join { writes := [(d.addr (d.off ix), r.2.foldr (fun f acc => toLE 2 (ofSigned 16 f) ++ acc) []),
                          (d.sideAddr (d.off ix), toLE 1 r.1)]
               nf := decide (r.1 = 255) }
    | _, _ => a) {}

/-- Add computed values to the existing output exactly, with one rounding (R106, purpose 2). -/
def State.accumulate (s : State) (c : Nat) (y : Queue) (d : Desc) (vals : List (List Nat × Val)) : Except Acc Eff := do
  let old ← s.readElems c d (vals.map (·.1))
  s.encode c d (s.rnd c y d 2 (s.accPass c d)) ((vals.zip old).map (fun p => (p.1.1, p.2.add p.1.2)))

/-- The write of a product without an epilogue (R106): a P16 block of more than one pass is its running sum, any other
result is rounded once to the output's format. -/
def State.writeProduct (s : State) (c : Nat) (y : Queue) (d : Desc) (acc : Bool) (bs : List OutBlock) : Except Acc Eff :=
  if acc then s.accumulate c y d (valuesOf bs)
  else if d.format = .p16 then do
    let e ← s.encode c d (s.rnd c y d 0 0) (valuesOf (bs.filter (fun b => b.raw.isNone)))
    .ok ((rawWrite d bs).join e)
  else s.encode c d (s.rnd c y d 0 0) (valuesOf bs)

/-! ### Micro-op lists (R157, R159, R160, R164) -/

/-- A source: a register, an input, the constant, +0 or +1. -/
def microSrc (regs ins : List Val) (imm sel : Nat) : Val :=
  if sel < 16 then (regs[sel]?).getD .zero
  else if sel < 0x13 then (ins[sel - 16]?).getD .zero
  else if sel = 0x13 then decV24 (BitVec.ofNat 24 imm)
  else if sel = 0x15 then .one
  else .zero

/-- The result of one operation; `u` the uniform value of a draw index. -/
def microVal (u : Nat → Val) (m : MicroOp) (a b c : Val) : Val :=
  match m.op with
  | 0x02 => vAdd a b
  | 0x03 => vSub a b
  | 0x04 => vMul a b
  | 0x05 => vFma a b c
  | 0x06 => vMax a b
  | 0x07 => vMin a b
  | 0x08 => a.abs
  | 0x09 => a.negate
  | 0x0A => vExp2 a
  | 0x0B => vLog2 a
  | 0x0C => vRcp a
  | 0x0D => vRsqrt a
  | 0x0E => vTanh a
  | 0x0F => vSigmoid a
  | 0x10 => if vCmp m.md a b then .one else .zero
  | 0x11 => if c.isZero then b else a
  | 0x20 => u (m.imm % 4096)
  | 0x21 => if vCmp 2 (u (m.imm % 4096)) b then a else .zero
  | _ => a

/-- One pass of a list over an element: the values written by OUT, by output. -/
def microRun (u : Nat → Val) (ins : List Val) (ops : List MicroOp) : List (Nat × Val) :=
  (ops.foldl (fun (r : List Val × List (Nat × Val)) m =>
    let src := microSrc r.1 ins m.imm
    let v := microVal u m (src m.a) (src m.b) (src m.c)
    if m.op = 0x30 then (r.1, r.2 ++ [(m.md, v)]) else (r.1.set m.dst v, r.2))
    (List.replicate 16 Val.zero, [])).2

/-- The uniform draws of an element (R164). -/
def State.uniform (s : State) (c : Nat) (y : Queue) (d : Desc) (pos i : Nat) : Val :=
  .fin false (sl (draw0 (s.ctxRec c).jobSeed 6 i pos d.tensorId (y.startStep % 2 ^ 32)) 31 16) (-16)

def outOf (l : List (Nat × Val)) (k : Nat) : Val := ((l.find? (fun p => p.1 = k)).map (·.2)).getD .zero

/-! ### Moving rows as stored -/

/-- Byte addresses of the elements and side bytes at a list of indices. -/
def Desc.bytesAt (d : Desc) (ixs : List (List Nat)) : List Nat :=
  let p := d.streamIn d.shardIndex ixs
  p.1 ++ p.2

/-- Writes that move bytes between two lists of indices of equal shape. -/
def State.moveRows (s : State) (c : Nat) (a : Desc) (ai : List (List Nat)) (b : Desc) (bi : List (List Nat))
    (u : HostUse := .no) : Except Acc (List (Nat × Bytes)) :=
  match s.readAddrs c (a.bytesAt ai) u with
  | .ok d => .ok (writesAt (b.bytesAt bi) d)
  | .error e => .error e

/-- Writes of zeros at a list of indices. -/
def zeroRows (b : Desc) (bi : List (List Nat)) : List (Nat × Bytes) :=
  let as := b.bytesAt bi
  writesAt as (zeros as.length)

/-- Add a loss contribution exactly (R92). -/
def Stats.addLoss (x : Stats) (v : Val) : Stats :=
  match v with
  | .fin n m e =>
    let g := if x.lossM = 0 then e else min e x.lossE
    { x with
      lossSeen := true
      lossE := g
      lossM := (if x.lossM = 0 then 0 else x.lossM * 2 ^ (x.lossE - g).toNat) + onGrid n m e g }
  | _ => { x with lossSeen := true, lossBad := true }

/-- The step's loss as the record carries it: fraction and exponent, non-finite (R92). DESIGN CHOICE (log 125): the exponent is that of a
P16 block of this one value (R102). -/
def scalar16 (v : Val) : Nat × Nat :=
  let b := p16Block [v] none
  (ofSigned 16 ((b.2[0]?).getD 0), b.1)

/-- The total loss of the step: NaN when a contribution was non-finite. -/
def Stats.loss (x : Stats) : Val := if x.lossBad then .nan else ofInt x.lossM x.lossE

def Stats.lossNf (x : Stats) : Bool := x.lossSeen && (scalar16 x.loss).2 = 255

/-- The counts of a computing entry in the record of its step (R48, R92). -/
def Stats.took (x : Stats) (r : Done) : Stats :=
  let x := { x with overflow := x.overflow + r.eff.ovf }
  match r.loss with
  | some v => x.addLoss v
  | none => x

/-- A loss is non-finite: what an entry adds, or the total it makes (R122). -/
def Stats.lossEvent (x : Stats) (r : Done) : Bool :=
  match r.loss with
  | some v => !v.isFin || ((x.took r).lossNf && !x.lossNf)
  | none => false

/-! ### Work on the cores (R131 to R137, R150, R166 to R170, R191) -/

/-- The contract tiles of an entry's outputs, with their elements. -/
def Queue.outTiles (y : Queue) (e : Entry) : List (Nat × Nat) :=
  (outputs e.op e.variant).flatMap (fun k => match y.desc k with | some d => d.ownTiles | none => [])

/-- A product that an entry lowers to the arrays: the length of its sum, its operand forms, the position of its output. -/
structure Product where
  len : Nat
  a   : Fmt
  b   : Fmt
  out : Nat
  deriving DecidableEq, Repr

/-- The products of an entry (R72, R74, R144); the dW of a shared W sums over the rows of every batch index. -/
def Queue.prods (y : Queue) (e : Entry) : List Product :=
  let f := fun k => (y.d k).format
  match e.op with
  | 0x10 | 0x12 => [⟨(y.d 0).len 0, f 0, f 1, 2⟩]
  | 0x11 | 0x13 =>
    let rows := if (y.d 1).rank = 2 then ((y.d 0).dims.drop 1).foldl (· * ·) 1 else (y.d 0).len 1
    [⟨rows, f 2, f 0, 4⟩] ++ (if bit e.variant 1 then [] else [⟨(y.d 0).len 0, f 0, f 1, 3⟩])
  | 0x20 => [⟨(y.d 0).len 0, f 0, f 0, 1⟩]
  | 0x21 => [⟨(y.d 1).len 2, f 1, f 1, 4⟩]
  | _ => []

/-- Bytes of 32 elements in operand form (R135). -/
def Fmt.form32 : Fmt → Nat
  | .p16 => 65
  | .b16 | .bf16 | .x16 => 64
  | .mxfp8 => 33
  | .mxfp4 => 17
  | _ => 32

/-- The working set of a lowered block of Mb × Nb outputs of a product with chunks of Kd (R137). -/
def blockLoad (q : QRef) (tag mb nb kd : Nat) (p : Product) : Load :=
  let t := mb * nb / 16384
  { q, tag
    panels := 2 * (mb * kd * p.a.form32 + kd * nb * p.b.form32) / 32
    sums := if p.len > 2048 then 33280 * t else 0
    accs := if kd < min p.len 2048 then 81920 * t else 0
    chunks := 0 }

/-- The working sets of an entry's products together: a pair runs both on its core (R137, R142). -/
def Load.join (l m : Load) : Load := { l with panels := l.panels + m.panels, sums := l.sums + m.sums, accs := l.accs + m.accs }

/-- A working set that the operand store can hold (R137, R138). -/
def Load.fits (l : Load) : Bool := decide (l.bytes ≤ 5368 * 1024) && decide (l.sums + l.accs ≤ 2 * 1024 * 1024)

/-- The blocks the device chooses for an entry's products, by a free number `v`: any that fit, else the smallest, which always do
(R138, log 98). -/
def chooseLoad (q : QRef) (tag v : Nat) (ps : List Product) : Load :=
  let of := fun (mb nb kd : Nat) =>
    (ps.map (blockLoad q tag mb nb kd)).foldl Load.join { q, tag, panels := 0, sums := 0, accs := 0, chunks := 0 }
  let l := of (128 * (1 + v % 8)) (128 * (1 + v / 8 % 8)) (128 * 2 ^ (v / 64 % 5))
  { (if l.fits then l else of 128 128 128) with chunks := v / 320 % ((ps.map (·.len)).foldl max 0 / 128 + 1) }

/-- The element x of operand j enters the element o of output k: for a product by their row and column, for any other operator by
their row. -/
def feeds (op k j : Nat) (o x : List Nat) : Bool :=
  let at_ := fun (l : List Nat) (i : Nat) => (l[i]?).getD 0
  let batch := x.length ≤ 2 || o.length ≤ 2 || x.drop 2 = o.drop 2
  match op, k, j with
  | 0x10, 2, 0 | 0x12, 2, 0 | 0x11, 3, 0 | 0x13, 3, 0 => at_ x 1 = at_ o 1 && batch
  | 0x10, 2, 1 | 0x12, 2, 1 | 0x11, 4, 0 | 0x13, 4, 0 => at_ x 0 = at_ o 0 && batch
  | 0x11, 3, 1 | 0x13, 3, 1 => at_ x 1 = at_ o 0 && batch
  | 0x11, 4, 2 | 0x13, 4, 2 => at_ x 0 = at_ o 1 && batch
  | _, _, _ => x.length < 2 || o.length < 2 || x.drop 1 = o.drop 1

/-- The compute die whose near stacks hold an address of a context. -/
def State.nearDie (s : State) (c va : Nat) : Option Nat :=
  match s.translate c va false with
  | .ok x =>
    if x.host then none
    else match tget none s.mem.frames (x.addr / 65536) with
      | some b => if b.tier = 0 then some (b.stack / 4) else none
      | none => none
  | .error _ => none

/-- The elements of an entry's operands that a tile of output k reads or writes. -/
def Queue.tileElems (y : Queue) (e : Entry) (k : Nat) (d : Desc) (t : Nat) : List (Desc × List Nat) :=
  let os := d.own.filter (fun ix => d.tile ix = t)
  os.map (fun ix => (d, ix))
    ++ ((y.named e).filter (fun p => !(outputs e.op e.variant).contains p.1)).flatMap (fun p =>
      (p.2.own.filter (fun x => os.any (fun o => feeds e.op k p.1 o x))).map (fun x => (p.2, x)))

/-- The compute die that a tile prefers: the one whose near stacks hold more of its operand bytes, die 0 on a tie (R191). -/
def State.tileDie (s : State) (c : Nat) (y : Queue) (e : Entry) (k : Nat) (d : Desc) (t : Nat) : Nat :=
  let xs := (y.tileElems e k d t).map (fun p => (s.nearDie c (p.1.addr (p.1.off p.2)), p.1.format.bits))
  let on : Nat → Nat := fun die => (xs.filter (fun p => p.1 = some die)).foldl (fun a p => a + p.2) 0
  if on 0 < on 1 then 1 else 0

/-- The count of the group that a tile belongs to, in the grouped forms (R141). -/
def State.tileCount (s : State) (c : Nat) (y : Queue) (e : Entry) (d : Desc) (t : Nat) : Option Nat :=
  let n := if e.op = 0x12 then y.desc 3 else if e.op = 0x13 then y.desc 5 else none
  match n, (d.own.filter (fun ix => d.tile ix = t)).head? with
  | some n, some ix => (s.readIndex c n [(ix[2]?).getD 0]).toOption
  | _, _ => none

/-- Passes over an array of a product's tile: one for each 2,048 indices of its sum (R132, R155); rows beyond a group's count take no
array time (R141). -/
def State.tilePasses (s : State) (c : Nat) (y : Queue) (e : Entry) (p : Product) (d : Desc) (t : Nat) : Nat :=
  match s.tileCount c y e d t with
  | none => cdiv p.len 2048
  | some n =>
    if p.out = 4 then cdiv (min p.len (128 * cdiv n 128)) 2048
    else
      let row := ((d.own.filter (fun ix => d.tile ix = t)).head?).map (fun ix => (ix[1]?).getD 0 / 128 * 128)
      if row.getD 0 < n then cdiv p.len 2048 else 0

/-- The tiles of an entry's products that take array time, each with the die it prefers and its passes; the passes of the attention
steps count apart (log 98). -/
def State.arrayTiles (s : State) (q : QRef) (e : Entry) : List (Nat × Nat) :=
  let y := s.queue q
  let attn := e.op = 0x20 ∨ e.op = 0x21
  (y.prods e).flatMap (fun p =>
    match y.desc p.out with
    | none => []
    | some d => (d.ownTiles.map (fun t =>
        (s.tileDie q.slot y e p.out d t.1, if attn then 0 else s.tilePasses q.slot y e p d t.1))).filter (fun x => attn || x.2 > 0))

/-- The dies that the tiles of an entry prefer. -/
def State.diesOf (s : State) (q : QRef) (e : Entry) : List Nat :=
  let y := s.queue q
  ((outputs e.op e.variant).flatMap (fun k =>
    match y.desc k with
    | some d => d.ownTiles.map (fun t => s.tileDie q.slot y e k d t.1)
    | none => [])).eraseDups

/-- The cores of a die among some; all of them when it has none. -/
def onDie (ks : List Nat) (die : Nat) : List Nat :=
  let mine := ks.filter (fun k => k / 40 = die)
  if mine.isEmpty then ks else mine

/-- The cores that take an entry's tiles (R191, log 98). -/
def State.placed (s : State) (q : QRef) (e : Entry) : List Nat :=
  let ks := s.coresFor q e
  let ds := s.diesOf q e
  ks.filter (fun k => (if ds.isEmpty then [0] else ds).any (fun d => (onDie ks d).contains k))

/-- Core i of the list takes in the entry's work: what was saved of it or a chosen block, and words of its stores (R131, R137, R150,
R152, R166, R167); the working region of a fused producer stays (R148). -/
def State.load (s : State) (q : QRef) (e : Entry) (k i : Nat) : State :=
  let y := s.queue q
  match y.work[i]? with
  | some x => s.takeBack k q.slot x
  | none =>
    let v := s.draw
    let a := v.2.draw
    let b := a.2.draw
    let old := b.2.core k
    let x : Core := { old with
      loads := [chooseLoad q e.tag v.1 (y.prods e)], used := true
      cache := if old.cache.owner = some q then old.cache else { state := some a.1, working := some b.1, owner := some q }
      words := { store := some v.1, banks := [v.1, a.1, b.1, v.1 + 1], buffer := some a.1 } }
    b.2.setCore k { x with peak := max x.peak x.workKib }

/-- An entry's work enters its cores. -/
def State.occupy (s : State) (q : QRef) (e : Entry) : State :=
  let ks := s.placed q e
  let s := (ks.zip (List.range ks.length)).foldl (fun s p => s.load q e p.1 p.2) s
  s.modQueue q (fun y => { y with work := [] })

/-- The cores that hold an entry's work. -/
def State.coresOf (s : State) (q : QRef) : List Nat := s.coreList.filter (fun k => (s.core k).loads.any (fun l => l.q = q))

/-- An entry's work that a fault parks leaves its cores for the save area, without its panels (R150, R152, R168, log 97). A fault on
the save area makes a quench due (R250). -/
def State.parkWork (s : State) (q : QRef) : State :=
  (s.coresOf q).foldl (fun s k =>
    let x := s.core k
    let mine : Core := { x with loads := x.loads.filter (fun l => l.q = q) }
    let s := s.setCore k { x.release q with cache := {}, words := {} }
    let v := s.draw
    match v.2.vwrite q.slot (s.savePart q.slot k) (toLE mine.saveBytes v.1) with
    | (s, none) => s.modQueue q (fun y => { y with work := y.work ++ [mine.keeps k] })
    | (s, some _) => s.modCtx q.slot (fun y => { y with owes := true })) s

/-- Lane cycles that an entry's consumer of the finished-tile queue spends on a tile (R170): 64 for each micro-op of an epilogue; 256,
which R170 gives the steps of R144, in a forward attention too (DESIGN CHOICE, log 98). -/
def tileCycles (y : Queue) (e : Entry) : Nat :=
  if e.op = 0x20 ∨ e.op = 0x21 then 256
  else if e.op = 0x10 ∧ e.imm0 ≠ 0 then 64 * (y.micro (sl e.imm0 56 0) (sl e.imm0 63 58)).length
  else 0

/-- Tiles of a consumer that may stand in the queue at once (R170). -/
def queueCap (cycles : Nat) : Nat := if cycles = 0 then 16 else min 16 (2048 / cycles)

/-- Share i of `n` things dealt to `m` takers. -/
def share (n m i : Nat) : Nat := n / m + (if i < n % m then 1 else 0)

/-- A core has run `mine` tiles of an entry in so many passes: its count rises, and tiles have passed through the finished-tile queue,
of which some still stand in it (R155, R169, R170, log 98). -/
def State.tileWork (s : State) (q : QRef) (y : Queue) (e : Entry) (mine passes k : Nat) : State :=
  let v := s.draw
  let x := v.2.core k
  let cap := min (min (queueCap (tileCycles y e)) (16 - x.ftq.length)) mine
  let high := if cap = 0 then 0 else 1 + v.1 % cap
  let left := v.1 / 16 % (high + 1)
  let x := { x with
    tiles := wrapAdd 64 x.tiles passes
    ftqHigh := max x.ftqHigh (x.ftq.length + high)
    ftq := x.ftq ++ (List.range left).map (fun j => { q, tile := mine - left + j }) }
  v.2.setCore k x

/-- The tiles of an entry have run on the cores that hold its work, dealt evenly to those of the die that each prefers; how many passes
an attention entry makes is free (log 98). The contract tiles count for its context (R345). -/
def State.tilesRun (s : State) (q : QRef) (e : Entry) : State :=
  let ks := s.coresOf q
  let y := s.queue q
  let ts := s.arrayTiles q e
  let dealt := [0, 1].flatMap (fun d =>
    let mine := ts.filter (fun t => t.1 = d)
    let on := onDie ks d
    (mine.zip (List.range mine.length)).map (fun p => ((on[p.2 % max on.length 1]?).getD 0, p.1.2)))
  let v := s.draw
  let free := if e.op = 0x20 ∨ e.op = 0x21 then v.1 % 2 ^ 32 else 0
  let s := (ks.zip (List.range ks.length)).foldl (fun s p =>
    let mine := dealt.filter (fun t => t.1 = p.1)
    s.tileWork q y e mine.length (mine.foldl (fun a t => a + t.2) (share free ks.length p.2)) p.1) v.2
  s.modCtx q.slot (fun x => x.tally 1 (y.outTiles e).length)

/-! ### The assay unit (R123, R124) -/

/-- The bound class of an entry (R71, R128): 0 PROD, 1 ATTN, 2 NORM, 3 ELEM, 4 OPT; a forward EMBED is EXACT. -/
def assayClass (op variant : Nat) : Option Nat :=
  match op with
  | 0x10 | 0x11 | 0x12 | 0x13 => some 0
  | 0x20 | 0x21 => some 1
  | 0x22 | 0x23 | 0x24 => some 2
  | 0x40 => if bit variant 0 then some 3 else none
  | 0x30 | 0x31 | 0x32 | 0x41 | 0x43 => some 3
  | 0x70 | 0x71 => some 4
  | _ => none

/-- THRESH of a class: the ratio times 16. -/
def Numeric.thresh (n : Numeric) (cls : Nat) : Nat := if cls = 4 then n.threshB else sl n.threshA (8 * cls + 7) (8 * cls)

/-- What the unit finds in element j of a sampled tile: its error in units of the spacing and its ratio to the bound, both in units
of 2^−16; free (log 11), zero together. -/
def assayElem (draw j : Nat) : Nat × Nat :=
  let r := Config.assay (2 * j + 1) draw
  (if r = 0 then 0 else 1 + Config.assay (2 * j + 2) draw, r)

/-- The histogram bin of an error (R124). -/
def assayBin (err : Nat) : Nat := if err = 0 then 0 else max 1 (min 15 (Nat.log2 err - 8))

/-- ASSAY_DIVERGE of a tile whose largest ratio is `r`. -/
def State.assayDiverge (s : State) (q : QRef) (e : Entry) (n cls core r : Nat) : State :=
  let info := (min 255 (Nat.log2 r + 111) <<< 24) ||| (core <<< 16) ||| (cls <<< 8) ||| q.slot
  let s := { s with num := { s.num with diverge := satAdd 32 s.num.diverge 1, lastTag := e.tag, lastInfo := info } }
  let s := s.modCtx q.slot (fun x => x.book n (fun st => { st with assay := st.assay + 1, diverge := true }))
  (s.raise pgNumeric 1).logRas pgNumeric 1 0x13 (some q.slot) e.tag

/-- A tile of `els` elements is sampled or not (log 11: each by a choice that the model leaves free, R123), and measured. -/
def State.assayTile (s : State) (q : QRef) (e : Entry) (n cls core els : Nat) : State :=
  let i := s.free
  let s := { s with free := s.free + 1 }
  if Config.assay 0 i % 2 ^ s.num.log2n ≠ 0 then s
  else
    let ms := (List.range els).map (assayElem i)
    let s := { s with num := { s.num with
      sampled := wrapAdd 64 s.num.sampled 1
      hist := ms.foldl (fun h m => tmod 0 h (16 * cls + assayBin m.1) (fun v => satAdd 32 v 1)) s.num.hist } }
    let r : Nat := ms.foldl (fun a m => max a m.2) 0
    if 16 * r > s.num.thresh cls * 65536 then s.assayDiverge q e n cls core r else s

/-- The assay unit on an entry of step n; nothing else of the entry depends on it. -/
def State.assay (s : State) (q : QRef) (e : Entry) (n : Nat) : State :=
  match assayClass e.op e.variant with
  | none => s
  | some cls =>
    if !s.ident.variant.assay || !s.num.enable || e.assaySkip then s
    else
      let ks := s.coresOf q
      let ts := (s.queue q).outTiles e
      (ts.zip (List.range ts.length)).foldl (fun s p =>
        s.assayTile q e n cls ((ks[p.2 % max ks.length 1]?).getD 0) p.1.2) s

/-! ### The end of a computing entry -/

/-- A computing entry of step n whose writes are stored: its counts, in the record of that step (R48, R89, R92), the non-finite
event of a loss (R122), the work of the cores, the assay unit, its completion (R120). -/
def State.computed (s : State) (q : QRef) (e : Entry) (r : Done) : State :=
  let n := (s.queue q).startStep
  let s := s.modCtx q.slot (fun x =>
    let x := { x with
      updated := if (e.op = 0x70 || e.op = 0x71) && n = x.step then ((s.queue q).d 0).held :: x.updated else x.updated
      accN := if n = x.step then r.bump.foldl (fun m t => tmod 0 m t (· + 1)) x.accN else x.accN
      span := x.span || (x.statsOf n).lossEvent r }
    x.book n (fun st => st.took r))
  let s := (s.tilesRun q e).assay q e n
  s.finishEntry q (match r.st with | some st => st | none => if r.eff.nf then .nonfinite else .ok)

/-- What a computing entry gives: the rounded tiles kept since a fault on their way to memory (R152), else what it computes. -/
def Queue.outcome (y : Queue) (f : Except Acc Done) : Except Acc Done :=
  match y.kept with
  | some r => .ok r
  | none => f

/-- A fault of a computing entry: replayable, it parks its work (R152). -/
def State.computeFault (s : State) (q : QRef) (e : Entry) (source : Nat) (a : Acc) : State :=
  let s := match a with | .fault _ _ _ true => s.parkWork q | _ => s
  s.failEntry q e.tag (s.sourceAt q.slot a source) .ready a

/-- Run a computing entry (R120, R152): read and compute, translate every line that is written, then write; a fault
parks it before anything is written, with its rounded tiles when it has them. -/
def State.compute (s : State) (q : QRef) (e : Entry) (f : Except Acc Done) : State :=
  let c := q.slot
  let s := s.occupy q e
  match (s.queue q).outcome f with
  | .error a => s.computeFault q e 0 a
  | .ok r =>
    match s.effFault c r.eff with
    | some a => (s.modQueue q (fun y => { y with kept := some r })).computeFault q e 1 a
    | none =>
      match s.applyEff c r.eff with
      | (s, some a) => s.computeFault q e 1 a
      | (s, none) => s.computed q e r

/-- A command that runs a computing entry. -/
def State.runCompute (s : State) (t : Nat) (q : QRef) (op : Nat) (f : State → Queue → Entry → Except Acc Done) : Res :=
  s.runEntry t q op (fun s e => s.compute q e (f s (s.queue q) e))

end Sys2Proof.Machine
end

