-- ==== Sys2Proof/Machine/Cores.lean ====
section
/-! DEFINITION. Cores and their owners: runnable contexts, reservations, the division of the pool, handing cores over
(R150, R151, R279 to R294). -/

namespace Sys2Proof.Machine

/-! ### Runnable contexts (R288) -/

/-- A slot whose context may run entries: LIVE or DRAINING. -/
def Ctx.active (x : Ctx) : Bool := x.state = 1 || x.state = 4

/-- The queue holds an entry that has started or can start now, and its work is not parked or waiting. -/
def Queue.canRun (y : Queue) : Bool :=
  y.enable && !y.error &&
    (match y.phase with
     | .idle => y.head ≠ y.tail
     | .ready | .running | .done _ => true
     | _ => false)

def State.runnable (s : State) (c : Nat) : Bool :=
  (s.ctx c).active && (s.ctx c).queues.any (fun p => p.2.canRun)

/-- A queue of the context holds work: an entry that has not completed (`SCHED.CTX_INFO`). -/
def State.hasWork (s : State) (c : Nat) : Bool :=
  (s.ctx c).active && (s.ctx c).queues.any (fun p => p.2.enable && (p.2.cur.isSome || decide (p.2.head ≠ p.2.tail)))

def Ctx.strict (x : Ctx) : Bool := x.sched.cls = 1

/-- MODE[2]: a periodic context. -/
def Ctx.periodic (x : Ctx) : Bool := bit (x.record.getD {}).mode 2

/-- Cores of the pool a context holds, sprigs excluded: one that drains has left the pool (R154). -/
def State.holds (s : State) (c : Nat) : Nat := (s.pool.filter (fun k => (s.core k).ctx = some c)).length

/-! ### Reservations (R285 to R287) -/

/-- Active STRICT contexts that run in quantum q of the round, with their CORES, in ascending slot order. -/
def State.strictIn (s : State) (q : Nat) : List (Nat × Nat) :=
  ((List.range 64).filter (fun c => (s.ctx c).active && (s.ctx c).strict && bit (s.ctx c).sched.slots q)).map
    (fun c => (c, (s.ctx c).sched.cores))

/-- Cores reserved in quantum q. -/
def State.reserved (s : State) (q : Nat) : Nat := (s.strictIn q).foldl (fun a p => a + p.2) 0

/-- Take one core from each in turn, until `short` are taken; gives what is left to take. -/
def takeOne : Nat → List (Nat × Nat) → Nat × List (Nat × Nat)
  | short, [] => (short, [])
  | short, (c, n) :: r =>
    if short > 0 ∧ n > 0 then
      let x := takeOne (short - 1) r
      (x.1, (c, n - 1) :: x.2)
    else
      let x := takeOne short r
      (x.1, (c, n) :: x.2)

def takeAll : Nat → Nat → List (Nat × Nat) → List (Nat × Nat)
  | 0, _, l => l
  | fuel + 1, short, l =>
    if short = 0 then l
    else
      let x := takeOne short l
      takeAll fuel x.1 x.2

/-- What each STRICT context holds in quantum q when the pool falls short (R287): one core at a time, in descending
slot order, again from the highest slot. -/
def State.strictTargets (s : State) (q : Nat) : List (Nat × Nat) :=
  (takeAll 80 (s.reserved q - s.pool.length) (s.strictIn q).reverse).reverse

/-! ### The division among SHARED contexts (R289) -/

/-- The contexts that reach their cap: left, open (slot, weight, cores), got. -/
def capLoop : Nat → Nat → List (Nat × Nat × Nat) → List (Nat × Nat) → Nat × List (Nat × Nat × Nat) × List (Nat × Nat)
  | 0, left, opn, got => (left, opn, got)
  | fuel + 1, left, opn, got =>
    let w := opn.foldl (fun a x => a + x.2.1) 0
    let capped := opn.filter (fun x => left * x.2.1 ≥ x.2.2 * w)
    if capped.isEmpty then (left, opn, got)
    else
      capLoop fuel (left - capped.foldl (fun a x => a + x.2.2) 0) (opn.filter (fun x => !capped.contains x))
        (got ++ capped.map (fun x => (x.1, x.2.2)))

/-- Insert by descending fraction, ties by ascending distance from rr. -/
def insBy (key : Nat × Nat → Nat × Nat) (x : Nat × Nat) : List (Nat × Nat) → List (Nat × Nat)
  | [] => [x]
  | y :: r =>
    if (key y).1 < (key x).1 ∨ ((key y).1 = (key x).1 ∧ (key x).2 < (key y).2) then x :: y :: r
    else y :: insBy key x r

/-- The division: counts by slot, the new rr, and the order of the extra cores. -/
def divide (left rr : Nat) (opn : List (Nat × Nat × Nat)) : List (Nat × Nat) × Nat × List Nat :=
  let r := capLoop 65 left opn []
  let share := r.1
  let rest := r.2.1
  let w := max 1 (rest.foldl (fun a x => a + x.2.1) 0)
  let base := rest.map (fun x => (x.1, share * x.2.1 / w))
  let spare := share - base.foldl (fun a x => a + x.2) 0
  let frac := rest.map (fun x => (x.1, share * x.2.1 % w))
  let order := (frac.foldl (fun l x => insBy (fun y => (y.2, (y.1 + 63 - rr) % 64)) x l) []).map (·.1)
  let extra := order.take spare
  (r.2.2 ++ base.map (fun x => (x.1, if extra.contains x.1 then x.2 + 1 else x.2)),
   extra.getLastD rr, order)

/-- Runnable SHARED contexts with weight and cap. -/
def State.sharedOpen (s : State) : List (Nat × Nat × Nat) :=
  ((List.range 64).filter (fun c => s.runnable c && !(s.ctx c).strict)).map
    (fun c => (c, (s.ctx c).sched.weight, (s.ctx c).sched.cores))

/-! ### Handing cores over -/

/-- The core saves its context's state to the save area and zeroes itself (R150, R151, R283); a quench that a fault there makes due
follows (R250). -/
def State.saveCore (s : State) (k : Nat) : State :=
  let s := (s.endSprig k).charge
  let s := match (s.core k).ctx with
    | some c => s.saveWork k c
    | none => s
  State.settleOwed (s.setCore k (s.core k).freed)

/-- A core receives a context; its saved state is restored (R283). -/
def State.giveCore (s : State) (k c : Nat) : State :=
  let s := s.charge
  let s := s.setCore k { s.core k with st := 2, ctx := some c, preempt := false, used := true }
  (s.restoreWork k c).settleOwed

/-- Idle cores of the pool without an owner. -/
def State.idleCores (s : State) : List Nat := s.pool.filter (fun k => (s.core k).ctx.isNone)

/-- Give a context up to n idle cores. -/
def State.giveUpTo (s : State) (c n : Nat) : State := (s.idleCores.take n).foldl (fun s k => s.giveCore k c) s

/-- Make every context hold its target: extra cores are saved and zeroed first, then idle ones are handed out; a
context keeps the cores it held (R283, R289). -/
def State.assign (s : State) (targets : List (Nat × Nat)) : State :=
  let want := fun (c : Nat) => ((targets.find? (fun p => p.1 = c)).map (·.2)).getD 0
  let s := (List.range 64).foldl (fun s c =>
    let mine := s.pool.filter (fun k => (s.core k).ctx = some c)
    (mine.drop (want c)).foldl (fun s k => s.saveCore k) s) s
  targets.foldl (fun s p => s.giveUpTo p.1 (p.2 - s.holds p.1)) s

/-- The quantum of the round that runs now. -/
def State.quantumOf (s : State) : Nat := s.sched.k % max s.sched.round 1

/-- The targets of quantum q (R286, R287, R289), the new rr and the order of the division. -/
def State.targets (s : State) (q : Nat) : List (Nat × Nat) × Nat × List Nat :=
  let st := s.strictTargets q
  let d := divide (s.pool.length - s.reserved q) s.sched.rr s.sharedOpen
  (st ++ d.1, d.2.1, d.2.2)

/-- Quanta do not run: during an activation pause or a compute-part reset (R299, R367, R384). -/
def State.paused (s : State) : Bool := s.ras.cpActive || s.fw.act.isSome

/-- What tenants see as module-wide throttling lasts from now, or has ended: an issue hold, a clock below 1,600 MHz, a shortfall
(R287, R346). -/
def State.noteEpoch (s : State) : State :=
  let on := s.pwr.hold || decide (s.pwr.allowed < 1600) || s.sched.short
  match s.epoch.since with
  | none => if on then { s with epoch := { s.epoch with since := some s.clk.now } } else s
  | some a => if on then s else { s with epoch := { s.epoch with since := none, ns := s.epoch.ns + (s.clk.now - a) } }

/-- Note whether the reservations of quantum q exceed the pool, and raise the shortfall (R287). -/
def State.noteShort (s : State) (q : Nat) : State :=
  let short := decide (s.reserved q > s.pool.length)
  let s := { s with sched := { s.sched with short } }
  (if short then s.raise pgSched 4 else s).noteEpoch

/-- Cores that have saved their work and that keep their context take it up again (R283, R284). -/
def State.takeUp (s : State) : State :=
  (s.pool.foldl (fun s k =>
    match (s.core k).ctx with
    | some c => if (s.core k).st = 2 && (s.core k).sprig.isNone && (s.core k).holds.isNone then s.restoreWork k c else s
    | none => s) s).settleOwed

/-- The cores as the quantum now under way gives them. -/
def State.enterQuantum (s : State) : State :=
  let q := s.quantumOf
  let s := (s.coreList.foldl (fun s k => s.endSprig k) s).settleOwed
  match s.targets q with
  | (ts, rr, order) =>
    let s := s.assign ts
    let s := s.coreList.foldl (fun s k => s.setCore k { s.core k with preempt := false }) s
    let s := s.takeUp
    let s := { s with sched := { s.sched with rr := rr, order := order } }
    s.tidyCores.noteShort q

/-- The quantum the device time has reached (R279). -/
def State.gridNow (s : State) : Nat := s.clk.time / (max s.sched.quantum 1 * 1000)

/-- A RELOAD takes effect at the round boundary; a new PERIOD or PHASE waits for the period boundary (R282). -/
def Ctx.applyReload (x : Ctx) : Ctx :=
  match x.reload with
  | none => x
  | some r =>
    if x.periodic then
      let now := { r with period := x.sched.period, phase := x.sched.phase }
      { x with sched := now, reload := if now = r then none else some r }
    else { x with sched := r, reload := none }

/-- A round starts: reloads, and the sprig time of the round (R282, R292). -/
def State.newRound (s : State) : State :=
  { s with ctxs := s.ctxs.map (fun (p : Nat × Ctx) => (p.1, { p.2.applyReload with sprigRound := 0 })) }

/-- The grid of quanta is taken up where device time stands: at boot, after a pause (R299), at a new length of the quantum; a round
that has begun meanwhile has its effects. -/
def State.regrid (s : State) : State :=
  let k := s.gridNow
  let rl := max s.sched.round 1
  let s := if k / rl ≠ s.sched.k / rl then (s.coreList.foldl (fun s i => s.endSprig i) s).newRound else s
  { s with sched := { s.sched with k } }

/-- Quanta resume after a pause (R299): the quantum the grid has reached; lost quanta are not made up. -/
def State.resumeQuanta (s : State) : State := s.regrid.enterQuantum

/-- After cores left the pool within a quantum (R154, R287): STRICT contexts keep their targets, SHARED contexts what
is left of the cores they held. `held`: cores held before, by slot. -/
def State.rebalance (s : State) (held : List (Nat × Nat)) : State :=
  if s.paused then s
  else
    let q := s.quantumOf
    let st := s.strictTargets q
    let left := s.pool.length - st.foldl (fun a p => a + p.2) 0
    let sh := (held.filter (fun p => !(s.ctx p.1).strict)).foldl (fun (a : Nat × List (Nat × Nat)) p =>
      let n := min p.2 a.1
      (a.1 - n, a.2 ++ [(p.1, n)])) (left, [])
    (s.assign (st ++ sh.2)).tidyCores.noteShort q

/-- What every context holds. -/
def State.heldCounts (s : State) : List (Nat × Nat) := (List.range 64).map (fun c => (c, s.holds c))

/-! ### Draining and self-test (R154, R395, R396) -/

/-- A core starts its self-test: it must be drained. -/
def State.startTest (s : State) (k : Nat) : State :=
  if (s.core k).st = 4 then s.setCore k { s.core k with st := 5, selftest := true, used := true } else s

/-- A core is asked to drain: one without work is drained at once, one with work at its pre-emption point. -/
def State.askDrain (s : State) (k : Nat) : State :=
  let c := s.core k
  if c.st = 1 ∨ c.st = 2 then
    if c.ctx.isNone then (s.setCore k { c with st := 4 }).raise (pgCore k) 2
    else s.setCore k { c with st := 3 }
  else s

/-- A core returns to the pool unless it is to stay drained. -/
def State.returnCore (s : State) (k : Nat) : State :=
  let c := s.core k
  if c.st = 4 ∨ c.st = 5 then
    s.setCore k { c with st := if c.drain || s.regionDrained k then 4 else 1, selftest := false }
  else s

/-- After its cores a sweep recalibrates each active lane once (R395). -/
def State.sweepLanes (s : State) : State :=
  if s.ras.lanes then
    s.portList.foldl (fun s q =>
      let p := s.port q
      if p.st = 3 then s.setPort q { p with recalReq := p.recalReq ++ p.active.filter (fun l => !p.recalReq.contains l) }
      else s) s
  else s

/-- A sweep ends when no lane recalibration is owed. -/
def State.sweepEnd (s : State) : State :=
  if s.ras.sweep && decide (s.ras.sweepCore ≥ s.ident.variant.cores)
      && s.portList.all (fun q => (s.port q).recalReq.isEmpty) then
    { s with ras := { s.ras with sweep := false, sweepCore := 0, sweeps := satAdd 16 s.ras.sweeps 1 } }
  else s

/-- The sweep goes on at core `i`: cores of a drained region and failed cores are skipped. -/
def State.sweepFrom (s : State) (i : Nat) : State :=
  match s.coreList.find? (fun k => k ≥ i && (s.core k).st ≠ 6 && (s.core k).st ≠ 0 && !s.regionDrained k) with
  | some k =>
    let held := s.heldCounts
    let s := { s with ras := { s.ras with sweepCore := k } }
    (((s.askDrain k).startTest k).tidyCores).rebalance held
  | none =>
    let s := { s with ras := { s.ras with sweepCore := s.ident.variant.cores } }
    s.sweepLanes.sweepEnd

/-- A sweep starts unless one runs. -/
def State.sweepStart (s : State) : State :=
  if s.ras.sweep then s else State.sweepFrom { s with ras := { s.ras with sweep := true } } 0

/-- The cores of region r. -/
def regionCores (r : Nat) : List Nat := (List.range 10).map (fun i => 10 * r + i)

def State.regions (s : State) : List Nat := List.range (4 * s.ident.variant.dies)

/-- A region is drained (R391, R393, R397): its cores save their state and leave the pool, a test is abandoned, R287
applies; record 0x54. `cause`: 1 skew, 2 temperature. -/
def State.drainRegion (s : State) (r cause : Nat) : State :=
  let held := s.heldCounts
  let g := s.region r
  let s := s.setRegion r { g with drained := cause, drainAt := s.clk.now, pulling := none, okAt := none }
  let s := (regionCores r).foldl (fun s k =>
    let st := (s.core k).st
    if st = 0 ∨ st = 6 ∨ st = 4 then s
    else
      let s := s.saveCore k
      (s.setCore k { s.core k with st := 4, selftest := false }).raise (pgCore k) 2) s
  let s := s.tidyCores.rebalance held
  let s := (s.raise pgPwrclk 2).logRas pgPwrclk 5 0x54 none (r + 256 * (cause - 1))
  if s.ras.sweep && (regionCores r).contains s.ras.sweepCore then s.sweepFrom (10 * r + 10) else s

/-- A drained region's cores rejoin the pool; record 0x55. -/
def State.rejoinRegion (s : State) (r : Nat) : State :=
  let s := s.setRegion r { s.region r with drained := 0, okAt := none }
  let s := (regionCores r).foldl (fun s k => s.returnCore k) s
  s.tidyCores.logRas pgPwrclk 5 0x55 none r

end Sys2Proof.Machine
end

