-- ==== Sys2Proof/Machine/Hallmark.lean ====
section
/-! DEFINITION. Touchmarks, the domain's identity and the hallmark (R357, R365, R369). -/

namespace Sys2Proof.Machine

/-! ### Touchmarks (R365) -/

def touchmark (comp bank secver build digest : Nat) : Bytes :=
  toLE 1 comp ++ toLE 1 bank ++ toLE 2 0 ++ toLE 4 secver ++ toLE 8 build ++ toBE 48 digest

/-- The record of a component's bank `i`. -/
def Fw.touchmark (f : Fw) (comp i : Nat) : Bytes :=
  let x := if i = 0 then f.a else f.b
  Machine.touchmark comp i x.secver x.build x.digest

/-- The five records of the running set. -/
def Firmware.records (f : Firmware) : List Bytes :=
  [touchmark 0 0xFF 0 0 f.rom, f.sec.touchmark 1 f.sec.run, f.mgmt.touchmark 2 f.mgmt.run,
   f.ctrl.touchmark 3 f.ctrl.run, f.link.touchmark 4 f.link.run]

/-- The five records of the staged set: each staged image in place of its component (R366). -/
def Firmware.stagedRecords (f : Firmware) : List Bytes :=
  let at_ := fun (x : Fw) (comp : Nat) => x.touchmark comp (if x.staged then 1 - x.run else x.run)
  [touchmark 0 0xFF 0 0 f.rom, at_ f.sec 1, at_ f.mgmt 2, at_ f.ctrl 3, at_ f.link 4]

def Firmware.anyStaged (f : Firmware) : Bool := f.sec.staged || f.mgmt.staged || f.ctrl.staged || f.link.staged

def joinBytes (l : List Bytes) : Bytes := l.foldr (fun b acc => b ++ acc) []

/-- The composite touchmark of the running set, as the number its 48 bytes stand for. -/
def Firmware.composite (f : Firmware) : Nat := sha384n (joinBytes f.records)

def Firmware.stagedComposite (f : Firmware) : Nat := if f.anyStaged then sha384n (joinBytes f.stagedRecords) else 0

/-! ### The domain (R357, R358) -/

/-- The private scalar of the domain agreement key. -/
def domainScalar (secret : Nat) : Nat := beNat (hkdf (toBE 48 secret) [] (str "ULK-DAK") 48) % n384

/-- The first 8 bytes of the SHA-384 of the agreement public key. -/
def domainIdOf (secret : Nat) : Bytes := (sha384 (pubOf (domainScalar secret))).take 8

def State.domainId (s : State) : Bytes :=
  match s.sec.domain with
  | some d => domainIdOf d
  | none => zeros 8

/-- The agreement public key (R357); empty without a domain. -/
def State.domainKey (s : State) : Bytes :=
  match s.sec.domain with
  | some d => pubOf (domainScalar d)
  | none => []

/-! ### The identity (R356, R358) -/

def lifeCode : Lifecycle → Nat
  | .blank => 0 | .provisioned => 1 | .deployed => 2 | .returned => 3 | .retired => 4

/-- The private scalar of the identity key that derives from a root. -/
def idScalar (root : Nat) : Nat := beNat (hkdf (toBE 48 (Config.fresh 3 root)) [] (str "ULK-ID") 48) % n384

/-- ECDSA P-384: r then s of a digest under a private scalar, with nonce k. -/
def ecdsaSign (d digest k : Nat) : Bytes :=
  match ptMul 384 k (some (gx384, gy384)) with
  | some (x, _) => toBE 48 (x % n384) ++ toBE 48 (invMod n384 k * (digest + x % n384 * d) % n384)
  | none => zeros 96

/-- The identity certificates: the first issued by Rholoth's factory CA, each later one by the identity key before it. -/
def idCerts (serial : Nat) : Bytes → List IdCert → Bytes
  | _, [] => []
  | issuer, c :: r =>
    let key := pubOf (idScalar c.root)
    Config.certificate (1 + lifeCode c.state) serial key issuer ++ idCerts serial key r

/-- The certificate chain of R356 up to the current state (log 120). -/
def State.chain (s : State) : Bytes :=
  Config.certificate 0 0 [] [] ++ Config.certificate 1 0 [] [] ++ idCerts s.ident.serial [] s.sec.certs

/-! ### The hallmark (R369) -/

/-- Bytes 0x0D0 to 0x107: what a context-scoped request asks for. -/
def State.hallmarkCtx (s : State) (slot : Option Nat) : Bytes :=
  match slot with
  | none => toLE 1 0xFF ++ zeros 55
  | some c =>
    let x := s.ctx c
    let r := s.ctxRec c
    toLE 1 c ++ toLE 1 x.gen ++ toLE 1 r.mode ++ toLE 1 x.state ++ toLE 2 r.job ++ toLE 2 0
      ++ toBE 48 (if x.state = 0 then 0 else (x.charter.map (·.digest)).getD 0)

/-- Every byte of a hallmark before its signature. -/
def State.hallmarkBody (s : State) (nonce report : Bytes) (slot : Option Nat) : Bytes :=
  toLE 4 0x484C4D4B ++ toLE 1 1 ++ toLE 1 (lifeCode s.sec.lifecycle)
    ++ toLE 2 (b2n s.ras.cpActive + 2 * b2n s.fw.anyStaged + 4 * b2n s.fw.failed + 8 * b2n slot.isSome
        + 16 * b2n s.sec.batteryLow + 32 * b2n s.pcie.bar4)
    ++ toLE 4 784 ++ toLE 2 s.ident.variant.order ++ toLE 2 s.fab.moduleId ++ toLE 8 s.ident.serial
    ++ s.domainId ++ toLE 8 s.clk.time ++ bslice nonce 0 48 ++ bslice report 0 48
    ++ toLE 4 s.sec.debugBoot ++ toLE 4 s.sec.debugLife ++ toLE 8 s.sec.debugFirst
    ++ toLE 1 s.fw.sec.fuse ++ toLE 1 s.fw.mgmt.fuse ++ toLE 1 s.fw.ctrl.fuse ++ toLE 1 s.fw.link.fuse
    ++ toLE 2 0x0300 ++ toLE 1 1 ++ toLE 1 0 ++ toBE 48 s.fw.stagedComposite
    ++ s.hallmarkCtx slot ++ toBE 48 (s.sec.anchor.getD 0) ++ toBE 48 s.fw.composite
    ++ toLE 1 5 ++ zeros 7 ++ joinBytes s.fw.records

/-- A hallmark: its body, then the signature over every earlier byte under the identity key; its ECDSA nonce is a free value (log 6). -/
def State.hallmark (s : State) (nonce report : Bytes) (slot : Option Nat) : Bytes × State :=
  let v := s.draw
  let b := s.hallmarkBody nonce report slot
  (b ++ ecdsaSign (idScalar (s.sec.root.getD 0)) (sha384n b) (v.1 % n384), v.2)

/-- What accompanies a hallmark: the certificate chain (R369), then the agreement public key (R357, log 120). -/
def State.company (s : State) : Bytes := s.chain ++ s.domainKey

/-- The measurement block of index 0xF0 that carries a hallmark as a raw bit stream (R369, log 120). -/
def hallmarkBlock (h : Bytes) : Bytes :=
  toLE 1 0xF0 ++ toLE 1 1 ++ toLE 2 (h.length + 3) ++ toLE 1 (0x80 + Config.blockType % 128) ++ toLE 2 h.length ++ h

/-- The module signs hallmarks: a state with an identity, not tampered (R352, R355, R370). -/
def State.signs (s : State) : Bool := !s.dead && decide (s.sec.lifecycle ≠ .blank) && s.sec.root.isSome

end Sys2Proof.Machine
end

