-- ==== Sys2Proof/Machine/Links.lean ====
section
/-! DEFINITION. Ports: acceptance of packets, lane sets, bring-up, link sessions (R198 to R205, R209, R214, R327, R328, R339,
R357, R361 to R363). -/

namespace Sys2Proof.Machine

/-! ### Packets that leave the receive buffer -/

/-- The packet leaves the receive buffer of its port: its credit units are owed back (R214). -/
def State.leave (s : State) (q : Nat) (p : Packet) : State :=
  s.modPort q (fun x =>
    { x with
      rxPkts := match x.rxPkts.findIdx? (fun b => b.take 32 = p.header) with
        | some i => x.rxPkts.take i ++ x.rxPkts.drop (i + 1)
        | none => x.rxPkts
      owed := if p.classed then lmod x.owed (classOf p.ptype) (fun n => n + p.units) else x.owed })

/-- Discard and count: unknown type, wrong length (R210, R211). -/
def State.dropBad (s : State) (q : Nat) : State :=
  s.modPort q (fun x => { x with badDrop := satAdd 32 x.badDrop 1 })

/-- The packet's tag verifies under a key that the receiver still holds (R363). -/
def Link.verifies (l : Link) (p : Packet) : Bool := p.auth && !(p.old && l.oldRx.isNone)

/-- PKT_CTR of a packet (R328): above the highest accepted under its key, or the first under its key. The first packet under a new key
ends the old one (R363). -/
def Link.ctrOk (l : Link) (p : Packet) : Option Link :=
  let above := fun (h : Option Nat) => match h with | none => true | some k => decide (k < p.ctr)
  if p.old then if above l.oldHigh then some { l with oldHigh := some p.ctr } else none
  else if above l.rxHigh then some { l with oldRx := none, oldHigh := none, rxHigh := some p.ctr } else none

/-- A packet of a port that is not up waits in the receive buffer until it is (R199, R201). -/
def Port.tooSoon (x : Port) (p : Packet) : Bool := x.st = 2 && p.ptype < 9

/-- A protected packet is accepted on a port with a session: its tag verifies, its counter is new (R210, R328), and the
hop it has just taken is at most its fifteenth (R213). -/
def State.admitPacket (s : State) (q : Nat) (p : Packet) : State × Bool :=
  let x := s.port q
  if !s.live || !x.link.established || x.st < 2 || x.st > 3 || x.moving || x.tooSoon p then (s, false)
  else
    let s := s.leave q p
    let x := s.port q
    if !x.link.verifies p then
      ((s.setPort q { x with authFail := satAdd 32 x.authFail 1 }).raise pgLinkcrypt 1, false)
    else
      match x.link.ctrOk p with
      | none => (s.setPort q { x with ctrDrop := satAdd 32 x.ctrDrop 1 }, false)
      | some l =>
        let s := s.setPort q { x with link := l }
        if p.hops + 1 > 15 then ({ s with fab := { s.fab with hopDrop := satAdd 32 s.fab.hopDrop 1 } }, false) else (s, true)

/-! ### Lane sets (R202 to R204) -/

/-- What a lane becomes in a lane set: a lane of the set is active, an active lane outside it is off or what the port takes it out
for (R203). -/
def Lane.inSet (x : Lane) (inside off : Bool) : Lane :=
  if inside then
    if x.next = some 1 || (x.st = 0 && !off) then { x with st := 1, next := none } else x
  else if x.st = 1 then { x with st := x.next.getD 0, next := none }
  else x

/-- Put a lane set into effect. -/
def Port.applyMask (p : Port) (mask : Nat) : Port :=
  (List.range 8).foldl (fun p l => p.setLane l ((p.lane l).inSet (bit mask l) (bit p.laneOff l))) p

/-- An announced lane set takes effect at the first flit that the port sends under it (R204). -/
def Port.atFlit (p : Port) (fseq : Nat) : Port :=
  match p.mapAt with
  | some (f, m) => if f = fseq then { p.applyMask m with mapAt := none } else p
  | none => p

/-- The lane set that the peer announced takes effect at its first flit under it (R204). -/
def Port.atPeerFlit (p : Port) (fseq : Nat) : Port :=
  match p.mapRx with
  | some (f, m) => if f = fseq then { p.applyMask m with mapRx := none } else p
  | none => p

/-- The lane set in effect leaves the port fewer than 4 active lanes: it is down (R198). -/
def Port.starved (p : Port) : Bool := (p.st = 2 || p.st = 3) && p.active.length < 4

/-- The lanes that are active once every announced lane set is in effect. -/
def Port.coming (p : Port) : List Nat := (List.range 8).filter (fun l => (p.lane l).next.getD (p.lane l).st = 1)

/-- Announce the lane set to come; the FSEQ at which it applies is the device's choice among those to come
(free, log 7). -/
def State.announceLanes (s : State) (q : Nat) : State :=
  let p := s.port q
  if p.st = 3 then
    let v := s.draw
    let f := (p.fseqTx + 1 + v.1 % 2048) % 65536
    let m := p.coming.foldl (fun a l => a ||| (1 <<< l)) 0
    let s := v.2.setPort q { p with mapAt := some (f, m) }
    s.enqueue q { ptype := 0x0A, dst := p.peerId, src := s.fab.moduleId,
                  payload := toLE 1 m ++ toLE 1 0 ++ toLE 2 f ++ toLE 4 0 }
  else s

/-- A lane has left the active set: the port goes on with at least 4 lanes, else it goes down (R198, R202). -/
def State.laneGone (s : State) (q : Nat) : State :=
  if (s.port q).active.length < 4 then s.portDown q else s.announceLanes q

/-- Lanes fail: record 0x61 and bit 1 for each; then the lane set changes if one of them was active. -/
def State.failLanes (s : State) (q : Nat) (ls : List Nat) : State :=
  let was := ls.any (fun l => ((s.port q).lane l).st = 1)
  let s := ls.foldl (fun s l =>
    let p := s.port q
    let s := s.setPort q (p.setLane l { p.lane l with st := 3, next := none, failedAt := s.clk.now })
    (s.raise (pgPort q) 2).logRas (pgPort q) 6 0x61 none (q + 256 * l)) s
  if was then s.laneGone q else s

/-- A lane fails. -/
def State.laneFails (s : State) (q l : Nat) : State := s.failLanes q [l]

/-- One lane of the port is out for recalibration, or about to be. -/
def Port.recalibrating (p : Port) : Bool := (List.range 8).any (fun l => (p.lane l).st = 2 || (p.lane l).next = some 2)

/-! ### Bring-up (R200, R201) -/

/-- Bring-up may start: enabled, light source healthy, firmware running, a state that brings up ports (R355, R386). -/
def State.mayBringUp (s : State) (q : Nat) : Bool :=
  s.live && s.present (.port q) && (s.port q).enable && (s.feeds q).isSome && !(s.rail 14).resetLevel
    && !s.clk.held && decide (s.sec.lifecycle = .deployed ∨ s.sec.lifecycle = .returned)

/-- Bring-up ends on the port: bit 0 once, another try 1 s after the first second has passed (R200). -/
def State.bringupFail (s : State) (q : Nat) : State :=
  let s := s.countFec q
  let p := s.port q
  let s := s.setPort q { p.setAll 0 with
    st := 4, retryAt := max s.clk.now (p.lightAt + 1000000000) + 1000000000, light := false, locked := false
    trained := false, link := { digests := [], sentDigests := [] } }
  s.raise (pgPort q) 1

/-- Bring-up starts at light detection. -/
def State.startBringup (s : State) (q : Nat) : State :=
  s.setPort q { s.port q with st := 1, light := true, lightAt := s.clk.now, locked := false, trained := false
                              usedId := s.fab.moduleId }

/-- LIGHT_DETECTED (R200). -/
def execLightDetected (t port : Nat) (s : State) : Res :=
  let s := s.tick t
  .next (if s.mayBringUp port && decide ((s.port port).st = 0) then s.startBringup port else s)

/-- Send a SESSION packet of a subtype to the peer. -/
def State.sendSession (s : State) (q sub : Nat) (off : Nat) (d : Bytes) : State :=
  s.enqueue q { ptype := 0x0C, dst := (s.port q).peerId, src := s.fab.moduleId, offset := off, payload := toLE 1 sub ++ d }

/-- The device's TRAIN payload (R201). -/
def trainPayload (q ident lanes : Nat) : Bytes :=
  toLE 1 1 ++ toLE 1 q ++ toLE 2 ident ++ toLE 1 lanes ++ toLE 1 0 ++ toLE 2 256 ++ toLE 2 3968 ++ toLE 2 3968
    ++ toLE 2 0 ++ toLE 2 0

/-- A flit from its fields and packet space; the CRC covers bytes 0 to 633 (R207). -/
def flitBytes (fseq ack flags cls units : Nat) (space : Bytes) : Bytes :=
  let b := toLE 2 fseq ++ toLE 2 ack ++ toLE 1 flags ++ toLE 2 (cls * 16384 + units) ++ bslice space 0 627
  b ++ toLE 8 (crc64 b)

/-- Resend the window as the peer has not acknowledged it (R207, R208): each flit with REPLAY, the ACK of now, and the NAK owed now. -/
def State.replay (s : State) (q : Nat) : State :=
  let x := s.port q
  let again := x.window.map (fun (w : Win) =>
    flitBytes w.fseq x.ackRx ((fld w.bytes 4 1 &&& 2) ||| 4 ||| b2n x.nakOut) (fld w.bytes 5 2 / 16384) (fld w.bytes 5 2 % 16384)
      (bslice w.bytes 7 627))
  let s := s.setPort q { x with
    replays := satAdd 32 x.replays x.window.length, nakOut := x.nakOut && x.window.isEmpty }
  again.foldl (fun s b => s.putFlit q b) s

/-- A port whose light moved goes on as it was: its lanes without codeword lock have failed, and what was not acknowledged is resent
from the window (R205); then the next port's light moves (R36). -/
def State.resumeTraffic (s : State) (q lanes : Nat) : State :=
  let p := s.port q
  let s := s.setPort q { p with st := p.back, moving := false, deadAt := none, locked := true }
  let s := s.failLanes q (p.active.filter (fun l => !bit lanes l))
  let s := if (s.port q).st = p.back then s.replay q else s
  s.shiftLight

/-- CODEWORD_LOCK (R200, R205): the lanes of the mask have codeword lock; a new link exchanges TRAIN, a moved light
resumes traffic. -/
def execCodewordLock (t port lanes : Nat) (s : State) : Res :=
  let s := s.tick t
  let p := s.port port
  if !s.live ∨ p.st ≠ 1 ∨ p.locked then .next s
  else if p.moving then .next (s.resumeTraffic port lanes)
  else if p.light then
    let m := (List.range 8).foldl (fun a l =>
      if bit lanes l && !bit p.laneOff l then a ||| (1 <<< l) else a) 0
    let s := s.setPort port { p with
      txQueue := p.undelivered, unsaid := [], txLast := none, txRest := []
      locked := true, mask := m, fseqTx := 0, fseqRx := 0, ackRx := 0xFFFF, nakOut := false, window := [], rxBuf := []
      rxPkts := [], early := [] }
    .next (s.enqueue port { ptype := 0x0B, src := s.fab.moduleId, payload := trainPayload port p.usedId m })
  else .next s

/-- BRINGUP_TIMEOUT (R200): not up within 1 s of light detection; a port whose light has moved and that has no codeword lock in that time
goes down, to be found by PORT_DOWN_DETECT. -/
def execBringupTimeout (t port : Nat) (s : State) : Res :=
  let s := s.tick t
  let p := s.port port
  if (p.st = 1 ∨ p.st = 2) ∧ !p.moving ∧ p.lightAt + 1000000000 ≤ s.clk.now then .next (s.bringupFail port)
  else if p.moving ∧ p.movedAt + 1000000000 ≤ s.clk.now then .next (s.portDown port)
  else .next s

/-- BRINGUP_RETRY (R200): bring-up returns to its start; with light it begins again. -/
def execBringupRetry (t port : Nat) (s : State) : Res :=
  let s := s.tick t
  let p := s.port port
  if p.st = 4 ∧ p.retryAt ≤ s.clk.now then
    let s := s.setPort port { p with st := 0 }
    .next (if s.mayBringUp port then s.startBringup port else s)
  else .next s

/-! ### Sessions -/

/-- The private scalar of ephemeral key number n, and the nonce of its HELLO. -/
def ephScalar (n : Nat) : Nat := Config.fresh 2 n % n384
def ephNonce (n : Nat) : Bytes := toBE 48 (Config.fresh 10 n)

/-- The HELLO payload of ephemeral key n and module identifier m. -/
def helloPayload (n m : Nat) : Bytes := pubOf (ephScalar n) ++ ephNonce n ++ toLE 2 m

/-- Start the session exchange of a trained port; without fresh values it waits (R350, R361). -/
def State.startSession (s : State) (q : Nat) : State :=
  if !s.sec.trngOk then s.waitFresh (.hello q)
  else
    let v := s.secret
    let p := v.2.port q
    let h := helloPayload v.1 p.usedId
    let s := v.2.setPort q { p with link := { p.link with helloSent := true, eph := v.1, hello := h, join := p.joinReq } }
    s.sendSession q 1 0 h

/-- The peer's identifier satisfies R201 and, in RETURNED, loopback to the own module (R355). -/
def State.peerAllowed (s : State) (peer : Nat) : Bool :=
  if s.sec.lifecycle = .returned then peer = s.fab.moduleId else peer ≠ s.fab.moduleId

/-- The margins that training measured on the active lanes are not given: free (log 7). -/
def Port.margins (p : Port) (v : Nat) : Port :=
  p.active.foldl (fun p l => p.setLane l { p.lane l with margin := v / 256 ^ l % 256 }) p

/-- TRAIN (R201, R202, R214): version and identity, lane map and credits. -/
def execTrain (t port : Nat) (payload : Bytes) (s : State) : Res :=
  let s := s.tick t
  let p := s.port port
  if !s.live ∨ p.st ≠ 1 ∨ !p.locked ∨ p.moving then .next s
  else if payload.length ≠ 16 then .next (s.dropBad port)
  else
    let peer := fld payload 2 2
    let m := p.mask &&& fld payload 4 1
    if fld payload 0 1 ≠ 1 ∨ !s.peerAllowed peer ∨ popcount m 8 < 4 then .next (s.bringupFail port)
    else
      let v := s.draw
      let p := ((p.setAll 0).applyMask m).margins v.1
      let s := v.2.setPort port { p with
        st := 2, trained := true, peerId := peer, peerPort := fld payload 1 1 % 32, peerMask := fld payload 4 1
        credits := [fld payload 6 2, fld payload 8 2, fld payload 10 2, fld payload 12 2], owed := [0, 0, 0, 0] }
      .next (s.startSession port)

/-- The port's own end is the lower one in the orders of R361 and R363: by MODULE_ID, and between two ports of one module, in loopback,
by port (log 124). -/
def Port.low (p : Port) (q : Nat) : Bool := decide (p.usedId < p.peerId ∨ (p.usedId = p.peerId ∧ q < p.peerPort))

/-- Both HELLO payloads, the lower MODULE_ID's first (R361). -/
def transcriptOf (own peer : Bytes) (lowerOwn : Bool) : Bytes := if lowerOwn then own ++ peer else peer ++ own

/-- Send the certificate chain, in fragments that fill a packet (R361). -/
def State.sendChain (s : State) (q : Nat) : State :=
  ((chunks 4095 s.chain).foldl (fun (r : State × Nat) b => (r.1.sendSession q 2 r.2 b, r.2 + b.length)) (s, 0)).1

/-- HELLO (R361): the device sends its certificate chain, then its PROOF, whose nonce is free. -/
def execHello (t port : Nat) (payload : Bytes) (s : State) : Res :=
  let s := s.tick t
  let p := s.port port
  if !s.live ∨ p.st ≠ 2 ∨ !p.link.helloSent ∨ p.link.peerHello.isSome then .next s
  else if payload.length ≠ 146 then .next (s.dropBad port)
  else
    let s := s.setPort port { p with link := { p.link with peerHello := some payload } }
    let s := s.sendChain port
    let report := sha384 (transcriptOf p.link.hello payload (p.low port))
    let v := s.draw
    let h := v.2.hallmark (toBE 48 v.1) report none
    .next (h.2.sendSession port 3 0 h.1)

/-- CERT (R361): a fragment of the peer's chain, placed by OFFSET. -/
def execCert (t port offset : Nat) (payload : Bytes) (s : State) : Res :=
  let s := s.tick t
  let p := s.port port
  if s.live ∧ p.st = 2 ∧ !p.link.proofOk then
    .next (s.setPort port { p with link := { p.link with certs := p.link.certs ++ [(offset, payload)] } })
  else .next s

/-- The 168 bytes of R363 for a port's session. -/
def Link.keyBlock (l : Link) (peer : Bytes) (lowerOwn : Bool) : Bytes :=
  let z := ecdh (ephScalar l.eph) (beNat (bslice peer 0 48)) (beNat (bslice peer 48 48))
  let a := bslice l.hello 96 48
  let b := bslice peer 96 48
  hkdf z (if lowerOwn then a ++ b else b ++ a) (str "ULK-LINK") 168

/-- Keys, salts and finish keys of both directions (R363). -/
def Link.derive (l : Link) (peer : Bytes) (lowerOwn : Bool) : Link :=
  let k := l.keyBlock peer lowerOwn
  let lo := fun (a b : Bytes) => if lowerOwn then a else b
  { l with
    txKey := lo (bslice k 0 32) (bslice k 36 32), txSalt := lo (bslice k 32 4) (bslice k 68 4)
    rxKey := lo (bslice k 36 32) (bslice k 0 32), rxSalt := lo (bslice k 68 4) (bslice k 32 4)
    finOwn := lo (bslice k 72 48) (bslice k 120 48), finPeer := lo (bslice k 120 48) (bslice k 72 48) }

/-- The conditions of R362, with REPORT_DATA as R361 gives it; in RETURNED the peer is the module itself (R355, log 124). -/
def State.proofOk (s : State) (q : Nat) (h : Bytes) (v : ProofVerdict) : Bool :=
  let p := s.port q
  let peer := p.link.peerHello.getD []
  let own := s.domainId
  let theirs := bslice h 0x018 8
  let comp := beNat (bslice h 0x138 48)
  v.chainOk && v.sigOk && decide (fld h 0x005 1 = lifeCode s.sec.lifecycle)
    && decide (fld h 0x00E 2 = fld peer 144 2) && decide (fld h 0x00E 2 = p.peerId)
    && decide (bslice h 0x058 48 = sha384 (transcriptOf p.link.hello peer (p.low q)))
    && (decide (theirs = own) || ((p.link.join || s.sec.domain.isSome) && (allZero theirs != allZero own)))
    && (s.mgmt.allow.isEmpty || s.mgmt.allow.contains comp)

/-- PROOF (R362): accepted, the device sends FINISH; otherwise bring-up ends on the port. -/
def execProof (t port : Nat) (payload : Bytes) (verdict : ProofVerdict) (s : State) : Res :=
  let s := s.tick t
  let p := s.port port
  match p.link.peerHello with
  | none => .next s
  | some peer =>
    if !s.live ∨ p.st ≠ 2 ∨ p.link.proofOk then .next s
    else if s.proofOk port payload verdict then
      let low := p.low port
      let l := p.link.derive peer low
      let join := p.link.join || decide (bslice payload 0x018 8 ≠ s.domainId)
      let giver := s.sec.domain.isSome && allZero (bslice payload 0x018 8)
      let s := s.setPort port { p with link := { l with proofOk := true, finishSent := true, join, giver } }
      .next (s.sendSession port 4 0 (hmac384 l.finOwn (transcriptOf l.hello peer low)))
    else .next (s.bringupFail port)

/-- A TIME_SYNC request on a port (R211, R221). -/
def State.askTime (s : State) (q : Nat) : State :=
  let n := (((s.port q).syncSeq.getD 0) + 1) % 2 ^ 32
  let s := s.modPort q (fun p => { p with syncSeq := some n })
  s.enqueue q { ptype := 9, dst := (s.port q).peerId, src := s.fab.moduleId,
                payload := toLE 1 0 ++ zeros 3 ++ toLE 4 n ++ zeros 32 }

/-- The port is up (R200); job packets that waited in it go by the routes of now (R219, R339). -/
def State.portUp (s : State) (q : Nat) : State :=
  let p := s.port q
  if p.st = 2 ∧ p.link.established ∧ !p.link.join then
    let s := s.setPort q { p with
      st := 3, deadAt := none, unsaid := [], txQueue := p.txQueue.filter (fun x => decide (x.ptype > 8)) }
    (p.txQueue ++ p.unsaid).foldl (fun s x => if x.ptype ≤ 8 then s.resend x else s) s
  else s

/-- The session is established (R330, R363): a join session hands over the domain secret (R357), any other makes its
first TIME_SYNC exchange. -/
def State.establish (s : State) (q : Nat) : State :=
  let p := s.port q
  let again := decide (p.sessions > 0)
  let s := s.setPort q { p with
    sessions := wrapAdd 16 p.sessions 1
    link := { p.link with established := true, at_ := s.clk.now, txCtr := 0, rxHigh := none, rekeySent := false } }
  let s := if again then s.raise pgLinkcrypt 2 else s
  if p.link.join then
    match s.sec.domain with
    | some d => if p.link.giver then s.sendSession q 7 0 (toBE 48 d) else s
    | none => s
  else s.askTime q

/-- The FINISH a port's peer owes: HMAC-SHA-384 of the transcript under the peer's finish key (R361, R363). -/
def Port.finishMac (p : Port) (q : Nat) : Bytes :=
  hmac384 p.link.finPeer (transcriptOf p.link.hello (p.link.peerHello.getD []) (p.low q))

/-- FINISH (R363): the session is established when both FINISH packets verify. -/
def execFinish (t port : Nat) (payload : Bytes) (s : State) : Res :=
  let s := s.tick t
  let p := s.port port
  if !s.live ∨ p.st ≠ 2 ∨ !p.link.finishSent ∨ p.link.established then .next s
  else if payload = p.finishMac port then
    let s := s.setPort port { p with link := { p.link with finishOk := true } }
    .next (s.establish port)
  else .next (s.bringupFail port)

/-- The key and salt of one direction after its REKEY: R363's derivation with the sender's new public key and nonce in place of those
of its HELLO (log 121). -/
def Link.sideKey (l : Link) (peer : Bytes) (lowerOwn ofLower : Bool) : Bytes × Bytes :=
  let k := l.keyBlock peer lowerOwn
  if ofLower then (bslice k 0 32, bslice k 32 4) else (bslice k 36 32, bslice k 68 4)

/-- REKEY (R361, R363): protected like any other packet; the peer's direction has a new key, and the old one stays until a packet under
the new one arrives. -/
def execRekey (t port : Nat) (pkt : Packet) (s : State) : Res :=
  let s := s.tick t
  let a := s.admitPacket port pkt
  let s := a.1
  if !a.2 then .next s
  else if pkt.ptype ≠ 0x0C ∨ pkt.payload.length ≠ 145 ∨ fld pkt.payload 0 1 ≠ 5 then .next (s.dropBad port)
  else
    let p := s.port port
    let k := p.link.sideKey (bslice pkt.payload 1 144 ++ toLE 2 p.peerId) (p.low port) (!p.low port)
    .next (s.setPort port { p with link := { p.link with
      oldRx := some p.link.rxKey, oldHigh := p.link.rxHigh, rxHigh := none, rxKey := k.1, rxSalt := k.2 } })

/-- PKT_CTR of the direction is near 2^48 (R328): how near is the device's choice, but before the last packets (log 121). -/
def Link.ctrNear (l : Link) : Bool := decide (2 ^ 48 ≤ l.txCtr + 64 + Config.rekeyMargin % 2 ^ 47)

/-- The device sends REKEY (R363): its key takes effect behind that packet. Without fresh values it waits (R350). -/
def State.startRekey (s : State) (q : Nat) : State :=
  if !s.sec.trngOk then s.waitFresh (.rekey q)
  else
    let v := s.secret
    let p := v.2.port q
    let s := v.2.setPort q { p with link := { p.link with rekeySent := true, at_ := s.clk.now, ephNew := v.1 } }
    s.sendSession q 5 0 (pubOf (ephScalar v.1) ++ ephNonce v.1)

/-- REKEY_TIMER (R328, R363): PKT_CTR is near 2^48, or 24 hours have passed since the session or its latest REKEY. -/
def execRekeyTimer (t port : Nat) (s : State) : Res :=
  let s := s.tick t
  let p := s.port port
  if s.live ∧ p.st = 3 ∧ p.link.established ∧ !p.link.rekeySent
      ∧ (p.link.ctrNear ∨ p.link.at_ + 86400000000000 ≤ s.clk.now) then
    .next (s.startRekey port)
  else .next s

/-- No port is asked to join a domain any more. -/
def State.joinsNone (s : State) : State :=
  { s with ports := s.ports.map (fun (x : Nat × Port) => (x.1, { x.2 with joinReq := false })) }

/-- A port starts over from the beginning of bring-up; one that was up goes down. -/
def State.restartPort (s : State) (q : Nat) : State :=
  let s := s.portDown q
  let p := s.port q
  s.setPort q { p.setAll 0 with st := 0, light := false, locked := false, trained := false, link := {} }

/-- DOMAIN (R357): the joiner stores the secret; the join session has served its purpose, and the port starts over. -/
def execDomain (t port : Nat) (pkt : Packet) (s : State) : Res :=
  let s := s.tick t
  let a := s.admitPacket port pkt
  let s := a.1
  if a.2 ∧ pkt.payload.length = 49 ∧ fld pkt.payload 0 1 = 7 ∧ (s.port port).link.join ∧ s.sec.domain.isNone
      ∧ s.sec.lifecycle = .deployed then
    let s := { s with sec := { s.sec with domain := some (beNat (bslice pkt.payload 1 48)) } }
    .next (s.joinsNone.restartPort port)
  else .next s

/-! ### Lanes -/

/-- LANE_FAIL (R202). -/
def execLaneFail (t port lane : Nat) (s : State) : Res :=
  let s := s.tick t
  let x := (s.port port).lane lane
  if lane < 8 ∧ (x.st = 1 ∨ x.st = 2) then .next (s.laneFails port lane) else .next s

/-- LANE_RETRY (R202): a failed lane is recalibrated every 10 s, on a port with 4 to 7 active lanes. -/
def execLaneRetry (t port lane : Nat) (s : State) : Res :=
  let s := s.tick t
  let p := s.port port
  let x := p.lane lane
  if lane < 8 ∧ p.st = 3 ∧ x.st = 3 ∧ x.failedAt + 10000000000 ≤ s.clk.now ∧ !p.recalibrating
      ∧ 4 ≤ p.active.length ∧ p.active.length ≤ 7 then
    .next (s.setPort port (p.setLane lane { x with st := 2, was := 3 }))
  else .next s

/-- Request a recalibration of a lane. -/
def State.askRecal (s : State) (q l : Nat) : State :=
  s.modPort q (fun p => if p.recalReq.contains l then p else { p with recalReq := p.recalReq ++ [l] })

/-- LANE_MARGIN_LOW (R203): an active lane's margin, in 0.1 dB, falls below 1.0 dB. -/
def execLaneMarginLow (t port lane margin : Nat) (s : State) : Res :=
  let s := s.tick t
  let p := s.port port
  if lane < 8 ∧ (p.lane lane).st = 1 ∧ margin < 10 then
    .next ((s.setPort port (p.setLane lane { p.lane lane with margin })).askRecal port lane)
  else .next s

/-- RECAL_START (R203): a requested lane is taken out while the port keeps at least 4 active lanes. -/
def execRecalStart (t port lane : Nat) (s : State) : Res :=
  let s := s.tick t
  let p := s.port port
  if lane < 8 ∧ p.st = 3 ∧ p.recalReq.contains lane ∧ (p.lane lane).st = 1 ∧ 5 ≤ p.coming.length
      ∧ !p.recalibrating then
    let s := s.setPort port (p.setLane lane { p.lane lane with next := some 2, was := 1 })
    .next (s.announceLanes port)
  else .next s

/-- RECAL_DONE (R202 to R204): the lane returns through LANE_MAP, or is marked failed. -/
def execRecalDone (t port lane : Nat) (good : Bool) (margin : Nat) (s : State) : Res :=
  let s := s.tick t
  let p := s.port port
  let x := p.lane lane
  if lane < 8 ∧ x.st = 2 then
    let p := { p with recalReq := p.recalReq.filter (fun l => l ≠ lane)
                      recalOps := p.recalOps.filter (fun l => l ≠ lane) }
    let s :=
      if good then (s.setPort port (p.setLane lane { x with next := some 1, margin })).announceLanes port
      else if x.was = 3 then
        s.setPort port (p.setLane lane { x with st := 3, margin, failedAt := s.clk.now })
      else (s.setPort port (p.setLane lane { x with margin })).laneFails port lane
    .next s.sweepEnd
  else .next s

/-- LANE_MAP (R204): the new lane set takes effect at the named FSEQ. -/
def execLaneMap (t port : Nat) (pkt : Packet) (s : State) : Res :=
  let s := s.tick t
  let a := s.admitPacket port pkt
  if !a.2 then .next a.1
  else if pkt.payload.length ≠ 8 then .next (a.1.dropBad port)
  else .next (a.1.modPort port (fun p => { p with mapRx := some (fld pkt.payload 2 2, fld pkt.payload 0 1) }))

/-! ### Time (R221, R222) -/

/-- TIME_SYNC_TICK: every 1 ms a request goes out over the parent port. -/
def execTimeSyncTick (t : Nat) (s : State) : Res :=
  let s := s.tick t
  match s.clk.parent with
  | some q => .next (if s.live && !s.clk.free && decide ((s.port q).st = 3) then s.askTime q else s)
  | none => .next s

/-- The child has an offset from its parent (R221): at a first lock or a relock it steps forward once when it is
behind; otherwise it slews. Its hops from the root are free as it locks (log 7). -/
def State.followParent (s : State) (off : Int) : State :=
  let v := s.draw
  let s := if s.clk.locked then s else { v.2 with clk := { v.2.clk with hops := 1 + v.1 % 15 } }
  if s.clk.stepNext ∧ off > 0 then
    { s with clk := { s.clk with
        time := (s.clk.time + off.toNat) % 2 ^ 64, slew := 0, stepNext := false, locked := true, offset := off } }
  else { s with clk := { s.clk with slew := off, stepNext := false, locked := true, offset := off } }

/-- TIME_SYNC (R211, R221): a request is answered; a reply to the port's latest request gives the offset. `rx`: device time
at the receipt of the flit. The port's first exchange makes it up (R200); after a parent port's loss device time follows none until
another is named (R222). -/
def execTimeSync (t port : Nat) (pkt : Packet) (rx : Nat) (s : State) : Res :=
  let s := s.tick t
  let a := s.admitPacket port pkt
  let s := a.1
  if !a.2 then .next s
  else if pkt.payload.length ≠ 40 then .next (s.dropBad port)
  else if fld pkt.payload 0 1 = 0 then
    let answer := toLE 1 1 ++ zeros 3 ++ bslice pkt.payload 4 4 ++ bslice pkt.payload 8 8 ++ toLE 8 rx ++ zeros 16
    .next (s.enqueue port { ptype := 9, dst := pkt.src, src := s.fab.moduleId, payload := answer })
  else if (s.port port).syncSeq ≠ some (fld pkt.payload 4 4) then .next s
  else
    let t1 : Int := fld pkt.payload 8 8
    let t2 : Int := fld pkt.payload 16 8
    let t3 : Int := fld pkt.payload 24 8
    let off := ((t2 - t1) - ((rx : Int) - t3)) / 2
    let s := s.portUp port
    .next (if s.clk.parent = some port && !s.clk.root && !s.clk.free then s.followParent off else s)

end Sys2Proof.Machine
end

