-- ==== Sys2Proof/Machine/Collect.lean ====
section
/-! DEFINITION. Summing collectives: ALL_REDUCE and REDUCE_SCATTER, their buckets, the packets of a reduction, the layout
epoch (R75 to R78, R82, R110, R121, R213, R216, R223 to R234). -/

namespace Sys2Proof.Machine

/-! ### Starting buckets (R78, R231) -/

/-- Buckets that have started, or are in flight, and have not ended. -/
def State.underWay (s : State) : Nat :=
  (s.buckets.filter (fun b => (b.started || b.sentTo.isSome) && b.final.isNone && b.doneAt.isNone)).length

/-- A bucket may start: fewer than 4,096 under way, and no earlier bucket of its tag in flight or ended within 1 ms. -/
def State.mayStart (s : State) (b : Bucket) : Bool :=
  decide (s.underWay < 4096) && s.buckets.all (fun x =>
    !(x.slot = b.slot && x.tag = b.tag && x.started)
      || (match x.doneAt with | some a => decide (a + 1000000 ≤ s.clk.now) | none => false))

/-- The bucket an entry has issued and not yet started. -/
def Bucket.waitsStart (b : Bucket) (c tag : Nat) : Bool := b.slot = c && b.tag = tag && b.issued && !b.started

def State.startBucket (s : State) (c tag : Nat) : State :=
  match s.buckets.find? (fun b => b.waitsStart c tag) with
  | none => s
  | some b =>
    if s.mayStart b then
      { s with buckets := modFirst (fun x => x.waitsStart c tag) (fun x => { x with started := true }) s.buckets }
    else s

/-- Records of a tag's earlier buckets are no longer an entry's of this queue. -/
def State.disown (s : State) (q : QRef) (tag : Nat) : State :=
  { s with buckets := s.buckets.map (fun (b : Bucket) =>
      if b.slot = q.slot && b.tag = tag && b.issued && b.queue = q.queue then { b with queue := 16 } else b) }

/-- An entry issues bucket j: it claims the part its module already holds in it, or opens it. -/
def State.issueBucket (s : State) (q : QRef) (e : Entry) (d0 d1 : Desc) (step index j : Nat) : State :=
  let c := q.slot
  let x := s.ctx c
  let tag := bucketTag (s.ctxRec c).job x.epoch index step
  let s := s.disown q tag
  let claim := fun (b : Bucket) =>
    { (({ b with patience := (s.ctxRec c).patience } : Bucket).plan e d0 d1 j) with issued := true, queue := q.queue, index, step }
  match s.buckets.find? (fun b => b.slot = c && b.tag = tag && !b.issued) with
  | some b =>
    let s := { s with buckets := modFirst (fun b => b.slot = c && b.tag = tag && !b.issued) claim s.buckets }
    if b.doneAt.isSome then s.account (claim b) else s
  | none =>
    let b : Bucket := { job := (s.ctxRec c).job, tag, slot := c }
    { s with buckets := s.buckets ++ [s.refreshInputs (claim b)] }

/-- The elements of an entry's result are to be summed anew: an earlier skip of them ends (R77). -/
def Ctx.clearSkips (x : Ctx) (d1 : Desc) : Ctx :=
  let mine := d1.own.map (fun ix => d1.addr (d1.off ix))
  { x with skips := x.skips.filter (fun k => !mine.contains k.base) }

/-- ALL_REDUCE and REDUCE_SCATTER: an index used before in the step and epoch ends the entry before anything is sent
(R78); otherwise its buckets are issued. -/
def State.sumEntry (s : State) (q : QRef) (e : Entry) : State :=
  let c := q.slot
  let y := s.queue q
  let d0 := y.d 0
  let d1 := y.d 1
  let n := bucketCount e.imm1 d0
  let base := (bucketBase e.imm0 y.iter).toNat
  let x := s.ctx c
  if (List.range n).any (fun j => x.usedIdx.contains (y.startStep, base + j)) then s.finishEntry q .contractUnsupported
  else
    let tags := (List.range n).map (fun j => bucketTag (s.ctxRec c).job x.epoch (base + j) y.startStep)
    let s := s.modCtx c (fun x =>
      ({ x with usedIdx := x.usedIdx ++ (List.range n).map (fun j => (y.startStep, base + j)) }).clearSkips d1)
    let s := (List.range n).foldl (fun s j => s.issueBucket q e d0 d1 y.startStep (base + j) j) s
    let s := s.modQueue q (fun y => { y with phase := .running, flight := .collective tags false false })
    tags.foldl (fun s t => s.startBucket c t) s

/-! ### The end of a collective entry (R225, R227) -/

/-- Writes of a bucket's result: this module's elements of D1. -/
def Bucket.resultWrites (b : Bucket) : List (Nat × Bytes) :=
  match b.d0, b.d1 with
  | some d0, some d1 =>
    let ixs := (d0.own.drop b.elem0).take b.elems
    let es := if b.scatter then b.held [d1.shardIndex] else List.range b.elems
    let mine := es.filterMap (fun k => ixs[k]?)
    let runs := b.runs es
    let data := runs.flatMap (fun r => bslice b.result r.1 r.2)
    writesAt (d1.bytesAt mine) data
  | _, _ => []

/-- The buckets of a queue's collective entry. -/
def State.bucketsOf (s : State) (q : QRef) (tags : List Nat) : List Bucket :=
  s.buckets.filter (fun b => b.slot = q.slot && b.issued && b.queue = q.queue && tags.contains b.tag)

/-- The entry ends when every bucket has ended and every contribution was read: the results are written, and the worst
outcome is its status. With one that lost a peer, what the tiles hold is settled as the entry completes (R127). -/
def State.tryCollective (s : State) (q : QRef) : State :=
  let y := s.queue q
  match y.phase, y.flight, y.entry with
  | .running, .collective tags _ _, some e =>
    let bs := s.bucketsOf q tags
    if tags.all (fun t => bs.any (fun b => b.tag = t && b.doneAt.isSome && b.contrib.isSome)) then
      let ws := if bs.any (fun b => b.lost) then [] else bs.flatMap Bucket.resultWrites
      match s.vwrites q.slot ws with
      | (s, some a) => s.failEntry q e.tag 7 .running a
      | (s, none) =>
        let st := if bs.any (fun b => b.lost) then Status.peerLost
          else if bs.any (fun b => (b.final.getD {}).nf) then .nonfinite else .ok
        s.finishEntry q st
    else s
  | _, _, _ => s

/-- RESHARD waits until every bucket of the old epoch has completed or been abandoned (R82). -/
def State.epochClear (s : State) (c : Nat) : Bool :=
  s.buckets.all (fun b => b.slot ≠ c || b.doneAt.isSome || (!b.issued && b.summary.abandoned))

/-- Parts in old-epoch buckets for which the module has issued no contribution are settled with it absent, as abandoned, and count as
late in the record of a step (R50, R234). -/
def State.abandonOld (s : State) (c step : Nat) : State :=
  let ts := (s.buckets.filter (fun b => b.slot = c && b.doneAt.isNone && !b.issued && !b.gone && !b.summary.abandoned)).map (·.tag)
  let s := s.modCtx c (fun x => x.book step (fun st => { st with lateBuckets := st.lateBuckets + ts.length }))
  ts.foldl (fun s t =>
    match s.bucket c t with
    | some b =>
      let b := { b with summary := { b.summary with abandoned := true } }
      s.settle { b with own := if b.own = .waiting then .absent else b.own }
    | none => s) s

/-! ### Acceptance of job packets (R210, R213, R216, R339) -/

/-- Payload lengths that the table of R211 fixes. -/
def payloadOk (p : Packet) : Bool :=
  if p.ptype = 3 then p.payload.length = 16
  else if p.ptype = 7 then p.payload.length = 8
  else if p.ptype = 8 then p.payload.length = 32
  else p.payload.length ≤ 4096

/-- The position of a module in a job's rank list. -/
def State.posOfModule (s : State) (c m : Nat) : Nat := ((s.ranks c 0).findIdx? (· = m)).getD 0xFFFF

/-- The sender is the right group that the tree gives this member at the level (R223). -/
def State.regular (s : State) (c : Nat) (p : Packet) : Bool :=
  let self := (s.ctxRec c).position
  match (treeOf (s.ranks c 0)).place self 0 [] with
  | some (sub, lvl, _) => (sub.inputs (fun _ => true) self lvl).contains (p.level, s.posOfModule c p.src)
  | none => false

/-- What identifies the item a packet belongs to (R213). The partial of a group that R229 sends past its receiver is an item of its
own, beside that of the tree's right group of the level (log 37). -/
def State.itemKey (s : State) (c : Nat) (p : Packet) : List Nat :=
  if p.red then
    [0, p.job, p.ptype, p.tag, p.level, b2n p.summary, if (p.ptype = 2 || p.ptype = 4) && !s.regular c p then p.src + 1 else 0]
  else [1, p.job, p.src, p.ptype, p.tag]

/-- A packet whose bytes were accepted before, or of an item completed within the last 1 ms. -/
def State.duplicate (s : State) (c : Nat) (p : Packet) : Bool :=
  let n := p.payload.length
  let k := s.itemKey c p
  s.fab.seen.any (fun x => x.key = k &&
    (match x.doneAt with
     | some a => decide (s.clk.now < a + 1000000)
     | none => x.ranges.any (fun r =>
        if n = 0 then decide (r = (p.offset, 0)) else decide (r.1 ≤ p.offset ∧ p.offset + n ≤ r.1 + r.2))))

def State.remember (s : State) (c : Nat) (p : Packet) : State :=
  let k := s.itemKey c p
  let r := (p.offset, p.payload.length)
  let live := fun (x : Seen) => x.key = k && x.doneAt.isNone
  let seen := if s.fab.seen.any live then
      modFirst live (fun x => { x with ranges := r :: x.ranges }) s.fab.seen
    else { key := k, ranges := [r], doneAt := none } :: s.fab.seen
  { s with fab := { s.fab with seen := seen } }

/-- An item is complete at this receiver. -/
def State.itemDone (s : State) (c : Nat) (p : Packet) : State := s.closeSeen (s.itemKey c p)

/-- A packet of a job that ends here: authenticated, of a known type and the right length (R210, R211), of the sender's generation
(R216), new, not from a rank that a charter shuts out, nor from the peer of the link before it has told its charter digest (R339). Gives
the slot. -/
def State.jobPacket (s : State) (q : Nat) (p : Packet) : State × Option Nat :=
  let a := s.admitPacket q p
  let s := a.1
  if !a.2 ∨ p.dst ≠ s.fab.moduleId then (s, none)
  else if p.ptype = 0 ∨ p.ptype > 0x0C ∨ !payloadOk p then (s.dropBad q, none)
  else
    match s.slotOfJob p.job with
    | none => (s, none)
    | some c =>
      let x := s.ctx c
      let known := x.peerGens.find? (fun (g : Nat × Nat) => g.1 = p.src)
      let stale : Bool := match known with | some g => decide (g.2 ≠ p.gen) | none => false
      if stale then
        (s.modPort q (fun y => { y with genDrop := satAdd 32 y.genDrop 1 }), none)
      else if s.fab.barred.contains (c, p.src)
          || (x.charter.isSome && decide (p.src = (s.port q).peerId) && !(s.port q).link.told p.job) then (s, none)
      else if s.duplicate c p then (s.modPort q (fun y => { y with dupDrop := satAdd 32 y.dupDrop 1 }), none)
      else
        let s := s.remember c p
        (s.modCtx c (fun x => ({ x with
          peerGens := if known.isSome then x.peerGens else tins x.peerGens p.src p.gen }).tally 5 1), some c)

/-! ### The epoch filter (R234) -/

/-- −1: of an earlier epoch, 1: of a later one, 0: of the current one, modulo 256. -/
def State.epochOf (s : State) (c tag : Nat) : Int :=
  let d := ((s.ctx c).epoch % 256 + 256 - sl tag 31 24) % 256
  if d = 0 then 0 else if d < 128 then -1 else 1

/-! ### Collecting summaries (R212) -/

/-- Add the bytes of a summary packet; gives the whole summary once every byte is there. -/
def Bucket.collect (b : Bucket) (key n off : Nat) (d : Bytes) : Bucket × Option Summary :=
  let buf := bput (tget [] b.sumBytes (2 * key)) off d
  let got := fld (tget [] b.sumBytes (2 * key + 1)) 0 4 + d.length
  let len := summaryLen n
  if got ≥ len then
    ({ b with sumBytes := tdel (tdel b.sumBytes (2 * key)) (2 * key + 1)
              elems := if b.elems = 0 then fld buf 4 4 else b.elems }, some (Summary.dec buf))
  else ({ b with sumBytes := tins (tins b.sumBytes (2 * key) buf) (2 * key + 1) (toLE 4 got) }, none)

/-- Key of the summary of a right group. -/
def groupKey (level pos : Nat) : Nat := 2 + pos * 32 + level

/-! ### The handlers -/

/-- The format of a bucket that no admitted list explains is free among those of R110 (log 7). -/
def State.fixFmt (s : State) (b : Bucket) : State × Bucket :=
  if b.fmt ≠ 0 then (s, b)
  else
    let v := s.draw
    (v.2, { b with fmt := 1 + v.1 % 3 })

/-- The sender of a right group passed over receivers that it cannot reach (R229): those between it and this member. -/
def State.passOver (s : State) (b : Bucket) (pos : Nat) : Bucket :=
  match (treeOf (s.ranks b.slot 0)).place pos 0 [] with
  | some (_, _, up) =>
    let self := (s.ctxRec b.slot).position
    if up.contains self then
      s.refreshInputs { b with skip := (up.takeWhile (· ≠ self)).foldl addSorted b.skip }
    else b
  | none => b

/-- The bucket of a tag for a packet: none when it ended within the last 1 ms. -/
def State.bucketFor (s : State) (c tag : Nat) : State × Option Bucket :=
  match s.bucket c tag with
  | some b => (s, some b)
  | none =>
    if s.buckets.any (fun b => b.slot = c && b.tag = tag &&
        (match b.doneAt with | some a => decide (s.clk.now < a + 1000000) | none => false)) then (s, none)
    else
      let s := s.openBucket c tag
      match s.bucket c tag with
      | some b =>
        let r := s.fixFmt b
        (r.1.setBucket r.2, some r.2)
      | none => (s, none)

def State.lateDiscard (s : State) : State :=
  { s with fab := { s.fab with lateDrop := satAdd 32 s.fab.lateDrop 1 } }

/-- RED_READY (R226): a summary complete in time settles its right group; one after its deadline is discarded. -/
def State.redReady (s : State) (c : Nat) (p : Packet) : State :=
  match s.bucketFor c p.tag with
  | (s, none) => s.lateDiscard
  | (s, some b) =>
    let pos := s.posOfModule c p.src
    let r := b.collect (groupKey p.level pos) (s.ranks c 0).length p.offset p.payload
    let b := r.1
    match r.2 with
    | none => s.setBucket b
    | some sm =>
      let s := s.itemDone c p
      let mine := fun (b : Bucket) => b.inputs.any (fun i => i.level = p.level && i.rep = pos)
      let b := if mine b then b else s.passOver b pos
      let late : Bool := match s.deadline b (p.level + 1) with | some d => decide (s.clk.now > d) | none => false
      let open_ : Bool := b.inputs.any (fun i => i.level = p.level && i.rep = pos && i.st = .waiting)
      if !open_ || late || b.readySent then (s.setBucket b).lateDiscard
      else
        s.settle { b with
          anchor := match b.anchor with | some a => some a | none => some s.clk.now
          inputs := modFirst (fun i => i.level = p.level && i.rep = pos) (fun i => { i with st := .ready sm }) b.inputs }

/-- RED_PULL (R230): the member streams its partial once it is complete. -/
def State.redPull (s : State) (c : Nat) (p : Packet) : State :=
  match s.bucket c p.tag with
  | none => s
  | some b => (s.tryStream { b with pullFrom := some (p.src, fld p.payload 0 8, fld p.payload 8 8), sentBlk := [], streamed := false }).itemDone c p

/-- RED_DATA (R223): elements of a right group's partial, placed by offset. -/
def State.redData (s : State) (c : Nat) (p : Packet) : State :=
  match s.bucket c p.tag with
  | none => s
  | some b =>
    let pos := s.posOfModule c p.src
    let len := streamLen b.fmt b.elems
    let b := { b with inputs := modFirst (fun i => i.level = p.level && i.rep = pos) (fun i =>
      { i with part := bput i.part p.offset p.payload, got := i.got + p.payload.length
               ranges := i.ranges ++ [(p.offset, p.payload.length)]
               full := decide (i.got + p.payload.length ≥ len) }) b.inputs }
    let s := if b.inputs.any (fun i => i.level = p.level && i.rep = pos && i.full) then s.itemDone c p else s
    s.settle b

/-- Bytes of the result this member and its right groups need. -/
def State.resultNeed (s : State) (b : Bucket) : Nat :=
  let group := match (treeOf (s.ranks b.slot 0)).place (s.ctxRec b.slot).position 0 [] with
    | some x => x.1.members
    | none => []
  (b.runs (b.held group)).foldl (fun a r => a + r.2) 0

/-- Once the final summary and the data are there, the result goes on down the broadcast tree and the bucket ends. -/
def State.tryResult (s : State) (b : Bucket) : State :=
  if b.final.isSome && (b.lost || decide (b.resGot ≥ s.resultNeed b)) then (s.broadcast b).closeBucket b
  else s.setBucket b

/-- RED_RESULT (R227): elements of the final sum, or its summary. -/
def State.redResult (s : State) (c : Nat) (p : Packet) : State :=
  match s.bucketFor c p.tag with
  | (s, none) => s
  | (s, some b) =>
    let b := { b with lost := b.lost || p.lost }
    if p.summary then
      let r := b.collect 0 (s.ranks c 0).length p.offset p.payload
      match r.2 with
      | none => s.setBucket r.1
      | some sm => (s.itemDone c p).tryResult { r.1 with final := some sm }
    else s.tryResult { b with result := bput b.result p.offset p.payload, resGot := b.resGot + p.payload.length }

/-- RED_REDO (R232): the second pass, handed on to every right group. -/
def State.redRedo (s : State) (c : Nat) (p : Packet) : State :=
  match s.bucket c p.tag with
  | none => s
  | some b =>
    let n := (s.ranks c 0).length
    let r := b.collect 1 n p.offset p.payload
    match r.2 with
    | none => s.setBucket r.1
    | some sm =>
      let b := r.1.redo sm.offenders
      let s := ((s.itemDone c p).setBucket b).forgetData b
      (s.children b).foldl (fun s i =>
        s.sendStream c { ptype := 6, ctl := 16, dst := s.rankAt c i.2, tag := b.tag, level := i.1 } 0
          (sm.enc n b.elems)) s

/-- A reduction packet that has been accepted, by its type. -/
def State.redPacket (s : State) (c : Nat) (p : Packet) : State :=
  if p.ptype = 2 then s.redReady c p
  else if p.ptype = 3 then s.redPull c p
  else if p.ptype = 4 then s.redData c p
  else if p.ptype = 5 then s.redResult c p
  else s.redRedo c p

/-- The epoch filter in front of the handlers (R234). -/
def State.redFiltered (s : State) (c : Nat) (p : Packet) : State :=
  let filtered := decide (p.ptype ≤ 4)
  let e := s.epochOf c p.tag
  if filtered && e = -1 then { s with fab := { s.fab with epochDrop := satAdd 32 s.fab.epochDrop 1 } }
  else if filtered && e = 1 then { s with fab := { s.fab with heldPkts := s.fab.heldPkts ++ [p] } }
  else s.redPacket c p

/-! ### RESHARD (R82, R234) -/

/-- Packets held for the epoch that is now in force. -/
def State.releaseHeld (s : State) (c : Nat) : State :=
  let mine := fun (p : Packet) => s.slotOfJob p.job = some c && s.epochOf c p.tag ≠ 1
  let go := s.fab.heldPkts.filter mine
  let s := { s with fab := { s.fab with heldPkts := s.fab.heldPkts.filter (fun p => !mine p) } }
  go.foldl (fun s p => s.redFiltered c p) s

/-- The new layout epoch, once the old epoch's buckets have ended. -/
def State.tryReshard (s : State) (q : QRef) : State :=
  let y := s.queue q
  match y.phase, y.flight with
  | .running, .reshard e =>
    let s := s.abandonOld q.slot y.startStep
    if s.epochClear q.slot then
      let s := s.modCtx q.slot (fun x => { x with epoch := e, usedIdx := [] })
      (s.releaseHeld q.slot).finishEntry q .ok
    else s
  | _, _ => s

/-- The start of RESHARD. -/
def State.startReshard (s : State) (q : QRef) (e : Entry) : State :=
  let c := q.slot
  let s := s.abandonOld c (s.queue q).startStep
  let s := { s with buckets := s.buckets.filter (fun b => !(b.slot = c && b.doneAt.isSome && !b.issued)) }
  (s.modQueue q (fun y => { y with phase := .running, flight := .reshard (sl e.imm0 7 0) })).tryReshard q

/-- After buckets may have ended: entries that waited for them go on. -/
def State.wakeSums (s : State) (c : Nat) : State :=
  let s := (List.range 16).foldl (fun s k => if s.queueHeld ⟨c, k⟩ then s else s.tryCollective ⟨c, k⟩) s
  (List.range 16).foldl (fun s k => s.tryReshard ⟨c, k⟩) s

/-! ### Own contributions (R121, R226, R227) -/

/-- The record whose contribution a CONTRIBUTION_READY reads. -/
def Bucket.owes (b : Bucket) (c tag : Nat) : Bool := b.slot = c && b.tag = tag && b.queue < 16 && b.issued && b.started && b.contrib.isNone

/-- The contribution's stream, with what was carried from an earlier step added to it (R227). -/
def State.contribution (s : State) (b : Bucket) (own : Bytes) : Option Carry × Bytes :=
  match (s.ctx b.slot).carries.find? (fun k => k.index = b.index && k.step ≠ b.step && k.data.length = own.length) with
  | some k =>
    let r := s.ctxRec b.slot
    (some k, addStreams b.fmt b.elems r.jobSeed 31 r.position b.tag k.data own)
  | none => (none, own)

/-- The own contribution of a bucket is ready. -/
def State.contribute (s : State) (b : Bucket) (own : Bytes) : State :=
  let c := b.slot
  let r := s.contribution b own
  let s := s.modCtx c (fun x => { x with carries := match r.1 with | some k => x.carries.erase k | none => x.carries })
  let d := r.2
  let b' := { b with contrib := some d, carriedIn := r.1.isSome }
  let put := fun (s : State) (b' : Bucket) => { s with buckets := modFirst (fun x => x.owes c b.tag) (fun _ => b') s.buckets }
  let self := (s.ctxRec c).position
  if b.doneAt.isSome then
    let s := put s b'
    if (match b.final with | some f => f.members.contains self | none => true) then s
    else
      s.modCtx c (fun x =>
        if b.latePolicy = 0 then { x with carries := { index := b.index, step := b.step, data := d } :: x.carries }
        else x.book b.step (fun st => { st with dropped := st.dropped + 1 }))
  else
    let late : Bool := match s.deadline b 0 with | some a => decide (s.clk.now > a) | none => false
    if b.own ≠ .waiting then
      put s { b' with anchor := match b.anchor with | some a => some a | none => some s.clk.now }
    else
      let nf := streamBad b.fmt b.elems d
      let st : InSt := if late then .absent
        else .ready { nf, members := [self], offenders := if nf then [self] else [], carried := if r.1.isSome then [self] else [] }
      let b' := { b' with own := st, anchor := match b.anchor with | some a => some a | none => some s.clk.now }
      (put s b').settle b'

/-! ### The commands -/

/-- ALL_REDUCE (R75 to R78). -/
def execAllReduce (t : Nat) (q : QRef) (s : State) : Res := s.runEntry t q 0x50 (fun s e => s.sumEntry q e)

/-- REDUCE_SCATTER (R225). -/
def execReduceScatter (t : Nat) (q : QRef) (s : State) : Res := s.runEntry t q 0x51 (fun s e => s.sumEntry q e)

/-- RESHARD (R82). -/
def execReshard (t : Nat) (q : QRef) (s : State) : Res := s.runEntry t q 0x62 (fun s e => s.startReshard q e)

/-- BUCKET_START (R231): a bucket that has waited starts, and one whose RED_READY has waited for a place among those in flight sends
it. -/
def execBucketStart (t slot tag : Nat) (s : State) : Res :=
  let s := s.tick t
  if s.serves slot then
    let s := s.startBucket slot tag
    match s.bucket slot tag with
    | some b => .next (if b.readySent then s else (s.settle b).wakeSums slot)
    | none => .next s
  else .next s

/-- CONTRIBUTION_READY (R121, R226, R228, R266): the contribution is read and checked; a page fault parks the entry and
makes this member late. -/
def execContributionReady (t slot tag : Nat) (s : State) : Res :=
  let s := s.tick t
  match s.buckets.find? (fun b => b.owes slot tag) with
  | none => .next s
  | some b =>
    let q : QRef := ⟨slot, b.queue⟩
    let y := s.queue q
    match y.phase, y.entry, b.d0 with
    | .running, some e, some d0 =>
      if !s.serves slot ∨ !s.claimed b ∨ s.entryHeld q e then .next s
      else
        match s.readAddrs slot (d0.bytesAt ((d0.own.drop b.elem0).take b.elems)) with
        | .error (.fault va r w true) =>
          let s := s.failEntry q e.tag 6 .running (.fault va r w true)
          .next (if b.own = .waiting ∧ b.doneAt.isNone then (s.settle { b with own := .absent }).wakeSums slot else s)
        | .error a =>
          let s := s.failEntry q e.tag 6 .running a
          .next ((s.loseBuckets slot (· = b.queue)).wakeSums slot)
        | .ok d => .next ((s.contribute b d).wakeSums slot)
    | _, _, _ => .next s

/-- RED_DEADLINE (R226): inputs whose deadline has passed are settled as absent. -/
def execRedDeadline (t slot tag : Nat) (s : State) : Res :=
  let s := s.tick t
  match s.bucket slot tag with
  | none => .next s
  | some b =>
    let past : Nat → Bool := fun n => match s.deadline b n with | some d => decide (d ≤ s.clk.now) | none => false
    let b := { b with
      own := if b.own = .waiting ∧ past 0 then .absent else b.own
      inputs := b.inputs.map (fun (i : Input) => if i.st = .waiting ∧ past (i.level + 1) then { i with st := .absent } else i) }
    .next (if s.live ∧ !b.readySent then (s.settle b).wakeSums slot else s)

/-- The left partial of the addition at a level is ready (R230): the own contribution, and every partial of a lower level. -/
def Bucket.leftReady (b : Bucket) (level : Nat) : Bool :=
  (match b.own with | .ready _ => b.contrib.isSome | .absent => true | .waiting => false)
    && b.inputs.all (fun i => decide (i.level ≥ level) || (i.st.settled && i.complete))

/-- RED_PULL_ISSUE (R230): asked for once the buffer has room, or the own left partial is ready. -/
def execRedPullIssue (t slot tag level : Nat) (s : State) : Res :=
  let s := s.tick t
  match s.bucket slot tag with
  | none => .next s
  | some b =>
    let want := fun (i : Input) => i.level = level && i.st.data && !i.pulled
    match b.inputs.find? want with
    | none => .next s
    | some i =>
      let room := decide (s.redUsed + streamLen b.fmt b.elems ≤ 134217728)
      let left := b.leftReady level
      if s.live && (room || left) then
        let b := { b with inputs := modFirst want (fun i => { i with pulled := true, early := !left }) b.inputs }
        let s := s.setBucket b
        let s := { s with fab := { s.fab with bufPeak := max s.fab.bufPeak s.redUsed } }
        .next (s.sendFor slot { ptype := 3, ctl := 0, dst := s.rankAt slot i.rep, tag, level, payload := zeros 16 })
      else .next s

/-- A reduction packet of one type arrives on a port. -/
def State.redCommand (s : State) (t port ptype : Nat) (pkt : Packet) : Res :=
  let s := s.tick t
  match s.jobPacket port pkt with
  | (s, none) => .next s
  | (s, some c) => .next (if pkt.ptype = ptype then (s.redFiltered c pkt).wakeSums c else s.dropBad port)

/-- RED_READY (R226). -/
def execRedReady (t port : Nat) (pkt : Packet) (s : State) : Res := s.redCommand t port 2 pkt

/-- RED_PULL (R230). -/
def execRedPull (t port : Nat) (pkt : Packet) (s : State) : Res := s.redCommand t port 3 pkt

/-- RED_DATA (R223). -/
def execRedData (t port : Nat) (pkt : Packet) (s : State) : Res := s.redCommand t port 4 pkt

/-- RED_RESULT (R227). -/
def execRedResult (t port : Nat) (pkt : Packet) (s : State) : Res := s.redCommand t port 5 pkt

/-- RED_REDO (R232). -/
def execRedRedo (t port : Nat) (pkt : Packet) (s : State) : Res := s.redCommand t port 6 pkt

end Sys2Proof.Machine
end

