-- ==== Sys2Proof/Machine/Flits.lean ====
section
/-! DEFINITION. Flits: sending under credits and the replay window, receiving, replay; packets in transit; records of
accepted bytes (R206 to R210, R213, R214, R218, R219). -/

namespace Sys2Proof.Machine

/-! ### Sending (R207, R208, R214) -/

/-- The first packet that may be sent now: it has the credits of its class, no earlier packet of its class waits for
some, and it is plain or the session is in force. -/
def pickPacket (credits : List Nat) (session : Bool) : List Nat → List Packet → Option (Packet × List Packet)
  | _, [] => none
  | blocked, p :: r =>
    let c := if p.classed then classOf p.ptype else 4
    let fits := !p.classed || decide ((credits[c]?).getD 0 ≥ p.units)
    if (p.plain || session) && fits && !blocked.contains c then some (p, r)
    else (pickPacket credits session (c :: blocked) r).map (fun x => (x.1, p :: x.2))

/-- The time stamps a TIME_SYNC packet takes as its flit leaves (R211): T1 in a request, T3 in a reply. -/
def stampTime (p : Packet) (now : Nat) : Packet :=
  if p.ptype = 9 then
    { p with payload := bput p.payload (if fld p.payload 0 1 = 0 then 8 else 24) (toLE 8 now) }
  else p

/-- Seal the next packet: its counter, its bytes; behind a REKEY the new key is in force and PKT_CTR restarts (R363). -/
def Port.sealNext (x : Port) (q : Nat) (p : Packet) : Port × Bytes × Packet :=
  if p.plain then (x, sealPacket x.link p, p)
  else
    let p := { p with ctr := x.link.txCtr }
    let b := sealPacket x.link p
    let l := { x.link with txCtr := wrapAdd 64 x.link.txCtr 1 }
    let l :=
      if p.ptype = 0x0C && decide (fld p.payload 0 1 = 5) then
        let k := ({ l with eph := l.ephNew, hello := helloPayload l.ephNew x.usedId }).sideKey (l.peerHello.getD [])
          (x.low q) (x.low q)
        { l with txKey := k.1, txSalt := k.2, txCtr := 0, rekeySent := false }
      else l
    let c := classOf p.ptype
    ({ x with link := l, credits := if p.classed then lmod x.credits c (fun n => n - p.units) else x.credits }, b, p)

/-- Packets can be sealed: the session is established, and PKT_CTR has not reached its end under the key (R328). -/
def Link.seals (l : Link) : Bool := l.established && decide (l.txCtr < 2 ^ 48 - 1)

/-- Fill packet space: port, bytes so far, packets that end in them. -/
def fillSpace (now q : Nat) : Nat → Port → Bytes → List Packet → Port × Bytes × List Packet
  | 0, x, b, ps => (x, b, ps)
  | fuel + 1, x, b, ps =>
    if b.length ≥ 627 then (x, b, ps)
    else
      match pickPacket x.credits x.link.seals [] x.txQueue with
      | none => (x, b, ps)
      | some (p, rest) =>
        let r := ({ x with txQueue := rest }).sealNext q (stampTime p now)
        fillSpace now q fuel { r.1 with txLast := some r.2.2 } (b ++ r.2.1) (ps ++ [r.2.2])

/-- The credit units returned in a flit: of the first class that is owed some. -/
def Port.giveCredit (x : Port) : Port × Nat × Nat :=
  match [0, 1, 2].find? (fun c => (x.owed[c]?).getD 0 > 0) with
  | none => (x, 0, 0)
  | some c =>
    let n := min 16383 ((x.owed[c]?).getD 0)
    ({ x with owed := lmod x.owed c (fun k => k - n) }, c, n)

/-- The next flit of a port under the lane set in effect. -/
def State.putNext (s : State) (q : Nat) : State :=
  let x := s.port q
  let start := x.txRest
  let r := fillSpace s.clk.time q 64 { x with txRest := [] } start []
  let old := match x.txLast with | some p => if start.isEmpty then [] else [p] | none => []
  let full := old ++ r.2.2
  let ovf := decide (r.2.1.length > 627)
  let c := r.1.giveCredit
  let flags := b2n x.nakOut + 2 * b2n r.2.1.isEmpty
  let b := flitBytes x.fseqTx x.ackRx flags c.2.1 c.2.2 r.2.1
  let ended := if ovf then full.dropLast else full
  let s := s.setPort q { c.1 with
    txRest := r.2.1.drop 627
    txLast := if ovf then full.getLast? else none
    window := c.1.window ++ [{ fseq := x.fseqTx, bytes := b, pkts := ended }]
    fseqTx := (x.fseqTx + 1) % 65536
    nakOut := false }
  s.putFlit q b

/-- A REKEY that has not been sent when PKT_CTR is about to reach 2^48 goes ahead of every other packet (R328). -/
def State.forceRekey (s : State) (q : Nat) : State :=
  let l := (s.port q).link
  if !l.established || l.txCtr + 64 < 2 ^ 48 then s
  else
    let s := if l.rekeySent then s else s.startRekey q
    let isRekey := fun (p : Packet) => decide (p.ptype = 0x0C ∧ fld p.payload 0 1 = 5)
    s.modPort q (fun x => { x with txQueue := x.txQueue.filter isRekey ++ x.txQueue.filter (fun p => !isRekey p) })

/-- The next flit of a port: an announced lane set comes into effect first (R204), and one of fewer than 4 lanes takes the port
down (R198). -/
def State.sendFlit (s : State) (q : Nat) : State :=
  let x := (s.port q).atFlit (s.port q).fseqTx
  let s := s.setPort q x
  if x.starved then s.portDown q else (s.forceRekey q).putNext q

/-- The port exchanges flits: it has codeword lock and its light is not moving. -/
def Port.flows (x : Port) : Bool := (decide (x.st = 2 ∨ x.st = 3) || (decide (x.st = 1) && x.locked)) && !x.moving

/-- FLIT_SEND (R214): a flit is sent while the window has room; packets go only with the credits of their class. -/
def execFlitSend (t port : Nat) (s : State) : Res :=
  let s := s.tick t
  let x := s.port port
  .next (if s.live && x.flows && decide (x.window.length < 2048) then s.sendFlit port else s)

/-! ### Receiving (R207, R208) -/

/-- Take whole packets from the received bytes; a zero PTYPE pads to the end of the flit. -/
def splitPackets : Nat → Bytes → List Bytes → List Bytes × Bytes
  | 0, b, ps => (ps, b)
  | fuel + 1, b, ps =>
    match b with
    | [] => (ps, [])
    | h :: _ =>
      if h = 0 then (ps, [])
      else if b.length < 32 then (ps, b)
      else
        let n := 48 + fld b 2 2
        if b.length < n then (ps, b) else splitPackets fuel (b.drop n) (ps ++ [b.take n])

/-- The awaited flit, intact: its ACK, credits and packet bytes are processed (R207, R214). -/
def Port.takeFlit (x : Port) (flit : Bytes) : Port :=
  let x := x.atPeerFlit x.fseqRx
  let cr := fld flit 5 2
  let got := if bit (fld flit 4 1) 1 then ([], x.rxBuf) else splitPackets 64 (x.rxBuf ++ bslice flit 7 627) []
  { x with
    window := match x.window.findIdx? (fun w => w.fseq = fld flit 2 2) with
      | some i => x.window.drop (i + 1)
      | none => x.window
    fseqRx := (x.fseqRx + 1) % 65536
    ackRx := x.fseqRx
    credits := lmod x.credits (cr / 16384) (fun n => n + cr % 16384)
    rxPkts := x.rxPkts ++ got.1
    rxBuf := got.2 }

/-- The awaited flit is processed; a lane set of fewer than 4 lanes that comes with it takes the port down (R198); its NAK asks for
the window (R208). -/
def State.takeFlit (s : State) (q : Nat) (flit : Bytes) : State :=
  let s := s.modPort q (fun x => x.takeFlit flit)
  if (s.port q).starved then s.portDown q
  else if bit (fld flit 4 1) 0 then s.replay q else s

/-- Flits that came ahead of the awaited one follow it in order (R206). -/
def State.takeEarly : Nat → State → Nat → State
  | 0, s, _ => s
  | fuel + 1, s, q =>
    let x := s.port q
    match x.early.find? (fun e => e.1 = x.fseqRx) with
    | none => s
    | some e => State.takeEarly fuel ((s.setPort q { x with early := x.early.filter (fun g => g.1 ≠ e.1) }).takeFlit q e.2) q

/-- How far a flit is ahead of the awaited one. -/
def Port.ahead (x : Port) (flit : Bytes) : Nat := (fld flit 0 2 + 65536 - x.fseqRx) % 65536

def flitIntact (flit : Bytes) : Bool := flit.length = 642 && fld flit 634 8 = crc64 (flit.take 634)

/-- FLIT_RECEIVE (R206, R208): flit order is restored by FSEQ over what the active lanes can hold (log 101); a flit that fails its CRC
or that order is dropped and NAK is owed. -/
def execFlitReceive (t port : Nat) (flit : Bytes) (s : State) : Res :=
  let s := s.tick t
  let x := s.port port
  if !s.live ∨ !x.flows then .next s
  else if !flitIntact flit ∨ x.ahead flit ≥ max 1 x.dealt.length then .next (s.setPort port { x with nakOut := true })
  else if x.ahead flit = 0 then .next (State.takeEarly 8 (s.takeFlit port flit) port)
  else .next (s.setPort port { x with early := x.early.filter (fun e => e.1 ≠ fld flit 0 2) ++ [(fld flit 0 2, flit)] })

/-! ### Transit (R210, R213, R218) -/

/-- PACKET_TRANSIT: authenticated, its hops counted, sealed afresh for the next link. -/
def execPacketTransit (t port : Nat) (pkt : Packet) (s : State) : Res :=
  let s := s.tick t
  if pkt.dst = s.fab.moduleId then .next s
  else
    let a := s.admitPacket port pkt
    let s := a.1
    if !a.2 then .next s
    else if pkt.ptype = 0 ∨ pkt.ptype ≥ 0x0B then .next (s.dropBad port)
    else if !s.inPartition pkt.dst then
      .next { s with fab := { s.fab with hopDrop := satAdd 32 s.fab.hopDrop 1 } }
    else .next (s.send { pkt with hops := pkt.hops + 1, ctr := 0 })


/-- DUPLICATE_RECORD_EXPIRE (R213): records of items completed at least 1 ms ago are dropped. -/
def execDuplicateRecordExpire (t port : Nat) (s : State) : Res :=
  let s := s.tick t
  let young := fun (d : Option Nat) => match d with | some a => decide (s.clk.now < a + 1000000) | none => true
  .next (if s.present (.port port) then
    { s with
      fab := { s.fab with seen := s.fab.seen.filter (fun x => young x.doneAt) }
      buckets := s.buckets.filter (fun b => young b.doneAt || !b.issued || s.claimed b) }
  else s)

end Sys2Proof.Machine
end

