-- ==== Sys2Proof/Machine/Exchange.lean ====
section
/-! DEFINITION. Messages between ranks: ALL_TO_ALL, gathers, SEND and RECV, DROP_SHARD, and what a lost peer means
(R79 to R81, R115, R192, R193, R211, R216, R217, R219, R233, R235 to R238, R339, R387). -/

namespace Sys2Proof.Machine

/-! ### Message streams (R211) -/

/-- Every byte up to the end of the packet with LAST is there. -/
def Msg.whole (m : Msg) : Bool := m.last && decide (reachFrom m.got.length m.got 0 = m.bytes.length)

/-- The whole message from a sender under an identifier. -/
def Ctx.message (x : Ctx) (src mid : Nat) : Option Bytes :=
  (x.msgs.find? (fun m => m.src = src && m.mid = mid && m.whole)).map (·.bytes)

/-- Place the bytes of one packet in its message. -/
def Ctx.place (x : Ctx) (p : Packet) : Ctx :=
  let mine := fun (m : Msg) => m.src = p.src && m.mid = p.tag
  let put := fun (m : Msg) => { m with
    bytes := if p.payload.isEmpty then m.bytes else bput m.bytes p.offset p.payload
    got := if p.payload.isEmpty then m.got else m.got ++ [(p.offset, p.payload.length)]
    last := m.last || p.last }
  { x with msgs := if x.msgs.any mine then modFirst mine put x.msgs
                   else x.msgs ++ [put { src := p.src, mid := p.tag, bytes := [], got := [], last := false }] }

/-- A message is used up. -/
def Ctx.takeMsg (x : Ctx) (src mid : Nat) : Ctx :=
  { x with msgs := x.msgs.filter (fun m => !(m.src = src && m.mid = mid)) }

/-- Send a message stream to a rank of the job; to the own module it is kept here. -/
def State.sendMsg (s : State) (c m mid : Nat) (d : Bytes) : State :=
  if m = s.fab.moduleId then
    s.modCtx c (fun x => { x with
      msgs := x.msgs ++ [{ src := m, mid, bytes := d, got := if d.isEmpty then [] else [(0, d.length)], last := true }] })
  else s.sendStream c { ptype := 1, ctl := 2, dst := m, tag := mid } 0 d

/-! ### ALL_TO_ALL (R235 to R237) -/

/-- Members of the group of the current entry. -/
def State.members (s : State) (c : Nat) (d : Desc) : List Nat := s.ranks c d.group

/-- Element indices of row r of group g. -/
def rowIdx (d : Desc) (g r : Nat) : List (List Nat) := (List.range (d.len 0)).map (fun w => fit d.rank [w, r, g])

/-- Bytes of rows 0 to n − 1 of a group from row `r0` on. -/
def State.rowBytes (s : State) (c : Nat) (d : Desc) (g r0 n : Nat) : Except Acc Bytes :=
  match each (List.range n) (fun r => s.readAddrs c (d.bytesAt (rowIdx d g (r0 + r)))) with
  | .ok l => .ok l.flatten
  | .error e => .error e

/-- Bytes of one row. -/
def rowLen (d : Desc) : Nat := (d.bytesAt (rowIdx d 0 0)).length

/-- The counts at the head of a dispatch stream, padded to 16 bytes. -/
def headOf (counts : List Nat) : Bytes := pad16 (counts.flatMap (fun n => toLE 2 n))

/-- Send counts of every group of a dispatch (R236). -/
def State.sendCounts (s : State) (c : Nat) (d0 : Desc) (d2 : Option Desc) : Except Acc (List Nat) :=
  each (List.range (d0.len 2)) (fun g =>
    match d2 with
    | none => .ok (d0.len 1)
    | some d => do
      let n ← s.readIndex c d [g]
      .ok (min n (d0.len 1)))

/-- Counts that the matching dispatch wrote to D3: of local group g, from position p. -/
def State.recvCounts (s : State) (c : Nat) (d3 : Desc) (n gn : Nat) : Except Acc (List (List Nat)) :=
  each (List.range gn) (fun g => each (List.range n) (fun p => s.readIndex c d3 (fit d3.rank [p, g])))

/-- The stream of a dispatch to the member at position p. -/
def State.dispatchStream (s : State) (c : Nat) (d0 : Desc) (counts : List Nat) (gn p : Nat) : Except Acc Bytes := do
  let gs := (List.range gn).map (fun g => p * gn + g)
  let cs := gs.map (fun g => (counts[g]?).getD 0)
  let rows ← each gs (fun g => s.rowBytes c d0 g 0 ((counts[g]?).getD 0))
  .ok (headOf cs ++ rows.flatten)

/-- The stream of a return to the member at position p. -/
def State.returnStream (s : State) (c : Nat) (d0 : Desc) (counts : List (List Nat)) (p : Nat) : Except Acc Bytes := do
  let rows ← each (List.range counts.length) (fun g =>
    let l := (counts[g]?).getD []
    s.rowBytes c d0 g ((l.take p).foldl (· + ·) 0) ((l[p]?).getD 0))
  .ok rows.flatten

/-- The message identifier of a queue's current entry. -/
def Queue.mid (y : Queue) (low : Nat) : Nat := msgId y.startStep y.iter low

/-- The writes of a row from a stream. -/
def rowWrite (d : Desc) (g r : Nat) (b : Bytes) : List (Nat × Bytes) := writesAt (d.bytesAt (rowIdx d g r)) b

/-- What a dispatch writes: packed rows, zero after the total, counts, totals. -/
def dispatchWrites (d1 d3 : Desc) (d4 : Option Desc) (streams : List Bytes) (gn : Nat) : List (Nat × Bytes) :=
  let w := rowLen d1
  let counts := streams.map (fun b => (List.range gn).map (fun g => if b.isEmpty then 0 else fld b (2 * g) 2))
  let head := (2 * gn + 15) / 16 * 16
  let rows := (List.range gn).flatMap (fun g =>
    let mine := (streams.zip counts).flatMap (fun p =>
      let before := (p.2.take g).foldl (· + ·) 0
      (List.range ((p.2[g]?).getD 0)).map (fun r => bslice p.1 (head + (before + r) * w) w))
    let n := mine.length
    ((mine.zip (List.range n)).flatMap (fun p => rowWrite d1 g p.2 p.1))
      ++ (List.range (d1.len 1 - n)).flatMap (fun r => zeroRows d1 (rowIdx d1 g (n + r))))
  let cw := (List.range streams.length).flatMap (fun p => (List.range gn).map (fun g =>
    (d3.addr (d3.off (fit d3.rank [p, g])), toLE 2 ((((counts[p]?).getD [])[g]?).getD 0))))
  let tw := match d4 with
    | none => []
    | some d => (List.range gn).map (fun g =>
        (d.addr (d.off [g]), toLE 2 (counts.foldl (fun a l => a + (l[g]?).getD 0) 0)))
  rows ++ cw ++ tw

/-- What a return writes: each block at the head of its group, zero beyond. `sent`: the counts sent by the dispatch. -/
def returnWrites (d1 : Desc) (streams : List Bytes) (sent : List Nat) (gn : Nat) : List (Nat × Bytes) :=
  let w := rowLen d1
  (List.range streams.length).flatMap (fun p =>
    let b := (streams[p]?).getD []
    let cs := (List.range gn).map (fun g => (sent[p * gn + g]?).getD 0)
    (List.range gn).flatMap (fun g =>
      let before := (cs.take g).foldl (· + ·) 0
      let n := (cs[g]?).getD 0
      (List.range n).flatMap (fun r => rowWrite d1 (p * gn + g) r (bslice b ((before + r) * w) w))
        ++ (List.range (d1.len 1 - n)).flatMap (fun r => zeroRows d1 (rowIdx d1 (p * gn + g) (n + r)))))

/-- An exchange ends when every member's stream is there, or is late (R237). -/
def State.tryExchange (s : State) (q : QRef) : State :=
  let y := s.queue q
  match y.phase, y.flight, y.entry with
  | .running, .exchange _ _ late, some e =>
    let c := q.slot
    let ms := s.members c (y.d 0)
    let mid := y.mid e.tag
    let got := ms.map (fun m => if late.contains m then some [] else (s.ctx c).message m mid)
    if got.all (·.isSome) then
      let streams := got.map (·.getD [])
      let d1 := y.d 1
      let d3 := y.d 3
      let gn := d3.len 1
      let sent := ((s.ctx c).sent.find? (fun p => p.1 = d3.base)).map (·.2)
      let v := s.draw
      let s := if e.variant = 1 ∧ sent.isNone then v.2 else s
      let ws := if e.variant = 0 then dispatchWrites d1 d3 (y.desc 4) streams gn
        else returnWrites d1 streams (sent.getD (List.replicate (d1.len 2) (v.1 % (d1.len 1 + 1)))) gn
      match s.vwrites c ws with
      | (s, some a) => s.failEntry q e.tag 5 .running a
      | (s, none) =>
        let s := late.foldl (fun s m => s.closeSeen [1, (s.ctxRec c).job, m, 1, mid]) s
        let s := s.modCtx c (fun x =>
          let x := ms.foldl (fun x m => x.takeMsg m mid) x
          ({ x with dead := x.dead ++ late.map (fun m => (m, mid)) } : Ctx).book y.startStep (fun st => { st with
            lateRanks := late.foldl (fun l m => addSorted l (s.posOfModule c m)) st.lateRanks
            notIdentical := st.notIdentical || !late.isEmpty }))
        s.finishEntry q .ok
    else s
  | _, _, _ => s

/-- The end of patience as interval time: 0 for none (R76, R237). -/
def State.patienceEnd (s : State) (c field : Nat) : Nat :=
  let p := if field = 0 then (s.ctxRec c).patience else field
  if p = 0xFFFFFFFF then 0 else s.clk.now + p * 1000

/-- What ALL_TO_ALL sends: on dispatch the counts of every member and its rows, on return its rows. -/
def State.exchangeStreams (s : State) (c : Nat) (y : Queue) (e : Entry) : Except Acc (List Nat × List Bytes) :=
  let d0 := y.d 0
  let n := (s.members c d0).length
  if e.variant = 0 then do
    let counts ← s.sendCounts c d0 (y.desc 2)
    let ss ← each (List.range n) (s.dispatchStream c d0 counts (d0.len 2 / max n 1))
    .ok (counts, ss)
  else do
    let counts ← s.recvCounts c (y.d 3) n (d0.len 2)
    let ss ← each (List.range n) (s.returnStream c d0 counts)
    .ok ([], ss)

/-- Dispatch keeps its counts for the return that names the same table. -/
def State.keepCounts (s : State) (c : Nat) (y : Queue) (e : Entry) (counts : List Nat) : State :=
  if e.variant = 0 then
    s.modCtx c (fun x => { x with sent := ((y.d 3).base, counts) :: x.sent.filter (fun p => p.1 ≠ (y.d 3).base) })
  else s

/-- The start of ALL_TO_ALL: what is sent is read first, then every member gets its stream. A peer that cannot be reached ends it (R237),
but without light every peer is only late (R37). -/
def State.startExchange (s : State) (q : QRef) (e : Entry) : State :=
  let c := q.slot
  let y := s.queue q
  let ms := s.members c (y.d 0)
  if !s.dark && ms.any (fun m => !s.peerOk c m) then s.finishEntry q .peerLost
  else
    match s.exchangeStreams c y e with
    | .error a => s.failEntry q e.tag 0 .ready a
    | .ok (counts, ss) =>
      let s := (ms.zip ss).foldl (fun s p => s.sendMsg c p.1 (y.mid e.tag) p.2) (s.keepCounts c y e counts)
      let s := s.modQueue q (fun y => { y with
        phase := .running, flight := .exchange s.clk.now (s.patienceEnd c (sl e.imm1 31 0)) [] })
      s.tryExchange q

/-! ### Gathers (R79, R80, R115, R238) -/

/-- Tiles of a shard whose entries a gather carries: those of a scaled tensor with an array (R115). -/
def State.tileAddrs (s : State) (c : Nat) (d : Desc) (ixs : List (List Nat)) : Except Acc (List Nat) :=
  if d.scaleSlot = 0xFFFF || !d.format.scaled then .ok []
  else
    match s.readSlot c d.scaleSlot with
    | .error e => .error e
    | .ok sl =>
      .ok (if sl.adjVa = 0 then []
        else (d.tiles (ixs.map (fun ix => (ix, Val.zero)))).flatMap (fun t =>
          [tileVa sl d t, tileVa sl d t + 1, tileVa sl d t + 2, tileVa sl d t + 3]))

/-- A holder's stream: elements, side array, tile entries, then the shard's version (log 39). -/
def State.holderStream (s : State) (c : Nat) (d : Desc) : Except Acc Bytes := do
  let b ← s.readAddrs c d.stream
  let ts ← s.tileAddrs c d d.own
  let tb ← s.readAddrs c ts
  let v ← if d.versionVa = 0 then .ok (zeros 4) else s.vread c d.versionVa 4
  .ok (b ++ tb ++ v)

/-- The shards of a gather that other members hold. -/
def Desc.missing (d : Desc) : List Nat := (List.range d.shardCount).filter (fun i => i ≠ d.shardIndex)

/-- The module that holds a shard. -/
def State.holder (s : State) (c : Nat) (d : Desc) (i : Nat) : Nat := ((s.ranks c d.group)[i]?).getD 0xFFFF

/-- The writes of one shard of the full view. -/
def State.shardWrites (s : State) (c : Nat) (d0 d1 : Desc) (i : Nat) (b : Bytes) : Except Acc (List (Nat × Bytes)) := do
  let as := d1.bytesAt (d0.shardIdx i)
  let ts ← s.tileAddrs c d1 (d0.shardIdx i)
  .ok (writesAt as (b.take as.length) ++ writesAt ts (bslice b as.length ts.length))

/-- Address of the version record in this iteration. -/
def recordVa (e : Entry) (iter : Nat) : Nat := ((e.imm0 : Int) + (iter : Int) * toSigned 64 e.imm1).toNat

/-- The list revision of the current entry. -/
def Queue.version (y : Queue) : Nat :=
  match y.stack with
  | f :: _ => ((y.list f.addr).map (·.version)).getD 0x0300
  | [] => 0x0300

/-- The record's words to write, and how many of the fetched versions differ from it; the module's own shard is not
fetched. -/
def State.versions (s : State) (c : Nat) (y : Queue) (e : Entry) (vs : List Bytes) : Except Acc (List (Nat × Bytes) × Nat) :=
  if e.op ≠ 0x60 || y.version < 0x0300 then .ok ([], 0)
  else if e.variant = 0 then .ok ([(recordVa e y.iter, vs.flatten)], 0)
  else do
    let b ← s.vread c (recordVa e y.iter) (4 * vs.length)
    .ok ([], ((y.d 0).missing.filter (fun i => bslice b (4 * i) 4 ≠ (vs[i]?).getD [])).length)

/-- The byte that a list of writes leaves at an address. -/
def byteOf (ws : List (Nat × Bytes)) (a : Nat) : Option Byte :=
  ws.foldl (fun r w => if w.1 ≤ a ∧ a < w.1 + w.2.length then w.2[a - w.1]? else r) none

/-- The elements of a tile that this module holds. -/
def Desc.tileIdx (d : Desc) (t : Nat) : List (List Nat) := d.own.filter (fun ix => d.tile ix = t)

/-- The bytes of a tile: its elements, and its entry. -/
def State.tileBytes (s : State) (c : Nat) (d : Desc) (t : Nat) : List Nat :=
  d.bytesAt (d.tileIdx t) ++ (match s.tileAddrs c d (d.tileIdx t) with | .ok l => l | .error _ => [])

/-- What a list of writes leaves in a tile. -/
def State.tileOf (s : State) (c : Nat) (d : Desc) (ws : List (Nat × Bytes)) (t : Nat) : List (Nat × Bytes) :=
  (s.tileBytes c d t).filterMap (fun a => (byteOf ws a).map (fun b => (a, [b])))

/-- Each tile of an output of an entry that ends with another status than OK or NONFINITE holds its new or its previous
contents (R127): which is free (log 7). -/
def State.someOf (s : State) (c : Nat) (d : Desc) (ws : List (Nat × Bytes)) : State × List (Nat × Bytes) :=
  d.ownTiles.foldl (fun r t =>
    let v := r.1.draw
    (v.2, if v.1 % 2 = 0 then r.2 else r.2 ++ s.tileOf c d ws t.1)) (s, [])

/-- A gather ends when every missing shard is there. -/
def State.tryGather (s : State) (q : QRef) : State :=
  let y := s.queue q
  match y.phase, y.flight, y.entry with
  | .running, .gather _ missing, some e =>
    let c := q.slot
    let d0 := y.d 0
    let d1 := y.d 1
    let mid := y.mid d0.tensorId
    if missing.all (fun i => ((s.ctx c).message (s.holder c d0 i) mid).isSome) then
      let built : Except Acc (List (Nat × Bytes) × Nat) := do
        let own ← s.holderStream c d0
        let parts := (List.range d0.shardCount).map (fun i =>
          if i = d0.shardIndex then own else ((s.ctx c).message (s.holder c d0 i) mid).getD [])
        let ws ← each ((List.range d0.shardCount).zip parts) (fun p => s.shardWrites c d0 d1 p.1 p.2)
        let v ← s.versions c y e (parts.map (fun b => bslice b (own.length - 4) 4))
        .ok (ws.flatten ++ v.1, v.2)
      match built with
      | .error a => s.failEntry q e.tag (s.sourceAt c a 5) .running a
      | .ok (ws, differ) =>
        let latest := bit (s.ctxRec c).mode 3
        let bad := differ ≠ 0 && !latest
        let r := if bad then s.someOf c d1 ws else (s, ws)
        match r.1.vwrites c r.2 with
        | (s, some a) => s.failEntry q e.tag (s.sourceAt c a 5) .running a
        | (s, none) =>
          let s := s.modCtx c (fun x =>
            let x := missing.foldl (fun x i => x.takeMsg (s.holder c d0 i) mid) x
            x.book y.startStep (fun st => { st with useLatest := st.useLatest + (if latest then differ else 0) }))
          s.finishEntry q (if bad then .shardVersion else .ok)
    else s
  | _, _, _ => s

/-- The payload of a GATHER_REQ (R211). -/
def gatherPayload (tensor iter shard start count : Nat) : Bytes :=
  toLE 4 tensor ++ toLE 4 iter ++ toLE 2 shard ++ zeros 6 ++ toLE 8 start ++ toLE 8 count

/-- The start of a gather: one request to the holder of each missing shard. -/
def State.startGather (s : State) (q : QRef) (e : Entry) : State :=
  let c := q.slot
  let y := s.queue q
  let d0 := y.d 0
  match s.holderStream c d0 with
  | .error a => s.failEntry q e.tag (s.sourceAt c a 0) .ready a
  | .ok own =>
    if d0.missing.any (fun i => !s.peerOk c (s.holder c d0 i)) then s.finishEntry q .peerLost
    else
      let n := if e.op = 0x60 then own.length else own.length - 4
      let s := d0.missing.foldl (fun s i =>
        s.sendFor c { ptype := 8, ctl := 4, dst := s.holder c d0 i, tag := y.mid d0.tensorId
                      payload := gatherPayload d0.tensorId y.iter i 0 n }) s
      let s := s.modQueue q (fun y => { y with phase := .running, flight := .gather s.clk.now d0.missing })
      s.tryGather q

/-- An optimiser entry that reaches bytes of this shard is under way (R80). -/
def Ctx.updatingNow (x : Ctx) (d : Desc) : Bool :=
  x.queues.any (fun p =>
    match p.2.entry, p.2.phase with
    | _, .done _ => false
    | some e, _ =>
      let u := (p.2.d 0).held
      p.2.begun && (e.op = 0x70 || e.op = 0x71) && decide (u.1 = d.tensorId ∧ u.2.1 ≤ d.held.2.2 ∧ d.held.2.1 ≤ u.2.2)
    | none, _ => false)

/-- Byte ranges that cover [lo, hi]. -/
def covers : Nat → List (Int × Int) → Int → Int → Bool
  | 0, _, lo, hi => decide (hi < lo)
  | n + 1, l, lo, hi =>
    decide (hi < lo) || (match l.find? (fun p => decide (p.1 ≤ lo ∧ lo ≤ p.2)) with
      | some p => covers n l (p.2 + 1) hi
      | none => false)

/-- The descriptor an admitted tree of the job gives a held request. -/
def Ctx.gathered (x : Ctx) (g : HeldGather) : Option Desc :=
  (x.queues.findSome? (fun p => p.2.tree.findSome? (fun l =>
    l.descs.find? (fun d => d.sharded && d.tensorId = g.tensorId && d.shardIndex = g.shard)))).map (fun d => d.eff g.iter)

/-- A request of a later step waits for this module's update of the step before (R45): until that has completed, or the step it is of
has begun here (log 40). -/
def Ctx.beforeUpdate (x : Ctx) (g : HeldGather) (d : Desc) : Bool :=
  let ahead := (g.step + 16 - x.step % 16) % 16
  let done := (x.updated.filter (fun u => u.1 = g.tensorId)).map (·.2)
  0 < ahead && ahead < 8 && !(ahead = 1 && covers done.length done d.held.2.1 d.held.2.2)

/-- The read of an own shard for a peer faults (R263): the request parks, with a record; it fails with a fault that is not replayable
(log 103). -/
def State.parkGather (s : State) (c : Nat) (g : HeldGather) (a : Acc) : State :=
  let s := s.noteAcc (some c) a
  match a with
  | .fault va reason w replayable =>
    let r := s.fault c 0 0 4 va reason w replayable
    if replayable then r.1.modCtx c (fun x => { x with gathers := x.gathers ++ [{ g with rid := some r.2 }] }) else r.1
  | _ => s

/-- Serve a request, or keep it: no tree names the tensor, an update of it is to come or runs, or its shard cannot be read yet
(R45, R80, R211; log 40). -/
def State.serveGather (s : State) (c : Nat) (g : HeldGather) : State :=
  let keep := s.modCtx c (fun x => { x with gathers := x.gathers ++ [g] })
  match (s.ctx c).gathered g with
  | none => keep
  | some d =>
    if g.rid.isSome || (d.chunks 0).any (fun p => s.accessHeld c p.1 p.2) || (s.ctx c).updatingNow d || (s.ctx c).beforeUpdate g d then keep
    else
      let s := (d.chunks 0).foldl (fun s p => s.meet c p.1 p.2) s
      match s.holderStream c d with
      | .error a => s.parkGather c g a
      | .ok b => s.sendMsg c g.src (msgId g.step g.iter g.tensorId) (bslice b g.start g.count)

/-! ### SEND, RECV, DROP_SHARD (R81, R238) -/

/-- A RECV ends when its message is there. -/
def State.tryRecv (s : State) (q : QRef) : State :=
  let y := s.queue q
  match y.phase, y.flight, y.entry with
  | .running, .recv _, some e =>
    let c := q.slot
    let m := s.rankAt c e.imm0
    match (s.ctx c).message m (y.mid e.tag) with
    | none => s
    | some b =>
      match s.vwrites c (writesAt (y.d 0).stream b) with
      | (s, some a) => s.failEntry q e.tag 5 .running a
      | (s, none) => (s.modCtx c (fun x => x.takeMsg m (y.mid e.tag))).finishEntry q .ok
  | _, _, _ => s

/-- Entries of a slot that waited for data, buckets or an epoch go on. -/
def State.wakeData (s : State) (c : Nat) : State :=
  let s := (List.range 16).foldl (fun s k =>
    if s.queueHeld ⟨c, k⟩ then s else ((s.tryExchange ⟨c, k⟩).tryGather ⟨c, k⟩).tryRecv ⟨c, k⟩) s
  s.wakeSums c

/-- The rank an entry names, when the job can reach it. -/
def State.rankOf (s : State) (c r : Nat) : Option Nat :=
  match (s.ranks c 0)[r]? with
  | some m => if s.peerOk c m then some m else none
  | none => none

/-- The frames a dropped view covers are unbacked; what it holds of other frames becomes zero (R81, R193; log 41). -/
def State.dropView (s : State) (c : Nat) (d : Desc) : State × Option Acc :=
  let as := d.stream
  let pages := (as.map (· / 65536)).eraseDups
  match pages.findSome? (fun v => match s.translate c (v * 65536) true with | .error a => some a | .ok _ => none) with
  | some a => (s, some a)
  | none =>
    pages.foldl (fun (r : State × Option Acc) v =>
      match r.2 with
      | some _ => r
      | none =>
        let mine := as.filter (fun a => a / 65536 = v)
        match r.1.translate c (v * 65536) true with
        | .error a => (r.1, some a)
        | .ok x =>
          if !x.host && decide (mine.eraseDups.length = 65536) then (r.1.unback (x.addr / 65536), none)
          else r.1.vwrites c (writesAt mine (zeros mine.length))) (s, none)

/-! ### Lost peers (R217, R219, R233) -/

/-- Whether a rank that is gone ends the flight of an entry: an exchange, gather or RECV with it, or a job barrier; an exchange without
light only finds it late (R37). -/
def State.withRank (s : State) (q : QRef) (m : Nat) : Bool :=
  let y := s.queue q
  match y.phase, y.flight, y.entry with
  | .running, .exchange _ _ _, some _ => !s.dark && (s.members q.slot (y.d 0)).contains m
  | .running, .gather _ missing, some _ => missing.any (fun i => s.holder q.slot (y.d 0) i = m)
  | .running, .recv _, some e => s.rankAt q.slot e.imm0 = m
  | .running, .barrier 2 _ _ _, some _ => (s.ranks q.slot 0).contains m
  | _, _, _ => false

/-- What R217 makes of a rank that is gone. -/
def State.lostPeer (s : State) (c m : Nat) : State :=
  if m = s.fab.moduleId ∨ !(s.ranks c 0).contains m then s
  else
    let s := (List.range 16).foldl (fun s k => if s.withRank ⟨c, k⟩ m then s.finishEntry ⟨c, k⟩ .peerLost else s) s
    let s := s.modCtx c (fun x => { x with
      gathers := x.gathers.filter (fun g => g.src ≠ m)
      msgs := x.msgs.filter (fun g => !(g.src = m && !g.whole)) })
    (s.dropRank c m).wakeData c

/-- A rank with which the job works no more (R339). -/
def State.shutOut (s : State) (c m : Nat) : State :=
  if s.fab.barred.contains (c, m) then s
  else ({ s with fab := { s.fab with barred := (c, m) :: s.fab.barred } }).lostPeer c m

/-! ### The commands -/

/-- DATA (R211). -/
def execData (t port : Nat) (pkt : Packet) (s : State) : Res :=
  let s := s.tick t
  match s.jobPacket port pkt with
  | (s, none) => .next s
  | (s, some c) =>
    if pkt.ptype ≠ 1 then .next (s.dropBad port)
    else
      let x := s.ctx c
      if (x.state ≠ 1 ∧ x.state ≠ 4) ∨ x.dead.contains (pkt.src, pkt.tag) then .next s
      else
        let s := s.modCtx c (fun x => x.place pkt)
        let s := if ((s.ctx c).message pkt.src pkt.tag).isSome then s.itemDone c pkt else s
        .next (s.wakeData c)

/-- ALL_TO_ALL (R235). -/
def execAllToAll (t : Nat) (q : QRef) (s : State) : Res := s.runEntry t q 0x53 (fun s e => s.startExchange q e)

/-- ALL_TO_ALL_PATIENCE (R237): the peers whose rows have not all arrived are late. -/
def execAllToAllPatience (t : Nat) (q : QRef) (s : State) : Res :=
  let s := s.tick t
  let y := s.queue q
  match y.phase, y.flight, y.entry with
  | .running, .exchange start d late, some e =>
    if s.serves q.slot ∧ d ≠ 0 ∧ d ≤ s.clk.now then
      let slow := (s.members q.slot (y.d 0)).filter (fun m => ((s.ctx q.slot).message m (y.mid e.tag)).isNone)
      .next ((s.setQueue q { y with flight := .exchange start d (late ++ slow) }).tryExchange q)
    else .next s
  | _, _, _ => .next s

/-- PEER_WAIT_TIMEOUT (R238): the default patience of the job. -/
def execPeerWaitTimeout (t : Nat) (q : QRef) (s : State) : Res :=
  let s := s.tick t
  let y := s.queue q
  let p := (s.ctxRec q.slot).patience
  let ovf := fun (start : Nat) => p ≠ 0xFFFFFFFF && decide (start + p * 1000 ≤ s.clk.now) && s.serves q.slot
  match y.phase, y.flight with
  | .running, .gather start _ => .next (if ovf start then s.finishEntry q .peerLost else s)
  | .running, .recv start => .next (if ovf start then s.finishEntry q .peerLost else s)
  | _, _ => .next s

/-- ALL_GATHER (R238). -/
def execAllGather (t : Nat) (q : QRef) (s : State) : Res := s.runEntry t q 0x52 (fun s e => s.startGather q e)

/-- GATHER_SHARD (R79). -/
def execGatherShard (t : Nat) (q : QRef) (s : State) : Res := s.runEntry t q 0x60 (fun s e => s.startGather q e)

/-- SEND (R238). -/
def execSend (t : Nat) (q : QRef) (s : State) : Res :=
  s.runEntry t q 0x54 (fun s e =>
    let y := s.queue q
    match s.rankOf q.slot e.imm0 with
    | none => s.finishEntry q .peerLost
    | some m =>
      match s.readAddrs q.slot (y.d 0).stream with
      | .error a => s.failEntry q e.tag 0 .ready a
      | .ok b => ((s.sendMsg q.slot m (y.mid e.tag) b).finishEntry q .ok).wakeData q.slot)

/-- RECV (R238). -/
def execRecv (t : Nat) (q : QRef) (s : State) : Res :=
  s.runEntry t q 0x55 (fun s e =>
    match s.rankOf q.slot e.imm0 with
    | none => s.finishEntry q .peerLost
    | some _ =>
      (s.modQueue q (fun y => { y with phase := .running, flight := .recv s.clk.now })).tryRecv q)

/-- DROP_SHARD (R81). -/
def execDropShard (t : Nat) (q : QRef) (s : State) : Res :=
  s.runEntry t q 0x61 (fun s e =>
    match s.dropView q.slot ((s.queue q).d 0) with
    | (s, some a) => s.failEntry q e.tag 1 .ready a
    | (s, none) => s.finishEntry q .ok)

/-- GATHER_REQ (R80, R211): served at once, or held. -/
def execGatherReq (t port : Nat) (pkt : Packet) (s : State) : Res :=
  let s := s.tick t
  match s.jobPacket port pkt with
  | (s, none) => .next s
  | (s, some c) =>
    if pkt.ptype ≠ 8 then .next (s.dropBad port)
    else
      let b := pkt.payload
      let g : HeldGather :=
        { src := pkt.src, tensorId := fld b 0 4, iter := fld b 4 4, shard := fld b 8 2, start := fld b 16 8
          count := fld b 24 8, step := sl pkt.tag 47 44 }
      let s := s.itemDone c pkt
      let x := s.ctx c
      .next (if x.state = 1 ∨ x.state = 4 then s.serveGather c g else s)

/-- GATHER_REQ_SERVE (R80). -/
def execGatherReqServe (t slot : Nat) (s : State) : Res :=
  let s := s.tick t
  if s.live then
    let gs := (s.ctx slot).gathers
    let s := s.modCtx slot (fun x => { x with gathers := [] })
    .next (gs.foldl (fun s g => s.serveGather slot g) s)
  else .next s

/-- ABORT (R216, R217): the record takes the new generation; the rank is gone until it is heard under it. -/
def execAbort (t port : Nat) (pkt : Packet) (s : State) : Res :=
  let s := s.tick t
  match s.jobPacket port pkt with
  | (s, none) => .next s
  | (s, some c) =>
    if pkt.ptype ≠ 7 then .next (s.dropBad port)
    else
      let s := (s.itemDone c pkt).modCtx c (fun x => { x with peerGens := tins x.peerGens pkt.src (fld pkt.payload 1 1) })
      .next (s.lostPeer c pkt.src)

/-- The charter digest of the context that holds a job. -/
def State.jobDigest (s : State) (job : Nat) : Option (Nat × Nat) :=
  match s.slotOfJob job with
  | some c => some (c, match (s.ctx c).charter with | some ch => ch.digest | none => 0)
  | none => none

/-- Job packets that waited on a port for the peer's charter digest go (R339). -/
def State.letGo (s : State) (q job : Nat) : State :=
  let x := s.port q
  let s := s.setPort q { x with unsaid := x.unsaid.filter (fun p => p.job ≠ job) }
  x.unsaid.foldl (fun s p => if p.job = job then s.resend p else s) s

/-- CHARTER (R339): the module answers with its own digest, 0 without such a context; the peer of the link is reachable for the job when
both hold it under one digest. A join session carries none (R362). -/
def execCharter (t port : Nat) (pkt : Packet) (s : State) : Res :=
  let s := s.tick t
  let a := s.admitPacket port pkt
  let s := a.1
  if !a.2 then .next s
  else if (s.port port).link.join ∨ pkt.ptype ≠ 0x0C ∨ pkt.payload.length ≠ 51 ∨ fld pkt.payload 0 1 ≠ 6 then .next (s.dropBad port)
  else
    let job := fld pkt.payload 1 2
    let digest := beNat (bslice pkt.payload 3 48)
    let x := s.port port
    let s := s.setPort port { x with link := { x.link with
      digests := (job, digest) :: x.link.digests.filter (fun p => p.1 ≠ job) } }
    match s.jobDigest job with
    | none => .next ((s.sayDigest port job 0).letGo port job)
    | some (c, own) =>
      let s := s.sayDigest port job own
      let s := if own = digest then { s with fab := { s.fab with barred := s.fab.barred.filter (· ≠ (c, x.peerId)) } }
        else s.shutOut c x.peerId
      .next (s.letGo port job)

/-- The ranks of a slot's job that can be reached. -/
def State.reach (s : State) (c : Nat) : List Nat := (s.ranks c 0).filter (fun m => s.reachable m)

/-- Ranks that lost their last route since `old` are treated as R217 gives. -/
def State.noteRoutes (s old : State) : State :=
  (List.range 64).foldl (fun s c =>
    if (s.ctx c).record.isNone then s
    else
      let gone := (old.reach c).filter (fun m => !(s.reach c).contains m)
      gone.foldl (fun s m => s.lostPeer c m) s) s

/-- PORT_DOWN_DETECT (R219): the port is chosen no more; its packets go on the next live alternative; ranks that lost
their last route are treated as R217 gives. A port whose light moves keeps what no other alternative can take, and its replay window
(R35, R205). -/
def execPortDownDetect (t port : Nat) (s : State) : Res :=
  let s := s.tick t
  let x := s.port port
  match x.deadAt with
  | none => .next s
  | some _ =>
    let old := s
    let s := s.setPort port { x with deadAt := none }
    let away := fun (p : Packet) => !x.moving || s.route p ≠ some port
    let go := x.undelivered.filter away
    let s := s.setPort port { s.port port with
      txQueue := x.txQueue.filter (fun p => p.ptype ≥ 9 || !away p)
      unsaid := x.unsaid.filter (fun p => !away p)
      window := if x.moving then x.window else []
      txLast := if x.moving then x.txLast else none
      txRest := if x.moving then x.txRest else [] }
    let s := go.foldl (fun s p => s.resend p) s
    .next (s.noteRoutes old)

end Sys2Proof.Machine
end

