-- ==== Sys2Proof/Machine/Services.lean ====
section
/-! DEFINITION. COPY and the services: host reads, INGEST, CHECKPOINT, RESTORE, RELEASE (R84, R253, R271, R323 to R326, R336 to
R338, R341, R343, R358, R359, R436). -/

namespace Sys2Proof.Machine

/-! ### Host reads (R271) -/

/-- Why a service stops now: an access failed, or host pieces (virtual address, host address, length) must be read first. -/
inductive Halt where
  | acc (a : Acc)
  | host (l : List (Nat × Nat × Nat))
  deriving DecidableEq, Repr

/-- A read by a service: host pieces must have arrived. -/
def State.sread (s : State) (c va n : Nat) (u : HostUse) (done : List (Nat × Nat)) : Except Halt Bytes :=
  match s.vread c va n u with
  | .error a => .error (.acc a)
  | .ok b =>
    let l := s.hostNeeds c va n u done
    if l.isEmpty then .ok b else .error (.host l)

/-- A service stops: it reads host memory first, or its access failed. -/
def State.halt (s : State) (q : QRef) (e : Entry) (source : Nat) (h : Halt) : State :=
  match h with
  | .acc a => s.failEntry q e.tag source .ready a
  | .host l => s.askHost q l

/-- HOST_COMPLETION (R271): the data of a request in flight is delivered and its tag freed; late data is discarded. -/
def execHostCompletion (t tag : Nat) (data : Bytes) (s : State) : Res :=
  let s := s.tick t
  match s.pcie.reads.find? (fun r => r.tag = tag) with
  | none => .next s
  | some r =>
    match r.fetchAdd with
    | some f => .next ((s.freeRead tag).added r f (fld data 0 8))
    | none => .next (if s.waitsRead r then (s.freeRead tag).readArrived r data else s.freeRead tag)

/-- SOURCE of a fault on host data (R264): a ring or table 3 and 8, COPY 0, a service 4. -/
def hostSource (y : Queue) : Nat :=
  match y.entry with
  | some e => if e.op = 0x33 then 0 else if e.op = 0x03 then 8 else 4
  | none => 3

/-- HOST_CPL_TIMEOUT (R271): the tag is freed; the access of waiting work faults with reason 3. -/
def execHostCplTimeout (t tag : Nat) (s : State) : Res :=
  let s := s.tick t
  match s.pcie.reads.find? (fun r => r.tag = tag) with
  | none => .next s
  | some r =>
    let waits := r.fetchAdd.isNone && s.waitsRead r
    let s := s.freeRead tag
    let s := { s with pcie := { s.pcie with timeouts := satAdd 32 s.pcie.timeouts 1 } }
    let q : QRef := ⟨r.slot, r.queue⟩
    let y := s.queue q
    if waits && y.phase = .running then
      .next (s.failEntry q (match y.entry with | some e => e.tag | none => 0) (hostSource y)
        (if y.cur.isNone then .waiting else .ready) (.fault r.va 3 false true))
    else .next s

/-! ### COPY (R436, R343) -/

/-- A descriptor whose first byte lies in a host page, under bounce protection: its stream travels in units. -/
def State.bounceData (s : State) (c : Nat) (d : Desc) : Bool :=
  match s.translate c d.base false with
  | .ok x => x.host && bit (s.ctx c).hostMode 1
  | .error _ => false

/-- Address, in the transfer area, of unit k: units of 65,536-byte payloads follow one another. -/
def unitAt (base k : Nat) : Nat := base + k * unitLen 65536

/-- Read a run of addresses piece by piece. -/
def State.sreadAddrs (s : State) (c : Nat) (as : List Nat) (u : HostUse) (done : List (Nat × Nat)) : Except Halt Bytes :=
  match s.readAddrs c as u with
  | .error a => .error (.acc a)
  | .ok b =>
    let l := (runsOf as).flatMap (fun r => s.hostNeeds c r.1 r.2 u done)
    if l.isEmpty then .ok b else .error (.host l)

/-- The stream of units of a host tensor in bounce mode, opened in order; what was accepted before a failure stays accepted (R326). -/
def State.takeUnits (s : State) (c base n : Nat) (done : List (Nat × Nat)) : State × Except Halt Bytes :=
  let sizes := (List.range (cdiv n 65536)).map (fun k => min 65536 (n - 65536 * k))
  let units := sizes.zip (List.range sizes.length)
  let l := units.flatMap (fun p => s.hostNeeds c (unitAt base p.2) (unitLen p.1) .data done)
  if !l.isEmpty then (s, .error (.host l))
  else
    units.foldl (fun (r : State × Except Halt Bytes) p =>
      match r.2 with
      | .error _ => r
      | .ok a =>
        match r.1.sread c (unitAt base p.2) (unitLen p.1) .data done with
        | .error e => (r.1, .error e)
        | .ok b =>
          match r.1.takeUnit c b p.1 with
          | (s, .ok d) => (s, .ok (a ++ d))
          | (s, .error e) => (s, .error (.acc e))) (s, .ok [])

/-- The bytes COPY reads. -/
def State.copyRead (s : State) (c : Nat) (d : Desc) (done : List (Nat × Nat)) : State × Except Halt Bytes :=
  if s.bounceData c d then
    if s.hostOpen c .data then s.takeUnits c d.base d.stream.length done
    else (s, .error (.acc (.fault d.base 3 false true)))
  else (s, s.sreadAddrs c d.stream .data done)

/-- The writes of a stream as units of the session. -/
def State.unitWrites (s : State) (c base : Nat) (d : Bytes) : State × List (Nat × Bytes) :=
  let cs := chunks 65536 d
  (cs.zip (List.range cs.length)).foldl (fun (r : State × List (Nat × Bytes)) p =>
    let u := r.1.makeUnit c p.1
    (u.1, r.2 ++ [(unitAt base p.2, u.2)])) (s, [])

/-- The first fault that the translation of COPY's destination meets. -/
def State.copyFault (s : State) (c : Nat) (d : Desc) : Option Acc :=
  let rs := if s.bounceData c d then
      (List.range (cdiv d.stream.length 65536)).map (fun k => (unitAt d.base k, unitLen (min 65536 (d.stream.length - 65536 * k))))
    else runsOf d.stream
  rs.findSome? (fun r => s.writeFault c r.1 r.2 .data)

/-- COPY: its stream as stored, whichever side is a host page. Sealed units are accepted once, so that a fault of the destination comes
before them. -/
def State.copy (s : State) (q : QRef) (e : Entry) : State :=
  let c := q.slot
  let y := s.queue q
  let d1 := y.d 1
  match if s.bounceData c (y.d 0) then s.copyFault c d1 else none with
  | some a => s.failEntry q e.tag 1 .ready a
  | none =>
  match s.copyRead c (y.d 0) y.arrived with
  | (s, .error (.acc (.stop st))) => s.finishEntry q st
  | (s, .error h) => s.halt q e 0 h
  | (s', .ok d) =>
    let w := if s.bounceData c d1 then s'.unitWrites c d1.base d else (s', writesAt d1.stream d)
    match w.1.vwrites c w.2 .data with
    | (s, some a) => s.failEntry q e.tag 1 .ready a
    | (s, none) => s.finishEntry q .ok

/-- COPY (R436). -/
def execCopy (t : Nat) (q : QRef) (s : State) : Res := s.runEntry t q 0x33 (fun s e => s.copy q e)

/-! ### Keys (R336, R358, R359) -/

/-- Key ranges that a tensor lies in. -/
def State.rangesOf (s : State) (c : Nat) (d : Desc) : List Nat :=
  (d.stream.map (rangeOf (s.ctx c).ranges)).eraseDups

/-- A tensor lies in ranges of one owner. -/
def State.ownedBy (s : State) (c : Nat) (d : Desc) (owner : Nat) : Bool :=
  (s.rangesOf c d).all (fun r => ((((s.ctx c).ranges[r]?).map (·.owner)).getD 0xFF) = owner)

def Ctx.charterKey (x : Ctx) (id : Nat) : Option CharterKey :=
  match x.charter with
  | some ch => ch.keys.find? (fun k => k.keyId = id)
  | none => none

/-- The checkpoint key of an identifier. A module without a domain secret has none to derive it from: free (log 44). -/
def State.ckptKey (s : State) (c id : Nat) : Bytes :=
  let x := s.ctx c
  let info := match x.charter with
    | some ch => toBE 48 ch.digest
    | none => toLE 2 (s.ctxRec c).job ++ toLE 8 (s.ctxRec c).jobSeed
  match s.sec.domain with
  | some d => hkdf (toBE 48 d) [] (str "ULK-CKPT" ++ info ++ toLE 8 id) 32
  | none => toLE 32 (Config.fresh 11 id)

/-- The IV of the sealer's next unit (R323). -/
def sealerIv (n : Nat) : Bytes := toLE 4 (Config.fresh 12 0) ++ toLE 8 n

/-! ### INGEST (R324) -/

/-- One training record: its tokens' bytes and its length in memory. -/
def State.openRecord (s : State) (c va : Nat) (d : Desc) (done : List (Nat × Nat)) : Except Halt (Bytes × Nat) := do
  let h ← s.sread c va 48 .sealed done
  let n := fld h 0x18 4
  if !headOk 1 h || n % 2 = 1 then .error (.acc (.stop .faultTag))
  else
    match (s.ctx c).charterKey (fld h 8 8) with
    | none => .error (.acc (.stop .charterDenied))
    | some k =>
      if k.use ≠ 0 || !s.ownedBy c d k.owner then .error (.acc (.stop .charterDenied))
      else
        let b ← s.sread c va (unitLen n) .sealed done
        match openUnit (toBE 32 k.key) 1 b with
        | none => .error (.acc (.stop .faultTag))
        | some p => .ok (p, unitLen n)

/-- `n` records from an address: each is written as it opens; the addresses of D0 not yet filled. -/
def State.ingest (s : State) (c : Nat) (d : Desc) (done : List (Nat × Nat)) :
    Nat → Nat → List Nat → State × Except Halt (List Nat)
  | 0, _, as => (s, .ok as)
  | n + 1, va, as =>
    match s.openRecord c va d done with
    | .error h => (s, .error h)
    | .ok (p, len) =>
      match s.vwrites c (writesAt as p) with
      | (s, some a) => (s, .error (.acc a))
      | (s, none) => s.ingest c d done n (va + len) (as.drop p.length)

/-- INGEST: what no token reaches becomes zero. -/
def execIngest (t : Nat) (q : QRef) (s : State) : Res :=
  s.runEntry t q 0x80 (fun s e =>
    let y := s.queue q
    let d := y.d 0
    match s.ingest q.slot d y.arrived e.imm1 e.imm0 d.stream with
    | (s, .error h) => s.halt q e 4 h
    | (s, .ok rest) =>
      match s.vwrites q.slot (writesAt rest (zeros rest.length)) with
      | (s, some a) => s.failEntry q e.tag 4 .ready a
      | (s, none) => s.finishEntry q .ok)

/-! ### CHECKPOINT (R325) -/

/-- A descriptor as its 128 bytes (R63). -/
def Desc.toBytes (d : Desc) : Bytes :=
  toLE 8 d.base ++ toLE 8 d.side ++ toLE 4 d.tensorId ++ toLE 1 d.fmt ++ toLE 1 d.rank ++ toLE 1 d.cls ++ toLE 1 0
    ++ toLE 2 d.scaleSlot ++ toLE 1 d.shardDim ++ toLE 1 0 ++ toLE 2 d.shardCount ++ toLE 2 d.shardIndex
    ++ (d.dims.flatMap (toLE 4)) ++ (d.strides.flatMap (fun v => toLE 8 (ofSigned 64 v)))
    ++ toLE 2 d.group ++ zeros 6 ++ toLE 8 d.versionVa ++ toLE 8 (ofSigned 64 d.loopStride)

/-- The descriptor at a position as its list holds it. -/
def Queue.rawDesc (y : Queue) (k : Nat) : Option Desc :=
  match y.stack, y.entry with
  | f :: _, some e =>
    (y.list f.addr).bind (fun l =>
      let i := (e.desc[k]?).getD 0xFFFF
      if i = 0xFFFF then none else l.descs[i]?)
  | _, _ => none

/-- The checkpoint stream of a tensor. -/
def State.ckptStream (s : State) (c : Nat) (raw d : Desc) : Except Acc Bytes :=
  match s.readAddrs c d.stream with
  | .ok b => .ok (raw.toBytes ++ b)
  | .error a => .error a

/-- Cut a stream into sealed units of kind 2 with segment indices from `seq`: the stored units and their tags. -/
def sealStream (key : Bytes) (id ctx : Nat) (ivn seq : Nat) (b : Bytes) : List (Bytes × Bytes) :=
  let cs := chunks 67108864 b
  (cs.zip (List.range cs.length)).map (fun p =>
    let iv := sealerIv (ivn + p.2)
    sealUnit key iv (unitHeader 2 id (seq + p.2) p.1.length ctx iv) p.1)

/-- The closing unit of a set whose units have these tags. -/
def closeUnit (key : Bytes) (id ctx ivn : Nat) (tags : List Bytes) : Bytes :=
  let iv := sealerIv ivn
  (sealUnit key iv (unitHeader 3 id tags.length 48 ctx iv) (sha384 tags.flatten)).1

/-- Units laid one after another from an address. -/
def layUnits (va : Nat) (us : List Bytes) : List (Nat × Bytes) :=
  (us.foldl (fun (r : List (Nat × Bytes) × Nat) u => ((r.2, u) :: r.1, r.2 + u.length)) ([], va)).1.reverse

/-- The set of segments under an identifier. -/
def segsOf (l : List (Nat × List Bytes)) (id : Nat) : List Bytes := ((l.find? (fun p => p.1 = id)).map (·.2)).getD []

def setSegs (l : List (Nat × List Bytes)) (id : Nat) (closed : Bool) (tags : List Bytes) : List (Nat × List Bytes) :=
  let r := l.filter (fun p => p.1 ≠ id)
  if closed then r else (id, tags) :: r

/-- The streams of the tensors an entry names, in order. -/
def State.ckptStreams (s : State) (c : Nat) (y : Queue) : Except Acc (List Bytes) :=
  each ((List.range 6).filterMap (fun k =>
    match y.rawDesc k, y.desc k with | some a, some b => some (a, b) | _, _ => none)) (fun p => s.ckptStream c p.1 p.2)

/-- The units of the streams a CHECKPOINT seals, each with its tag, after the units of the segment so far. -/
def State.ckptUnits (s : State) (c id : Nat) (bs : List Bytes) : List (Bytes × Bytes) :=
  bs.foldl (fun (r : List (Bytes × Bytes)) b =>
    r ++ sealStream (s.ckptKey c id) id (s.unitCtx c) (s.sec.sealed + r.length)
      ((segsOf (s.ctx c).segs id).length + r.length) b) []

/-- The closing unit of the last segment. -/
def State.ckptClose (s : State) (c id : Nat) (last : Bool) (us : List (Bytes × Bytes)) : List Bytes :=
  if last then
    [closeUnit (s.ckptKey c id) id (s.unitCtx c) (s.sec.sealed + us.length) (segsOf (s.ctx c).segs id ++ us.map (·.2))]
  else []

/-- CHECKPOINT. -/
def execCheckpoint (t : Nat) (q : QRef) (s : State) : Res :=
  s.runEntry t q 0x81 (fun s e =>
    let c := q.slot
    match s.ckptStreams c (s.queue q) with
    | .error a => s.failEntry q e.tag 4 .ready a
    | .ok bs =>
      let us := s.ckptUnits c e.imm0 bs
      let last := bit e.variant 0
      let close := s.ckptClose c e.imm0 last us
      let s := { s with sec := { s.sec with sealed := s.sec.sealed + us.length + close.length } }
      match s.vwrites c (layUnits e.imm1 (us.map (·.1) ++ close)) .sealed with
      | (s, some a) => s.failEntry q e.tag 4 .ready a
      | (s, none) =>
        (s.modCtx c (fun x => { x with
          segs := setSegs x.segs e.imm0 last (segsOf x.segs e.imm0 ++ us.map (·.2)) })).finishEntry q .ok)

/-! ### RESTORE (R325, R336) -/

/-- The head of a stream matches the entry's descriptor. -/
def headMatches (d : Desc) (b : Bytes) : Bool :=
  b.length ≥ 128 && fld b 0x14 1 = d.fmt && fld b 0x15 1 = d.rank
    && (List.range 6).all (fun i => fld b (0x20 + 4 * i) 4 = d.dim i)
    && fld b 0x1C 2 = d.shardCount && fld b 0x1E 2 = d.shardIndex

/-- One unit of a set: header checks, then its payload, tag and length in memory. -/
def State.openSegment (s : State) (c va : Nat) (key : Bytes) (kind id seq : Nat) (done : List (Nat × Nat)) :
    Except Halt (Bytes × Bytes × Nat) := do
  let h ← s.sread c va 48 .sealed done
  let n := fld h 0x18 4
  if !headOk kind h || fld h 8 8 ≠ id || fld h 0x10 8 ≠ seq || fld h 0x1C 4 ≠ s.unitCtx c then
    .error (.acc (.stop .faultTag))
  else
    let b ← s.sread c va (unitLen n) .sealed done
    match openUnit key kind b with
    | none => .error (.acc (.stop .faultTag))
    | some p => .ok (p, bslice b (48 + n) 16, unitLen n)

/-- A restore in progress: the address of the next unit and the tags of the set so far. -/
structure RestoreAt where
  va   : Nat
  tags : List Bytes
  deriving DecidableEq, Repr

/-- The rest of one stream into the addresses left; `first`: its next unit begins with the descriptor. -/
def State.restoreStream (s : State) (c : Nat) (d : Desc) (key : Bytes) (id : Nat) (done : List (Nat × Nat)) :
    Nat → Bool → List Nat → RestoreAt → State × Except Halt RestoreAt
  | 0, _, _, r => (s, .ok r)
  | fuel + 1, first, as, r =>
    if !first && as.isEmpty then (s, .ok r)
    else
      match s.openSegment c r.va key 2 id r.tags.length done with
      | .error h => (s, .error h)
      | .ok (p, tag, len) =>
        let body := if first then p.drop 128 else p
        if (first && !headMatches d p) || body.length > as.length then (s, .error (.acc (.stop .faultTag)))
        else
          match s.vwrites c (writesAt as body) with
          | (s, some a) => (s, .error (.acc a))
          | (s, none) =>
            s.restoreStream c d key id done fuel false (as.drop body.length) { va := r.va + len, tags := r.tags ++ [tag] }

/-- The streams of an entry, one after another. -/
def State.restoreAll (s : State) (c : Nat) (key : Bytes) (id : Nat) (done : List (Nat × Nat)) :
    List Desc → RestoreAt → State × Except Halt RestoreAt
  | [], r => (s, .ok r)
  | d :: ds, r =>
    match s.restoreStream c d key id done (d.stream.length + 1) true d.stream r with
    | (s, .error h) => (s, .error h)
    | (s, .ok r) => s.restoreAll c key id done ds r

/-- The key of a restore: an import key of the charter, or the checkpoint key; none when the charter denies it. -/
def State.restoreKey (s : State) (c id : Nat) (ds : List Desc) : Option Bytes :=
  match (s.ctx c).charterKey id with
  | some k => if k.use = 2 ∧ ds.all (fun d => s.ownedBy c d k.owner) then some (toBE 32 k.key) else none
  | none => some (s.ckptKey c id)

/-- The closing unit, when the entry closes its set. -/
def State.restoreClose (s : State) (c : Nat) (key : Bytes) (id : Nat) (last : Bool) (done : List (Nat × Nat)) (r : RestoreAt) :
    Except Halt Unit :=
  if !last then .ok ()
  else
    match s.openSegment c r.va key 3 id r.tags.length done with
    | .error h => .error h
    | .ok (p, _, _) => if p = sha384 r.tags.flatten then .ok () else .error (.acc (.stop .faultTag))

/-- RESTORE: a failure forgets the set. -/
def execRestore (t : Nat) (q : QRef) (s : State) : Res :=
  s.runEntry t q 0x82 (fun s e =>
    let c := q.slot
    let y := s.queue q
    let id := e.imm0
    let ds := (List.range 6).filterMap y.desc
    let last := bit e.variant 0
    let stop := fun (s : State) (h : Halt) =>
      (match h with
       | .acc (.fault _ _ _ _) | .host _ => s
       | _ => s.modCtx c (fun x => { x with resegs := setSegs x.resegs id true [] })).halt q e 4 h
    match s.restoreKey c id ds with
    | none => s.finishEntry q .charterDenied
    | some key =>
      match s.restoreAll c key id y.arrived ds { va := e.imm1, tags := segsOf (s.ctx c).resegs id } with
      | (s, .error h) => stop s h
      | (s, .ok r) =>
        match s.restoreClose c key id last y.arrived r with
        | .error h => stop s h
        | .ok _ =>
          (s.modCtx c (fun x => { x with resegs := setSegs x.resegs id last r.tags })).finishEntry q .ok)

/-! ### RELEASE (R337) -/

/-- The writes of a release under its rule: the plaintext stream (log 45), or sealed units. -/
def State.releaseWrites (s : State) (c : Nat) (ch : Charter) (r : CharterRule) (raw d : Desc) (va : Nat) :
    Except Acc (List (Nat × Bytes) × Nat) :=
  match s.readAddrs c d.stream with
  | .error a => .error a
  | .ok b =>
    if r.form = 0 then .ok ([(va, b)], 0)
    else
      let key := toBE 32 (((ch.keys.find? (fun k => k.keyId = r.releaseKey)).map (·.key)).getD 0)
      let us := sealStream key r.releaseKey (s.unitCtx c) s.sec.sealed 0 (raw.toBytes ++ b)
      let close := closeUnit key r.releaseKey (s.unitCtx c) (s.sec.sealed + us.length) (us.map (·.2))
      .ok (layUnits va (us.map (·.1) ++ [close]), us.length + 1)

/-- The destination lies wholly in one open range. -/
def State.openAt (s : State) (c va n : Nat) : Bool :=
  match touched (s.ctx c).ranges va (va + n - 1) with
  | [r] => ((((s.ctx c).ranges[r]?).map (·.owner)).getD 0) = 0xFF
  | _ => false

/-- The bytes a release writes: the stream, or its units and the closing one (R325, R337). -/
def releaseSize (r : CharterRule) (d : Desc) : Nat :=
  let n := d.stream.length
  if r.form = 0 then n
  else
    let m := n + 128
    ((List.range (cdiv m 67108864)).map (fun k => unitLen (min 67108864 (m - 67108864 * k)))).foldl (· + ·) (unitLen 48)

/-- RELEASE. -/
def execRelease (t : Nat) (q : QRef) (s : State) : Res :=
  s.runEntry t q 0x83 (fun s e =>
    let c := q.slot
    let y := s.queue q
    let d := y.d 0
    let x := s.ctx c
    match x.charter with
    | none => s.finishEntry q .charterDenied
    | some ch =>
      match ch.rules[e.imm0]? with
      | none => s.finishEntry q .charterDenied
      | some r =>
        let used := tget 0 x.releases e.imm0
        if d.tensorId ≠ r.tensorId ∨ s.rangesOf c d ≠ [r.range] ∨ (r.limit ≠ 0 ∧ used ≥ r.limit) then
          s.finishEntry q .charterDenied
        else
          if !s.openAt c e.imm1 (releaseSize r d) then s.finishEntry q .charterDenied
          else
          match s.releaseWrites c ch r ((y.rawDesc 0).getD d) d e.imm1 with
          | .error a => s.failEntry q e.tag 4 .ready a
          | .ok (ws, n) =>
              let s := { s with sec := { s.sec with sealed := s.sec.sealed + n } }
              match s.vwrites c ws with
              | (s, some a) => s.failEntry q e.tag 4 .ready a
              | (s, none) =>
                (s.modCtx c (fun x => { x with releases := tput 0 x.releases e.imm0 (used + 1) })).finishEntry q .ok)

end Sys2Proof.Machine
end

