-- ==== Sys2Proof/Machine/Products.lean ====
section
/-! DEFINITION. The products: MATMUL with its epilogue, the backward pair, the grouped forms (R72 to R74, R106, R108, R140
to R143, R161). -/

namespace Sys2Proof.Machine

/-- Index of an operand: two leading indices, then the batch indices, which a shared operand of rank 2 has not (R72). -/
def Desc.at3 (d : Desc) (i j : Nat) (batch : List Nat) : List Nat := fit d.rank (i :: j :: batch)

def idx (ix : List Nat) (k : Nat) : Nat := (ix[k]?).getD 0

/-- The terms of one output element, from the pairs of operand indices in the order of the summed index. -/
def State.terms (s : State) (c : Nat) (a b : Desc) (ps : List (List Nat × List Nat)) :
    Except Acc (List (Val × Val)) :=
  each ps (fun p => do
    let x ← s.readElem c a p.1
    let w ← s.readElem c b p.2
    .ok (x, w))

/-- The blocks of a product: per output index, the operand index pairs. -/
def State.product (s : State) (c : Nat) (y : Queue) (a b o : Desc)
    (ps : List Nat → Except Acc (List (List Nat × List Nat))) : Except Acc (List OutBlock) :=
  s.outBlocks c y o o.own (fun ix => do
    let l ← ps ix
    let t ← s.terms c a b l
    .ok (passesOf t))

/-- The index pairs of C = A·B (R72). -/
def pairsFwd (a b : Desc) (ix : List Nat) : List (List Nat × List Nat) :=
  (List.range (a.len 0)).map (fun k => (a.at3 k (idx ix 1) (ix.drop 2), b.at3 (idx ix 0) k (ix.drop 2)))

/-- The epilogue (R108, R159, R161): the finished tile's P16 value, the bias, a micro-op list, one OUT to C. -/
def State.epilogue (s : State) (c : Nat) (y : Queue) (o : Desc) (bias : Option Desc) (ops : List MicroOp)
    (bs : List OutBlock) : Except Acc (List (List Nat × Val)) := do
  let l ← each bs (fun b => do
    let hand := match b.raw with
      | some _ => b.vals
      | none => blockVals (p16Block b.vals none)
    each (b.ixs.zip hand) (fun p => do
      let bv ← match bias with
        | some d => s.readElem c d [idx p.1 0]
        | none => .ok Val.zero
      let outs := microRun (s.uniform c y o (o.pos p.1)) [v24 p.2, v24 bv, .zero] ops
      .ok (p.1, outOf outs 0)))
  .ok (l.flatMap id)

/-- What a product gives: its write, and the accumulated TENSOR_ID. -/
def doneOf (d : Desc) (acc : Bool) (e : Eff) : Done := { eff := e, bump := if acc then [d.tensorId] else [] }

/-- MATMUL. -/
def State.matmul (s : State) (c : Nat) (y : Queue) (e : Entry) : Except Acc Done := do
  let a := y.d 0
  let b := y.d 1
  let o := y.d 2
  let acc := bit e.variant 0
  let bs ← s.product c y a b o (fun ix => .ok (pairsFwd a b ix))
  if e.imm0 = 0 then do
    let w ← s.writeProduct c y o acc bs
    .ok (doneOf o acc w)
  else do
    let vals ← s.epilogue c y o (y.desc 3) (y.micro (sl e.imm0 56 0) (sl e.imm0 63 58)) bs
    let w ← if acc then s.accumulate c y o vals else s.encode c o (s.rnd c y o 0 0) vals
    .ok (doneOf o acc w)

/-- The row count of group g (R71, R141); every row without a counts operand. -/
def State.rowCount (s : State) (c : Nat) (n : Option Desc) (g : Nat) : Except Acc (Option Nat) :=
  match n with
  | none => .ok none
  | some d => match s.readIndex c d [g] with
    | .ok k => .ok (some k)
    | .error e => .error e

def rowIn (n : Option Nat) (m : Nat) : Bool := match n with | none => true | some k => decide (m < k)

/-- dX = dY·Wᵀ over N (R74). -/
def State.productDx (s : State) (c : Nat) (y : Queue) (n : Option Desc) : Except Acc (List OutBlock) :=
  let dy := y.d 0
  let w := y.d 1
  let dx := y.d 3
  s.product c y dy w dx (fun ix => do
    let k ← s.rowCount c n (idx ix 2)
    if rowIn k (idx ix 1) then
      .ok ((List.range (dy.len 0)).map (fun j =>
        (dy.at3 j (idx ix 1) (ix.drop 2), w.at3 j (idx ix 0) (ix.drop 2))))
    else .ok [])

/-- dW = Xᵀ·dY over M, or over every row of every batch index for a shared W (R74). -/
def State.productDw (s : State) (c : Nat) (y : Queue) (n : Option Desc) : Except Acc (List OutBlock) :=
  let dy := y.d 0
  let w := y.d 1
  let x := y.d 2
  let dw := y.d 4
  let batches := boxIdx ((List.range (dy.rank - 2)).map (fun k => (0, dy.len (k + 2))))
  s.product c y x dy dw (fun ix => do
    let bs := if w.rank = 2 then batches else [ix.drop 2]
    let k ← s.rowCount c n (idx ix 2)
    .ok (bs.flatMap (fun bt => ((List.range (dy.len 1)).filter (rowIn k)).map (fun m =>
      (x.at3 (idx ix 1) m bt, dy.at3 (idx ix 0) m bt)))))

/-- The backward pair (R74, R142, R143): VARIANT 0 accumulates dW, 1 forms no dX, 2 accumulates dX. DESIGN CHOICE (log 108): with
VARIANT bit 2 the zero of a row beyond count[g] (R141) is added to the old dX. -/
def State.bwdPair (s : State) (c : Nat) (y : Queue) (e : Entry) (n : Option Desc) : Except Acc Done := do
  let accW := bit e.variant 0
  let bw ← s.productDw c y n
  let ew ← s.writeProduct c y (y.d 4) accW bw
  if bit e.variant 1 then .ok (doneOf (y.d 4) accW ew)
  else do
    let accX := bit e.variant 2
    let bx ← s.productDx c y n
    let ex ← s.writeProduct c y (y.d 3) accX bx
    let dw := doneOf (y.d 4) accW ew
    let dx := doneOf (y.d 3) accX ex
    .ok { eff := dx.eff.join dw.eff, bump := dx.bump ++ dw.bump }

/-- GROUPED_MATMUL (R71, R141): rows from count[g] on are zero. -/
def State.grouped (s : State) (c : Nat) (y : Queue) : Except Acc Done := do
  let a := y.d 0
  let b := y.d 1
  let o := y.d 2
  let bs ← s.product c y a b o (fun ix => do
    let k ← s.rowCount c (y.desc 3) (idx ix 2)
    .ok (if rowIn k (idx ix 1) then pairsFwd a b ix else []))
  let w ← s.writeProduct c y o false bs
  .ok (doneOf o false w)

/-- MATMUL (R72, R106, R108). -/
def execMatmul (t : Nat) (q : QRef) (s : State) : Res := s.runCompute t q 0x10 (fun s y e => s.matmul q.slot y e)

/-- MATMUL_BWD_PAIR (R74). -/
def execMatmulBwdPair (t : Nat) (q : QRef) (s : State) : Res :=
  s.runCompute t q 0x11 (fun s y e => s.bwdPair q.slot y e none)

/-- GROUPED_MATMUL (R71, R141). -/
def execGroupedMatmul (t : Nat) (q : QRef) (s : State) : Res := s.runCompute t q 0x12 (fun s y _ => s.grouped q.slot y)

/-- GROUPED_BWD_PAIR (R74, R141). -/
def execGroupedBwdPair (t : Nat) (q : QRef) (s : State) : Res :=
  s.runCompute t q 0x13 (fun s y e => s.bwdPair q.slot y e (y.desc 5))

end Sys2Proof.Machine
end

