-- ==== Sys2Proof/Machine/Rows.lean ====
section
/-! DEFINITION. Row operators of the vector engine: norms, loss, ELEMENTWISE, ROWREDUCE, CONVERT; attention (R83, R92, R107, R144
to R149, R163, R164, R436). -/

namespace Sys2Proof.Machine

/-! ### Shared -/

/-- Multiply and add in V24 where the manual does not say whether the product is rounded first: one of the two, the same
throughout (log 9). -/
def mulAdd (a b c : Val) : Val :=
  if (Config.opFn 0x34 []).toNat % 2 = 1 then vFma a b c else vAdd (vMul a b) c

/-- A row vector's element at a column (γ, β). -/
def State.rowElem (s : State) (c : Nat) (d : Option Desc) (i : Nat) : Except Acc Val :=
  match d with
  | some d => do
    let v ← s.readElem c d (fit d.rank [i])
    .ok (v24 v)
  | none => .ok Val.zero

/-- The elements of the row that an index lies in, in V24. -/
def State.rowOf (s : State) (c : Nat) (d : Desc) (ix : List Nat) : Except Acc (List Val) := do
  let l ← s.readElems c d ((List.range (d.len 0)).map (fun i => fit d.rank (i :: ix.drop 1)))
  .ok (l.map v24)

def State.elem24 (s : State) (c : Nat) (d : Desc) (ix : List Nat) : Except Acc Val := do
  let v ← s.readElem c d (fit d.rank ix)
  .ok (v24 v)

/-- Values by output index. -/
def valuesAt (ixs : List (List Nat)) (f : List Nat → Except Acc Val) : Except Acc (List (List Nat × Val)) :=
  each ixs (fun ix => do
    let v ← f ix
    .ok (ix, v))

/-- The write of a single-pass output. DESIGN CHOICE (log 108): an L8 output draws as a P16 one does, with purpose 0 and PASS 0 (R105
gives purpose 0 for P16 only). -/
def State.writeOut (s : State) (c : Nat) (y : Queue) (d : Desc) (f : List Nat → Except Acc Val) : Except Acc Eff := do
  let vs ← valuesAt d.own f
  s.encode c d (s.rnd c y d 0 0) vs

/-- A whole number as an exact value. -/
def natVal (n : Nat) : Val := .fin false n 0

/-! ### Norms (R147, R149) -/

/-- NORM_FWD: y and the statistics lie within the NORM bound of the exact result, and are free within it (R128, log 9): codes
0x300 (s), 0x310 (μ), 0x320 (y), with the kind added. -/
def State.normFwd (s : State) (c : Nat) (y : Queue) (e : Entry) : Except Acc Done := do
  let x := y.d 0
  let k := e.variant
  let w ← s.writeOut c y (y.d 2) (fun ix => do
    let row ← s.rowOf c x ix
    let g ← s.rowElem c (y.desc 1) (idx ix 0)
    let b ← s.rowElem c (y.desc 4) (idx ix 0)
    .ok (opNear (0x320 + k) ((row[idx ix 0]?).getD .zero :: g :: b :: row) (refNorm (k = 1) row (idx ix 0) g b)))
  let st ← s.writeOut c y (y.d 3) (fun ix => do
    let row ← s.rowOf c x ix
    let mean := k = 1 && idx ix 0 = 0
    .ok (opNear (if mean then 0x311 else 0x300 + k) row (refNormStat (k = 1) row mean)))
  .ok { eff := w.join st }

/-- μ and s of a row (R147). -/
def State.normStats (s : State) (c : Nat) (st : Desc) (ix : List Nat) : Except Acc (Val × Val) := do
  let two := st.len 0 = 2
  let mu ← if two then s.elem24 c st (0 :: ix.drop 1) else .ok Val.zero
  let sc ← s.elem24 c st ((if two then 1 else 0) :: ix.drop 1)
  .ok (mu, sc)

/-- x̂ = (x − μ) × s. -/
def State.xhat (s : State) (c : Nat) (x st : Desc) (ix : List Nat) : Except Acc Val := do
  let m ← s.normStats c st ix
  let v ← s.elem24 c x ix
  .ok (vMul (vSub v m.1) m.2)

/-- NORM_BWD: the reductions r1 and r2 in ascending column; dx = s (g − r2 / W − x̂ r1 / W) in an order of
operations the manual does not give, so free within 8 roundings of it (log 9); dγ and dβ over rows in passes of 2,048. -/
def State.normBwd (s : State) (c : Nat) (y : Queue) (e : Entry) : Except Acc Done := do
  let dy := y.d 0
  let x := y.d 1
  let st := y.d 3
  let dx := y.d 4
  let w := dy.len 0
  let two := decide (st.len 0 = 2)
  let acc := bit e.variant 0
  let gAt := fun (ix : List Nat) => (do
    let a ← s.elem24 c dy ix
    let b ← s.rowElem c (y.desc 2) (idx ix 0)
    .ok (vMul a b) : Except Acc Val)
  let vals ← valuesAt dx.own (fun ix => do
    let cols := (List.range w).map (fun i => i :: ix.drop 1)
    let gs ← each cols gAt
    let xs ← each cols (s.xhat c x st)
    let r1 := (gs.zip xs).foldl (fun a p => mulAdd p.1 p.2 a) Val.zero
    let r2 := if two then gs.foldl vAdd Val.zero else Val.zero
    let m ← s.normStats c st ix
    let i := idx ix 0
    let g := (gs[i]?).getD .zero
    let xh := (xs[i]?).getD .zero
    .ok (opNear 0x330 [m.2, g, xh, r1, r2, natVal w] (refDx m.2 g xh r1 r2 w)))
  let ex ← if acc then s.accumulate c y dx vals else s.encode c dx (s.rnd c y dx 0 0) vals
  let rows := boxIdx ((List.range (dy.rank - 1)).map (fun k => (0, dy.len (k + 1))))
  let dg := y.d 5
  let bs ← s.outBlocks c y dg dg.own (fun ix => do
    let ts ← each rows (fun r => do
      let a ← s.elem24 c dy (idx ix 0 :: r)
      let b ← if idx ix 1 = 0 then s.xhat c x st (idx ix 0 :: r) else .ok Val.one
      .ok (a, b))
    .ok ((groupsOf 2048 ts).map (fun g => g.foldl (fun a p =>
      if idx ix 1 = 0 then mulAdd p.1 p.2 a else vAdd a p.1) Val.zero)))
  let eg ← s.writeProduct c y dg false bs
  .ok { eff := ex.join eg, bump := if acc then [dx.tensorId] else [] }

/-! ### Loss (R92, R111, R436) -/

/-- LS_EXP: 127 without a scale table (R111). -/
def State.lossExp (s : State) (c : Nat) : Except Acc Nat :=
  let a := (s.ctxRec c).scaleTable
  if a = 0 then .ok 127
  else match s.vread c a 1 with
    | .ok b => .ok (leNat b)
    | .error e => .error e

/-- The target of a row; none when the row is ignored. -/
def State.target (s : State) (c : Nat) (t : Desc) (v : Nat) (ix : List Nat) : Except Acc (Option Nat) := do
  let k ← s.readIndex c t (fit t.rank (0 :: ix.drop 1))
  .ok (if k ≥ v then none else some k)

/-- LOSS_XENT: loss and gradient within the NORM bound, free within it (R128, log 9): codes 0x40 and 0x41. -/
def State.lossXent (s : State) (c : Nat) (y : Queue) : Except Acc Done := do
  let x := y.d 0
  let tg := y.d 1
  let v := x.len 0
  let ls ← s.lossExp c
  let ed ← s.writeOut c y (y.d 2) (fun ix => do
    let t ← s.target c tg v ix
    match t with
    | none => .ok Val.zero
    | some k => do
      let row ← s.rowOf c x ix
      .ok ((opNear 0x41 (natVal (idx ix 0) :: natVal k :: row) (refLossGrad row (idx ix 0) k)).scale ((ls : Int) - 127)))
  let ls ← valuesAt (y.d 3).own (fun ix => do
    let t ← s.target c tg v ix
    match t with
    | none => .ok Val.zero
    | some k => do
      let row ← s.rowOf c x ix
      .ok (opNear 0x40 (natVal k :: row) (refLoss row k)))
  let el ← s.encode c (y.d 3) (s.rnd c y (y.d 3) 0 0) ls
  .ok { eff := ed.join el, loss := some (ls.foldl (fun a p => a.add p.2) Val.zero) }

/-! ### ELEMENTWISE, ROWREDUCE, CONVERT (R163, R164, R436) -/

/-- The index at which an input is read: 0 in each dimension of size 1. -/
def bcast (d : Desc) (ix : List Nat) : List Nat :=
  (List.range d.rank).map (fun k => if d.dim k = 1 then 0 else idx ix k)

/-- ELEMENTWISE: one pass of the list per element; draws carry the TENSOR_ID of the first output named. -/
def State.elementwise (s : State) (c : Nat) (y : Queue) (e : Entry) : Except Acc Done := do
  let ops := y.micro e.imm0 e.imm1
  let outs := [3, 4, 5].filterMap (fun k => (y.desc k).map (fun d => (k, d)))
  match outs with
  | [] => .ok {}
  | (_, o) :: _ => do
    let rs ← each o.own (fun ix => do
      let ins ← each [0, 1, 2] (fun k =>
        match y.desc k with
        | some d => s.elem24 c d (bcast d (fit 6 ix))
        | none => .ok Val.zero)
      .ok (ix, microRun (s.uniform c y o (o.pos ix)) ins ops))
    let effs ← each outs (fun p =>
      s.encode c p.2 (s.rnd c y p.2 0 0) (rs.map (fun r => (fit p.2.rank r.1, outOf r.2 (p.1 - 3)))))
    .ok { eff := effs.foldl Eff.join {} }

/-- ROWREDUCE of one row. -/
def reduceRow (v : Nat) (row : List Val) : Val :=
  match v, row with
  | 0, r => r.foldl vAdd Val.zero
  | 1, x :: r => r.foldl vMax x
  | 1, [] => .zero
  | _, r => r.foldl (fun a x => vFma x x a) Val.zero

def State.rowReduce (s : State) (c : Nat) (y : Queue) (e : Entry) : Except Acc Done := do
  let w ← s.writeOut c y (y.d 1) (fun ix => do
    let row ← s.rowOf c (y.d 0) ix
    .ok (reduceRow e.variant row))
  .ok { eff := w }

def State.convert (s : State) (c : Nat) (y : Queue) : Except Acc Done := do
  let w ← s.writeOut c y (y.d 1) (fun ix => s.elem24 c (y.d 0) ix)
  .ok { eff := w }

/-! ### Attention (R144 to R146) -/

/-- A row of QKV: head, sequence index, batch. -/
def State.headRow (s : State) (c : Nat) (d : Desc) (h i b : Nat) : Except Acc (List Val) :=
  s.readElems c d ((List.range (d.len 0)).map (fun k => fit d.rank [k, h, i, b]))

/-- ATTN_FWD: within the ATTN bound, free within it (R128, log 9): codes 0x20 (output), 0x21 (row maximum), 0x22
(log-sum-exp), in the query, the keys and the value column it may see. -/
def State.attnFwd (s : State) (c : Nat) (y : Queue) (e : Entry) : Except Acc Done := do
  let qkv := y.d 0
  let h := sl e.imm0 15 0
  let keys := fun (i : Nat) => List.range (if bit e.imm0 16 then i + 1 else qkv.len 2)
  let seen := fun (hd i b : Nat) => (do
    let q ← s.headRow c qkv hd i b
    let ks ← each (keys i) (fun j => s.headRow c qkv (h + hd) j b)
    .ok (q, ks) : Except Acc (List Val × List (List Val)))
  let o ← s.writeOut c y (y.d 1) (fun ix => do
    let x ← seen (idx ix 1) (idx ix 2) (idx ix 3)
    let vs ← each (keys (idx ix 2)) (fun j =>
      s.readElem c qkv (fit qkv.rank [idx ix 0, 2 * h + idx ix 1, j, idx ix 3]))
    .ok (opNear 0x20 (natVal (qkv.len 0) :: x.1 ++ x.2.flatMap id ++ vs) (refAttn (qkv.len 0) x.1 x.2 vs)))
  let st ← s.writeOut c y (y.d 2) (fun ix => do
    let x ← seen (idx ix 1) (idx ix 2) (idx ix 3)
    .ok (opNear (0x21 + idx ix 0) (natVal (qkv.len 0) :: x.1 ++ x.2.flatMap id) (refStat (qkv.len 0) x.1 x.2 (idx ix 0))))
  .ok { eff := o.join st }

/-- Dot products of one row with the rows of a block of 32, as the vector engine receives them: P16 to nearest even
(R145). -/
def handDots (row : List Val) (rows : List (List Val)) : List Val :=
  blockVals (p16Block (rows.map (fun r => passSum (row.zip r))) none)

/-- What ATTN_BWD reads for one head and batch index. -/
structure Attn where
  h      : Nat
  hd     : Nat
  b      : Nat
  causal : Bool
  deriving DecidableEq, Repr

/-- P_ij and dS_ij of query i and key j (R144). -/
def State.attnPair (s : State) (c : Nat) (y : Queue) (x : Attn) (i j : Nat) : Except Acc (Val × Val) :=
  if x.causal && decide (j > i) then .ok (.zero, .zero)
  else do
    let dO := y.d 0
    let qkv := y.d 1
    let n := qkv.len 2
    let lo := 32 * (j / 32)
    let blk := (List.range (min 32 (n - lo))).map (lo + ·)
    let q ← s.headRow c qkv x.hd i x.b
    let ks ← each blk (fun k => s.headRow c qkv (x.h + x.hd) k x.b)
    let vs ← each blk (fun k => s.headRow c qkv (2 * x.h + x.hd) k x.b)
    let go ← s.headRow c dO x.hd i x.b
    let o ← s.headRow c (y.d 2) x.hd i x.b
    let l ← s.elem24 c (y.d 3) [1, x.hd, i, x.b]
    let sv := v24 (((handDots q ks)[j - lo]?).getD .zero)
    let dp := v24 (((handDots go vs)[j - lo]?).getD .zero)
    let dd := (go.zip o).foldl (fun a p => mulAdd (v24 p.1) (v24 p.2) a) Val.zero
    let p := opNear 0x23 [sv, l, natVal (qkv.len 0)] (refP sv l (qkv.len 0))
    .ok (p, vMul p (vSub dp dd))

/-- ATTN_BWD: dQ over keys, dK and dV over queries, in passes of 2,048 indices; dQ and dK times τ. One write of dQKV, so that a
tile with heads of several of them overflows once (R119). DESIGN CHOICE (log 108): the last rounding of dQ and dK, after τ, draws with
purpose 0; under the causal flag a pass whose block pairs are all skipped still counts as a pass (R144). -/
def State.attnBwd (s : State) (c : Nat) (y : Queue) (e : Entry) : Except Acc Done := do
  let qkv := y.d 1
  let o := y.d 4
  let h := sl e.imm0 15 0
  let d := qkv.len 0
  let n := qkv.len 2
  let bs ← s.outBlocks c y o o.own (fun ix => do
    let x : Attn := { h, hd := idx ix 1 % h, b := idx ix 3, causal := bit e.imm0 16 }
    let r := idx ix 2
    let part := idx ix 1 / h
    let ts ← each (List.range n) (fun k => do
      let p ← if part = 0 then s.attnPair c y x r k else s.attnPair c y x k r
      let m ← if part = 0 then s.readElem c qkv (fit qkv.rank [idx ix 0, h + x.hd, k, x.b])
        else if part = 1 then s.readElem c qkv (fit qkv.rank [idx ix 0, x.hd, k, x.b])
        else s.readElem c (y.d 0) (fit (y.d 0).rank [idx ix 0, x.hd, k, x.b])
      let skip := x.causal && (if part = 0 then decide (k / 128 > r / 128) else decide (r / 128 > k / 128))
      .ok (if skip then (Val.zero, Val.zero) else (if part = 2 then p.1 else p.2, m)))
    .ok (passesOf ts))
  let sums := bs.filter (fun b => b.raw.isSome && o.format = .p16
    && (match b.ixs with | ix :: _ => decide (idx ix 1 / h = 2) | [] => false))
  let vals := (valuesOf (bs.filter (fun b => !sums.contains b))).map (fun p =>
    (p.1, if idx p.1 1 / h = 2 then p.2 else p.2.overSqrt d))
  let w ← s.encode c o (s.rnd c y o 0 0) vals
  .ok { eff := (rawWrite o sums).join w }

/-! ### The commands -/

/-- ATTN_FWD (R146). -/
def execAttnFwd (t : Nat) (q : QRef) (s : State) : Res := s.runCompute t q 0x20 (fun s y e => s.attnFwd q.slot y e)

/-- ATTN_BWD (R144, R145). -/
def execAttnBwd (t : Nat) (q : QRef) (s : State) : Res := s.runCompute t q 0x21 (fun s y e => s.attnBwd q.slot y e)

/-- NORM_FWD (R147). -/
def execNormFwd (t : Nat) (q : QRef) (s : State) : Res := s.runCompute t q 0x22 (fun s y e => s.normFwd q.slot y e)

/-- NORM_BWD (R147, R149). -/
def execNormBwd (t : Nat) (q : QRef) (s : State) : Res := s.runCompute t q 0x23 (fun s y e => s.normBwd q.slot y e)

/-- LOSS_XENT (R92, R436). -/
def execLossXent (t : Nat) (q : QRef) (s : State) : Res := s.runCompute t q 0x24 (fun s y _ => s.lossXent q.slot y)

/-- ELEMENTWISE (R163). -/
def execElementwise (t : Nat) (q : QRef) (s : State) : Res :=
  s.runCompute t q 0x30 (fun s y e => s.elementwise q.slot y e)

/-- ROWREDUCE (R436). -/
def execRowreduce (t : Nat) (q : QRef) (s : State) : Res := s.runCompute t q 0x31 (fun s y e => s.rowReduce q.slot y e)

/-- CONVERT (R436). -/
def execConvert (t : Nat) (q : QRef) (s : State) : Res := s.runCompute t q 0x32 (fun s y _ => s.convert q.slot y)

end Sys2Proof.Machine
end

