-- ==== Sys2Proof/Machine/Routing.lean ====
section
/-! DEFINITION. EMBED, ROUTE_TOPK, COMPRESS and EXPAND (R71, R120, R172 to R176). -/

namespace Sys2Proof.Machine

/-- The index list of an element position. -/
def unpos : List Nat → Nat → List Nat
  | [], _ => []
  | n :: ns, p => p % max n 1 :: unpos ns (p / max n 1)

/-- Columns of the rows a descriptor holds, and its rows. -/
def Desc.ownCols (d : Desc) : List Nat := (List.range (d.span 0).2).map ((d.span 0).1 + ·)

def Desc.ownRows (d : Desc) : List (List Nat) := boxIdx ((List.range (d.rank - 1)).map (fun k => d.span (k + 1)))

/-! ### EMBED -/

/-- A free byte of a row that does not exist (log 9). -/
def freeByte (row k : Nat) : Byte := BitVec.ofNat 8 (Config.opFn 0x54 [row, k]).toNat

/-- The index of a row of the output: indices and rows pair by position. -/
def State.embedIx (s : State) (c : Nat) (ix o : Desc) (r : List Nat) : Except Acc Nat :=
  s.readIndex c ix (unpos (ix.dims.take ix.rank) (posOf (o.dims.drop 1) r))

/-- Forward: each row of the output is the table row its index names, moved as stored; a row beyond the table has no
stated value (log 9). -/
def State.embed (s : State) (c : Nat) (y : Queue) : Except Acc Done := do
  let tb := y.d 0
  let o := y.d 2
  let ws ← each o.ownRows (fun r => do
    let k ← s.embedIx c (y.d 1) o r
    let dst := o.ownCols.map (fun i => i :: r)
    if k < tb.len 1 then s.moveRows c tb (o.ownCols.map (fun i => fit tb.rank [i, k])) o dst
    else
      let as := o.bytesAt dst
      .ok (writesAt as ((List.range as.length).map (freeByte k))))
  .ok { eff := { writes := ws.flatMap id } }

/-- Backward: each table row receives its tokens' rows in ascending token order, added in V24 to what it holds, with one
rounding (log 36). With an index beyond the table every element of the table is free (log 9). -/
def State.embedBack (s : State) (c : Nat) (y : Queue) : Except Acc Done := do
  let tb := y.d 0
  let o := y.d 2
  let rows := boxIdx ((List.range (o.rank - 1)).map (fun k => (0, o.len (k + 1))))
  let ks ← each rows (s.embedIx c (y.d 1) o)
  let toks := ks.zip rows
  let bad := ks.any (fun k => decide (k ≥ tb.len 1))
  let hit := tb.own.filter (fun ix => bad || ks.contains (idx ix 1))
  let vals ← valuesAt hit (fun ix => do
    let add ← each (toks.filter (fun p => p.1 = idx ix 1)) (fun p => s.elem24 c o (idx ix 0 :: p.2))
    let old ← s.elem24 c tb ix
    let v := add.foldl vAdd old
    .ok (if bad then opFree 0x55 [v, natVal (tb.pos ix)] else v))
  let e ← s.encode c tb (s.rnd c y tb 2 (s.accPass c tb)) vals
  .ok { eff := e, bump := [tb.tensorId] }

/-! ### ROUTE_TOPK -/

/-- The k largest of a row, ties to the lower index. -/
def topk : Nat → List (Nat × Val) → List Nat
  | 0, _ => []
  | k + 1, l =>
    match l.foldl (fun (a : Option (Nat × Val)) p =>
      match a with
      | none => some p
      | some b => if Val.cmp p.2 b.2 > 0 then some p else a) none with
    | none => []
    | some b => b.1 :: topk k (l.filter (fun p => p.1 ≠ b.1))

/-- The indices of a row; a row that holds a NaN has no stated order (log 9). -/
def topRow (k : Nat) (row : List Val) : List Nat :=
  if row.any (fun v => v = .nan) then
    (List.range k).map (fun j => (Config.opFn 0x50 (j :: row.flatMap Val.words)).toNat % row.length)
  else topk k ((List.range row.length).zip row)

/-- Forward: indices, and softmax gates within the ELEM bound, free within it (R128, log 9: code 0x51). -/
def State.routeTopk (s : State) (c : Nat) (y : Queue) (k : Nat) : Except Acc Done := do
  let x := y.d 0
  let ei ← s.writeOut c y (y.d 1) (fun ix => do
    let row ← s.rowOf c x ix
    .ok (natVal (((topRow k row)[idx ix 0]?).getD 0)))
  let eg ← s.writeOut c y (y.d 2) (fun ix => do
    let row ← s.rowOf c x ix
    .ok (opNear 0x51 (natVal (idx ix 0) :: natVal k :: row) (refGate row (topRow k row) (idx ix 0))))
  .ok { eff := ei.join eg }

/-- Backward: the gradient of the logits from what the row holds, its indices and its gate gradients (log 9: code 0x52). -/
def State.routeBack (s : State) (c : Nat) (y : Queue) : Except Acc Done := do
  let x := y.d 0
  let e ← s.writeOut c y x (fun ix => do
    let row ← s.rowOf c x ix
    let is ← s.rowOf c (y.d 1) ix
    let gs ← s.rowOf c (y.d 2) ix
    .ok (opNear 0x52 (natVal (idx ix 0) :: (is ++ gs ++ row)) (refGateBack row (is.map (fun v => (fxOf v / fxBits).toNat)) gs (idx ix 0))))
  .ok { eff := e }

/-! ### Routes (R173) -/

/-- A route: token, k index, group, slot. -/
structure Route where
  t    : Nat
  j    : Nat
  g    : Nat
  slot : Nat
  deriving DecidableEq, Repr

/-- Slots in ascending token, then ascending k (R173). -/
def slotsOf (ks : List (Nat × Nat × Nat)) : List Route :=
  (ks.foldl (fun (a : List Route × SMap Nat) r =>
    let n := tget 0 a.2 r.2.2
    ({ t := r.1, j := r.2.1, g := r.2.2, slot := n } :: a.1, tput 0 a.2 r.2.2 (n + 1))) ([], [])).1.reverse

def State.routes (s : State) (c : Nat) (ix : Desc) : Except Acc (List Route) := do
  let l ← each ((List.range (ix.len 1)).flatMap (fun t => (List.range (ix.len 0)).map (fun j => (t, j)))) (fun p => do
    let g ← s.readIndex c ix (fit ix.rank [p.2, p.1])
    .ok (p.1, p.2, g))
  .ok (slotsOf l)

/-- The route placed in a row of the dispatch. -/
def routeAt (rs : List Route) (g slot : Nat) : Option Route := rs.find? (fun r => r.g = g && r.slot = slot)

/-! ### COMPRESS (R172 to R174) -/

/-- Forward: rows move to their slots as stored, other dispatch rows are zero; counts. -/
def State.compress (s : State) (c : Nat) (y : Queue) (cap : Nat) : Except Acc Done := do
  let x := y.d 0
  let dsp := y.d 2
  let n := y.d 3
  let rs ← s.routes c (y.d 1)
  if rs.any (fun r => decide (r.g ≥ dsp.len 2)) then .ok { st := some .aborted }
  else do
    let ws ← each dsp.ownRows (fun r =>
      let dst := dsp.ownCols.map (fun i => i :: r)
      match routeAt rs (idx r 1) (idx r 0) with
      | some p => s.moveRows c x (dsp.ownCols.map (fun i => fit x.rank [i, p.t])) dsp dst
      | none => .ok (zeroRows dsp dst))
    let cnt := n.own.flatMap (fun ix =>
      let k := (rs.filter (fun r => r.g = idx ix 0 && (if idx ix 1 = 0 then decide (r.slot < cap) else decide (r.slot ≥ cap)))).length
      [(n.addr (n.off ix), toLE 2 (min 65535 k))])
    .ok { eff := { writes := ws.flatMap id ++ cnt } }

/-- Backward: the exact sum of a token's placed routes, one rounding. DESIGN CHOICE (log 125): a sum of zeros is +0. -/
def State.compressBack (s : State) (c : Nat) (y : Queue) (cap : Nat) : Except Acc Done := do
  let dsp := y.d 2
  let rs ← s.routes c (y.d 1)
  if rs.any (fun r => decide (r.g ≥ dsp.len 2)) then .ok { st := some .aborted }
  else do
    let e ← s.writeOut c y (y.d 0) (fun ix => do
      let vs ← each (rs.filter (fun r => r.t = idx ix 1 && decide (r.slot < cap))) (fun r =>
        s.readElem c dsp (fit dsp.rank [idx ix 0, r.slot, r.g]))
      .ok (vs.foldl Val.add Val.zero))
    .ok { eff := e }

/-! ### EXPAND (R175, R176) -/

/-- An element of the dispatch row of a placed route; a group that does not exist has no stated value (log 9). -/
def State.dispatched (s : State) (c : Nat) (dsp : Desc) (r : Route) (i : Nat) : Except Acc Val :=
  if r.g < dsp.len 2 then s.elem24 c dsp [i, r.slot, r.g]
  else .ok (opFree 0x53 [natVal r.g, natVal r.slot, natVal i])

/-- Forward: gate times row over the placed routes in ascending k by FMA, added to the output with one rounding. -/
def State.expand (s : State) (c : Nat) (y : Queue) : Except Acc Done := do
  let dsp := y.d 0
  let o := y.d 3
  let rs ← s.routes c (y.d 1)
  let vals ← valuesAt o.own (fun ix => do
    let ts ← each (rs.filter (fun r => r.t = idx ix 1 && decide (r.slot < dsp.len 1))) (fun r => do
      let g ← s.elem24 c (y.d 2) [r.j, r.t]
      let v ← s.dispatched c dsp r (idx ix 0)
      .ok (g, v))
    .ok (ts.foldl (fun a p => vFma p.1 p.2 a) Val.zero))
  let e ← s.accumulate c y o vals
  .ok { eff := e, bump := [o.tensorId] }

/-- Backward: the dispatch gradient and the gate gradients. -/
def State.expandBack (s : State) (c : Nat) (y : Queue) : Except Acc Done := do
  let dsp := y.d 0
  let out := y.d 3
  let cap := dsp.len 1
  let rs ← s.routes c (y.d 1)
  let eg ← s.writeOut c y (y.d 4) (fun ix => do
    match rs.find? (fun r => r.t = idx ix 1 && r.j = idx ix 0 && decide (r.slot < cap)) with
    | none => .ok Val.zero
    | some r => do
      let ts ← each (List.range (out.len 0)) (fun i => do
        let a ← s.elem24 c out [i, r.t]
        let b ← s.dispatched c dsp r i
        .ok (a, b))
      .ok (ts.foldl (fun a p => vFma p.1 p.2 a) Val.zero))
  let ed ← s.writeOut c y (y.d 5) (fun ix => do
    match routeAt rs (idx ix 2) (idx ix 1) with
    | none => .ok Val.zero
    | some r => do
      let g ← s.elem24 c (y.d 2) [r.j, r.t]
      let v ← s.elem24 c out [idx ix 0, r.t]
      .ok (g.mul v))
  .ok { eff := ed.join eg }

/-! ### The commands -/

/-- EMBED (R71). -/
def execEmbed (t : Nat) (q : QRef) (s : State) : Res :=
  s.runCompute t q 0x40 (fun s y e => if bit e.variant 0 then s.embedBack q.slot y else s.embed q.slot y)

/-- ROUTE_TOPK (R71). -/
def execRouteTopk (t : Nat) (q : QRef) (s : State) : Res :=
  s.runCompute t q 0x41 (fun s y e => if bit e.variant 0 then s.routeBack q.slot y else s.routeTopk q.slot y e.imm0)

/-- COMPRESS (R173, R174). -/
def execCompress (t : Nat) (q : QRef) (s : State) : Res :=
  s.runCompute t q 0x42 (fun s y e =>
    if bit e.variant 0 then s.compressBack q.slot y e.imm0 else s.compress q.slot y e.imm0)

/-- EXPAND (R175, R176). -/
def execExpand (t : Nat) (q : QRef) (s : State) : Res :=
  s.runCompute t q 0x43 (fun s y e => if bit e.variant 0 then s.expandBack q.slot y else s.expand q.slot y)

end Sys2Proof.Machine
end

