-- ==== Sys2Proof/Machine/Steps.lean ====
section
/-! DEFINITION. Steps: STEP_BEGIN, STEP_END and its record, the optimisers, SCALE_UPDATE, LOG (R48, R77, R83, R89, R91, R92,
R105, R111 to R118, R122, R192, R227, R295, R437). -/

namespace Sys2Proof.Machine

/-! ### STEP_BEGIN (R89, R295) -/

/-- STEP_BEGIN: sets the step number; in a periodic context it changes nothing. -/
def execStepBegin (t : Nat) (q : QRef) (s : State) : Res :=
  s.runEntry t q 0x0A (fun s e =>
    let s := if bit (s.ctxRec q.slot).mode 2 then s
      else s.modCtx q.slot (fun x => x.newStep (e.imm0 % 2 ^ 64))
    s.finishEntry q .ok)

/-! ### The optimisers (R77, R83, R118, R122, R192) -/

/-- The loss scale exponent under which the gradients of step n were computed: the one held before that step's
SCALE_UPDATE (R118). -/
def State.stepScale (s : State) (c n : Nat) : Except Acc Nat :=
  match ((s.ctx c).statsOf n).lsExp with
  | some n => .ok n
  | none => s.lossExp c

/-- The update of an element is skipped: its gradient came in a bucket reduced with NF (R77). -/
def Ctx.skipped (x : Ctx) (a : Nat) : Bool := x.skips.any (fun k => k.base ≤ a && a < k.base + k.len)

/-- A gradient element divided by the loss scale, in V24. -/
def State.gradient (s : State) (c : Nat) (g : Desc) (ls : Nat) (ix : List Nat) : Except Acc Val := do
  let v ← s.elem24 c g ix
  .ok (v24 (v.scale (127 - (ls : Int))))

/-- The write of one optimiser operand: values free in the operands and the hyperparameters (log 9), skipped elements
unchanged; a block all of whose elements are skipped is not written. -/
def State.optWrite (s : State) (c : Nat) (y : Queue) (d g : Desc) (purpose what : Nat)
    (ins : List Nat → Except Acc (List Val)) : Except Acc Eff := do
  let x := s.ctx c
  let skip := fun (ix : List Nat) => x.skipped (g.addr (g.off ix))
  let keep := if d.format.block then
      ((blocksOf d.own).filter (fun b => b.any (fun ix => !skip ix))).flatMap id
    else d.own.filter (fun ix => !skip ix)
  let vals ← valuesAt keep (fun ix =>
    if skip ix then s.readElem c d ix
    else do
      let l ← ins ix
      .ok (opFree what l))
  s.encode c d (s.rnd c y d purpose 0 true) vals

/-- The version word rises by one when an update was applied (R83, R192). -/
def State.versionWrite (s : State) (c : Nat) (m g : Desc) : Except Acc Eff :=
  if m.versionVa = 0 || m.own.all (fun ix => (s.ctx c).skipped (g.addr (g.off ix))) then .ok {}
  else do
    let b ← s.vread c m.versionVa 4
    .ok { writes := [(m.versionVa, toLE 4 ((leNat b + 1) % 2 ^ 32))] }

/-- OPT_ADAM and OPT_MOMENTUM. -/
def State.optimise (s : State) (c : Nat) (y : Queue) (adam : Bool) : Except Acc Done := do
  let m := y.d 0
  let g := y.d 3
  let ls ← s.stepScale c y.startStep
  let hyper ← each (List.range 6) (fun i => s.elem24 c (y.d 4) [i])
  let ins := fun (ix : List Nat) => (do
    let a ← s.elem24 c m ix
    let b ← s.elem24 c (y.d 1) ix
    let v ← if adam then s.elem24 c (y.d 2) ix else .ok Val.zero
    let dv ← s.gradient c g ls ix
    .ok (a :: b :: v :: dv :: natVal (b2n adam) :: hyper) : Except Acc (List Val))
  let e0 ← s.optWrite c y m g 3 0x60 ins
  let e1 ← s.optWrite c y (y.d 1) g 4 0x61 ins
  let e2 ← if adam then s.optWrite c y (y.d 2) g 5 0x62 ins else .ok {}
  let ev ← s.versionWrite c m g
  let z : Eff := { writes := zeroRows g g.own }
  .ok { eff := (((e0.join e1).join e2).join ev).join z }

/-- OPT_ADAM (R83). -/
def execOptAdam (t : Nat) (q : QRef) (s : State) : Res := s.runCompute t q 0x70 (fun s y _ => s.optimise q.slot y true)

/-- OPT_MOMENTUM (R83). -/
def execOptMomentum (t : Nat) (q : QRef) (s : State) : Res :=
  s.runCompute t q 0x71 (fun s y _ => s.optimise q.slot y false)

/-! ### SCALE_UPDATE (R117, R118, R122) -/

/-- A code within a two's-complement byte, and whether it was outside it. -/
def sat8 (v : Int) : Int × Bool := if v > 127 then (127, true) else if v < -128 then (-128, true) else (v, false)

/-- One tile entry: its new bytes, and whether its adjustment saturated (R117). -/
def tileUpdate (d : Int) (b : Bytes) : Bytes × Bool :=
  let a := sat8 (toSigned 8 (fld b 0 1) - d)
  let boost := fld b 1 1 % 16
  let clean := fld b 3 1 % 16
  let r : Nat × Nat :=
    if bit (fld b 2 1) 0 then (min 15 (boost + 1), 0)
    else if boost > 0 then (if clean + 1 = 16 then (boost - 1, 0) else (boost, clean + 1))
    else (boost, clean)
  let boost' := r.1 - (max d 0).toNat
  (toLE 1 (ofSigned 8 a.1) ++ toLE 1 boost' ++ toLE 1 0 ++ toLE 1 r.2, a.2)

/-- emax of a slot's format (R117); none for a format no descriptor can use. -/
def slotEmax (fmt : Nat) : Option Nat :=
  if fmt = 0x10 then some 8 else if fmt = 0x11 then some 15 else if fmt = 0x20 then some 6 else none

/-- The new EXP of a slot. -/
def newExp (sl : Slot) (emax : Nat) : Nat :=
  let h := sl.hist.foldl max 0
  if bit sl.flags 1 || h = 0 then sl.exp else max 1 (min 254 (h + 1 - emax))

/-- One slot: its writes (R117). -/
def State.slotUpdate (s : State) (c k : Nat) : Except Acc (List (Nat × Bytes)) := do
  let a := s.slotAddr c k
  let b ← s.vread c a 64
  let sl := slotOf b
  match slotEmax sl.fmt with
  | none => .ok []
  | some emax =>
    if !bit sl.flags 0 then .ok []
    else do
      let e := newExp sl emax
      let d : Int := (e : Int) - (sl.exp : Int)
      let n := if sl.adjVa = 0 then 0 else sl.tiles * (if sl.item = 0 then 1 else sl.items)
      let ts ← each (List.range n) (fun i => do
        let x ← s.vread c (sl.adjVa + 4 * i) 4
        let r := tileUpdate d x
        .ok ((sl.adjVa + 4 * i, r.1), r.2))
      let pos := (sl.pos + 1) % 16
      let ovf := satAdd 32 sl.ovf (ts.filter (fun x => x.2)).length
      let b := bput b 0 (toLE 1 e)
      let b := bput b 2 (toLE 1 (if bit sl.flags 2 then sl.flags - 4 else sl.flags) ++ toLE 1 pos ++ toLE 4 ovf)
      let b := bput b (0x30 + pos) (toLE 1 0)
      .ok (ts.map (·.1) ++ [(a, b)])

/-- The header (R117): halved after a non-finite event, doubled after GROWTH_INTERVAL clean steps. -/
def headerUpdate (bad : Bool) (b : Bytes) : Bytes :=
  let e := fld b 0 1
  let lo := fld b 1 1
  let hi := fld b 2 1
  if !bit (fld b 3 1) 0 then b
  else if bad then
    bput (bput (bput b 0 (toLE 1 (max lo (e - 1)))) 6 (toLE 2 0)) 8 (toLE 4 (satAdd 32 (fld b 8 4) 1))
  else
    let n := fld b 6 2 + 1
    if n ≥ fld b 4 2 then bput (bput b 0 (toLE 1 (min hi (e + 1)))) 6 (toLE 2 0)
    else bput b 6 (toLE 2 n)

def State.scaleUpdate (s : State) (c : Nat) : Except Acc Done :=
  let x := s.ctx c
  let a := (s.ctxRec c).scaleTable
  if a = 0 then .ok {}
  else do
    let h ← s.vread c a 64
    let ws ← each (List.range 16384) (s.slotUpdate c)
    .ok { eff := { writes := (a, headerUpdate x.span h) :: ws.flatMap id } }

/-- SCALE_UPDATE (R117): a new span for R122 starts; the step keeps the exponent held before (R118). -/
def execScaleUpdate (t : Nat) (q : QRef) (s : State) : Res :=
  s.runEntry t q 0x72 (fun s e =>
    let old := s.stepScale q.slot (s.queue q).startStep
    let s := s.compute q e (s.scaleUpdate q.slot)
    if (s.queue q).phase = .done .ok then
      s.modCtx q.slot (fun x => ({ x with span := false } : Ctx).book (s.queue q).startStep (fun st =>
        { st with lsExp := match old with | .ok n => some n | .error _ => st.lsExp }))
    else s)

/-! ### LOG (R437) -/

/-- LOG: one metric, rounded once. -/
def execLog (t : Nat) (q : QRef) (s : State) : Res :=
  s.runEntry t q 0x84 (fun s e =>
    let d := (s.queue q).d 0
    match s.readElem q.slot d (List.replicate d.rank 0) with
    | .error a => s.failEntry q e.tag (s.sourceAt q.slot a 0) .ready a
    | .ok v =>
      let m := scalar16 v
      let n := (s.queue q).startStep
      let s := s.modCtx q.slot (fun x => x.book n (fun st => { st with
        metrics := tins st.metrics (sl e.imm0 2 0) (m.1, m.2, sl e.imm0 15 8) }))
      s.finishEntry q .ok)

/-! ### STEP_END (R48, R49, R91, R92) -/

/-- Carried contributions that no bucket of this step consumed (R227). -/
def Ctx.staleCarries (x : Ctx) (step : Nat) : Nat := (x.carries.filter (fun k => k.step ≠ step)).length

/-- Loss and metric fields a charter does not release are 0 (R338). -/
def releases (ch : Option Charter) (i : Nat) : Bool := match ch with | none => true | some c => bit c.logRelease i

/-- The 128-byte step record. DESIGN CHOICE (log 107): a count wider than its field is cut to the field; a metric slot that no LOG
wrote is 0. -/
def stepRecord (x : Stats) (ch : Option Charter) (step time ls dropped : Nat) (identical : Bool) : Bytes :=
  let l := if x.lossSeen then scalar16 x.loss else (0, 0)
  let lossOk := releases ch 0
  let flags := b2n identical + 2 * b2n (x.lateRanks.length > 16) + 4 * b2n x.lossNf + 8 * b2n x.diverge
    + 16 * b2n (!x.lossSeen)
  let metric := fun (i : Nat) =>
    let m := if releases ch (i + 1) then tget (0, 0, 0) x.metrics i else (0, 0, 0)
    toLE 2 m.1 ++ toLE 1 m.2.1 ++ toLE 1 m.2.2
  toLE 8 step ++ toLE 8 time ++ toLE 2 (if lossOk then l.1 else 0) ++ toLE 1 (if lossOk then l.2 else 0) ++ toLE 1 ls
    ++ toLE 2 flags ++ toLE 1 x.numrev ++ toLE 1 0 ++ toLE 4 x.overflow ++ toLE 4 x.skipped ++ toLE 4 x.lateBuckets
    ++ toLE 2 x.lateRanks.length ++ toLE 2 0 ++ toLE 2 x.shardVersion ++ toLE 2 x.useLatest ++ toLE 4 x.resetLost
    ++ (List.range 16).flatMap (fun i => toLE 2 ((x.lateRanks[i]?).getD 0xFFFF))
    ++ toLE 4 x.carriedIn ++ toLE 4 dropped ++ toLE 4 x.assay ++ toLE 4 0 ++ (List.range 8).flatMap metric

/-- The late-member bitmap's writes: bytes of D0's elements in element order (R91). DESIGN CHOICE (log 107): position p is bit p mod 8
of byte p/8; bits beyond D0 are lost, and bytes of D0 beyond the bitmap stay. -/
def lateMask (d : Desc) (n : Nat) (late : List Nat) : List (Nat × Bytes) :=
  writesAt (d.streamIn d.shardIndex d.own).1 (maskBytes n late)

/-- What STEP_END writes into D0 when more than 16 ranks were late (R91). -/
def State.stepMask (s : State) (c : Nat) (y : Queue) : List (Nat × Bytes) :=
  match y.desc 0 with
  | some d =>
    let late := ((s.ctx c).statsOf y.startStep).lateRanks
    if late.length > 16 then lateMask d (s.ranks c 0).length late else []
  | none => []

/-- The record of the step that ends; carries not consumed count as dropped, and a step that dropped one was not
bit-identical (R48, R49). -/
def State.recordOf (s : State) (c : Nat) (y : Queue) (ls : Nat) : Bytes :=
  let x := s.ctx c
  let gone := x.staleCarries y.startStep
  let st := x.statsOf y.startStep
  stepRecord st x.charter y.startStep s.clk.time ls (st.dropped + gone) (!st.notIdentical && gone = 0)

/-- The slot after the record: carries not consumed are dropped and counted. -/
def State.stepClosed (s : State) (c : Nat) (y : Queue) : State :=
  s.modCtx c (fun x =>
    let gone := x.staleCarries y.startStep
    ({ x with carries := x.carries.filter (fun k => k.step = y.startStep) } : Ctx).book y.startStep (fun st =>
      { st with dropped := st.dropped + gone, notIdentical := st.notIdentical || decide (gone ≠ 0) }))

/-- The log ring of a charter-bound context lies in an open range or a host page (R338, log 119). -/
def State.logOpen (s : State) (c va : Nat) : Bool :=
  (s.ctx c).charter.isNone || (((s.ctx c).ranges[rangeOf (s.ctx c).ranges va]?).getD {}).owner = 0xFF
    || (match s.translate c va true with | .ok x => x.host | .error _ => true)

/-- STEP_END: the late-member bitmap and the record are written, carries not consumed are dropped. -/
def execStepEnd (t : Nat) (q : QRef) (s : State) : Res :=
  s.runEntry t q 0x0B (fun s e =>
    let c := q.slot
    let y := s.queue q
    let slot := y.startStep % max (s.ctxRec c).logEntries 1
    if !s.logOpen c ((s.ctxRec c).logRing + 128 * slot) then s.finishEntry q .charterDenied
    else
    match s.stepScale c y.startStep with
    | .error a => s.failEntry q e.tag 8 .ready a
    | .ok ls =>
      match s.vwrites c (s.stepMask c y) with
      | (s, some a) => s.failEntry q e.tag (s.sourceAt c a 1) .ready a
      | (s, none) =>
        match s.ringWrite c (s.ctxRec c).logRing slot (s.recordOf c y ls) with
        | (s, some a) => s.failEntry q e.tag 8 .ready a
        | (s, none) => (s.stepClosed c y).finishEntry q .ok)

end Sys2Proof.Machine
end

