-- ==== Sys2Proof/Machine/Completion.lean ====
section
/-! DEFINITION. ENTRY_COMPLETE, and what the outputs of an entry hold that had started and completes with another status than OK
or NONFINITE (R59, R85, R127, R385). -/

namespace Sys2Proof.Machine

/-- Statuses after which an operator's tiles hold their previous or their new contents (R127). A gather that ends with
SHARD_VERSION has chosen its tiles before; an entry that is refused or aborted has written none. -/
def Status.unsettles : Status → Bool
  | .faultUnmapped | .faultPermission | .faultTag | .faultReplay | .lateDropped | .resetLost | .cryptoExhausted | .abandoned
  | .peerLost => true
  | .ok | .aborted | .nonfinite | .shardVersion | .charterDenied | .contractUnsupported | .unitAbsent => false

/-- What an operator of the cores would write: kept rounded tiles, else its result now; none for the other operators. -/
def State.newContents (s : State) (c : Nat) (y : Queue) (e : Entry) : Option Eff :=
  let got : Option (Except Acc Done) :=
    match e.op with
    | 0x10 => some (s.matmul c y e)
    | 0x11 => some (s.bwdPair c y e none)
    | 0x12 => some (s.grouped c y)
    | 0x13 => some (s.bwdPair c y e (y.desc 5))
    | 0x20 => some (s.attnFwd c y e)
    | 0x21 => some (s.attnBwd c y e)
    | 0x22 => some (s.normFwd c y e)
    | 0x23 => some (s.normBwd c y e)
    | 0x24 => some (s.lossXent c y)
    | 0x30 => some (s.elementwise c y e)
    | 0x31 => some (s.rowReduce c y e)
    | 0x32 => some (s.convert c y)
    | 0x40 => some (if bit e.variant 0 then s.embedBack c y else s.embed c y)
    | 0x41 => some (if bit e.variant 0 then s.routeBack c y else s.routeTopk c y e.imm0)
    | 0x42 => some (if bit e.variant 0 then s.compressBack c y e.imm0 else s.compress c y e.imm0)
    | 0x43 => some (if bit e.variant 0 then s.expandBack c y else s.expand c y)
    | 0x70 => some (s.optimise c y true)
    | 0x71 => some (s.optimise c y false)
    | _ => none
  match got.map y.outcome with
  | some (.ok r) => some r.eff
  | _ => none

/-- An operator that moves data (R71). -/
def movesData (op : Nat) : Bool := op = 0x33 || (0x50 ≤ op && op ≤ 0x60)

/-- What has come for a tile of an operator that moves data: the elements COPY reads, results of buckets that have ended, whole
messages. -/
def State.arrived (s : State) (c : Nat) (y : Queue) (e : Entry) (d : Desc) (t : Nat) : List (Nat × Bytes) :=
  let d0 := y.d 0
  match e.op with
  | 0x33 =>
    match s.readAddrs c (d0.bytesAt (d.tileIdx t)) with
    | .ok b => writesAt (d.bytesAt (d.tileIdx t)) b
    | .error _ => []
  | 0x50 | 0x51 =>
    (s.buckets.filter (fun b => b.slot = c && b.issued && b.step = y.startStep && b.d1 = some d && b.doneAt.isSome && !b.lost)).flatMap
      Bucket.resultWrites
  | 0x52 | 0x60 =>
    (List.range d0.shardCount).flatMap (fun i =>
      let b := if i = d0.shardIndex then (s.holderStream c d0).toOption else (s.ctx c).message (s.holder c d0 i) (y.mid d0.tensorId)
      match b with
      | some b => ((s.shardWrites c d0 d i b).toOption).getD []
      | none => [])
  | 0x55 =>
    match (s.ctx c).message (s.rankAt c e.imm0) (y.mid e.tag) with
    | some b => writesAt d.stream b
    | none => []
  | _ => []

/-- A tile takes its new contents or keeps its previous ones: a free choice (R127, log 33). Contents that have not come whole are
not taken; those of an operator whose operands cannot be read are free. -/
def State.settleTile (s : State) (c : Nat) (y : Queue) (e : Entry) (new : Option Eff) (d : Desc) (t : Nat) : State :=
  let v := s.draw
  let as := s.tileBytes c d t
  if v.1 % 2 = 0 then v.2
  else if movesData e.op then
    let ws := s.tileOf c d (s.arrived c y e d t) t
    if ws.length = as.length then (v.2.vwrites c ws).1 else v.2
  else
    match new with
    | some f => (v.2.vwrites c (s.tileOf c d f.writes t)).1
    | none =>
      let w := v.2.draw
      (w.2.vwrites c (writesAt as (toLE as.length w.1))).1

/-- The outputs of an entry that had started and completes with such a status; the services have rules of their own (R324, R336). -/
def State.unsettle (s : State) (q : QRef) (e : Entry) (st : Status) : State :=
  let y := s.queue q
  if y.begun && st.unsettles && e.op < 0x80 && y.flight ≠ .settled then
    let new := s.newContents q.slot y e
    let s := (outputs e.op e.variant).foldl (fun s k =>
      match y.desc k with
      | some d => (d.ownTiles.map (·.1)).foldl (fun s t => s.settleTile q.slot y e new d t) s
      | none => s) s
    s.modQueue q (fun y => { y with flight := .settled })
  else s

/-- The current entry of a queue completes: first its outputs are what its status leaves of them. -/
def State.completeEntry (s : State) (q : QRef) : State :=
  let y := s.queue q
  match y.phase, y.entry with
  | .done st, some e => (s.unsettle q e st).complete q
  | _, _ => s

/-- An engine reset holds the end of a queue's entry: its fence, or its outputs (R379). -/
def State.endHeld (s : State) (q : QRef) : Bool :=
  s.queueHeld q || (match (s.queue q).entry with
    | some e => e.signals && s.accessHeld q.slot (s.fenceVa q.slot e.signalFence) 16
    | none => false)

/-- ENTRY_COMPLETE (R59, R85). -/
def execEntryComplete (t : Nat) (q : QRef) (s : State) : Res :=
  let s := s.tick t
  .next (if ((s.ctx q.slot).state = 1 ∨ (s.ctx q.slot).state = 4) ∧ !s.endHeld q then s.completeEntry q else s)

end Sys2Proof.Machine
end

