-- ==== Sys2Proof/Machine/Power.lean ====
section
/-! DEFINITION. Input power, the pins of the edge connector, tamper and battery, laser units, reference clocks (R16 to
R41, R269, R350, R351, R392, R405). -/

namespace Sys2Proof.Machine

/-- The module has its input power. -/
def State.powered (s : State) : Bool := s.boot ≠ .off

/-! ### The module power limit (R20, R393, R394) -/

/-- Per cent of the variant maximum. -/
def State.percent (s : State) (p : Nat) : Nat := s.ident.variant.maxPower * p / 100

/-- The effective limit in W: the lowest of the register, the variant maximum, R20 and R393. -/
def State.limit (s : State) : Nat :=
  let m := s.ident.variant.maxPower
  let r := min m (s.pwr.limitReg.getD m)
  let r := if s.pins.lowInput then min r (s.percent 80) else r
  let r := if s.pwr.limSys then min r (s.percent 80) else r
  let r := if s.pwr.limCool then min r (s.percent 60) else r
  if s.pwr.limInlet then min r (s.percent 80) else r

/-- After a change that may move the limit: record 0x56 and PWRCLK bit 2 when it moved. -/
def State.relimit (s : State) (old : Nat) : State :=
  if s.limit = old then s
  else (s.raise pgPwrclk 4).logRas pgPwrclk 5 0x56 none s.limit

/-! ### Input power -/

/-- A healthy laser unit behind a closed latch emits once its rail is up (R34, R36). -/
def Laser.powerUp (l : Laser) : Laser := { l with emitting := l.present && l.healthy && !l.latchOpen }

/-- What a laser unit keeps without power (R21, R36): whether it sits in its bay, its health, its latch. -/
def Laser.unpowered (l : Laser) : Laser :=
  { present := l.present, healthy := l.healthy, latchOpen := l.latchOpen, emitting := false }

/-- POWER_UP (R19, R22, R351): the input rises through 47.0 V, the rails settle, MOD_PWRGD is released. The rows of a tamper that was
latched without power run now; a healthy laser unit behind a closed latch emits again. Beyond 65 V nothing is specified (R43). -/
def execPowerUp (t mv : Nat) (s : State) : Res :=
  let s := s.tick t
  if s.powered ∨ mv < 47000 then .next s
  else if mv > 65000 then .fault .absoluteLimit
  else
    let s := { s with
      boot := .standby
      pins := { s.pins with inputOn := true, lowInput := decide (mv < 48000), inputMv := mv, pwrgd := true,
                            onBattery := false }
      ras := { bootCause := causePowerUp } }
    let s := ([0, 1] : List Nat).foldl (fun s u => s.setLaser u (s.laser u).powerUp) s
    .next (if s.sec.latch && !s.sec.fuse then s.tamperRest else s)

/-- INPUT_LOW (R20): the input enters the band 45.0 V to 48.0 V. -/
def execInputLow (t mv : Nat) (s : State) : Res :=
  let s := s.tick t
  if s.powered ∧ 45000 ≤ mv ∧ mv < 48000 then
    let old := s.limit
    let s := { s with pins := { s.pins with lowInput := true, inputMv := mv } }
    .next ((s.logRas pgPwrclk 5 0x52 none mv).relimit old)
  else .next s

/-- INPUT_LOW_CLEAR (R20): above 48.0 V for 100 ms, the limit is lifted. -/
def execInputLowClear (t : Nat) (s : State) : Res :=
  let s := s.tick t
  if s.powered then
    let old := s.limit
    .next ({ s with pins := { s.pins with lowInput := false } }.relimit old)
  else .next s

/-- POWER_LOSS (R21): all volatile state is lost, MOD_PWRGD goes low, the battery domain runs from its cell. The
carrier's resets count as asserted until it releases them (R22). -/
def execPowerLoss (t : Nat) (s : State) : Res :=
  let s := s.tick t
  if s.powered then
    let s := { s with sec := { s.sec with pending := none } }
    let s := s.packageReset causePowerUp
    let s := ([0, 1] : List Nat).foldl (fun s u => s.setLaser u (s.laser u).unpowered) s
    .next { s with
      boot := .off
      pwr := {}
      dbg := {}
      pins := { s.pins with inputOn := false, lowInput := false, inputMv := 0, inputDa := 0, pwrgd := false,
                            modResetN := false, perstN := false, onBattery := true, ledTamper := false,
                            tripAlert := false } }
  else .next s

/-! ### Reset pins -/

/-- MOD_RESET_ASSERT (R25): MOD_RESET_N low is a package reset; the rails of a thermal trip stay off. -/
def execModResetAssert (t : Nat) (s : State) : Res :=
  let s := s.tick t
  if s.powered ∧ s.pins.modResetN then
    let held := s.boot = .tripHeld
    let s := { s with pins := { s.pins with modResetN := false } }
    let s := s.packageReset causeModReset
    .next (if held then { s with boot := .tripHeld } else s)
  else .next s

/-- MOD_RESET_RELEASE (R17, R22, R24, R25): SLOT_ID is latched, secure boot begins, a link held in reset is let go; each waits
for the end of the internal reset. -/
def execModResetRelease (t strap : Nat) (s : State) : Res :=
  let s := s.tick t
  if s.powered ∧ !s.pins.modResetN then
    .next (State.linkTrains { s with
      boot := if s.boot = .tripHeld then .tripHeld else .booting
      pins := { s.pins with modResetN := true, strap := strap % 8, slotId := strap % 8 } })
  else .next s

/-- PERST_ASSERT (R25): the endpoint and the host-interface state reset, every context is quenched. -/
def execPerstAssert (t : Nat) (s : State) : Res :=
  let s := s.tick t
  if s.pins.perstN then
    let s := { s with pins := { s.pins with perstN := false } }
    .next (if s.powered then s.endpointReset else s)
  else .next s

/-- PERST_RELEASE (R24): the link trains, or stays in reset until MOD_RESET_N rises. -/
def execPerstRelease (t : Nat) (s : State) : Res :=
  let s := s.tick t
  if s.powered ∧ !s.pins.perstN then
    .next (State.linkTrains { s with pins := { s.pins with perstN := true } })
  else .next s

/-- ENDPOINT_CONFIG_READY (R22): configuration requests complete successfully from now on. -/
def execEndpointConfigReady (t : Nat) (s : State) : Res :=
  let s := (s.tick t).linkTrains
  .next (if s.hostUp then { s with pcie := { s.pcie with crs := false } } else s)

/-- FLR_VF (R269, R405): the bound slot is quenched, its `IRQ_STAT` clears and its `IRQ_EN` returns to reset. -/
def execFlrVf (t slot : Nat) (s : State) : Res :=
  let s := s.tick t
  if s.hostUp ∧ s.bound slot ∧ slot < 64 then
    let s := s.setHdr (pgCtx slot) { s.hdr (pgCtx slot) with stat := 0, en := none }
    .next (s.quench slot)
  else .next s

/-- FLR_PF0 (R25, R405). -/
def execFlrPf0 (t : Nat) (s : State) : Res :=
  let s := s.tick t
  .next (if s.hostUp then s.hostReset else s)

/-! ### Tamper, battery, entropy -/

/-- TAMPER (R28, R351): without input power only the battery domain's row runs, and the latch holds the rest. -/
def execTamper (t : Nat) (src : TamperSource) (s : State) : Res :=
  let s := (s.tick t).tamperRoots src
  .next (if s.powered then s.tamperRest else s)

/-- The battery-low event (R29): record 0x58, once firmware runs to write it. -/
def State.tellBattery (s : State) : State :=
  if s.sec.batteryLow && !s.sec.batteryTold && s.running then
    { s with sec := { s.sec with batteryTold := true } }.logRas pgRas 5 0x58 none s.sec.months
  else s

/-- BATTERY_LOW (R29): below 6 months of life the event is raised; while firmware does not run it waits for BOOT_COMPLETE. -/
def execBatteryLow (t months : Nat) (s : State) : Res :=
  let s := s.tick t
  if months < 6 then
    .next (State.tellBattery { s with sec := { s.sec with months, batteryLow := true, batteryTold := false } })
  else .next s

/-- TRNG_HEALTH_FAIL (R350): no fresh value is issued any more; record 0x70. -/
def execTrngHealthFail (t : Nat) (s : State) : Res :=
  let s := s.tick t
  if s.powered then
    let s := { s with sec := { s.sec with trngOk := false } }
    .next (s.logRas pgRas 7 0x70 none 0)
  else .next s


/-- What waited for fresh values fails (R350). The codes it reports are not given: free (log 7). A link keeps its key; a boot that fails
leaves ROM recovery (log 122). -/
def State.failFresh (s : State) (w : Wait) : State :=
  let v := s.draw
  match w with
  | .create c => v.2.modCtx c (fun x => { x with createErr := 1 + v.1 % 255 })
  | .domain m | .lifecycle m => v.2.respond m (1 + v.1 % 7)
  | .hello q =>
    let p := s.port q
    let s := s.setPort q { p with st := 4, retryAt := s.clk.now + 1000000000, light := false, locked := false,
                                  trained := false, link := {} }
    s.raise (pgPort q) 1
  | .anneal => { s with mem := { s.mem with annealQ := s.mem.annealQ.drop 1 } }
  | .provision => { v.2 with dbg := { v.2.dbg with dal := (1 + v.1 % 15, 0, 0) } }
  | .rekey _ => s
  | .boot => { s with boot := .recovery }

/-- FRESH_VALUE_TIMEOUT (R350): wait number `wait` fails after 1 s. -/
def execFreshValueTimeout (t wait : Nat) (s : State) : Res :=
  let s := s.tick t
  match s.sec.waits[wait]? with
  | none => .next s
  | some (since, w) =>
    if s.clk.now < since + 1000000000 then .next s
    else .next (State.failFresh { s with sec := { s.sec with waits := s.sec.waits.filter (fun x => x ≠ (since, w)) } } w)

/-! ### Laser units (R34 to R37) -/

/-- LASER_UNIT_FAIL (R35, R37): the unit failed or was pulled (which of the two is not said: its presence is free,
log 7); the other unit takes over its ports. -/
def execLaserUnitFail (t unit : Nat) (s : State) : Res :=
  let s := s.tick t
  if unit < 2 ∧ (s.laser unit).present then
    let v := s.draw
    .next (v.2.darken unit { v.2.laser unit with
      present := decide (v.1 % 2 = 1), healthy := false, emitting := false, power := 0 })
  else .next s

/-- LASER_LATCH_OPEN (R36): the unit stops emitting; ports it still fed move to the other unit as for a failure. -/
def execLaserLatchOpen (t unit : Nat) (s : State) : Res :=
  let s := s.tick t
  if unit < 2 then .next (s.darken unit { s.laser unit with emitting := false, power := 0, latchOpen := true })
  else .next s

/-- LASER_SAFE_TO_REMOVE (R36): a released bay that feeds no port any more. -/
def execLaserSafeToRemove (t unit : Nat) (s : State) : Res :=
  let s := s.tick t
  if unit < 2 ∧ (s.laser unit).released
      ∧ s.portList.all (fun q => s.feeds q ≠ some unit && !(s.port q).moving) then
    .next (s.setLaser unit { s.laser unit with safe := true, amber := true })
  else .next s

/-- LASER_UNIT_INSERT (R36, R37): the unit self-tests, and a healthy one takes its ports back one at a time. -/
def execLaserUnitInsert (t unit : Nat) (healthy : Bool) (s : State) : Res :=
  let s := s.tick t
  if unit < 2 then
    let s := s.pinLight
    let s := s.setLaser unit { present := true, healthy, emitting := healthy && s.powered }
    .next s.shiftLight
  else .next s

/-! ### Reference clocks (R41, R392) -/

/-- REFCLK_LINK_LOST: holdover, the ports go down, device time holds; record 0x57. The first TIME_SYNC after the return steps device
time by the parent named before. -/
def execRefclkLinkLost (t : Nat) (s : State) : Res :=
  let s := s.tick t
  if s.powered ∧ !s.clk.held then
    let free := s.clk.free
    let s := s.portsDown
    let s := { s with clk := { s.clk with held := true, locked := false, stepNext := true, free := free } }
    .next ((s.raise pgPwrclk 8).logRas pgPwrclk 5 0x57 none 0)
  else .next s

/-- REFCLK_LINK_RETURN: device time counts on from the held value; record 0x57. -/
def execRefclkLinkReturn (t : Nat) (s : State) : Res :=
  let s := s.tick t
  if s.clk.held then
    let s := { s with clk := { s.clk with held := false } }
    .next ((s.raise pgPwrclk 8).logRas pgPwrclk 5 0x57 none 2)
  else .next s

/-- REFCLK_PCIE_LOST: absent for more than 1 ms, the effect of PERST_N; record 0x57. -/
def execRefclkPcieLost (t : Nat) (s : State) : Res :=
  let s := s.tick t
  if s.powered ∧ !s.clk.pcieLost then
    let s := { s with clk := { s.clk with pcieLost := true } }
    let s := s.endpointReset
    .next ((s.raise pgPwrclk 8).logRas pgPwrclk 5 0x57 none 1)
  else .next s

/-- REFCLK_PCIE_RETURN: `CLK_STAT.PCIE_REF` sets and the link trains again; record 0x57. -/
def execRefclkPcieReturn (t : Nat) (s : State) : Res :=
  let s := s.tick t
  if s.clk.pcieLost then
    let s := State.linkTrains { s with clk := { s.clk with pcieLost := false } }
    .next ((s.raise pgPwrclk 8).logRas pgPwrclk 5 0x57 none 3)
  else .next s

end Sys2Proof.Machine
end

