-- ==== Sys2Proof/Machine/Charters.lean ====
section
/-! DEFINITION. CREATE: the context record, its tables, key ranges, the scheduling record and the charter (R248, R249, R281,
R282, R285, R301 to R303, R331 to R334, R339, R350, R360). -/

namespace Sys2Proof.Machine

/-! ### Tables read at CREATE -/

/-- A read of a table at a virtual address under a root, with the table key: only table mode can have written it before
the context exists (log 46). -/
def State.tread (s : State) (root va n : Nat) : Except Acc Bytes :=
  (piecesOf 65536 va n).foldl (fun (r : Except Acc Bytes) p =>
    match r with
    | .error e => .error e
    | .ok acc =>
      if p.1 ≥ 2 ^ 57 then .error (.fault p.1 0 false false)
      else
        match s.walk p.1 false 4 root with
        | .error e => .error e
        | .ok x =>
          if x.host then .error (.fault p.1 3 false true)
          else
            match s.physRead s.mem.tableKey false x.addr p.2 with
            | .ok b => .ok (acc ++ b)
            | .error e => .error e) (.ok [])

def isPow2 (n : Nat) : Bool := n = 2 ^ Nat.log2 n

/-! ### The record (R248, R249) -/

def recOf (b : Bytes) : CtxRec :=
  { ptRoot := fld b 0 8, mode := fld b 8 1, job := fld b 0x0A 2, position := fld b 0x0C 2, groupCount := fld b 0x0E 2
    groupTable := fld b 0x10 8, jobSeed := fld b 0x18 8, scaleTable := fld b 0x20 8, logRing := fld b 0x28 8
    logEntries := fld b 0x30 4, patience := fld b 0x34 4, fenceTable := fld b 0x38 8, fenceCount := fld b 0x40 2
    faultEntries := fld b 0x42 2, faultRing := fld b 0x48 8, saveArea := fld b 0x50 8, objectTable := fld b 0x58 8
    charterVa := fld b 0x60 8, keyrangeVa := fld b 0x68 8, schedVa := fld b 0x70 8, winBase := fld b 0x78 8
    rsvd := fld b 9 1 + fld b 0x44 4 }

/-- Every field lies in its stated range, and reserved bytes are 0. -/
def CtxRec.inRange (r : CtxRec) : Bool :=
  r.ptRoot % 4096 = 0 && r.ptRoot < 2 ^ 42 && r.mode < 16 && r.rsvd = 0 && 1 ≤ r.groupCount && r.groupCount ≤ 256
    && 16 ≤ r.logEntries && r.logEntries ≤ 65536 && isPow2 r.logEntries && 1 ≤ r.fenceCount
    && 64 ≤ r.faultEntries && r.faultEntries ≤ 4096 && isPow2 r.faultEntries
    && (bit r.mode 0 || r.objectTable = 0) && r.winBase % 65536 = 0

/-- A range maps writable pages; `device`: device frames only. -/
def State.mapsWrite (s : State) (root va n : Nat) (device : Bool) : Bool :=
  va + n ≤ 2 ^ 57 && (piecesOf 65536 va n).all (fun p =>
    match s.walk p.1 true 4 root with
    | .ok x => !(device && x.host)
    | .error _ => false)

/-- Bytes of the fault ring: its records, or units in a host page (R343; HOST_MODE is bounce after CREATE). -/
def State.ringBytes (s : State) (root va n : Nat) : Nat :=
  match s.walk va true 4 root with
  | .ok x => if x.host then n * 96 else n * 32
  | .error _ => n * 32

/-- The save area and the fault ring are mapped (R249). -/
def State.areasMapped (s : State) (r : CtxRec) : Bool :=
  s.mapsWrite r.ptRoot r.saveArea (s.ident.variant.saveKib * 1024) true
    && s.mapsWrite r.ptRoot r.faultRing (s.ringBytes r.ptRoot r.faultRing r.faultEntries) false

/-- The rank lists: none when one is unreadable, names a module twice, or leaves the own position out. -/
def State.readGroups (s : State) (r : CtxRec) : Option (List (List Nat)) :=
  match collect ((List.range r.groupCount).map (fun g => s.tread r.ptRoot (r.groupTable + 16 * g) 16)) with
  | .error _ => none
  | .ok es =>
    match collect (es.map (fun b => s.tread r.ptRoot (fld b 0 8) (2 * fld b 8 4))) with
    | .error _ => none
    | .ok ls =>
      let gs := ls.map (fun b => (List.range (b.length / 2)).map (fun i => fld b (2 * i) 2))
      if es.all (fun b => fld b 12 4 = 0) && gs.all (fun g => decide g.Nodup)
          && decide (r.position < ((gs[0]?).getD []).length) then some gs
      else none

/-! ### Key ranges (R302, R303) -/

def rangeEntry (b : Bytes) : KeyRange :=
  { base := fld b 0 8, length := fld b 8 8, replay := fld b 0x10 1, owner := fld b 0x11 1, rsvd := leNat (bslice b 0x12 14) }

def rangesOfTable (b : Bytes) : List KeyRange := (List.range 8).map (fun i => rangeEntry (bslice b (32 * i) 32))

/-- The conditions of R302. -/
def rangesOk (rs : List KeyRange) : Bool :=
  let used := (rs.drop 1).filter (fun r => r.length ≠ 0)
  rs.all (fun r => r.base % 65536 = 0 && r.length % 65536 = 0 && r.replay ≤ 1 && r.rsvd = 0)
    && (match rs with | r :: _ => r.base = 0 && r.length = 0 | [] => false)
    && used.all (fun r => decide (r.base + r.length ≤ 2 ^ 57))
    && used.all (fun a => (used.filter (fun b => a.base < b.base + b.length && b.base < a.base + a.length)).length = 1)

/-- The lowest key slot that no context holds: slots are numbered from 1 here, 0 stands for none. -/
def State.freeSlot (s : State) : Nat :=
  ((List.range 512).find? (fun i => !s.mem.keySlots.any (fun p => p.1 = i + 1))).getD 0 + 1

/-- Free key slots (R303, R329). -/
def State.freeSlots (s : State) : Nat := 512 - s.mem.keySlots.length

/-- A free slot filled with fresh keys (R301): its number. -/
def State.takeSlot (s : State) : Nat × State :=
  let v := s.secret
  let n := s.freeSlot
  (n, { v.2 with mem := { v.2.mem with keySlots := tins v.2.mem.keySlots n v.1 } })

/-- Slots for entry 0 and every entry in use. -/
def State.assignSlots (s : State) (rs : List KeyRange) : List KeyRange × State :=
  (rs.zip (List.range 8)).foldl (fun (a : List KeyRange × State) p =>
    if p.2 = 0 ∨ p.1.length ≠ 0 then
      let t := a.2.takeSlot
      (a.1 ++ [{ p.1 with slot := t.1 }], t.2)
    else (a.1 ++ [p.1], a.2)) ([], s)

/-! ### The scheduling record (R281, R282, R285) -/

def schedOf (b : Bytes) : SchedRec :=
  { cls := fld b 0 1, flags := fld b 1 1, cores := fld b 2 1, weight := fld b 3 1, slots := fld b 4 8
    period := fld b 12 2, phase := fld b 14 2, rsvd := leNat (bslice b 16 16) }

/-- `SCHED.STRICT_LIMIT`. -/
def State.strictLimit (s : State) : Nat := s.sched.strict.getD (s.ident.variant.cores - 10)

/-- Cores that STRICT contexts other than c reserve in quantum q. -/
def State.reservedBut (s : State) (c q : Nat) : Nat :=
  ((s.strictIn q).filter (fun p => p.1 ≠ c)).foldl (fun a p => a + p.2) 0

/-- The record's fields lie in the table, and its reservation fits, for slot c. -/
def State.schedOk (s : State) (c : Nat) (periodic : Bool) (r : SchedRec) : Bool :=
  let qs := (List.range s.sched.round).filter (fun q => bit r.slots q)
  1 ≤ r.cores && r.cores ≤ s.ident.variant.cores && r.rsvd = 0
    && (if r.cls = 1 then
          r.flags = 0 && r.weight = 0 && r.slots ≠ 0 && decide (r.slots < 2 ^ s.sched.round)
            && qs.all (fun q => s.reservedBut c q + r.cores ≤ s.strictLimit)
        else r.cls = 0 && r.flags ≤ 1 && 1 ≤ r.weight && r.slots = 0)
    && (if periodic then r.cls = 1 && 1 ≤ r.period && r.period ≤ 1024 && r.phase < r.period
        else r.period = 0 && r.phase = 0)

/-- Every context under the record it will have once its RELOAD takes effect. -/
def State.withReloads (s : State) : State :=
  { s with ctxs := s.ctxs.map (fun (p : Nat × Ctx) => (p.1, { p.2 with sched := p.2.reload.getD p.2.sched })) }

/-- The round of quanta that device time has reached. -/
def State.round (s : State) : Nat := s.clk.time / (max 1 s.sched.quantum * max 1 s.sched.round * 1000)

/-! ### The charter (R331 to R334, R360) -/

/-- Where the sections of a charter begin. -/
structure CharterMap where
  owners  : Nat
  keys    : Nat
  digests : Nat
  rules   : Nat
  marks   : Nat
  deriving DecidableEq, Repr

def mapOf (h : Bytes) : CharterMap :=
  { owners := fld h 5 1, keys := fld h 8 2, digests := fld h 0x0A 2, rules := fld h 0x0C 2, marks := fld h 0x0E 1 }

def CharterMap.ownerAt (_ : CharterMap) (i : Nat) : Nat := 320 + 128 * i
def CharterMap.keyAt (m : CharterMap) (i : Nat) : Nat := m.ownerAt m.owners + 64 * i
def CharterMap.digestAt (m : CharterMap) (i : Nat) : Nat := m.keyAt m.keys + 64 * i
def CharterMap.ruleAt (m : CharterMap) (i : Nat) : Nat := m.digestAt m.digests + 32 * i
def CharterMap.markAt (m : CharterMap) (i : Nat) : Nat := m.ruleAt m.rules + 48 * i
def CharterMap.sigAt (m : CharterMap) (i : Nat) : Nat := m.markAt m.marks + 96 * i
def CharterMap.size (m : CharterMap) : Nat := m.sigAt m.owners

/-- The header of a charter is in range. -/
def charterHead (h : Bytes) : Bool :=
  let m := mapOf h
  fld h 0 4 = 0x43484152 && fld h 4 1 = 1 && 1 ≤ m.owners && m.owners ≤ 8 && m.keys ≤ 64 && 1 ≤ m.digests
    && m.digests ≤ 1024 && m.rules ≤ 256 && 1 ≤ m.marks && m.marks ≤ 4 && fld h 0x0F 1 ≤ 1 && fld h 0x10 2 < 512
    && allZero (bslice h 0x12 46)

/-- The key an entry wraps for the domain (R360). -/
def State.unwrapKey (s : State) (b : Bytes) (m : CharterMap) (e : Bytes) : Option Nat :=
  let o := bslice b (m.ownerAt (fld e 8 1)) 96
  match s.sec.domain with
  | none => none
  | some d =>
    let z := ecdh (domainScalar d) (beNat (bslice o 0 48)) (beNat (bslice o 48 48))
    let kek := hkdf z (bslice b 6 2 ++ bslice e 0 8) (str "ULK-WRAP") 32
    match keyUnwrap kek (bslice e 0x10 40) with
    | some k => if allZero (bslice e 0x38 8) then some (beNat k) else none
    | none => none

/-- The key entries; none when one breaks the layout or fails its unwrapping. -/
def State.charterKeys (s : State) (b : Bytes) (m : CharterMap) : Option (List CharterKey) :=
  let ks := (List.range m.keys).filterMap (fun i =>
    let e := bslice b (m.keyAt i) 64
    if fld e 0 8 ≠ 0 && fld e 8 1 < m.owners && fld e 9 1 ≤ 2 && allZero (bslice e 0x0A 6) then
      (s.unwrapKey b m e).map (fun k => ({ keyId := fld e 0 8, owner := fld e 8 1, use := fld e 9 1, key := k } : CharterKey))
    else none)
  if ks.length = m.keys ∧ (ks.map (·.keyId)).Nodup then some ks else none

def charterDigests (b : Bytes) (m : CharterMap) : Option (List CharterDigest) :=
  let ds := (List.range m.digests).filterMap (fun i =>
    let e := bslice b (m.digestAt i) 64
    if fld e 0x30 1 ≤ 1 && (fld e 0x30 1 = 0 || fld e 0x31 1 = 0) && allZero (bslice e 0x32 14) then
      some ({ digest := beNat (bslice e 0 48), kind := fld e 0x30 1, ranges := fld e 0x31 1 } : CharterDigest)
    else none)
  if ds.length = m.digests then some ds else none

def charterRules (b : Bytes) (m : CharterMap) (ks : List CharterKey) : Option (List CharterRule) :=
  let rs := (List.range m.rules).filterMap (fun i =>
    let e := bslice b (m.ruleAt i) 32
    let r : CharterRule :=
      { tensorId := fld e 0 4, range := fld e 4 1, form := fld e 5 1, recipient := fld e 6 1
        releaseKey := fld e 8 8, limit := fld e 0x10 4 }
    let formOk :=
      if r.form = 0 then r.recipient = 0xFF && r.releaseKey = 0
      else r.form = 1 && ks.any (fun k => k.keyId = r.releaseKey && k.use = 1 && k.owner = r.recipient)
    if r.range < 8 && formOk && fld e 7 1 = 0 && allZero (bslice e 0x14 12) then some r else none)
  if rs.length = m.rules then some rs else none

/-- Signature i verifies over everything before the signatures (R333). -/
def sigsOk (b : Bytes) (m : CharterMap) : Bool :=
  let dg := sha384n (bslice b 0 (m.sigAt 0))
  (List.range m.owners).all (fun i =>
    let o := bslice b (m.ownerAt i) 128
    let g := bslice b (m.sigAt i) 96
    allZero (bslice o 0x68 24)
      && ecdsaOk (beNat (bslice o 0 48)) (beNat (bslice o 48 48)) dg (beNat (bslice g 0 48)) (beNat (bslice g 48 48)))

/-- The OWNER of every range is an owner, joint or open (R334). -/
def ownersOk (rs : List KeyRange) (n : Nat) : Bool := rs.all (fun r => r.owner < n || r.owner = 0xFE || r.owner = 0xFF)

/-- The check of R331 on a charter's bytes, in DEPLOYED only (R355); `table`: the key-range table as read. -/
def State.charterOf (s : State) (r : CtxRec) (rs : List KeyRange) (table b : Bytes) : Option Charter :=
  let m := mapOf b
  let marks := (List.range m.marks).map (fun i => beNat (bslice b (m.markAt i) 48))
  if s.sec.lifecycle = .deployed && fld b 6 2 = r.job && bslice b 64 256 = table && ownersOk rs m.owners && sigsOk b m
      && marks.contains s.fw.composite && !(bit (fld b 0x0F 1) 0 && s.sec.debugBoot > 0) then
    match s.charterKeys b m, charterDigests b m with
    | some ks, some ds =>
      (charterRules b m ks).map (fun rules =>
        { owners := m.owners, job := r.job, flags := fld b 0x0F 1, logRelease := fld b 0x10 2, digest := sha384n b
          ownerKeys := (List.range m.owners).map (fun i =>
            (beNat (bslice b (m.ownerAt i) 48), beNat (bslice b (m.ownerAt i + 48) 48)))
          keys := ks, digests := ds, rules, touchmarks := marks })
    | _, _ => none
  else none

/-- The charter of a record: none when it fails, and none inside when the context is not charter-bound. -/
def State.readCharter (s : State) (r : CtxRec) (rs : List KeyRange) (table : Bytes) : Option (Option Charter) :=
  if !bit r.mode 1 then some none
  else
    match s.tread r.ptRoot r.charterVa 64 with
    | .error _ => none
    | .ok h =>
      if !charterHead h then none
      else
        match s.tread r.ptRoot r.charterVa (mapOf h).size with
        | .error _ => none
        | .ok b => (s.charterOf r rs table b).map some

/-! ### CREATE -/

/-- What CREATE reads and checks: the first failure's code, or the parts of the context. -/
structure Built where
  record  : CtxRec
  groups  : List (List Nat)
  ranges  : List KeyRange
  sched   : SchedRec
  charter : Option Charter
  deriving DecidableEq, Repr

def State.buildCtx (s : State) (c : Nat) : Except Nat Built :=
  let x := s.ctx c
  if x.state ≠ 0 then .error 1
  else
    match if x.recAddr / 65536 < s.frameCount then s.physRead s.mem.tableKey false x.recAddr 128 else .error (.tag 0) with
    | .error _ => .error 2
    | .ok b =>
      let r := recOf b
      if !r.inRange then .error 3
      else if !s.areasMapped r then .error 4
      else
        match s.readGroups r, s.tread r.ptRoot r.keyrangeVa 256, s.tread r.ptRoot r.schedVa 32 with
        | some gs, .ok kb, .ok sb =>
          let rs := rangesOfTable kb
          let sr := schedOf sb
          if !rangesOk rs || !s.schedOk c (bit r.mode 2) sr || !s.withReloads.schedOk c (bit r.mode 2) sr then .error 3
          else
            match s.readCharter r rs kb with
            | none => .error 5
            | some ch => .ok { record := r, groups := gs, ranges := rs, sched := sr, charter := ch }
        | _, _, _ => .error 3

/-- The context of a slot after CREATE: registers keep their values but for those R300 and R348 reset. -/
def Ctx.created (x : Ctx) (b : Built) (rs : List KeyRange) (at_ : Nat) : Ctx :=
  { x with
    state := 1, createErr := 0, record := some b.record, charter := b.charter, ranges := rs, groups := b.groups
    sched := b.sched, reload := none, step := 0, epoch := 0, usedIdx := [], obsSel := 0, obs := [], obsLatch := []
    hostMode := 3, winErr := false, stats := {}, past := [], span := false, skips := [], accN := [], sent := [], dead := []
    ending := false, session := none, releases := [], time := 0, sprigUs := 0
    sprigRound := 0, overruns := 0, periodAt := at_, peerGens := [], objRefs := [], drained := false, saved := [], owes := false, scratch := []
    updated := [] }

/-- Peers that have asked for the job's charter digest learn it; those whose own is another one are shut out (R339). -/
def State.matchCharters (s : State) (c : Nat) : State :=
  let x := s.ctx c
  let own := match x.charter with | some ch => ch.digest | none => 0
  let job := (s.ctxRec c).job
  s.portList.foldl (fun s q =>
    let p := s.port q
    if !p.link.told job then s
    else
      let s := s.sayDigest q job own
      if p.link.digests.any (fun d => d.1 = job && d.2 ≠ own) then s.shutOut c p.peerId else s) s

/-- CREATE on a slot (R249): without fresh values it waits (R350). -/
def State.createCtx (s : State) (c : Nat) : State :=
  match s.buildCtx c with
  | .error e => s.modCtx c (fun x => { x with createErr := e })
  | .ok b =>
    if !s.sec.trngOk then s.waitFresh (.create c)
    else
      let a := s.assignSlots b.ranges
      (a.2.modCtx c (fun x => x.created b a.1 s.round)).matchCharters c

end Sys2Proof.Machine
end

