-- ==== Sys2Proof/Machine/Slots.lean ====
section
/-! DEFINITION. The life of a slot and what the host does to it: CREATE, quench, drain, RELEASE, queues and doorbells, fault
answers, invalidation, scrub, the window, TDIs, SPDM sessions (R242 to R278, R304, R334, R341 to R348, R369). -/

namespace Sys2Proof.Machine

/-! ### Who may write what (R5, R277, R344, R400, R420) -/

/-- A write to slot c's CTX page acts. `lockOk`: QUENCH and RELEASE, which a locked TDI leaves to PF0. -/
def State.ctxOpens (s : State) (fn c : Nat) (lockOk : Bool) : Bool :=
  decide (c < 64) && s.opens fn (pgCtx c) && s.mayWriteCtx fn c lockOk

/-! ### SPDM binding (R342) -/

/-- The slot's binding ends. -/
def State.unbind (s : State) (c : Nat) : State := s.modCtx c (fun x => { x with session := none })

def State.bind (s : State) (c n : Nat) : State := s.modCtx c (fun x => { x with session := some n })

/-! ### CTX_CTRL (R248, R269 to R275) -/

/-- CREATE, PF0's alone; it waits while firmware is activated (R367). -/
def State.ctlCreate (s : State) (fn c : Nat) : State :=
  if pf0 fn && s.ctxOpens fn c false then
    if s.fw.act.isSome then
      (if s.fw.creates.contains c then s else { s with fw := { s.fw with creates := s.fw.creates ++ [c] } })
    else s.createCtx c
  else s

def State.ctlQuench (s : State) (fn c : Nat) : State := if s.ctxOpens fn c true then s.quench c else s

/-- The slot becomes QUENCHED (R270, R275, R304, R342, R358). -/
def State.quenched (s : State) (c : Nat) : State :=
  let s := (s.zeroSlots c).unbind c
  let s := (s.freeCores c).tidyCores
  let s := s.modCtx c (fun x => { x with
    state := 3
    charter := x.charter.map (fun (ch : Charter) => { ch with keys := ch.keys.map (fun (k : CharterKey) => { k with key := 0 }) }) })
  s.raise (pgCtx c) 4

/-- RELEASE of a QUENCHED slot: it is FREE, its key slots return to the pool, its generation and registers stay (R272,
R303, R304); peers that know the job's charter digest learn that it is held no more (R339). -/
def State.releaseSlot (s : State) (c : Nat) : State :=
  if (s.ctx c).state = 3 then
    let held := s.heldSlots c
    let s := { s with
      mem := { s.mem with
        keySlots := s.mem.keySlots.filter (fun p => !held.contains p.1)
        anneals := s.mem.anneals.filter (fun a => a.slot ≠ c)
        annealQ := s.mem.annealQ.filter (fun a => a.1 ≠ c)
        seqWait := s.mem.seqWait.filter (fun p => p.1 ≠ c) }
      buckets := s.buckets.filter (fun b => b.slot ≠ c)
      fab := { s.fab with
        barred := s.fab.barred.filter (fun p => p.1 ≠ c)
        cpNotices := s.fab.cpNotices.filter (fun p => p.1 ≠ c) } }
    let s := (s.dropSeqs (fun x => x.slot = c)).dropPins (fun p => p.slot = c)
    let job := (s.ctxRec c).job
    let s := s.portList.foldl (fun s q =>
      if (s.port q).link.sentDigests.any (fun d => d.1 = job && d.2 ≠ 0) then s.sayDigest q job 0 else s) s
    s.modCtx c (fun x => { x with
      state := 0, record := none, charter := none, ranges := [], groups := [], sched := {}, reload := none })
  else s

def State.ctlRelease (s : State) (fn c : Nat) : State :=
  if pf0 fn && s.ctxOpens fn c true then s.releaseSlot c else s

/-- DRAIN: ignored in native mode (R275, R277). -/
def State.ctlDrain (s : State) (fn c : Nat) : State :=
  if s.ctxOpens fn c false && (s.ctx c).state = 1 && bit (s.ctxRec c).mode 0 then s.modCtx c (fun x => { x with state := 4 })
  else s

/-- CREATE (R249). -/
def execCreate (t fn slot : Nat) (s : State) : Res := .next (((s.tick t).access fn (pgCtx slot)).ctlCreate fn slot)

/-- QUENCH (R269, R270). -/
def execQuench (t fn slot : Nat) (s : State) : Res := .next (((s.tick t).access fn (pgCtx slot)).ctlQuench fn slot)

/-- QUENCH_DONE (R270). -/
def execQuenchDone (t slot : Nat) (s : State) : Res :=
  let s := s.tick t
  .next (if (s.ctx slot).state = 2 then s.quenched slot else s)

/-- CTX_RELEASE (R272). -/
def execCtxRelease (t fn slot : Nat) (s : State) : Res := .next (((s.tick t).access fn (pgCtx slot)).ctlRelease fn slot)

/-- CTX_DRAIN (R275). -/
def execCtxDrain (t fn slot : Nat) (s : State) : Res := .next (((s.tick t).access fn (pgCtx slot)).ctlDrain fn slot)

/-- Every entry of a queue up to the last tail accepted has run. -/
def Queue.dry (y : Queue) : Bool := y.cur.isNone && y.phase = .idle && y.head = y.tail

/-- DRAIN_COMPLETE (R275). -/
def execDrainComplete (t slot : Nat) (s : State) : Res :=
  let s := s.tick t
  .next (if (s.ctx slot).state = 4 && (s.ctx slot).queues.all (fun p => p.2.dry) then (s.quenched slot).settleOwed else s)

/-! ### Queues (R255, R256, R343, R348) -/

/-- DOORBELL (R256): offset 8q of the slot's doorbell page sets the tail of queue q. -/
def execDoorbell (t fn slot off value : Nat) (s : State) : Res :=
  let s := s.tick t
  if s.hostUp && s.live && slot < 64 && (fn = 0 || (fn = slot + 1 && s.bound slot)) && off % 8 = 0 && off ≤ 0x78
      && (s.ctx slot).state = 1 then
    let q : QRef := ⟨slot, off / 8⟩
    let s := s.modQueue q (fun y => { y with tail := value % 2 ^ 32 })
    let y := s.queue q
    .next (if (y.tail + 2 ^ 32 - y.head) % 2 ^ 32 > 2 ^ y.depth && !y.error then s.queueError q 1 else s)
  else .next s

/-- A write to QCFG (R255): setting ENABLE resets head and tail and clears ERROR; DEPTH changes only while ENABLE is 0. -/
def Queue.config (y : Queue) (v : Nat) : Queue :=
  let on := bit v 31
  let y := if y.enable then y else { y with depth := inRange 6 16 y.depth (sl v 20 16) }
  let y := if on && !y.enable then { y with head := 0, tail := 0, error := false, err := 0 } else y
  { y with enable := on, sprig := bit v 1 }

def State.writeQcfg (s : State) (c v : Nat) : State :=
  let q := (s.ctx c).qsel
  let rise := bit v 31 && !((s.ctx c).queue q).enable
  s.modCtx c (fun x => { x.setQueue q ((x.queue q).config v) with winErr := x.winErr && !rise })

/-- QUEUE_ENABLE (R255): a write to QCFG of the selected queue. -/
def execQueueEnable (t fn slot value : Nat) (s : State) : Res :=
  let s := (s.tick t).access fn (pgCtx slot)
  .next (if s.ctxOpens fn slot false then s.writeQcfg slot value else s)

/-- A write to HOST_MODE takes effect while every queue of the slot is disabled. -/
def State.writeHostMode (s : State) (c v : Nat) : State :=
  if (s.ctx c).queues.all (fun p => !p.2.enable) then s.modCtx c (fun x => { x with hostMode := v % 4 }) else s

/-- HOST_MODE_WRITE (R348). -/
def execHostModeWrite (t fn slot value : Nat) (s : State) : Res :=
  let s := (s.tick t).access fn (pgCtx slot)
  .next (if s.ctxOpens fn slot false then s.writeHostMode slot value else s)

/-! ### Answers to faults (R264 to R266) -/

/-- A parked access fails: its entry completes, or its ring stops; a contribution's bucket is lost. -/
def State.failParked (s : State) (q : QRef) (b : Back) (st : Status) : State :=
  let y := s.queue q
  match b, y.entry with
  | .waiting, none => (s.setQueue q { y with phase := .idle }).queueError q 3
  | .done _, some e => (s.advance q e st).closePeriod q.slot
  | _, _ =>
    let coll := match y.flight with | .collective _ _ _ => true | _ => false
    let s := s.setQueue q { y with phase := .done st, flight := .none }
    if coll then (s.loseBuckets q.slot (· = q.queue)).wakeSums q.slot else s

/-- The answer to one restart identifier. -/
def State.answer (s : State) (c : Nat) (p : Parked) (fail : Bool) : State :=
  let s := s.modCtx c (fun x => { x with
    parked := x.parked.filter (fun o => o ≠ p)
    gathers := (if fail then x.gathers.filter (fun g => g.rid ≠ some p.rid) else x.gathers).map (fun g =>
      if g.rid = some p.rid then { g with rid := none } else g) })
  (List.range 16).foldl (fun s q =>
    match ((s.ctx c).queue q).phase with
    | .parked r b =>
      if r = p.rid then
        if fail then s.failParked ⟨c, q⟩ b (if p.reason = 1 then .faultPermission else .faultUnmapped)
        else s.modQueue ⟨c, q⟩ (fun y => y.back b)
      else s
    | _ => s) s

/-- A write to RESUME: identifiers that are not parked are ignored. -/
def State.writeResume (s : State) (c v : Nat) : State :=
  let all := sl v 15 0 = 0xFFFF
  let ps := (s.ctx c).parked.filter (fun p => p.replayable && (all || p.rid = sl v 15 0))
  let s := ps.foldl (fun s p => s.answer c p (bit v 31)) s
  (s.wakeData c).flush c

/-- RESUME (R265). -/
def execResume (t fn slot value : Nat) (s : State) : Res :=
  let s := (s.tick t).access fn (pgCtx slot)
  .next (if s.ctxOpens fn slot false then s.writeResume slot value else s)

/-- A write to FAULT_CONS: faults parked without records get records. -/
def State.writeFaultCons (s : State) (c v : Nat) : State := (s.modCtx c (fun x => { x with consumed := v % 65536 })).flush c

/-- FAULT_CONS_WRITE (R264). -/
def execFaultConsWrite (t fn slot value : Nat) (s : State) : Res :=
  let s := (s.tick t).access fn (pgCtx slot)
  .next (if s.ctxOpens fn slot false then s.writeFaultCons slot value else s)

/-! ### Invalidation and scrub (R254, R273) -/

def State.writeInval (s : State) (c v : Nat) : State :=
  s.modCtx c (fun x => { x with invalPages := sl v 25 0, invalGo := x.invalGo || bit v 31 })

/-- INVALIDATE (R254): the model holds no translation between commands, so that nothing old is used meanwhile. -/
def execInvalidate (t fn slot value : Nat) (s : State) : Res :=
  let s := (s.tick t).access fn (pgCtx slot)
  .next (if s.ctxOpens fn slot false then s.writeInval slot value else s)

/-- INVALIDATE_DONE (R254): pins of the range that are gone end (R186). -/
def execInvalidateDone (t slot : Nat) (s : State) : Res :=
  let s := s.tick t
  let x := s.ctx slot
  if !x.invalGo then .next s
  else
    let s := s.modCtx slot (fun x => { x with invalGo := false })
    .next (s.dropPins (fun p => p.slot = slot && x.invalVa ≤ p.va && p.va < x.invalVa + 65536 * x.invalPages && !s.pinStands p))

/-- A write to SCRUB_CTRL; GO is ignored while a scrub runs. -/
def State.writeScrub (s : State) (v : Nat) : State :=
  { s with mem := { s.mem with
    scrubCount := sl v 25 0
    scrubGo := if bit v 31 && s.mem.scrubGo.isNone then some (s.mem.scrubFrame, sl v 25 0) else s.mem.scrubGo } }

/-- SCRUB (R273). -/
def execScrub (t fn value : Nat) (s : State) : Res :=
  let s := (s.tick t).access fn pgMmu
  .next (if pf0 fn && s.opens fn pgMmu then s.writeScrub value else s)

/-- SCRUB_DONE (R273): the frames are unbacked, GO clears, MMU bit 0 is raised. -/
def execScrubDone (t : Nat) (s : State) : Res :=
  let s := s.tick t
  match s.mem.scrubGo with
  | none => .next s
  | some (f, n) =>
    let s := ((s.mem.frames.map (·.1)).filter (fun k => f ≤ k && k < f + n)).foldl (fun s k => s.unback k) s
    .next ({ s with mem := { s.mem with scrubGo := none } }.raise pgMmu 1)

/-! ### The window (R246, R334, R341, R344) -/

/-- The slot whose space a function's window addresses; none in PF0's table mode. -/
def State.windowSlot (s : State) (fn : Nat) : Option Nat :=
  if fn = 0 then (if bit s.mem.winCtrl 6 then some (sl s.mem.winCtrl 5 0) else none) else some (fn - 1)

/-- A window access can be made: BAR4 exists and the function with it. -/
def State.windowOpen (s : State) (fn off n : Nat) : Bool :=
  s.hostUp && s.live && s.pcie.bar4 && fn ≤ 64 && (fn = 0 || s.bound (fn - 1)) && off + n ≤ 2 ^ 36

/-- Where an access at a window offset goes: frame address, key instance, mode. The flag: a failure sets QSTAT.ERR. -/
def State.windowAt (s : State) (fn off : Nat) (write : Bool) : Option (Nat × Nat × Bool) × Bool :=
  match s.windowSlot fn with
  | none => (if off / 65536 < s.frameCount then some (off, s.mem.tableKey, false) else none, false)
  | some c =>
    if fn = 0 && s.tdiLocked c then (none, false)
    else
      match (s.ctx c).record with
      | none => (none, true)
      | some r =>
        let va := r.winBase + off
        let owner := (((s.ctx c).ranges[rangeOf (s.ctx c).ranges va]?).getD {}).owner
        if bit r.mode 1 && (!s.tdiRun c || owner ≠ 0xFF) then (none, true)
        else
          match s.translate c va write with
          | .error _ => (none, true)
          | .ok x =>
            if x.host then (none, true)
            else
              let k := s.keyOf c va
              (some (x.addr, k.1, k.2), false)

/-- QSTAT.ERR of the window's slot is 4. -/
def State.windowFails (s : State) (fn : Nat) (err : Bool) : State :=
  match s.windowSlot fn with
  | some c => if err then s.modCtx c (fun x => { x with winErr := true }) else s
  | none => s

/-- A window access of `n` bytes meets the pin and the class of its page (R184, R186). -/
def State.windowTouch (s : State) (fn off n : Nat) : State :=
  match s.windowSlot fn with
  | some c => s.touchPiece c none true ((s.ctxRec c).winBase + off, n)
  | none => s

/-- A window read: what cannot be read, and what fails its tag, reads as all ones. -/
def State.windowRead (s : State) (fn off len : Nat) : State :=
  let r := (piecesOf 128 off len).foldl (fun (r : State × Bytes) p =>
    let ones := List.replicate p.2 (0xFF : Byte)
    match r.1.windowAt fn p.1 false with
    | (none, err) => (r.1.windowFails fn err, r.2 ++ ones)
    | (some (a, k, m), _) =>
      let s := r.1.windowTouch fn p.1 p.2
      match s.physRead k m a p.2 with
      | .ok b => (s.noteLines m false a p.2, r.2 ++ b)
      | .error e => (s.noteAcc (s.windowSlot fn) e, r.2 ++ ones)) (s, [])
  r.1.emit (.window fn r.2)

/-- One line's piece of a window write: refused, or stored where it translates. -/
def State.windowStore (s : State) (fn off : Nat) (data : Bytes) (p : Nat × Nat) : State :=
  match s.windowAt fn p.1 true with
  | (none, err) => s.windowFails fn err
  | (some (a, k, m), _) =>
    let s := s.windowTouch fn p.1 p.2
    let w := s.physWrite k m a (bslice data (p.1 - off) p.2)
    let s' := w.1.noteLines m true a p.2
    match w.2 with
    | none => s'
    | some e => s'.noteAcc (s.windowSlot fn) e

/-- A window access is made. -/
def State.windowGo (s : State) (r : WinReq) : State :=
  match r.data with
  | none => s.windowRead r.fn r.off r.len
  | some d => (piecesOf 128 r.off d.length).foldl (fun (s : State) p => s.windowStore r.fn r.off d p) s

/-- An engine reset holds a window access (R379): to a frame of its stack, or behind one that is held. -/
def State.windowHeld (s : State) (r : WinReq) : Bool :=
  s.allHeld || !s.pcie.held.isEmpty || (piecesOf 128 r.off r.len).any (fun p =>
    match s.windowAt r.fn p.1 r.data.isSome with
    | (some (a, _, _), _) => s.frameHeld (a / 65536)
    | (none, _) => false)

/-- A window access comes (R246, R379). -/
def State.windowReq (s : State) (r : WinReq) : State :=
  if !s.windowOpen r.fn r.off r.len then s
  else if s.windowHeld r then { s with pcie := { s.pcie with held := s.pcie.held ++ [r] } }
  else s.windowGo r

/-- Held window accesses come again, in their order. -/
def State.windowResume (s : State) : State :=
  s.pcie.held.foldl (fun s r => s.windowReq r) { s with pcie := { s.pcie with held := [] } }

/-- WINDOW_READ (R246). -/
def execWindowRead (t fn off len : Nat) (s : State) : Res := .next ((s.tick t).windowReq { fn, off, len, data := none })

/-- WINDOW_WRITE (R246): a write to an unmapped or read-only page is dropped. -/
def execWindowWrite (t fn off : Nat) (data : Bytes) (s : State) : Res :=
  .next ((s.tick t).windowReq { fn, off, len := data.length, data := some data })

/-! ### The PCIe endpoint (R242, R243, R341, R344, R413) -/

def tdiCode : TdiState → Nat
  | .unlocked => 0 | .locked => 1 | .run => 2 | .error => 3

/-- A TDI takes a state: HOSTIF bit 1; leaving CONFIG_LOCKED or RUN other than to RUN quenches the slot. -/
def State.setTdi (s : State) (c v : Nat) : State :=
  let old := tget 0 s.pcie.tdi c
  if v = old then s
  else
    let s := { s with pcie := { s.pcie with tdi := tput 0 s.pcie.tdi c v } }
    let s := s.raise pgHostif 2
    if (old = 1 || old = 2) && v ≠ 2 then s.quench c else s

/-- TDI_STATE_CHANGE (R344, R413). -/
def execTdiStateChange (t slot : Nat) (state : TdiState) (s : State) : Res :=
  let s := s.tick t
  .next (if s.hostUp && s.bound slot && slot < 64 then s.setTdi slot (tdiCode state) else s)

/-- The endpoint answers configuration requests (R22). -/
def State.configUp (s : State) : Bool := s.hostUp && !s.pcie.crs

/-- SRIOV_ENABLE (R243). A function that goes takes its TDI out of the state it was in (R344). -/
def execSriovEnable (t : Nat) (enable : Bool) (numVfs : Nat) (s : State) : Res :=
  let s := s.tick t
  if !s.configUp || numVfs > 64 then .next s
  else
    let gone := (List.range 64).filter (fun c => s.bound c && !(enable && decide (c < numVfs)))
    let s := { s with pcie := { s.pcie with sriov := enable, numVfs } }
    .next (gone.foldl (fun s c =>
      let s := s.setTdi c 0
      { s with pcie := { s.pcie with ide := tput false s.pcie.ide c false } }) s)

/-- PCIE_LINK_RETRAIN (R413): SPEED as coded there, the width in lanes; HOSTIF bit 0. -/
def execPcieLinkRetrain (t speed width : Nat) (flit : Bool) (s : State) : Res :=
  let s := s.tick t
  if s.hostUp && 1 ≤ speed && speed ≤ 6 && [1, 2, 4, 8, 16].contains width then
    let s := { s with pcie := { s.pcie with speed, width := if width = 16 then 15 else width, flit } }
    .next (s.raise pgHostif 1)
  else .next s

/-! ### SPDM (R341, R342, R369, R370) -/

/-- SPDM_SESSION_START (R342): the device needs its identity to authenticate (R352, R356). -/
def execSpdmSessionStart (t session transcript : Nat) (s : State) : Res :=
  let s := s.tick t
  .next (if s.configUp && s.running && s.signs && !s.pcie.sessions.any (fun p => p.1 = session) then
    { s with pcie := { s.pcie with sessions := s.pcie.sessions ++ [(session, transcript)] } }
  else s)

/-- The session is in force. -/
def State.hasSession (s : State) (n : Nat) : Bool := s.configUp && s.live && s.pcie.sessions.any (fun p => p.1 = n)

/-- SPDM_SESSION_END (R342): bindings end with the session. -/
def execSpdmSessionEnd (t session : Nat) (s : State) : Res :=
  let s := s.tick t
  let s := (List.range 64).foldl (fun s c => if (s.ctx c).session = some session then s.unbind c else s) s
  .next { s with pcie := { s.pcie with
    sessions := s.pcie.sessions.filter (fun p => p.1 ≠ session), xfers := s.pcie.xfers.filter (fun p => p.1 ≠ session) } }

/-- IDE_KM (R341): the function's selective IDE stream is keyed and enabled. -/
def execIdeKm (t session slot : Nat) (s : State) : Res :=
  let s := s.tick t
  .next (if s.hasSession session && s.bound slot && slot < 64 then
    { s with pcie := { s.pcie with ide := tput false s.pcie.ide slot true } }
  else s)

/-- SIG of a binding request verifies under the PUBKEY of the owner it names, over SHA-384 of the session's key-exchange transcript
hash, SLOT and GEN (R342). -/
def State.bindSigOk (s : State) (session : Nat) (ch : Charter) (r : BindRequest) : Bool :=
  let dg := sha384n (toBE 48 (((s.pcie.sessions.find? (fun p => p.1 = session)).map (·.2)).getD 0) ++ toLE 1 r.slot ++ toLE 1 r.gen)
  let k := ch.ownerKeys.getD r.owner (0, 0)
  ecdsaOk k.1 k.2 dg (beNat (bslice r.sig 0 48)) (beNat (bslice r.sig 48 48))

/-- The result of BIND_SLOT (R342). -/
def State.bindResult (s : State) (session : Nat) (r : BindRequest) : Nat :=
  let x := s.ctx r.slot
  if x.state ≠ 1 ∨ x.gen ≠ r.gen then 1
  else if x.session.isSome then 2
  else
    match x.charter with
    | some ch => if r.owner ≥ ch.owners then 4 else if !s.bindSigOk session ch r then 3 else 0
    | none => if r.owner ≠ 0xFF then 4 else if !allZero r.sig then 3 else 0

/-- BIND_SLOT (R342). -/
def execBindSlot (t session : Nat) (req : BindRequest) (s : State) : Res :=
  let s := s.tick t
  if !s.hasSession session then .next s
  else
    let r := s.bindResult session req
    .next ((if r = 0 then s.bind req.slot session else s).emit (.spdm session r))

/-- UNBIND (R342): within the session that is bound. The result where it is not is not given: free (log 7). -/
def execUnbind (t session : Nat) (req : BindRequest) (s : State) : Res :=
  let s := s.tick t
  if !s.hasSession session then .next s
  else
    let x := s.ctx req.slot
    if x.state ≠ 1 ∨ x.gen ≠ req.gen then .next (s.emit (.spdm session 1))
    else if x.session = some session then .next ((s.unbind req.slot).emit (.spdm session 0))
    else
      let v := s.draw
      .next (v.2.emit (.spdm session (1 + v.1 % 4)))

/-- Answer a hallmark request now, or hold it during an activation or boot (R370). -/
def State.askHallmark (s : State) (call : Option Call) (r : HallmarkRequest) : State :=
  if !s.signs then s
  else if s.fw.act.isSome || !s.running then
    let s := match call with | some m => s.owe m | none => s
    { s with mgmt := { s.mgmt with held := s.mgmt.held ++ [(call, r)] } }
  else
    let h := s.hallmark r.nonce r.report r.slot
    match call with
    | some m => h.2.reply m resOk (h.1 ++ s.company)
    | none => h.2.emit (.hallmark (hallmarkBlock h.1) s.company)

/-- Answer the requests held (R367, R370). -/
def State.answerHeld (s : State) : State :=
  s.mgmt.held.foldl (fun s p => s.askHallmark p.1 p.2) { s with mgmt := { s.mgmt with held := [] } }

/-- GET_MEASUREMENTS (R369). -/
def execGetMeasurements (t : Nat) (req : HallmarkRequest) (s : State) : Res :=
  let s := s.tick t
  .next (if s.configUp then s.askHallmark none req else s)

end Sys2Proof.Machine
end

