-- ==== Sys2Proof/Machine/Supply.lean ====
section
/-! DEFINITION. Rails, regions and clocks, temperature, coolant, module power (R388 to R394). -/

namespace Sys2Proof.Machine

/-! ### Rails (R388, R389) -/

/-- On ULK-8440, rails 4 to 7, 9 and 11 are absent. -/
def State.railPresent (s : State) (r : Nat) : Bool :=
  decide (r < 16) && !(s.ident.variant = .ulk8440 && [4, 5, 6, 7, 9, 11].contains r)

/-- Module-wide throttling or an issue hold lasts from now, or has ended (`PWRCLK.THROTTLE`). -/
def State.noteThrottle (s : State) : State :=
  let on := s.pwr.hold || decide (s.pwr.allowed < 1600)
  State.noteEpoch (match s.pwr.thrAt with
    | none => if on then { s with pwr := { s.pwr with thrAt := some s.clk.now } } else s
    | some a =>
      if on then s
      else { s with pwr := { s.pwr with thrAt := none, throttleNs := s.pwr.throttleNs + (s.clk.now - a) } })

/-- RAIL_EXCURSION: the rail is below its warning level; no array starts a new K chunk. -/
def execRailExcursion (t rail mv : Nat) (s : State) : Res :=
  let s := s.tick t
  if s.powered ∧ s.railPresent rail then
    let r := s.rail rail
    if r.st = 1 then .next (s.setRail rail { r with mv })
    else
      let s := s.setRail rail { r with st := 1, mv, excursions := satAdd 16 r.excursions 1, at_ := s.clk.now }
      let s := { s with pwr := { s.pwr with hold := true } }
      .next (s.noteThrottle.raise pgPwrclk 1)
  else .next s

/-- RAIL_EXCURSION_END: above warning since 20 µs; issue resumes once no rail is below; record 0x50 with the time
the rail was below its warning level. -/
def execRailExcursionEnd (t rail mv : Nat) (s : State) : Res :=
  let s := s.tick t
  if s.railPresent rail ∧ (s.rail rail).st = 1 then
    let r := s.rail rail
    let d := s.clk.now - 20000 - r.at_
    let s := s.setRail rail { r with st := 0, mv }
    let hold := (List.range 16).any (fun i => (s.rail i).st = 1)
    let s := { s with pwr := { s.pwr with hold := hold } }
    .next (s.noteThrottle.logRas pgPwrclk 5 0x50 none (rail + (d % 2 ^ 32) * 2 ^ 32))
  else .next s

/-- RAIL_RESET_LEVEL: record 0x51, MOD_PWRGD goes low (R16), and the reset of the rail's row. -/
def execRailResetLevel (t rail : Nat) (s : State) : Res :=
  let s := s.tick t
  if s.powered ∧ s.railPresent rail then
    let s := s.logRas pgPwrclk 5 0x51 none rail
    let s := (s.setRail rail { s.rail rail with resetLevel := true }).regulate
    if rail < 8 then .next (s.cpStart causeRail)
    else if rail = 14 then .next s.portsDown
    else .next (s.packageReset causeRail)
  else .next s

/-- PHOTONIC_RAIL_RECOVER: rail 14 has recovered for 10 ms; bring-up may restart. -/
def execPhotonicRailRecover (t : Nat) (s : State) : Res :=
  let s := s.tick t
  .next (s.railsBack (fun r => decide (r = 14)))

/-! ### Skew (R390, R391) -/

/-- Neighbours: regions of one die that share an edge. -/
def neighbours (r : Nat) : List Nat :=
  let b := 4 * (r / 4)
  match r % 4 with
  | 0 => [b + 1, b + 2]
  | 1 => [b, b + 3]
  | 2 => [b + 3, b]
  | _ => [b + 1, b + 2]

def pairsOf (s : State) : List (Nat × Nat) :=
  (List.range s.ident.variant.dies).flatMap (fun d =>
    [(4 * d, 4 * d + 1), (4 * d + 1, 4 * d + 3), (4 * d + 3, 4 * d + 2), (4 * d + 2, 4 * d)])

/-- A pair is beyond the limit of clock (0), voltage (1) or temperature (2). -/
def beyond (a b : Region) : Nat → Bool
  | 0 => decide (2 * max a.mhz b.mhz > 3 * min a.mhz b.mhz)
  | 1 => decide (max a.mv b.mv > min a.mv b.mv + 120)
  | _ => decide (max a.temp b.temp > min a.temp b.temp + 25)

/-- The quantity of a kind. -/
def Region.val (g : Region) : Nat → Nat
  | 0 => g.mhz
  | 1 => g.mv
  | _ => g.temp

def insertNat (x : Nat) : List Nat → List Nat
  | [] => [x]
  | y :: r => if x ≤ y then x :: y :: r else y :: insertNat x r

/-- Twice the median. -/
def median2 (l : List Nat) : Nat :=
  let v := l.foldl (fun a x => insertNat x a) []
  let n := v.length
  (v[(n - 1) / 2]?).getD 0 + (v[n / 2]?).getD 0

/-- The region of a pair that lies furthest from the median of the present regions; the higher index on a tie. -/
def State.outlier (s : State) (kind a b : Nat) : Nat :=
  let m := median2 (s.regions.map (fun r => (s.region r).val kind))
  let d := fun (r : Nat) => (2 * ((s.region r).val kind : Int) - (m : Int)).natAbs
  if d a > d b then a else if d b > d a then b else max a b

/-- One step of a clock toward another, in 25 MHz. -/
def stepToward (x y : Nat) : Nat := if x < y then min (x + 25) 1600 else if y < x then max (x - 25) 400 else x

/-- The controller moves the outlier's clock or voltage toward its neighbour: a clock by one step, a voltage by an
amount that is not given (free, log 7); for a temperature, which of the two moves is not given (free). -/
def State.pullBack (s : State) (kind o n : Nat) : State :=
  let v := s.draw
  let g := v.2.region o
  let h := v.2.region n
  let clock := decide (kind = 0 ∨ (kind = 2 ∧ v.1 % 2 = 0))
  let step := (v.1 / 2) % (max g.mv h.mv - min g.mv h.mv + 1)
  v.2.setRegion o { g with
    mhz := if clock then stepToward g.mhz h.mhz else g.mhz
    mv := if clock then g.mv else if g.mv < h.mv then g.mv + step else g.mv - step
    pulling := match g.pulling with | some p => some p | none => some (v.2.clk.now, kind) }

/-- SKEW_CHECK: the controller's measurements, each pair checked, outliers pulled, regions back within their limits. -/
def execSkewCheck (t : Nat) (meas : List RegionMeasure) (s : State) : Res :=
  let s := s.tick t
  if s.running then
    let s := meas.foldl (fun s m =>
      if s.regions.contains m.region then
        s.setRegion m.region { s.region m.region with mhz := m.mhz, mv := m.mv, temp := m.temp }
      else s) s
    let bad := (pairsOf s).flatMap (fun p =>
      ([0, 1, 2].filter (fun k => beyond (s.region p.1) (s.region p.2) k)).map (fun k =>
        let o := s.outlier k p.1 p.2
        (o, k, if o = p.1 then p.2 else p.1)))
    let out := bad.map (·.1)
    let s := s.regions.foldl (fun s r =>
      let g := s.region r
      if out.contains r then (if g.drained ≠ 0 then s.setRegion r { g with okAt := none } else s)
      else if g.drained ≠ 0 then
        s.setRegion r { g with okAt := match g.okAt with | some a => some a | none => some s.clk.now }
      else
        match g.pulling with
        | none => s
        | some p => (s.setRegion r { g with pulling := none }).logRas pgPwrclk 5 0x53 none (r + 256 * p.2)) s
    .next (bad.foldl (fun s b => if (s.region b.1).drained ≠ 0 then s else s.pullBack b.2.1 b.1 b.2.2) s)
  else .next s

/-- SKEW_DRAIN: still beyond its limit after 1 ms. -/
def execSkewDrain (t region : Nat) (s : State) : Res :=
  let s := s.tick t
  let g := s.region region
  match g.pulling with
  | some p =>
    if s.running ∧ s.regions.contains region ∧ g.drained = 0 ∧ p.1 + 1000000 ≤ s.clk.now then
      .next (s.drainRegion region 1)
    else .next s
  | none => .next s

/-- REGION_REJOIN: within every limit for 100 ms (skew), or below 90 °C for its 1 s (temperature). -/
def execRegionRejoin (t region : Nat) (s : State) : Res :=
  let s := s.tick t
  let g := s.region region
  let held : Bool := match g.okAt with | some a => decide (a + 100000000 ≤ s.clk.now) | none => false
  if s.running ∧ s.regions.contains region ∧ ((g.drained = 1 ∧ held) ∨ (g.drained = 2 ∧ g.temp < 90)) then
    .next (s.rejoinRegion region)
  else .next s

/-! ### Temperature and coolant (R393, R394) -/

/-- Lower a region's neighbours to keep the ratio of 1.5:1 (R394). -/
def State.keepRatio (s : State) (r : Nat) : State :=
  let cap := fun (m : Nat) => m * 3 / 2 / 25 * 25
  (neighbours r).foldl (fun s n =>
    let m := cap (s.region r).mhz
    if (s.region n).mhz > m then s.setRegion n { s.region n with mhz := max 400 m } else s) s

/-- A region's clock falls; its neighbours and theirs keep the ratio. -/
def State.lowerClock (s : State) (r mhz : Nat) : State :=
  let s := (s.setRegion r { s.region r with mhz := max 400 mhz }).keepRatio r
  (neighbours r).foldl (fun s n => s.keepRatio n) s

/-- The highest clock a region may take beside its neighbours. -/
def State.ratioCap (s : State) (r : Nat) : Nat :=
  (neighbours r).foldl (fun a n => min a ((s.region n).mhz * 3 / 2 / 25 * 25)) 1600

/-- The highest clock of a region: the module's allowed clock, and the clock PERTURB holds it at (R432). -/
def State.clockCap (s : State) (r : Nat) : Nat :=
  if s.test.arm && s.test.force && s.test.region = r then min s.pwr.allowed s.test.mhz else s.pwr.allowed

/-- THERMAL_REGION_THROTTLE: the junction reaches 95 °C. -/
def execThermalRegionThrottle (t region temp : Nat) (s : State) : Res :=
  let s := s.tick t
  if s.running ∧ s.regions.contains region ∧ temp ≥ 95 then
    .next (s.setRegion region { s.region region with throttle := true, temp })
  else .next s

/-- THERMAL_CLOCK_STEP: at or above 93 °C a throttled clock falls 25 MHz; below 90 °C a clock rises 25 MHz, up to
the module's allowed clock. -/
def execThermalClockStep (t region temp : Nat) (s : State) : Res :=
  let s := s.tick t
  if s.running ∧ s.regions.contains region then
    let g := s.region region
    let s := s.setRegion region { g with temp }
    if g.drained = 2 then .next s
    else if g.throttle ∧ temp ≥ 93 then .next (s.lowerClock region (g.mhz - 25))
    else if temp < 90 ∧ g.mhz < s.clockCap region then
      let m := min (g.mhz + 25) (min (s.clockCap region) (s.ratioCap region))
      let m := max m g.mhz
      .next (s.setRegion region { g with temp, mhz := m, throttle := g.throttle && decide (m < s.clockCap region) })
    else .next s
  else .next s

/-- THERMAL_REGION_DRAIN: the junction reaches 105 °C; the clock is held at 400 MHz. -/
def execThermalRegionDrain (t region temp : Nat) (s : State) : Res :=
  let s := s.tick t
  if s.running ∧ s.regions.contains region ∧ temp ≥ 105 ∧ (s.region region).drained ≠ 2 then
    let s := s.setRegion region { s.region region with throttle := true, temp }
    .next ((s.lowerClock region 400).drainRegion region 2)
  else .next s

/-- THERMAL_SYSDIE_LIMIT: 100 °C, the limit becomes 80 %. -/
def execThermalSysdieLimit (t temp : Nat) (s : State) : Res :=
  let s := s.tick t
  if s.running ∧ temp ≥ 100 then
    let old := s.limit
    .next (State.relimit { s with pwr := { s.pwr with limSys := true, sysdie := temp } } old)
  else .next s

/-- THERMAL_STACK_ACTION: a near stack at 95 °C doubles its refresh rate, at 105 °C its bandwidth is halved. -/
def execThermalStackAction (t stack temp : Nat) (s : State) : Res :=
  let s := s.tick t
  if s.running ∧ stack < s.ident.variant.near ∧ temp ≥ 95 then
    .next { s with pwr := { s.pwr with
      refresh := tput false s.pwr.refresh stack true
      halved := if temp ≥ 105 then tput false s.pwr.halved stack true else s.pwr.halved } }
  else .next s

/-- THERMAL_COOLANT_LIMIT: a rise above 15 K for 1 s or an outlet above 60 °C, the limit becomes 60 %. -/
def execThermalCoolantLimit (t inlet outlet : Nat) (s : State) : Res :=
  let s := s.tick t
  if s.running ∧ (inlet + 15 < outlet ∨ outlet > 60) then
    let old := s.limit
    .next (State.relimit { s with pwr := { s.pwr with limCool := true, inlet := inlet, outlet := outlet } } old)
  else .next s

/-- THERMAL_INLET_LIMIT: an inlet above 40 °C, the limit becomes 80 %. -/
def execThermalInletLimit (t inlet : Nat) (s : State) : Res :=
  let s := s.tick t
  if s.running ∧ inlet > 40 then
    let old := s.limit
    .next (State.relimit { s with pwr := { s.pwr with limInlet := true, inlet := inlet } } old)
  else .next s

/-- THERMAL_RELEASE: the release condition of an action has held for its time. -/
def execThermalRelease (t : Nat) (action : ThermalAction) (s : State) : Res :=
  let s := s.tick t
  if !s.running then .next s
  else
    let old := s.limit
    match action with
    | .region r temp =>
      if temp < 90 ∧ s.regions.contains r then
        .next (s.setRegion r { s.region r with throttle := false, temp })
      else .next s
    | .regionDrain r temp =>
      if temp < 90 ∧ (s.region r).drained = 2 then
        let s := s.setRegion r { s.region r with throttle := false, temp }
        .next (s.rejoinRegion r)
      else .next s
    | .sysdie temp =>
      if temp < 95 then .next (State.relimit { s with pwr := { s.pwr with limSys := false, sysdie := temp } } old)
      else .next s
    | .stackRefresh k temp =>
      if temp < 90 then .next { s with pwr := { s.pwr with refresh := tput false s.pwr.refresh k false } }
      else .next s
    | .stackHalf k temp =>
      if temp < 100 then .next { s with pwr := { s.pwr with halved := tput false s.pwr.halved k false } }
      else .next s
    | .coolant inlet outlet =>
      if outlet < inlet + 12 ∧ outlet < 55 then
        .next (State.relimit { s with pwr := { s.pwr with limCool := false, inlet := inlet, outlet := outlet } } old)
      else .next s
    | .inlet inlet =>
      if inlet ≤ 38 then
        .next (State.relimit { s with pwr := { s.pwr with limInlet := false, inlet := inlet } } old)
      else .next s

/-- THERMAL_TRIP: 115 °C for 10 µs, a package reset with the rails held off. -/
def execThermalTrip (t temp : Nat) (s : State) : Res :=
  let s := s.tick t
  .next (if s.powered ∧ temp ≥ 115 then s.packageReset causeTrip else s)

/-- THERMAL_TRIP_RAILS_ON: every die is below 85 °C; the rails are turned on and boot proceeds. -/
def execThermalTripRailsOn (t temp : Nat) (s : State) : Res :=
  let s := s.tick t
  if s.boot = .tripHeld ∧ temp < 85 then
    .next (State.regulate { s with boot := if s.pins.modResetN then .booting else .resetHeld }).linkTrains
  else .next s

/-- POWER_MEASURE (R394): above the effective limit every region falls 25 MHz, below 95 % of it every region rises;
the allowed clock moves with them. -/
def execPowerMeasure (t watts : Nat) (s : State) : Res :=
  let s := s.tick t
  if s.running then
    let s := { s with pwr := { s.pwr with watts := watts } }
    let lim := s.limit
    if watts > lim then
      let s := { s with pwr := { s.pwr with allowed := max 400 (s.pwr.allowed - 25) } }
      .next (s.regions.foldl (fun s r => s.setRegion r { s.region r with mhz := max 400 ((s.region r).mhz - 25) }) s).noteThrottle
    else if watts * 100 < lim * 95 then
      let a := min 1600 (s.pwr.allowed + 25)
      let s := { s with pwr := { s.pwr with allowed := a } }
      .next (s.regions.foldl (fun s r =>
        let g := s.region r
        if g.throttle || decide (g.drained = 2) then s
        else s.setRegion r { g with mhz := max g.mhz (min (g.mhz + 25) (min (s.clockCap r) (s.ratioCap r))) }) s).noteThrottle
    else .next s
  else .next s

end Sys2Proof.Machine
end

