-- ==== Sys2Proof/Machine/Probe.lean ====
section
/-! DEFINITION. The DEBUG, PERTURB and PERF pages: control processors, work-list breakpoints, the frame view, perturbations, counter
sets (R423 to R433). -/

namespace Sys2Proof.Machine

/-! ### Attachment (R369, R423) -/

/-- An attachment of the debug port or of PERTURB. -/
def State.attach (s : State) : State :=
  { s with sec := { s.sec with
    debugBoot := wrapAdd 32 s.sec.debugBoot 1
    debugLife := wrapAdd 32 s.sec.debugLife 1
    debugFirst := if s.sec.debugBoot = 0 then s.clk.time else s.sec.debugFirst } }

/-- The layer writes the DEBUG page; it alone does (R420). -/
def State.debugOpens (s : State) (fn : Nat) : Bool := fn = 65 && s.opens fn pgDebug

/-! ### Control processors (R424, R425) -/

/-- A processor stops at an instruction. -/
def State.cpStop (s : State) (n pc : Nat) : State :=
  (s.setCp n { s.cp n with halt := true, pc }).raise pgDebug 2

/-- A processor runs again; what it holds in memory is open. -/
def State.cpGo (s : State) (n : Nat) : State := s.setCp n { s.cp n with halt := false, pc := 0, words := [] }

/-- One instruction of a halted processor: where it leads and what it leaves in memory is outside the contract (free, log 7). -/
def State.cpStepOne (s : State) (n : Nat) : State :=
  if (s.cp n).halt then
    let v := s.draw
    (v.2.setCp n { v.2.cp n with words := [] }).cpStop n (v.1 % 2 ^ 24)
  else s

/-- A write to CP_CTRL: the processor, then HALT, then STEP. -/
def State.writeCpCtrl (s : State) (v : Nat) : State :=
  let n := sl v 3 0
  let s := { s with dbg := { s.dbg with cpSel := n } }
  let s :=
    if bit v 31 && !(s.cp n).halt then
      let w := s.draw
      w.2.cpStop n (w.1 % 2 ^ 24)
    else if !bit v 31 && (s.cp n).halt then s.cpGo n
    else s
  if bit v 30 then s.cpStepOne n else s

/-- A write to CP_BP0 to CP_BP3 of the selected processor. -/
def State.writeCpBp (s : State) (i v : Nat) : State :=
  let k := s.cp s.dbg.cpSel
  s.setCp s.dbg.cpSel { k with bps := lmod k.bps i (fun _ => v &&& 0xFFFFFD) }

/-- CP_HALT (R424). -/
def execCpHalt (t fn value : Nat) (s : State) : Res :=
  let s := (s.tick t).access fn pgDebug
  .next (if s.debugOpens fn then s.writeCpCtrl value else s)

/-- CP_STEP (R424). -/
def execCpStep (t fn value : Nat) (s : State) : Res :=
  let s := (s.tick t).access fn pgDebug
  .next (if s.debugOpens fn then s.writeCpCtrl value else s)

/-- CP_BREAKPOINT_HIT (R424): the processor stops before it executes the instruction. -/
def execCpBreakpointHit (t cp bp : Nat) (s : State) : Res :=
  let s := s.tick t
  match ((s.cp cp).bps)[bp]? with
  | some b => .next (if s.live && cp < 16 && !(s.cp cp).halt && bit b 0 then s.cpStop cp (b - b % 4) else s)
  | none => .next s

/-! ### Work-list breakpoints (R426, R427) -/

/-- The held entry starts; with STEP the next entry of its list is held in turn. -/
def State.wlResume (s : State) (n : Nat) : State :=
  let b := s.wl n
  match b.held with
  | none => s
  | some q =>
    let y := s.queue q
    let addr := y.stack.head?.map (·.addr)
    let s := s.setWl n { b with
      held := none
      next := if b.step && b.enable then addr.map (fun a => (q, a)) else none }
    if y.phase = .held n then (s.setQueue q { y with phase := .ready }).start q else s

/-- A write to WL_BPn. -/
def State.writeWlBp (s : State) (n v : Nat) : State :=
  let b := s.wl n
  let s := s.setWl n { b with
    enable := bit v 31, step := bit v 30, slot := sl v 5 0
    next := if bit v 31 && b.slot = sl v 5 0 then b.next else none }
  if bit v 28 then s.wlResume n else s

def State.writeWlTag (s : State) (n v : Nat) : State := s.setWl n { s.wl n with tag := v }

/-- WL_BREAKPOINT_HIT (R426). -/
def execWlBreakpointHit (t : Nat) (q : QRef) (bp : Nat) (s : State) : Res :=
  let s := s.tick t
  let y := s.queue q
  match y.entry with
  | none => .next s
  | some e =>
    if s.serves q.slot && s.inPeriod q && y.phase = .ready && !y.begun && bp < 4 && s.breakHits q e bp then
      let b := s.wl bp
      let s := s.setQueue q { y with phase := .held bp }
      .next ((s.setWl bp { b with
        held := some q, tag := if b.next.isSome then e.tag else b.tag, next := none }).raise pgDebug 1)
    else .next s

/-- WL_RESUME (R426). -/
def execWlResume (t fn bp : Nat) (s : State) : Res :=
  let s := (s.tick t).access fn pgDebug
  .next (if s.debugOpens fn && bp < 4 then s.wlResume bp else s)

/-! ### The frame view (R428) -/

/-- The four keys of a key instance (R301): K1, K2, Km, H. -/
def keyParts (k : Nat) : Bytes × Bytes × Bytes × Nat :=
  if k = 0 then (zeros 32, zeros 32, zeros 32, 0)
  else (toLE 32 (Config.fresh 1 (4 * k)), toLE 32 (Config.fresh 1 (4 * k + 1)), toLE 32 (Config.fresh 1 (4 * k + 2)),
    1 + Config.fresh 1 (4 * k + 3) % (2 ^ 64 - 1))

/-- Ciphertext and tag of a line, but for what the frame view has put there (R306, R307). -/
def State.lineStored (s : State) (ln : Nat) (l : Line) : Bytes × Nat :=
  let k := keyParts l.key
  let t := tweakIn (if l.replay then l.ver.getD (s.version ln) else 0) ln l.replay 0
  let ct := lineCipher k.1 k.2.1 t ((List.range 128).map (fun i => tget 0 s.mem.cells (ln * 128 + i)))
  (ct, lineTag k.2.2.1 k.2.2.2 t ct)

/-- Domain, version and contents of a counter structure (R306, R309); a tag line has none of its own. -/
def State.structure_ (s : State) (c : Cstr) : Option (Nat × Nat × Bytes) :=
  match c with
  | .tag _ => none
  | .minor b => some (1, tget 0 s.mem.fver (b / 4), (List.range 128).flatMap (fun j => toLE 1 (s.minor (128 * b + j))))
  | .counter k => some (2, tget 0 s.mem.treeCtr c.code,
      (List.range 3).flatMap (fun i => (List.range 4).flatMap (fun j => toLE 7 (s.block (4 * (3 * k + i) + j)).major)
        ++ toLE 8 (tget 0 s.mem.fver (3 * k + i))) ++ zeros 20)
  | .node l i => some (3, tget 0 s.mem.treeCtr c.code,
      (List.range 8).flatMap (fun j => toLE 8 (tget 0 s.mem.treeCtr (if l = 1 then Cstr.counter (8 * i + j) else .node (l - 1) (8 * i + j)).code))
        ++ zeros 64)

/-- Ciphertext and tag of a line of the reserve under the reserve key, of a domain, version and address (R306, R307): 1 to 3 a counter
structure, 4 a line of the placement table (R182), whose contents are not given (log 93). -/
def State.reserveLine (s : State) (domain version addr : Nat) (pt : Bytes) : Bytes × Nat :=
  let k := keyParts s.mem.reserveKey
  let t := tweakIn version addr true domain
  let ct := lineCipher k.1 k.2.1 t pt
  (ct, lineTag k.2.2.1 k.2.2.2 t ct)

/-- What memory holds of a counter structure that no cache has changed: its contents, encrypted and tagged with its version under the
reserve key (R310); all counters are 0 when boot tags them under a fresh one (R312). -/
def State.structureStored (s : State) (c : Cstr) : Option (Bytes × Nat) :=
  (s.structure_ c).map (fun x => s.reserveLine x.1 x.2.1 (Config.reserveAt c.code % 2 ^ 35) x.2.2)

/-- A read of the view: ciphertext, tag, poison mark and minor counter as stored; zeros and VALID 0 for an unbacked frame. -/
def State.viewRead (s : State) : State :=
  let ln := s.dbg.fvAddr / 128
  let v := s.view (ln / 512)
  match v.line ln with
  | none =>
    { s with dbg := { s.dbg with fvValid := false, fvReplay := false, fvData := [], fvTag := 0, fvPoison := false, fvMinor := 0 } }
  | some l =>
    let c := l.raw.getD (v.lineStored ln l)
    { s with dbg := { s.dbg with
      fvValid := true, fvReplay := l.replay, fvData := c.1, fvTag := c.2, fvPoison := l.poison
      fvMinor := if l.replay then v.minor ln else 0 } }

/-- A write of the view: a line of a backed frame holds the given ciphertext, tag and poison mark; no counter changes. -/
def State.viewWrite (s : State) : State :=
  let ln := s.dbg.fvAddr / 128
  match s.line ln with
  | none => { s with dbg := { s.dbg with fvValid := false, fvReplay := false } }
  | some l =>
    let new := (bslice s.dbg.fvData 0 128, s.dbg.fvTag)
    let raw := if new = s.lineStored ln l then none else some new
    let s :=
      if (s.migrating (ln / 512)).isSome then
        (s.holdWrite { fa := ln * 128, data := [], key := l.key, replay := l.replay, at_ := s.clk.now, raw := some (raw, s.dbg.fvPoison) }).1
      else s.setLine ln { l with raw, poison := s.dbg.fvPoison }
    { s with dbg := { s.dbg with fvValid := true, fvReplay := l.replay } }

/-- A write to FV_CTRL. -/
def State.writeFvCtrl (s : State) (v : Nat) : State :=
  let s := { s with dbg := { s.dbg with fvWrite := bit v 30 } }
  if bit v 31 then (if s.dbg.fvWrite then s.viewWrite else s.viewRead) else s

/-- FRAME_VIEW_READ (R428). -/
def execFrameViewRead (t fn : Nat) (s : State) : Res :=
  let s := (s.tick t).access fn pgDebug
  .next (if s.debugOpens fn then s.writeFvCtrl 0x80000000 else s)

/-- FRAME_VIEW_WRITE (R428). -/
def execFrameViewWrite (t fn : Nat) (s : State) : Res :=
  let s := (s.tick t).access fn pgDebug
  .next (if s.debugOpens fn then s.writeFvCtrl 0xC0000000 else s)

/-- A write to FV_DATAn, FV_META. -/
def State.writeFvData (s : State) (n v : Nat) : State :=
  { s with dbg := { s.dbg with fvData := bput (bslice s.dbg.fvData 0 128) (4 * n) (toLE 4 v) } }

/-! ### Perturbation (R431, R432) -/

/-- A region at a clock would stand beyond 1.5:1 of a neighbour. -/
def State.ratioBroken (s : State) (r mhz : Nat) : Bool :=
  (neighbours r).any (fun n => beyond { s.region n with mhz } (s.region n) 0)

/-- A forced clock is applied, no higher than the module's allowed clock. -/
def State.applyForce (s : State) : State :=
  let r := s.test.region
  if s.test.arm && s.test.force && s.regions.contains r then
    s.setRegion r { s.region r with mhz := min s.test.mhz (max 400 s.pwr.allowed) }
  else s

/-- A write to PT_ARM: arming is an attachment; disarming resets every other field. -/
def State.writePtArm (s : State) (v : Nat) : State :=
  if bit v 0 && !s.test.arm then
    if s.test.force && s.regions.contains s.test.region && s.ratioBroken s.test.region s.test.mhz then s
    else
      (({ s with test := { s.test with arm := true, arms := satAdd 16 s.test.arms 1 } }).attach).applyForce
  else if !bit v 0 && s.test.arm then
    { s with test := { pcSel := s.test.pcSel, pcs := s.test.pcs, freeze := s.test.freeze, arms := s.test.arms } }
  else s

/-- PT_ARM (R431). -/
def execPtArm (t fn value : Nat) (s : State) : Res :=
  let s := (s.tick t).access fn pgPerturb
  .next (if pf0 fn && s.opens fn pgPerturb then s.writePtArm value else s)

/-- A write that names an absent port or region leaves the register unchanged (R7). -/
def State.writePtPort (s : State) (v : Nat) : State :=
  if sl v 28 24 ≥ s.ident.variant.ports then s
  else { s with test := { s.test with ptPort := sl v 28 24, delays := tput 0 s.test.delays (sl v 28 24) (sl v 15 0) } }

def State.writePtMem (s : State) (v : Nat) : State :=
  { s with test := { s.test with every := sl v 31 16, holdNs := inRange 0 4000 s.test.holdNs (sl v 12 0) } }

/-- 0, or a range. -/
def zeroOr (lo hi old v : Nat) : Nat := if v = 0 then 0 else inRange lo hi old v

def State.writePtShrink (s : State) (v : Nat) : State :=
  { s with test := { s.test with
    redbuf := zeroOr 16 128 s.test.redbuf (sl v 31 24)
    osKib := zeroOr 1536 6144 s.test.osKib (sl v 20 8)
    ftq := zeroOr 1 16 s.test.ftq (sl v 4 0) } }

def State.writePtVec (s : State) (v : Nat) : State := { s with test := { s.test with stall := sl v 10 0 } }

/-- A write to PT_CLOCK. -/
def State.writePtClock (s : State) (v : Nat) : State :=
  let r := sl v 26 24
  let m := sl v 11 0
  let mhz := if m % 25 = 0 then inRange 400 1600 s.test.mhz m else s.test.mhz
  if !s.regions.contains r || (bit v 31 && s.ratioBroken r mhz) then s
  else State.applyForce { s with test := { s.test with force := bit v 31, region := r, mhz } }

/-! ### Counter sets (R433) -/

/-- The set counts something the model does not count exactly: cycles, lines, reduction additions; bytes and holds under a filter. -/
def Pc.inexact (x : Pc) : Bool :=
  let ev := sl x.cfg 23 16
  let filtered := bit x.cfg 30 || !bit x.cfg 29 || sl x.cfg 15 8 ≠ 0xFF
  bit x.cfg 31 && ((1 ≤ ev && ev ≤ 5) || ev = 7 || ((ev = 6 || ev = 8) && filtered))

/-- A write to PC_CFG of the selected set. -/
def State.writePcCfg (s : State) (v : Nat) : State :=
  let x := { tget {} s.test.pcs s.test.pcSel with cfg := v &&& 0xE0FFFF3F }
  { s with test := { s.test with pcs := tput {} s.test.pcs s.test.pcSel { x with open_ := x.open_ || x.inexact } } }

def State.writePcTag (s : State) (v : Nat) : State :=
  { s with test := { s.test with pcs := tmod {} s.test.pcs s.test.pcSel (fun x => { x with tag := v }) } }

/-- A write to PC_CTRL: CLEAR zeroes every set. -/
def State.writePcCtrl (s : State) (v : Nat) : State :=
  let s := { s with test := { s.test with freeze := bit v 0 } }
  if bit v 1 then
    let m := s.test.pcs.map (fun (p : Nat × Pc) => (p.1, { p.2 with val := 0, open_ := p.2.inexact }))
    { s with test := { s.test with pcs := m.filter (fun p => decide (p.2 ≠ {})) } }
  else s

/-- PC_CLEAR (R433). -/
def execPcClear (t fn value : Nat) (s : State) : Res :=
  let s := (s.tick t).access fn pgPerf
  .next (if pf0 fn && s.opens fn pgPerf then s.writePcCtrl value else s)

end Sys2Proof.Machine
end

