-- ==== Sys2Proof/Machine/Placement.lean ====
section
/-! DEFINITION. The placement engine and the memory controllers as events: migration, patrol, retired locations, sequences,
anneal (R183, R188 to R190, R195 to R197, R316, R318 to R322, R350). -/

namespace Sys2Proof.Machine

/-! ### Migration (R188 to R190) -/

/-- The positions of the next entries of a running list in the order they run (R69, R184). -/
def aheadPos (l : AdmList) : Nat → Nat → List Loop → List Nat
  | 0, _, _ => []
  | n + 1, pos, loops =>
    match l.entries[pos]? with
    | none => []
    | some e =>
      pos :: (if e.op = 0x02 then []
        else if e.op = 0x04 then
          if sl e.imm0 31 0 = 0 then aheadPos l n (afterLoop l.entries pos) loops
          else aheadPos l n (pos + 1) ({ start := pos, count := sl e.imm0 31 0, iter := 0 } :: loops)
        else if e.op = 0x05 then
          match loops with
          | [] => aheadPos l n (pos + 1) []
          | x :: r =>
            if x.iter + 1 < x.count then aheadPos l n (x.start + 1) ({ x with iter := x.iter + 1 } :: r)
            else aheadPos l n (pos + 1) r
        else aheadPos l n (pos + 1) loops)

/-- The look-ahead of a queue (R184): the next 256 entries of each running list, and every PREFETCH entry (R62); with their lists and
the counts of the loops they stand in. -/
def Queue.lookAhead (y : Queue) : List (AdmList × Entry × Option Nat) :=
  y.tree.flatMap (fun l =>
    let next := y.stack.flatMap (fun f => if f.addr = l.addr then aheadPos l 256 f.pos f.loops else [])
    ((l.scan.zipIdx).filter (fun x => bit x.1.1.hint 2 || next.contains x.2)).map (fun x => (l, x.1.1, x.1.2)))

/-- An entry of a list reads or writes a frame. -/
def State.reachesFrame (s : State) (c f : Nat) (x : AdmList × Entry × Option Nat) : Bool :=
  (x.1.descsOf x.2.1).any (fun d =>
    ((d.iters x.2.2).flatMap d.pages).any (fun va =>
      match s.translate c va false with
      | .ok y => !y.host && decide (y.addr / 65536 = f)
      | .error _ => false))

/-- An entry of the look-ahead of a runnable context, other than an optimiser's, reaches the frame. -/
def State.aheadFor (s : State) (f : Nat) : Bool :=
  (List.range 64).any (fun c => s.runnable c && (s.ctx c).queues.any (fun p =>
    p.2.lookAhead.any (fun x => x.2.1.op ≠ 0x70 && x.2.1.op ≠ 0x71 && s.reachesFrame c f x)))

/-- The table of R185 lets the frame go to a tier: near, a frame of class 5 never, one of class 3 not for an optimiser entry; an honoured
near pin overrides it (R186). -/
def State.classMoves (s : State) (f tier : Nat) : Bool :=
  let cls := tget 0 s.mem.classes f % 16
  tier = 1 || (s.pinnedFrames true).contains f || (cls ≠ 5 && (cls ≠ 3 || s.aheadFor f))

/-- The frame holds a part of a tracked sequence that admitted ATTN_FWD or ATTN_BWD entries will read (R195). -/
def State.sequenceWants (s : State) (f : Nat) : Bool :=
  (List.range 64).any (fun c => (s.ctx c).queues.any (fun p => p.2.tree.any (fun l => l.scan.any (fun x =>
    (s.wantedNear c l x).any (fun w => w.2 && (match s.translate c w.1 false with
      | .ok y => !y.host && decide (y.addr / 65536 = f)
      | .error _ => false))))))

/-- A frame may move to a location now, one that is free (R177): PLACE_CTRL stops migrations for placement, not those of sequences and of
retired locations (R196). -/
def State.mayMigrate (s : State) (f tier stack : Nat) : Bool :=
  match s.backing f with
  | none => false
  | some b =>
    s.live && !s.frameHeld f && tier < 2 && stack < s.stacks tier && (b.bad || !(b.tier = tier && b.stack = stack))
      && s.mem.migr.length < 256 && s.movable f && s.room tier
      && !(tier = 1 && (s.pinnedFrames true).contains f) && !(tier = 0 && (s.pinnedFrames false).contains f)
      && (s.mem.migrate || b.bad || (tier = 0 && s.sequenceWants f)) && s.classMoves f tier

/-- What waits for its moment: frames that are to move, and pins (R186, R189, R190). -/
def State.placeWaiting (s : State) : State :=
  (((List.range 64).foldl (fun s c => s.wantSlot c false) s).startMoves).honourPins

/-- MIGRATION_START: what waits goes first, then the copy begins; the engine's reasons lie outside the contract. -/
def execMigrationStart (t frame tier stack : Nat) (s : State) : Res :=
  let s := (s.tick t).placeWaiting
  .next (if s.mayMigrate frame tier stack then
    { s with mem := { s.mem with migr := s.mem.migr ++ [{ frame, tier, stack }] } }
  else s)

/-- MIGRATION_SWITCH: the placement table switches, then the held writes are applied at the destination. A frame whose class no longer
lets it go near is given up (R185). -/
def execMigrationSwitch (t frame : Nat) (s : State) : Res :=
  let s := s.tick t
  match s.mem.migr.find? (fun m => m.frame = frame) with
  | some m => .next (if s.classMoves frame m.tier then s.switchTo m else s.cancelMigration m).honourPins
  | none => .next s

/-- MIGRATION_CANCEL: the held writes are applied at the source; no new migration of the frame within 1 ms. -/
def execMigrationCancel (t frame : Nat) (s : State) : Res :=
  let s := s.tick t
  match s.mem.migr.find? (fun m => m.frame = frame) with
  | some m => .next (s.cancelMigration m).honourPins
  | none => .next s

/-- STALL_MAX_CLEAR (R196). -/
def State.writeStallMax (s : State) (v : Nat) : State :=
  if bit v 31 then { s with mem := { s.mem with stallMax := 0 } } else s

def execStallMaxClear (t fn value : Nat) (s : State) : Res :=
  let s := (s.tick t).access fn pgPlace
  .next (if pf0 fn && s.opens fn pgPlace then s.writeStallMax value else s)

/-! ### Patrol and retired locations (R183, R197) -/

/-- The structures of the reserve (R309) by their level: minor lines by the 16 KiB block, counter lines, the three levels of nodes. -/
def structureOf (level index : Nat) : Cstr :=
  if level = 0 then .minor index else if level = 1 then .counter index else .node (level - 1) index

/-- The frame a patrol read names lies at the location it reads: in that stack. -/
def State.liesIn (s : State) (tier stack : Nat) (frame : Option Nat) : Bool :=
  match frame with
  | none => true
  | some f => match s.backing f with
    | some b => b.tier = tier && b.stack = stack
    | none => false

/-- PATROL_READ: tier 0 near, 1 bulk. An error in the reserve damages a counter structure, which fails at the first access that
verifies it (R311, R316). A read that finds nothing leaves the progress of the pass free (log 7). -/
def execPatrolRead (t tier stack : Nat) (outcome : PatrolOutcome) (s : State) : Res :=
  let s := s.tick t
  let mcx := if tier = 0 then stack else 16 + stack
  let pg := if tier = 0 then pgNear stack else pgBulk stack
  if !s.running || tier ≥ 2 || stack ≥ s.stacks tier || !(s.mc mcx).patrol then .next s
  else
    match outcome with
    | .clean =>
      let v := s.draw
      .next (v.2.setMc mcx { s.mc mcx with percent := max (s.mc mcx).percent (v.1 % 100) })
    | .corrected f => .next (if s.liesIn tier stack f then s.correctedAt mcx pg f else s)
    | .uncorrectable f line =>
      if !s.liesIn tier stack f then .next s
      else
      let s := s.setMc mcx { s.mc mcx with uncorr := satAdd 32 (s.mc mcx).uncorr 1 }
      let s := s.raise pg 1
      let s := match f with | some f => s.poison (512 * f + line % 512) | none => s
      .next (s.retireLocation mcx pg f)
    | .reserve level index =>
      if level > 4 then .next s
      else
      let s := s.setMc mcx { s.mc mcx with uncorr := satAdd 32 (s.mc mcx).uncorr 1 }
      .next (State.raise { s with mem := { s.mem with corrupt := s.mem.corrupt ++ [structureOf level index] } } pg 1)
    | .passDone =>
      let m := s.mc mcx
      .next (s.setMc mcx { m with passes := satAdd 16 m.passes 1, percent := 0, perLoc := [] })

/-! ### Sequences (R195) -/

/-- SEQ_SLOT_RELEASE: 10 ms after no admitted call names the sequence. -/
def execSeqSlotRelease (t slot tensor : Nat) (s : State) : Res :=
  let s := s.tick t
  .next (s.dropSeqs (fun x => x.slot = slot && x.tensor = tensor
    && (match x.idleAt with | some a => decide (a + 10000000 ≤ s.clk.now) | none => false)))

/-! ### Anneal (R319 to R322) -/

/-- A write to ANNEAL_REQ. -/
def State.writeAnnealReq (s : State) (v : Nat) : State :=
  let s := { s with mem := { s.mem with annealReq := (sl v 10 8) * 256 + sl v 5 0 } }
  if bit v 31 then s.queueAnneal (sl v 5 0) (sl v 10 8) else s

/-- ANNEAL_REQ (R319). -/
def execAnnealReq (t fn value : Nat) (s : State) : Res :=
  let s := (s.tick t).access fn pgMemcrypt
  .next (if pf0 fn && s.opens fn pgMemcrypt then s.writeAnnealReq value else s)

/-- FREE context slots. -/
def State.freeCtxs (s : State) : Nat := ((List.range 64).filter (fun c => (s.ctx c).state = 0)).length

/-- ANNEAL_START: the range at the front of the queue; without fresh keys it waits (R350). -/
def execAnnealStart (t : Nat) (s : State) : Res :=
  let s := s.tick t
  match s.mem.annealQ with
  | [] => .next s
  | (c, r) :: rest =>
    if !s.live then .next s
    else if (s.ctx c).state ≠ 1 ∧ (s.ctx c).state ≠ 4 then .next { s with mem := { s.mem with annealQ := rest } }
    else if s.annealing.length ≥ 4 ∨ s.freeSlots < 1 + 8 * s.freeCtxs then .next s
    else if !s.sec.trngOk then .next (s.waitFresh .anneal)
    else
      let base := (((s.ctx c).ranges[r]?).getD {}).base
      let k := s.takeSlot
      .next { k.2 with mem := { k.2.mem with
        annealQ := rest
        anneals := k.2.mem.anneals ++ [{ slot := c, range := r, newSlot := k.1, ptr := base }] } }

/-- A block under its new slot: lines that fail stay poisoned; major and minors become 0. A block below a counter structure that has
failed, or that the sweep finds failed (R316), stays as it is (R322). -/
def State.annealLines (s : State) (old new : Nat) (replay : Bool) (f i : Nat) : State :=
  let b := 4 * f + i
  match s.backing f with
  | none => s
  | some _ =>
    if replay && s.counterFailed b then (match s.mem.badStructure b with | some r => s.failStructure r none | none => s)
    else
      let s := (List.range 128).foldl (fun s j =>
        let ln := 128 * b + j
        match s.line ln with
        | none => s
        | some l =>
          match s.checkLine old replay ln with
          | some _ => s.setLine ln { l with poison := true }
          | none => s.setLine ln { key := new, replay }) s
      if replay then
        let s := (s.setBlock b {}).bumpFver f 128
        { s with mem := { s.mem with readonly := s.mem.readonly.filter (· ≠ b) } }
      else s

/-- ANNEAL_BLOCK: one 16 KiB block; a frame under migration is waited for (R190). -/
def execAnnealBlock (t slot range : Nat) (s : State) : Res :=
  let s := s.tick t
  match s.annealing.find? (fun a => a.slot = slot && a.range = range) with
  | none => .next s
  | some a =>
    match s.blockOf a with
    | none => .next s
    | some (va, f, i) =>
      if !s.running || s.frameHeld f || s.mem.migr.any (fun m => m.frame = f) then .next s
      else
        let r := (((s.ctx slot).ranges[range]?).getD {})
        let old := tget 0 s.mem.keySlots r.slot
        let new := tget 0 s.mem.keySlots a.newSlot
        let s := s.annealLines old new (r.replay = 1) f i
        .next (State.startMoves { s with mem := { s.mem with anneals := s.mem.anneals.map (fun (x : Anneal) =>
          if x = a then { a with ptr := va + 16384, swept := if i = 3 then f :: a.swept else a.swept } else x) } }).honourPins

/-- ANNEAL_DONE (R321): nothing of the range is left; the old slot returns to the pool. -/
def execAnnealDone (t slot range : Nat) (s : State) : Res :=
  let s := s.tick t
  match s.annealing.find? (fun a => a.slot = slot && a.range = range) with
  | none => .next s
  | some a =>
    if (s.blockOf a).isSome || !s.running then .next s
    else
      let old := (((s.ctx slot).ranges[range]?).getD {}).slot
      let s := { s with mem := { s.mem with
        keySlots := s.mem.keySlots.filter (fun p => p.1 ≠ old)
        anneals := s.mem.anneals.filter (fun x => x ≠ a)
        annealDone := satAdd 16 s.mem.annealDone 1 } }
      let s := s.modCtx slot (fun x => { x with ranges := lmod x.ranges range (fun r => { r with slot := a.newSlot }) })
      .next (s.raise pgMemcrypt 1)

end Sys2Proof.Machine
end

