-- ==== Sys2Proof/Machine/Schedule.lean ====
section
/-! DEFINITION. The scheduler's events: quantum boundaries, pre-emption, transfers, sprigs, periods, reloads (R150, R279 to R300). -/

namespace Sys2Proof.Machine

/-- Length of a quantum in ns. -/
def State.quantumNs (s : State) : Nat := max 1 s.sched.quantum * 1000

/-- The scheduler runs: contexts are served and device time passes (R299, R392). -/
def State.ticking (s : State) : Bool := s.live && !s.paused && !s.clk.held

/-! ### Quanta (R279, R283, R289) -/

/-- The cores at a quantum boundary: sprigs end (R293), then a round that begins has its effects. -/
def State.nextQuantum (s : State) : State :=
  let s := (s.coreList.foldl (fun s k => s.endSprig k) s.charge).settleOwed
  let s := { s with sched := { s.sched with k := s.sched.k + 1 } }
  let s := if s.quantumOf = 0 then s.newRound else s
  s.enterQuantum

/-- QUANTUM_BOUNDARY: the next quantum of the grid. -/
def execQuantumBoundary (t : Nat) (s : State) : Res :=
  let s := s.tick t
  .next (if s.ticking && decide ((s.sched.k + 1) * s.quantumNs ≤ s.clk.time) then s.nextQuantum else s)

/-- Cores whose owner changes under new targets. -/
def State.leavers (s : State) (ts : List (Nat × Nat)) : List Nat :=
  let want := fun (c : Nat) => ((ts.find? (fun p => p.1 = c)).map (·.2)).getD 0
  (List.range 64).flatMap (fun c => (s.pool.filter (fun k => (s.core k).ctx = some c)).drop (want c))

/-- The targets of the next quantum, with the records that are in force then (R282, R283). -/
def State.nextTargets (s : State) : List (Nat × Nat) :=
  let q := (s.sched.k + 1) % max s.sched.round 1
  ((if q = 0 then s.newRound else s).targets q).1

/-- PREEMPT_REQUEST: within 50 µs of the boundary each core whose owner will change is asked to stop. -/
def execPreemptRequest (t : Nat) (s : State) : Res :=
  let s := s.tick t
  if s.ticking && decide ((s.sched.k + 1) * s.quantumNs ≤ s.clk.time + 50000) then
    .next ((s.leavers s.nextTargets).foldl (fun s k => s.setCore k { s.core k with preempt := true }) s)
  else .next s

/-- A core that the scheduler asked to stop saves its work and keeps its owner to the boundary. -/
def State.yieldCore (s : State) (k : Nat) : State :=
  let s := s.endSprig k
  let s := match (s.core k).ctx with
    | some c => s.saveWork k c
    | none => s
  State.settleOwed (s.setCore k { s.core k with preempt := false })

/-- PREEMPTION_POINT: the core saves its context's state and zeroes itself. A draining core is drained from now, and its
test starts when a sweep has come to it; a core asked by the scheduler keeps its owner to the boundary (R284). -/
def execPreemptionPoint (t core : Nat) (s : State) : Res :=
  let s := s.tick t
  let k := s.core core
  if !s.live || core ≥ s.ident.variant.cores then .next s
  else if k.st = 3 then
    let s := (s.saveCore core).raise (pgCore core) 2
    .next (if s.ras.sweep && s.ras.sweepCore = core then s.startTest core else s)
  else if k.st = 2 && k.preempt then .next (s.yieldCore core)
  else .next s

/-! ### Transfers within a quantum (R290, R294) -/

/-- Idle cores of the SHARED remainder: idle reservations count as taken. -/
def State.remainder (s : State) : Nat :=
  let shared := (List.range 64).filter (fun c => !(s.ctx c).strict)
  min s.idleCores.length
    (s.pool.length - s.reserved s.quantumOf - shared.foldl (fun a c => a + s.holds c) 0)

/-- Give a SHARED context idle cores of the remainder, up to its CORES. -/
def State.topUp (s : State) (c : Nat) : State := s.giveUpTo c (min s.remainder ((s.ctx c).sched.cores - s.holds c))

/-- CORE_TRANSFER: cores of a context that is not runnable pass on in the order of the last division, then by slot; a
context that has become runnable takes idle cores. -/
def execCoreTransfer (t slot : Nat) (s : State) : Res :=
  let s := s.tick t
  if !s.ticking || slot ≥ 64 || (s.ctx slot).strict then .next s
  else if s.runnable slot then .next (s.topUp slot).tidyCores
  else
    let s := (s.pool.filter (fun k => (s.core k).ctx = some slot)).foldl (fun s k => s.saveCore k) s
    let order := s.sched.order ++ (List.range 64).filter (fun c => !s.sched.order.contains c)
    .next ((order.filter (fun c => s.runnable c && !(s.ctx c).strict)).foldl (fun s c => s.topUp c) s).tidyCores

/-! ### Sprigs (R291 to R293) -/

/-- A queue whose current entry can give tiles to a sprig. -/
def Queue.sprigs (y : Queue) : Bool :=
  y.canRun && (y.phase = .ready || y.phase = .running) && (match y.entry with | some e => y.gives e | none => false)

/-- A sprig source for a donor. -/
def State.sprigSource (s : State) (donor c : Nat) : Bool :=
  let x := s.ctx c
  c ≠ donor && x.state = 1 && !x.strict && s.runnable c && x.queues.any (fun p => p.2.sprigs)

/-- The time of the sprigs of a context that run now. -/
def State.sprigNow (s : State) (c : Nat) : Nat :=
  (s.coreList.filter (fun k => (s.core k).sprig = some c)).foldl (fun a k => a + (s.clk.now - (s.core k).sprigAt) / 1000) 0

/-- The sprig time of a context in the round, sprigs that run now included. -/
def State.sprigTime (s : State) (c : Nat) : Nat := (s.ctx c).sprigRound + s.sprigNow c

/-- Core-µs run as sprigs of a context (R300, R348), 64 bits. -/
def State.sprigAll (s : State) (c : Nat) : Nat := min ((s.ctx c).sprigUs + s.sprigNow c) (2 ^ 64 - 1)

/-- The source with the least sprig time in the round, the lowest slot on a tie. -/
def State.pickSource (s : State) (donor : Nat) : Option Nat :=
  ((List.range 64).filter (fun c => s.sprigSource donor c)).foldl (fun (b : Option Nat) c =>
    match b with
    | none => some c
    | some a => if s.sprigTime c < s.sprigTime a then some c else some a) none

/-- An entry with HINT.CRITICAL of the queue has started and not completed: the current one, or a CALL it stands in. -/
def Queue.critical (y : Queue) : Bool :=
  let hot := fun (o : Option Entry) => match o with | some e => bit e.hint 3 | none => false
  ((y.begun || y.phase = .ready) && hot y.entry) || (!y.stack.isEmpty && hot y.cur)
    || (y.stack.drop 1).any (fun f => hot ((y.list f.addr).bind (fun l => l.entries[f.pos]?)))

/-- A context gives bubbles now: SHARED with DONATE, runnable, no entry with HINT.CRITICAL in progress. -/
def State.donates (s : State) (c : Nat) : Bool :=
  let x := s.ctx c
  !x.strict && bit x.sched.flags 0 && s.runnable c
    && !x.queues.any (fun p => p.2.critical)

/-- A core of d takes a sprig of c: what it held of d is saved, and it is zeroed before (R150, R151). -/
def State.beginSprig (s : State) (k d c : Nat) : State :=
  let s := s.saveWork k d
  let s := s.setCore k { s.core k with sprig := some c, sprigAt := s.clk.now, used := true }
  (s.restoreWork k c).settleOwed

/-- SPRIG_START: the command says that the bubble has lasted for IDLE_US. -/
def execSprigStart (t core : Nat) (s : State) : Res :=
  let s := s.tick t
  let k := s.core core
  match k.ctx with
  | none => .next s
  | some d =>
    if s.ticking && s.sched.sprigs && k.st = 2 && k.sprig.isNone && s.donates d then
      match s.pickSource d with
      | some c => .next (s.beginSprig core d c)
      | none => .next s
    else .next s

/-- SPRIG_END. -/
def execSprigEnd (t core : Nat) (s : State) : Res := .next ((s.tick t).endSprig core).settleOwed

/-! ### Periods (R295 to R298) -/

/-- The round of a periodic context's next boundary. -/
def Ctx.nextPeriod (x : Ctx) : Nat :=
  let r := x.periodAt + 1
  let p := max 1 x.sched.period
  r + (x.sched.phase % p + p - r % p) % p

/-- A queue with work of the ended period: a list in progress that does not wait at its PERIOD_MARK. -/
def Queue.overruns (y : Queue) : Bool := !y.stack.isEmpty && !(y.phase = .running && y.flight = .period)

/-- What an overrun does to one queue: its innermost list drops; parked work of other queues is discarded and tried again. -/
def Queue.overrun (y : Queue) : Queue :=
  let y := match y.phase with | .parked _ b => y.back b | _ => y
  if !y.overruns then y
  else
    let keep := match y.phase with
      | .done _ => true
      | .held _ => false
      | _ => (match y.entry with | some e => e.finally_ | none => false)
    { y with
      stack := match y.stack with | f :: r => { f with dropping := true } :: r | [] => []
      phase := if keep then y.phase else .done .lateDropped
      flight := if keep then y.flight else .none }

/-- The contributions of a context to buckets in flight: discarded, counted in DROPPED, and the step is no longer identical
(R49, R297). -/
def State.dropContributions (s : State) (c : Nat) : State :=
  let n := (s.buckets.filter (fun b => b.slot = c && b.issued && b.doneAt.isNone)).length
  let s := s.modCtx c (fun x => { x with stats := { x.stats with
    dropped := x.stats.dropped + n, notIdentical := x.stats.notIdentical || decide (n > 0) } })
  let s := s.absentOwn c
  { s with buckets := s.buckets.map (fun (b : Bucket) =>
      if b.slot = c && b.issued && b.doneAt.isNone then { b with issued := false, gone := true } else b) }

/-- The end of a period with work left (R297). The context's cores stop, zero themselves and are its own again (R286). -/
def State.overrun (s : State) (c : Nat) : State :=
  let s := (s.freeCores c).tidyCores
  let s := s.dropContributions c
  let s := s.modCtx c (fun x => { x with
    parked := [], overflow := false, saved := []
    overruns := satAdd 32 x.overruns 1
    queues := x.queues.map (fun (p : Nat × Queue) => (p.1, p.2.overrun)) })
  let s := [0, 1, 2, 3].foldl (fun s n =>
    let b := s.wl n
    match b.held with
    | some q => if q.slot = c then s.setWl n { b with held := none } else s
    | none => s) s
  ((s.giveUpTo c (((s.strictTargets s.quantumOf).find? (fun p => p.1 = c)).map (·.2) |>.getD 0)).tidyCores).raise pgSched 1

/-- PERIOD_BOUNDARY (R295, R297): one boundary of a periodic context, in order. -/
def execPeriodBoundary (t slot : Nat) (s : State) : Res :=
  let s := s.tick t
  let x := s.ctx slot
  if s.ticking && slot < 64 && x.active && x.periodic && !x.ending && x.nextPeriod ≤ s.round then
    let late := x.queues.any (fun p => p.2.overruns)
    let s := s.modCtx slot (fun x => { x with
      periodAt := x.nextPeriod
      sched := match x.reload with | some r => { x.sched with period := r.period, phase := r.phase } | none => x.sched
      reload := match x.reload with
        | some r => if { x.sched with period := r.period, phase := r.phase } = r then none else some r
        | none => none })
    let s := if late then s.overrun slot else s
    .next ((s.modCtx slot (fun x => { x with ending := true })).closePeriod slot)
  else .next s

/-! ### RELOAD (R282) -/

/-- The record of a slot read again; none when it is refused. -/
def State.rereadSched (s : State) (c : Nat) : Option SchedRec :=
  let r := s.ctxRec c
  if !(s.ctx c).active then none
  else
    match s.tread r.ptRoot r.schedVa 32 with
    | .ok b => if s.withReloads.schedOk c (bit r.mode 2) (schedOf b) then some (schedOf b) else none
    | .error _ => none

/-- A write to SCHED.RELOAD. -/
def State.writeReload (s : State) (v : Nat) : State :=
  let c := sl v 5 0
  let s := { s with sched := { s.sched with reloadCtx := c } }
  if bit v 31 then
    match s.rereadSched c with
    | some r => { s with sched := { s.sched with reloadErr := false } }.modCtx c (fun x => { x with reload := some r })
    | none => { s with sched := { s.sched with reloadErr := true } }.raise pgSched 2
  else s

/-- RELOAD (R282). -/
def execReload (t fn value : Nat) (s : State) : Res :=
  let s := (s.tick t).access fn pgSched
  .next (if pf0 fn && s.opens fn pgSched then s.writeReload value else s)

end Sys2Proof.Machine
end

