-- ==== Sys2Proof/Machine/Recovery.lean ====
section
/-! DEFINITION. Draining and self-test, engine resets, watchdogs, compute-part and package resets, boot (R153 to R155, R364, R379 to
R387, R395, R396, R407). -/

namespace Sys2Proof.Machine

/-! ### Draining and self-test (R154, R395, R396) -/

/-- A sweep that stood at a core goes on from index i. -/
def State.sweepPast (s : State) (core i : Nat) : State :=
  if s.ras.sweep && s.ras.sweepCore = core then s.sweepFrom i else s

/-- DRAIN of a core takes a value: 1 drains it, 0 returns a drained or tested core to the pool. -/
def State.setDrain (s : State) (c : Nat) (on : Bool) : State :=
  let held := s.heldCounts
  let s := s.setCore c { s.core c with drain := on }
  let k := s.core c
  if on then (s.askDrain c).rebalance held
  else if k.st = 4 then s.returnCore c
  else if k.st = 3 then s.setCore c { k with st := 2 }
  else s

/-- A write to CORE_CTRL. -/
def State.writeCoreCtrl (s : State) (c v : Nat) : State :=
  let s := s.setDrain c (bit v 0)
  if bit v 1 then s.startTest c else s

/-- A function writes the page of a core (R155). -/
def State.coreOpens (s : State) (fn c : Nat) : Bool := pf0 fn && c < 80 && s.opens fn (pgCore c)

/-- CORE_DRAIN (R154). -/
def execCoreDrain (t fn core value : Nat) (s : State) : Res :=
  let s := (s.tick t).access fn (pgCore core)
  .next (if s.coreOpens fn core then s.writeCoreCtrl core value else s)

/-- SELFTEST (R154): ignored unless the core is drained. -/
def execSelftest (t fn core : Nat) (s : State) : Res :=
  let s := (s.tick t).access fn (pgCore core)
  .next (if s.coreOpens fn core then s.startTest core else s)

/-- SELFTEST_DONE (R396): a core that passes returns; one that fails stays out, record 0x22. -/
def execSelftestDone (t core : Nat) (pass : Bool) (s : State) : Res :=
  let s := s.tick t
  let k := s.core core
  if k.st ≠ 5 ∨ !s.running then .next s
  else
    let k := { k with runs := satAdd 16 k.runs 1, last := if pass then 1 else 2, selftest := false }
    let s := (s.setCore core k).raise (pgCore core) 4
    let s := if pass then s.returnCore core
      else
        let s := s.setCore core k.removed
        let s := { s with ras := { s.ras with failed := satAdd 8 s.ras.failed 1 } }
        (s.raise pgRas 4).logRas (pgCore core) 2 0x22 none core
    .next (s.sweepPast core (core + 1))

/-- FTQ_CLEAR (R155). -/
def State.clearFtq (s : State) (c : Nat) : State := s.setCore c { s.core c with ftqHigh := (s.core c).ftq.length }

def execFtqClear (t fn core : Nat) (s : State) : Res :=
  let s := (s.tick t).access fn (pgCore core)
  .next (if s.coreOpens fn core then s.clearFtq core else s)

/-- A write to SELFTEST_CTRL. -/
def State.writeSelftest (s : State) (v : Nat) : State :=
  let s := { s with ras := { s.ras with interval := sl v 15 8, lanes := bit v 0 } }
  if bit v 31 then s.sweepStart else s

/-- SWEEP (R395). -/
def execSweep (t fn value : Nat) (s : State) : Res :=
  let s := (s.tick t).access fn pgRas
  .next (if pf0 fn && s.opens fn pgRas then s.writeSelftest value else s)

/-- SWEEP_INTERVAL (R395): the timer of INTERVAL_H expires. -/
def execSweepInterval (t : Nat) (s : State) : Res :=
  let s := s.tick t
  .next (if s.live && !s.ras.cpActive && s.ras.interval ≠ 0 then s.sweepStart else s)

/-! ### Engine resets (R153, R379, R381, R407) -/

/-- A core that an engine reset has taken leaves the pool (R287), and the sweep passes one that is removed. -/
def State.sweepAfterReset (s : State) (page : Nat) : State :=
  match pageOf page with
  | .core c =>
    let s := s.tidyCores.rebalance s.heldCounts
    if (s.core c).st = 6 then s.sweepPast c (c + 1) else s
  | _ => s

/-- MULTI_BIT_ERROR (R153): CORE bit 0, then the core's engine reset, whose record names the context (R375). -/
def execMultiBitError (t core : Nat) (s : State) : Res :=
  let s := s.tick t
  if !s.live || core ≥ s.ident.variant.cores || s.ras.cpActive || (s.hdr (pgCore core)).reset || (s.core core).st = 6 then
    .next s
  else
    let owner := (s.core core).owner
    let s := (s.raise (pgCore core) 1).engineStart (pgCore core) 0
    .next ((s.modHdr (pgCore core) (fun h => { h with resetCtx := owner })).sweepAfterReset (pgCore core))

/-- ENGINE_RESET (R379): reason 0 multi-bit error, 1 watchdog, 2 request. -/
def execEngineReset (t page reason : Nat) (s : State) : Res :=
  let s := s.tick t
  .next (if s.live && reason < 3 then (s.engineStart page reason).sweepAfterReset page else s)

/-- ENGINE_RESET_DONE (R379). -/
def execEngineResetDone (t page : Nat) (s : State) : Res :=
  let s := s.tick t
  if !s.running || !(s.hdr page).reset then .next s
  else
    let s := (s.engineEnd page).windowResume
    let s := (List.range 64).foldl (fun s c => s.wakeData c) s
    .next (match pageOf page with | .core c => s.sweepPast c c | _ => s)

/-- HANG_WATCHDOG (R407): the engine holds work and has retired none for HANG_MS; a supply hold does not count. -/
def execHangWatchdog (t page : Nat) (s : State) : Res :=
  let s := s.tick t
  let h := s.hdr page
  if s.live && engineOf (pageOf page) && s.present (pageOf page) && !h.reset && !s.pwr.hold then
    let s := s.setHdr page { h with expiries := satAdd 16 h.expiries 1, longest := max h.longest (min h.hangMs 65535) }
    .next ((s.engineStart page 1).sweepAfterReset page)
  else .next s

/-- ENGINE_RESET_WATCHDOG (R379): not done within 1 ms. Whether a port's replay state is lost is not given: free (log 7). -/
def execEngineResetWatchdog (t page : Nat) (s : State) : Res :=
  let s := s.tick t
  let h := s.hdr page
  if !s.running || !h.reset || s.clk.now < h.resetAt + 1000000 then .next s
  else
    let s := s.setHdr page { h with expiries := satAdd 16 h.expiries 1 }
    match pageOf page with
    | .core _ => .next ((s.setHdr page { s.hdr page with reset := false }).cpStart causeEngineWatchdog)
    | .port q =>
      let v := s.draw
      if v.1 % 2 = 1 then .next (v.2.packageReset causeHang)
      else
        let s := (v.2.setHdr page { v.2.hdr page with reset := false }).portDown q
        .next (s.setPort q { s.port q with enable := false })
    | _ => if pgLink2 0 ≤ page then .next (s.cpStart causeEngineWatchdog) else .next (s.packageReset causeHang)

/-! ### Compute-part reset (R383, R384) -/

/-- COMPUTE_PART_RESET (R383). -/
def execComputePartReset (t cause : Nat) (s : State) : Res :=
  let s := s.tick t
  .next (if s.running then s.cpStart (cause % 256) else s)

/-- Quanta resume when neither a compute-part reset nor an activation pauses them (R368). -/
def State.resume (s : State) : State := if s.paused then s else s.resumeQuanta

/-- COMPUTE_PART_RESET_DONE (R384): quanta resume, the queues go on, a sweep goes on. -/
def execComputePartResetDone (t : Nat) (s : State) : Res :=
  let s := s.tick t
  if s.ras.cpActive then
    let s := s.cpDone.resume
    .next (if s.ras.sweep then s.sweepFrom s.ras.sweepCore else s)
  else .next s

/-- A write to RESET_CTRL. -/
def State.writeResetCtrl (s : State) (v : Nat) : State := if bit v 0 then s.cpStart causePf0 else s

/-- CP_RESET (R383). -/
def execCpReset (t fn value : Nat) (s : State) : Res :=
  let s := (s.tick t).access fn pgRas
  .next (if pf0 fn && s.opens fn pgRas then s.writeResetCtrl value else s)

/-! ### Further watchdogs (R380) -/

/-- CP_RESET_WATCHDOG: 100 ms. -/
def execCpResetWatchdog (t : Nat) (s : State) : Res :=
  let s := s.tick t
  .next (if s.ras.cpActive && s.ras.cpAt + 100000000 ≤ s.clk.now then s.packageReset causeCpWatchdog else s)

/-- A service entry of a queue has started. -/
def Queue.serving (y : Queue) : Bool :=
  (match y.entry with | some e => serviceOp e.op | none => false) && (y.begun || y.phase = .running)
    && (match y.phase with | .ready | .running | .parked _ .ready | .parked _ .running => true | _ => false)

/-- The service entries processor n was running complete with RESET_LOST. -/
def State.loseServices (s : State) (n : Nat) : State :=
  (List.range 64).foldl (fun s c => (List.range 16).foldl (fun s q =>
    if ((s.ctx c).queue q).serving && serverOf ⟨c, q⟩ = n then s.finishEntry ⟨c, q⟩ .resetLost else s) s) s

/-- CONTROL_PROCESSOR_WATCHDOG: the processor restarts; a second expiry within 60 s is a package reset. A halted processor's
watchdog is suspended (R424). -/
def execControlProcessorWatchdog (t cp : Nat) (s : State) : Res :=
  let s := s.tick t
  let k := s.cp cp
  if !s.live || cp ≥ 16 || k.halt then .next s
  else if k.expired.any (fun a => s.clk.now < a + 60000000000) then .next (s.packageReset causeProcessor)
  else .next ((s.setCp cp { k with expired := [s.clk.now] }).loseServices cp)

/-- MGMT_WATCHDOG: Oliastor connections close. -/
def execMgmtWatchdog (t : Nat) (s : State) : Res :=
  let s := s.tick t
  .next (if s.running then
    s.closeConns (fun _ => false)
  else s)

/-- SECURITY_WATCHDOG. -/
def execSecurityWatchdog (t : Nat) (s : State) : Res :=
  let s := s.tick t
  .next (if s.running then s.packageReset causeProcessor else s)

/-! ### Package reset and boot (R364, R386, R393) -/

/-- PACKAGE_RESET, with a cause of R398. -/
def execPackageReset (t cause : Nat) (s : State) : Res :=
  let s := s.tick t
  .next (if s.powered && s.boot ≠ .standby && s.boot ≠ .tripHeld && cause < 256 then s.packageReset cause else s)

/-- The images ROM boot starts; none when a component has none that passes (R364, R367). -/
def Firmware.boot (f : Firmware) : Option Firmware :=
  match f.sec.boot true, f.mgmt.boot false, f.ctrl.boot false, f.link.boot true with
  | some a, some b, some c, some d => some { f with sec := a, mgmt := b, ctrl := c, link := d }
  | _, _, _, _ => none

/-- BOOT_COMPLETE (R22, R301, R350, R369, R386): new table and reserve keys, the cores in the pool, record 0x40, held hallmark
requests, a battery-low event not yet told (R29); or ROM recovery. Without fresh values for the keys it waits (R350). -/
def execBootComplete (t : Nat) (s : State) : Res :=
  let s := s.tick t
  if s.boot ≠ .booting ∨ !s.pins.modResetN ∨ !s.resetOver then .next s
  else
    match s.fw.boot with
    | none => .next (State.railsBack { s with boot := .recovery } (fun r => decide (r ≠ 14))).linkTrains
    | some f =>
      if !s.sec.trngOk then .next (s.waitFresh .boot) else
      let a := s.secret
      let b := a.2.secret
      let s := { b.2 with
        boot := .running
        fw := f
        mem := { b.2.mem with tableKey := a.1, reserveKey := b.1 }
        sec := { b.2.sec with reseeds := b.2.sec.reseeds + 1 }
        pins := { b.2.pins with tripAlert := false } }
      let s := (s.enterPool.railsBack (fun r => decide (r ≠ 14))).linkTrains
      let s := { s with sched := { s.sched with k := s.gridNow } }
      let s := s.logRas pgRas 4 0x40 none s.ras.bootCause
      let s := if s.pins.lowInput then s.logRas pgPwrclk 5 0x52 none s.pins.inputMv else s
      .next s.tellBattery.answerHeld

end Sys2Proof.Machine
end

