-- ==== Sys2Proof/Machine/Pages.lean ====
section
/-! DEFINITION. What the registers of every page read as (R5, R278, R125, R155, R196, R197, R239 to R241, R277, R300, R329, R330, R345,
R346, R398, R399, R406, R411 to R413, R430 to R433). -/

namespace Sys2Proof.Machine

/-- The low and the high half of a 64-bit pair (R404). -/
def lo32 (v : Nat) : Nat := v % 2 ^ 32
def hi32 (v : Nat) : Nat := v / 2 ^ 32 % 2 ^ 32

/-- Words of byte strings by offset from a base. -/
def wordAt (b : Bytes) (n : Nat) : Nat := fld b (4 * n) 4

/-! ### The common header (R406) -/

/-- Block type and instance of a page. -/
def Page.kind : Page → Nat × Nat
  | .top => (0x01, 0) | .core c => (0x10, c) | .near i => (0x20, i) | .bulk i => (0x21, i) | .place => (0x30, 0)
  | .mmu => (0x31, 0) | .ctx c => (0x32, c) | .port p => (0x40, p) | .route => (0x41, 0) | .reduce => (0x42, 0)
  | .memcrypt => (0x50, 0) | .linkcrypt => (0x51, 0) | .hostif => (0x52, 0) | .sched => (0x60, 0)
  | .numeric => (0x61, 0) | .ras => (0x62, 0) | .pwrclk => (0x63, 0) | .perf => (0x64, 0)
  | .perturb => (0x65, 0) | .debug => (0x66, 0) | .none => (0, 0)

def Page.isCore : Page → Bool
  | .core _ => true
  | _ => false

/-- The number of defined interrupt bits. -/
def irqBits (p : Page) : Nat := popcount (irqMask p) 8

/-- The block is in service (READY). -/
def State.ready_ (s : State) (i : Nat) : Bool :=
  s.live && !s.pageReset i &&
    (match pageOf i with
     | .core c => decide ((s.core c).st ≠ 6)
     | .port p => !(s.port p).removed
     | _ => true)

/-- `ERR_CTX`, `RAS` words of a named context. -/
def ctxWord : Option (Nat × Nat) → Nat
  | none => 0
  | some (c, g) => pack [(31, 1, 1), (16, 8, g), (0, 6, c)]

/-- `CORE_CTRL.DRAIN` (R154, R391). DESIGN CHOICE (log 125): a compute-part reset clears the core's own bit, and the region keeps its
drain and its clock. -/
def State.drainBit (s : State) (c : Nat) : Bool := (s.core c).drain || s.regionDrained c

/-- RESET_US of a page. -/
def resetUs (p : Page) : Nat := if engineOf p then 1000 else match p with | .ras => 100000 | _ => 0

def State.hdrReg (s : State) (i off : Nat) : Nat :=
  let p := pageOf i
  let h := s.hdr i
  match off with
  | 0x00 => pack [(24, 8, 1), (16, 8, p.kind.2), (0, 16, p.kind.1)]
  | 0x04 => pack [(8, 8, irqBits p), (2, 1, b2n (engineOf p)), (1, 1, b2n (engineOf p)), (0, 1, b2n p.isCore)]
  | 0x08 =>
    pack [(2, 1, b2n h.reset),
      (1, 1, match p with | .core c => b2n (s.drainBit c) | _ => 0),
      (0, 1, match p with | .port q => b2n (s.port q).enable | _ => 1)]
  | 0x0C =>
    pack [(3, 1, b2n (s.pageReset i)),
      (2, 1, match p with | .core c => b2n (decide ((s.core c).st = 4)) | _ => 0),
      (1, 1, b2n (s.ready_ i)), (0, 1, 1)]
  | 0x10 => h.stat
  | 0x14 => s.irqEn i
  | 0x1C => (match p with | .ctx _ => 0 | _ => h.route)
  | 0x20 => pack [(31, 1, b2n h.errValid), (8, 3, h.errClass), (0, 8, h.errCode)]
  | 0x24 => h.errCount
  | 0x28 => ctxWord h.errCtx
  | 0x2C => h.errInfo
  | 0x30 => pack [(24, 8, if engineOf p then h.hangMs else 0), (0, 21, resetUs p)]
  | 0x34 => pack [(16, 16, h.expiries), (0, 16, h.longest)]
  | _ => 0

/-! ### TOP (R411, R412) -/

def State.topReg (s : State) (off : Nat) : Nat :=
  let v := s.ident.variant
  match off with
  | 0x40 => v.order
  | 0x44 => pack [(31, 1, b2n v.assay), (30, 1, b2n v.bank1), (24, 6, v.ports), (19, 5, v.bulk), (15, 4, v.near),
      (13, 2, v.dies), (0, 7, v.cores)]
  | 0x48 => pack [(8, 1, b2n (s.laser 0).present), (9, 1, b2n (s.laser 1).present), (0, 3, s.pins.slotId)]
  | 0x4C => 0x01000301
  | 0x50 => s.frameCount
  | 0x54 => v.nominalFrames
  | 0x58 => v.saveKib
  | 0x5C => pack [(16, 16, 1024), (8, 8, 64), (0, 8, 64)]
  | 0x60 => lo32 s.ident.serial
  | 0x64 => hi32 s.ident.serial
  | 0x68 => pack [(10, 1, b2n s.sec.domain.isSome), (9, 1, b2n s.pcie.bar4), (8, 1, b2n s.sec.fuse), (0, 3, lifeCode s.sec.lifecycle)]
  | 0x70 => lo32 s.clk.time
  | 0x74 => hi32 s.clk.time
  | _ => 0

/-! ### CORE (R155) -/

/-- TAG of the entry whose tiles a core is running: of the work it holds; 0 when it is idle. -/
def Core.runTag (k : Core) : Nat := if k.st = 2 ∨ k.st = 3 then ((k.loads.head?).map (·.tag)).getD 0 else 0

/-- The working set that `OS_STAT` shows: 0 of a core without work. -/
def Core.allocKib (k : Core) : Nat := if k.ctx.isNone && k.sprig.isNone && k.loads.isEmpty then 0 else k.workKib

/-- `CORE_STATE.STATE`: a core whose owner has nothing to run is idle. -/
def State.coreState (s : State) (c : Nat) : Nat :=
  let k := s.core c
  if k.st = 2 then
    match k.owner with
    | some x => if s.runnable x then 2 else 1
    | none => 1
  else k.st

def State.coreReg (s : State) (c off : Nat) : Nat :=
  let k := s.core c
  let loaded := match k.sprig with | some x => some x | none => k.ctx
  match off with
  | 0x40 => pack [(10, 2, c / 10 % 4), (8, 1, c / 40), (0, 7, c)]
  | 0x44 => pack [(11, 1, b2n k.sprig.isSome), (10, 1, b2n loaded.isSome), (4, 6, loaded.getD 0), (0, 3, s.coreState c)]
  | 0x48 => pack [(1, 1, b2n k.selftest), (0, 1, b2n (s.drainBit c))]
  | 0x4C => pack [(16, 16, k.runs), (0, 2, k.last)]
  | 0x50 => lo32 k.tiles
  | 0x54 => hi32 k.tiles
  | 0x58 => k.corr
  | 0x5C => pack [(8, 5, k.ftqHigh), (0, 5, k.ftq.length)]
  | 0x60 => pack [(16, 13, max k.peak k.allocKib), (0, 13, k.allocKib)]
  | 0x64 => k.runTag
  | 0x68 => (s.region (c / 10)).mhz
  | _ => 0

/-! ### NEARMC, BULKMC and PLACE (R196, R197) -/

def State.mcReg (s : State) (bulk : Bool) (i off : Nat) : Nat :=
  let k := if bulk then 16 + i else i
  let m := s.mc k
  match off with
  | 0x40 => pack [(31, 1, b2n bulk), (8, 8, if bulk then 128 else 64), (0, 4, i)]
  | 0x44 => pack [(8, 8, m.hours), (0, 1, b2n m.patrol)]
  | 0x48 => pack [(16, 16, m.passes), (0, 7, m.percent)]
  | 0x4C => m.corr
  | 0x50 => m.uncorr
  | 0x54 => tget 0 s.ident.retired k % 65536
  | _ => 0

def State.placeReg (s : State) (off : Nat) : Nat :=
  let m := s.mem
  match off with
  | 0x40 => b2n m.migrate
  | 0x44 => m.migBw
  | 0x48 => s.frameCount
  | 0x4C => s.nearUsable
  | 0x50 => s.nearPinLimit
  | 0x54 => m.pinSel
  | 0x58 => s.pinQuota m.pinSel
  | 0x5C => (s.pinnedOf m.pinSel).length
  | 0x60 => (((m.pins.map (·.frame)).eraseDups).filter (fun f => !m.pins.any (fun p => p.ok && p.frame = f))).length
  | 0x64 => lo32 m.migDone
  | 0x68 => hi32 m.migDone
  | 0x6C => m.migCancel
  | 0x70 => m.stallMax
  | 0x74 => pack [(16, 16, m.retiredNow), (0, 11, m.spares)]
  | 0x78 => m.seqPerCtx
  | 0x7C => pack [(16, 16, m.untracked), (0, 7, m.seqs.length)]
  | _ => 0

/-! ### MMU and CTX (R277, R278, R345, R346, R348) -/

def State.mmuReg (s : State) (off : Nat) : Nat :=
  let m := s.mem
  match off with
  | 0x40 => m.winCtrl
  | 0x44 => m.scrubFrame
  | 0x48 => pack [(31, 1, b2n m.scrubGo.isSome), (0, 26, m.scrubCount)]
  | 0x4C => m.expIdx
  | 0x50 => tget 0 m.exports m.expIdx
  | _ => 0

/-- The record of the selected fence, when the device can read it. -/
def State.fenceShown (s : State) (c : Nat) : Option Bytes :=
  let x := s.ctx c
  if x.record.isNone || x.fenceSel ≥ (s.ctxRec c).fenceCount then none
  else
    match s.fenceRec c x.fenceSel with
    | .ok (some b) => some b
    | _ => none

def State.ctxReg (s : State) (c off : Nat) : Nat :=
  let x := s.ctx c
  let y := x.queue x.qsel
  let mode := (s.ctxRec c).mode
  if off ≥ 0xF00 then (if off < 0xF38 then s.topReg (off - 0xEC0) else 0)
  else
    match off with
    | 0x44 => pack [(24, 8, x.createErr), (16, 8, x.gen), (6, 1, b2n (x.parked.any (·.replayable))), (5, 1, b2n (bit mode 1)),
        (4, 1, b2n (bit mode 0)), (0, 3, x.state)]
    | 0x48 => lo32 x.recAddr
    | 0x4C => hi32 x.recAddr
    | 0x50 => x.qsel
    | 0x54 => lo32 y.base
    | 0x58 => hi32 y.base
    | 0x5C => pack [(31, 1, b2n y.enable), (30, 1, b2n y.error), (16, 5, y.depth), (1, 1, b2n y.sprig)]
    | 0x60 => y.head
    | 0x64 => pack [(24, 8, y.lastStatus), (8, 3, if y.err ≠ 0 then y.err else if x.winErr then 4 else 0)]
    | 0x6C => pack [(31, 1, b2n x.overflow), (16, 13, (x.parked.filter (·.replayable)).length), (0, 16, x.produced)]
    | 0x70 => x.consumed
    | 0x74 => pack [(16, 8, ((s.fenceShown c).map (fun b => fld b 8 1)).getD 0), (0, 16, x.fenceSel)]
    | 0x78 => ((s.fenceShown c).map (fun b => fld b 0 4)).getD 0
    | 0x7C => ((s.fenceShown c).map (fun b => fld b 4 4)).getD 0
    | 0x80 => lo32 x.invalVa
    | 0x84 => hi32 x.invalVa
    | 0x88 => pack [(31, 1, b2n x.invalGo), (0, 26, x.invalPages)]
    | 0x8C => x.obsSel
    | 0x90 => lo32 (tget 0 x.obsLatch x.obsSel)
    | 0x94 => hi32 (tget 0 x.obsLatch x.obsSel)
    | 0x98 => pack [(24, 8, s.epoch.number), (20, 4, s.epoch.throttle), (8, 8, s.epoch.temp), (0, 8, s.epoch.power)]
    | 0x9C => x.hostMode
    | _ => 0

/-! ### PORT, ROUTE and REDUCE (R239 to R241) -/

def State.portReg (s : State) (q off : Nat) : Nat :=
  let p := s.port q
  let l := p.lane p.laneSel
  match off with
  | 0x40 => pack [(16, 1, (s.feeds q).getD (s.homeUnit q)), (8, 2, q / 8), (0, 5, q)]
  | 0x44 => pack [(16, 8, p.activeMask), (8, 4, p.active.length), (0, 3, p.st)]
  | 0x48 => pack [(8, 8, p.laneOff), (4, 3, p.recalLane), (1, 1, b2n !p.recalOps.isEmpty), (0, 1, b2n p.enable)]
  | 0x4C => pack [(16, 5, p.peerPort), (0, 16, p.peerId)]
  | 0x50 => p.laneSel
  | 0x54 => pack [(16, 16, l.rxpwr), (8, 8, l.margin), (0, 2, l.st)]
  | 0x58 => l.corr
  | 0x5C => l.uncorr
  | 0x60 => p.replays
  | 0x64 => p.genDrop
  | 0x68 => p.dupDrop
  | _ => 0

/-- An alternative of a routing entry: valid, port. -/
def altField (as : List Nat) (k : Nat) : Nat :=
  match as[k]? with
  | some p => 32 + p % 32
  | none => 0

def State.routeReg (s : State) (off : Nat) : Nat :=
  let f := s.fab
  let as := tget [] f.table f.rtIdx
  match off with
  | 0x40 => f.moduleId
  | 0x44 => f.rtIdx
  | 0x48 => pack [(31, 1, b2n !as.isEmpty), (30, 1, b2n (!as.isEmpty && !(as.any (fun q => (s.port q).chosen || (s.port q).waits)))), (18, 6, altField as 3),
      (12, 6, altField as 2), (6, 6, altField as 1), (0, 6, altField as 0)]
  | 0x4C => pack [(31, 1, b2n s.clk.root), (5, 1, b2n s.clk.parent.isSome), (0, 5, s.clk.parent.getD 0)]
  | 0x50 => ofSigned 32 s.clk.offset
  | 0x54 => pack [(8, 4, s.clk.hops), (0, 1, b2n s.clk.locked)]
  | 0x58 => f.hopDrop
  | _ => 0

def mib (n : Nat) : Nat := cdiv n 1048576

def State.reduceReg (s : State) (off : Nat) : Nat :=
  let f := s.fab
  match off with
  | 0x40 => pack [(16, 16, 128), (0, 1, b2n s.ident.variant.bank1)]
  | 0x44 => f.guard
  | 0x48 => pack [(16, 13, f.high), (0, 13, s.inFlight)]
  | 0x4C => pack [(16, 8, mib f.bufPeak), (0, 8, mib s.redUsed)]
  | 0x50 => f.lateDrop
  | 0x54 => f.epochDrop
  | 0x58 => f.nfBuckets
  | 0x5C => f.lostBuckets
  | _ => 0

/-! ### MEMCRYPT, LINKCRYPT and HOSTIF (R329, R330, R413) -/

def State.memcryptReg (s : State) (off : Nat) : Nat :=
  let m := s.mem
  match off with
  | 0x40 => pack [(16, 16, 8192), (12, 3, s.ident.variant.treeLevels), (0, 10, 512)]
  | 0x44 => pack [(16, 10, s.freeSlots), (0, 3, s.annealing.length)]
  | 0x48 => m.annealReq
  | 0x4C => pack [(16, 16, m.annealQ.length), (0, 16, m.annealDone)]
  | 0x50 => m.annealBw
  | 0x54 => lo32 m.reenc
  | 0x58 => hi32 m.reenc
  | 0x5C => m.exhausted
  | 0x60 => m.tagFail
  | 0x64 => m.replayFail
  | 0x68 => (match m.failedFrame with | some f => pack [(31, 1, 1), (0, 26, f)] | none => 0)
  | _ => 0

def State.linkcryptReg (s : State) (off : Nat) : Nat :=
  let p := s.port s.fab.lcSel
  match off with
  | 0x40 => s.fab.lcSel
  | 0x44 => pack [(31, 1, b2n p.link.established), (0, 16, p.sessions)]
  | 0x48 => lo32 p.link.txCtr
  | 0x4C => hi32 p.link.txCtr
  | 0x50 => p.authFail
  | 0x54 => p.ctrDrop
  | 0x58 => s.fab.xferFail
  | _ => 0

def State.hostifReg (s : State) (off : Nat) : Nat :=
  let p := s.pcie
  match off with
  | 0x40 => pack [(8, 1, b2n p.flit), (4, 4, p.width), (0, 4, p.speed)]
  | 0x44 => p.tdiSel
  | 0x48 => pack [(8, 1, b2n (tget false p.ide p.tdiSel)), (0, 2, tget 0 p.tdi p.tdiSel)]
  | 0x4C => p.timeouts
  | _ => 0

/-! ### SCHED and NUMERIC (R125, R300) -/

def State.schedReg (s : State) (off : Nat) : Nat :=
  let d := s.sched
  let x := s.charge.ctx d.sel
  match off with
  | 0x40 => d.quantum
  | 0x44 => d.round
  | 0x48 => s.strictLimit
  | 0x4C => pack [(16, 16, d.maxUs), (8, 8, d.idleUs), (0, 1, b2n d.sprigs)]
  | 0x50 => pack [(8, 6, d.resSel), (0, 7, s.reserved d.resSel)]
  | 0x54 => d.sel
  | 0x58 => pack [(15, 1, b2n (if x.strict then s.hasWork d.sel else s.runnable d.sel)),
      (14, 1, b2n x.periodic), (13, 1, b2n x.strict), (0, 7, s.holds d.sel)]
  | 0x5C => lo32 (x.time / 1000)
  | 0x60 => hi32 (x.time / 1000)
  | 0x64 => min (s.sprigAll d.sel) (2 ^ 32 - 1)
  | 0x68 => x.overruns
  | 0x6C => pack [(30, 1, b2n d.reloadErr), (0, 6, d.reloadCtx)]
  | _ => 0

def State.numericReg (s : State) (off : Nat) : Nat :=
  let n := s.num
  match off with
  | 0x40 => 0x00000301
  | 0x44 => pack [(16, 5, n.log2n), (0, 1, b2n n.enable)]
  | 0x48 => n.threshA
  | 0x4C => n.threshB
  | 0x50 => lo32 n.sampled
  | 0x54 => hi32 n.sampled
  | 0x58 => n.diverge
  | 0x5C => n.lastTag
  | 0x60 => n.lastInfo
  | 0x64 => n.histSel
  | 0x68 => tget 0 n.hist n.histSel
  | _ => 0

/-! ### RAS and PWRCLK (R376, R398, R399) -/

/-- The 32 bytes of a RAS record. -/
def RasRec.bytes (r : RasRec) : Bytes :=
  toLE 8 r.time ++ toLE 4 r.seq ++ toLE 2 r.page ++ toLE 1 (r.cls % 8) ++ toLE 1 r.code
    ++ toLE 1 (match r.ctx with | some (c, _) => 128 + c % 64 | none => 0) ++ toLE 1 ((r.ctx.map (·.2)).getD 0)
    ++ toLE 1 (b2n r.routed + 2 * b2n r.acked) ++ zeros 5 ++ toLE 8 r.info

/-- The record in a ring entry. -/
def State.ringEntry (s : State) (n : Nat) : Bytes :=
  ((s.ras.log.find? (fun r => r.seq % 1024 = n)).map (·.bytes)).getD (zeros 32)

def State.rasReg (s : State) (off : Nat) : Nat :=
  let r := s.ras
  match off with
  | 0x40 => pack [(16, 16, r.produced), (0, 11, s.unack)]
  | 0x44 => r.logSel
  | 0x68 => r.mask
  | 0x6C => b2n r.cpActive
  | 0x70 => pack [(24, 8, r.bootCause), (16, 8, r.cpCause), (8, 8, r.cpCount), (0, 1, b2n r.cpActive)]
  | 0x74 => pack [(31, 1, b2n r.sweep), (8, 8, r.interval), (0, 1, b2n r.lanes)]
  | 0x78 => pack [(24, 8, r.failed), (23, 1, b2n r.sweep), (16, 7, if r.sweepCore < s.ident.variant.cores then r.sweepCore else 0),
      (0, 16, r.sweeps)]
  | _ => if 0x48 ≤ off ∧ off < 0x68 then wordAt (s.ringEntry r.logSel) ((off - 0x48) / 4) else 0

/-- `REGION_STAT.STATE`. -/
def State.regionState (s : State) (r : Nat) : Nat :=
  let g := s.region r
  if !s.regions.contains r then 5
  else if g.drained ≠ 0 then 4
  else if g.pulling.isSome then 2
  else if g.throttle then 1 else 0

def State.pwrReg (s : State) (off : Nat) : Nat :=
  let p := s.pwr
  let l := s.rail p.railSel
  let g := s.region p.regionSel
  let us := (p.throttleNs + (match p.thrAt with | some a => s.clk.now - a | none => 0)) / 1000
  match off with
  | 0x40 => p.railSel
  | 0x44 => pack [(16, 16, l.excursions), (14, 2, if s.railPresent p.railSel then l.st else 2), (0, 14, l.mv)]
  | 0x48 => p.regionSel
  | 0x4C => pack [(29, 3, s.regionState p.regionSel), (16, 8, g.temp), (0, 12, g.mhz)]
  | 0x50 => g.mv % 4096
  | 0x54 => pack [(16, 16, s.limit), (0, 16, p.watts)]
  | 0x58 => p.limitReg.getD s.ident.variant.maxPower
  | 0x5C => pack [(16, 8, p.sysdie), (8, 8, p.outlet), (0, 8, p.inlet)]
  | 0x60 => pack [(16, 16, s.pins.inputDa), (0, 16, s.pins.inputMv)]
  | 0x64 => if s.running then pack [(2, 1, b2n s.clk.held), (1, 1, b2n !s.clk.pcieLost), (0, 1, b2n !s.clk.held)] else 0
  | 0x68 => lo32 us
  | 0x6C => hi32 us
  | _ => 0

/-! ### PERF, PERTURB and DEBUG (R430 to R433) -/

def State.perfReg (s : State) (off : Nat) : Nat :=
  let x := tget {} s.test.pcs s.test.pcSel
  match off with
  | 0x40 => s.test.pcSel
  | 0x44 => x.cfg
  | 0x48 => x.tag
  | 0x4C => lo32 x.val
  | 0x50 => hi32 x.val
  | 0x54 => b2n s.test.freeze
  | _ => 0

def State.perturbReg (s : State) (off : Nat) : Nat :=
  let t := s.test
  match off with
  | 0x40 => pack [(16, 16, t.arms), (0, 1, b2n t.arm)]
  | 0x44 => pack [(24, 5, t.ptPort), (0, 16, tget 0 t.delays t.ptPort)]
  | 0x48 => pack [(16, 16, t.every), (0, 13, t.holdNs)]
  | 0x4C => pack [(24, 8, t.redbuf), (8, 13, t.osKib), (0, 5, t.ftq)]
  | 0x50 => t.stall
  | 0x54 => pack [(31, 1, b2n t.force), (24, 3, t.region), (0, 12, t.mhz)]
  | _ => 0

def State.debugReg (s : State) (off : Nat) : Nat :=
  let d := s.dbg
  let k := s.cp d.cpSel
  match off with
  | 0x40 => pack [(16, 16, (List.range 16).foldl (fun a n => a + b2n (s.cp n).halt * 2 ^ n) 0), (0, 1, b2n d.session)]
  | 0x44 => pack [(31, 1, b2n k.halt), (0, 4, d.cpSel)]
  | 0x48 => if k.halt then k.pc else 0
  | 0x7C => lo32 d.fvAddr
  | 0x80 => hi32 d.fvAddr
  | 0x84 => pack [(30, 1, b2n d.fvWrite), (1, 1, b2n d.fvValid), (0, 1, b2n d.fvReplay)]
  | 0x180 => lo32 d.fvTag
  | 0x184 => hi32 d.fvTag
  | 0x188 => pack [(8, 1, b2n d.fvPoison), (0, 8, d.fvMinor)]
  | _ =>
    if 0x4C ≤ off ∧ off < 0x5C then (k.bps[(off - 0x4C) / 4]?).getD 0
    else if 0x5C ≤ off ∧ off < 0x6C then
      let b := s.wl ((off - 0x5C) / 4)
      pack [(31, 1, b2n b.enable), (30, 1, b2n b.step), (29, 1, b2n b.held.isSome), (0, 6, b.slot)]
    else if 0x6C ≤ off ∧ off < 0x7C then (s.wl ((off - 0x6C) / 4)).tag
    else if 0x100 ≤ off ∧ off < 0x180 then wordAt d.fvData ((off - 0x100) / 4)
    else 0

/-! ### Every page -/

/-- What a register reads as: 0 at every offset of an absent unit and of an index no block is assigned to (R5, R400, R410). -/
def State.regValue (s : State) (i off : Nat) : Nat :=
  if !s.present (pageOf i) || off % 4 ≠ 0 || off ≥ 4096 then 0
  else if off < 0x40 then s.hdrReg i off
  else
    match pageOf i with
    | .top => s.topReg off
    | .core c => s.coreReg c off
    | .near k => s.mcReg false k off
    | .bulk k => s.mcReg true k off
    | .place => s.placeReg off
    | .mmu => s.mmuReg off
    | .ctx c => s.ctxReg c off
    | .port p => s.portReg p off
    | .route => s.routeReg off
    | .reduce => s.reduceReg off
    | .memcrypt => s.memcryptReg off
    | .linkcrypt => s.linkcryptReg off
    | .hostif => s.hostifReg off
    | .sched => s.schedReg off
    | .numeric => s.numericReg off
    | .ras => s.rasReg off
    | .pwrclk => s.pwrReg off
    | .perf => s.perfReg off
    | .perturb => s.perturbReg off
    | .debug => s.debugReg off
    | .none => 0

/-! ### Values no command sets -/

/-- Measurements, and counts of what happens inside the units without a command, move on by free amounts when they are read (log 7):
an optical measurement of a port with light, corrected errors of a core that has had work, sensors, open counter sets, the longest
span without progress. -/
def State.observe (s : State) (i off : Nat) : State :=
  if !s.present (pageOf i) then s
  else if off = 0x34 && engineOf (pageOf i) then
    let v := s.draw
    v.2.modHdr i (fun h => { h with longest := max h.longest (v.1 % (h.hangMs + 1)) })
  else
    match pageOf i with
    | .core c =>
      let k := s.core c
      let v := s.draw
      if off = 0x58 && k.used then v.2.setCore c { k with corr := satAdd 32 k.corr v.1 } else s
    | .port q =>
      let p := s.port q
      let l := p.lane p.laneSel
      let v := s.draw
      if !p.light then s
      else match off with
      | 0x54 => v.2.setPort q (p.setLane p.laneSel { l with rxpwr := v.1 % 65536 })
      | 0x58 => v.2.setPort q (p.setLane p.laneSel { l with corr := satAdd 32 l.corr v.1 })
      | 0x5C => v.2.setPort q (p.setLane p.laneSel { l with uncorr := satAdd 32 l.uncorr v.1 })
      | _ => s
    | .pwrclk =>
      let v := s.draw
      match off with
      | 0x44 => if s.running then v.2.setRail s.pwr.railSel { s.rail s.pwr.railSel with mv := v.1 % 16384 } else s
      | 0x5C =>
        if !s.running then s else { v.2 with pwr := { v.2.pwr with sysdie := v.1 % 256, outlet := v.1 / 256 % 256, inlet := v.1 / 65536 % 256 } }
      | 0x60 => if !s.running then s else { v.2 with pins := { v.2.pins with inputMv := v.1 % 65536, inputDa := v.1 / 65536 % 65536 } }
      | _ => s
    | .perf =>
      let x := tget {} s.test.pcs s.test.pcSel
      if off = 0x4C && x.open_ then
        let v := s.draw
        { v.2 with test := { v.2.test with pcs := tput {} v.2.test.pcs s.test.pcSel { x with val := satAdd 64 x.val v.1 } } }
      else s
    | _ => s

/-- A value that is free as it is read (log 7): a fence the device cannot read. -/
def State.openRead (s : State) (i off : Nat) : Option (Nat → Nat) :=
  match pageOf i with
  | .ctx c =>
    if (s.fenceShown c).isSome then none
    else if off = 0x74 then some (fun v => pack [(16, 8, v), (0, 16, (s.ctx c).fenceSel)])
    else if off = 0x78 ∨ off = 0x7C then some lo32
    else none
  | _ => none

/-- A read of a register: its value and the state after it. -/
def State.readReg (s : State) (i off : Nat) : Nat × State :=
  let s := s.observe i off
  match s.openRead i off with
  | some f =>
    let v := s.draw
    (f v.1, v.2)
  | none => (s.regValue i off, s)

/-- The `_LO` registers of a page (R404). -/
def isLo (p : Page) (off : Nat) : Bool :=
  match p with
  | .top => off = 0x60 || off = 0x70
  | .core _ => off = 0x50
  | .place => off = 0x64
  | .ctx _ => [0x48, 0x54, 0x78, 0x80, 0x90, 0xF20, 0xF30].contains off
  | .memcrypt => off = 0x54
  | .linkcrypt => off = 0x48
  | .sched => off = 0x5C
  | .numeric => off = 0x50
  | .pwrclk => off = 0x68
  | .perf => off = 0x4C
  | .debug => off = 0x7C || off = 0x180
  | _ => false

/-- A read of a register by a function (R404): a `_LO` latches its `_HI`; the next read of that `_HI` returns it. -/
def State.hostRead (s : State) (fn i off : Nat) : Nat × State :=
  match s.pcie.latch.find? (fun p => p.1 = (fn, i) && p.2.1 = off) with
  | some p => (p.2.2, s.access fn i)
  | none =>
    let r := (s.access fn i).readReg i off
    if isLo (pageOf i) off && s.present (pageOf i) then
      let h := r.2.readReg i (off + 4)
      (r.1, { h.2 with pcie := { h.2.pcie with latch := ((fn, i), (off + 4, h.1)) :: h.2.pcie.latch } })
    else r

end Sys2Proof.Machine
end

