-- ==== Sys2Proof/Machine/Registers.lean ====
section
/-! DEFINITION. Writes to the registers of every page by access type, 64-bit pairs, the common header, and the commands that read and
write registers (R401 to R409, R203, R239, R345, R346). -/

namespace Sys2Proof.Machine

/-! ### The common header (R406 to R409) -/

def State.writeBlkCtrl (s : State) (i v : Nat) : State :=
  let s := match pageOf i with | .core c => s.setDrain c (bit v 1) | _ => s
  if bit v 2 then (s.engineStart i 2).sweepAfterReset i else s

/-- `ERR_FIRST.VALID` is W1C; it takes `ERR_CTX` and `ERR_INFO` with it. -/
def State.clearErr (s : State) (i v : Nat) : State :=
  if bit v 31 then s.modHdr i (fun h => { h with errValid := false, errCtx := none, errInfo := 0 }) else s

def State.writeHdr (s : State) (i off v : Nat) : State :=
  match off with
  | 0x08 => s.writeBlkCtrl i v
  | 0x10 => s.clearStat i v
  | 0x14 => s.setEn i v
  | 0x18 => s.raise i v
  | 0x1C => (match pageOf i with | .ctx _ => s | _ => s.modHdr i (fun h => { h with route := v &&& 0x800001FF }))
  | 0x20 => s.clearErr i v
  | 0x30 => if engineOf (pageOf i) then s.modHdr i (fun h => { h with hangMs := inRange 1 255 h.hangMs (sl v 31 24) }) else s
  | _ => s

/-! ### 64-bit pairs (R404) -/

/-- `_LO` is held in the staging register of the function and the pair. -/
def State.stageLo (s : State) (fn i off v : Nat) : State :=
  let k := (fn, i * 4096 + off)
  { s with pcie := { s.pcie with stage := (k, v) :: s.pcie.stage.filter (fun p => p.1 ≠ k) } }

/-- The pair a write to `_HI` at `off` makes effective: `_LO` from its staging register, else as it is. -/
def State.takeLo (s : State) (fn i off cur : Nat) (v : Nat) : Nat × State :=
  let k := (fn, i * 4096 + (off - 4))
  let lo := match s.pcie.stage.find? (fun p => p.1 = k) with
    | some p => p.2
    | none => lo32 cur
  (v * 2 ^ 32 + lo, { s with pcie := { s.pcie with stage := s.pcie.stage.filter (fun p => p.1 ≠ k) } })

/-- Bits [hi:lo] of a value in place. -/
def keep (v hi lo : Nat) : Nat := sl v hi lo * 2 ^ lo

/-! ### Pages -/

def State.writeCore (s : State) (c off v : Nat) : State :=
  match off with
  | 0x48 => s.writeCoreCtrl c v
  | 0x5C => if bit v 16 then s.clearFtq c else s
  | _ => s

def State.writeMc (s : State) (k off v : Nat) : State :=
  let m := s.mc k
  if off = 0x44 then s.setMc k { m with hours := inRange 1 168 m.hours (sl v 15 8), patrol := bit v 0 } else s

/-- The writes of the PLACE page (R196). DESIGN CHOICE (log 125): a higher PIN_QUOTA or SEQ_CFG.PER_CTX lets in what waits at once. -/
def State.writePlace (s : State) (off v : Nat) : State :=
  let m := s.mem
  match off with
  | 0x40 => { s with mem := { m with migrate := bit v 0 } }
  | 0x44 => { s with mem := { m with migBw := inRange 32 4100 m.migBw (sl v 12 0) } }
  | 0x54 => { s with mem := { m with pinSel := sl v 5 0 } }
  | 0x58 => State.honourPins { s with mem := { m with
      pinQuota := tput none m.pinQuota m.pinSel (if sl v 25 0 = s.nearPinLimit then none else some (sl v 25 0)) } }
  | 0x70 => s.writeStallMax v
  | 0x78 => State.grantSeqs { s with mem := { m with seqPerCtx := inRange 1 64 m.seqPerCtx (sl v 6 0) } }
  | _ => s

def State.writeMmu (s : State) (off v : Nat) : State :=
  let m := s.mem
  match off with
  | 0x40 => { s with mem := { m with winCtrl := sl v 6 0 } }
  | 0x44 => { s with mem := { m with scrubFrame := sl v 25 0 } }
  | 0x48 => s.writeScrub v
  | 0x4C => { s with mem := { m with expIdx := sl v 11 0 } }
  | 0x50 => { s with mem := { m with exports := tput 0 m.exports m.expIdx (v &&& 0x803FFFFF) } }
  | _ => s

/-- CTX_CTRL: its bits in ascending order. -/
def State.writeCtxCtrl (s : State) (fn c v : Nat) : State :=
  let s := if bit v 0 then s.ctlCreate fn c else s
  let s := if bit v 1 then s.ctlQuench fn c else s
  let s := if bit v 2 then s.ctlRelease fn c else s
  if bit v 3 then s.ctlDrain fn c else s

/-- QBASE changes only while its queue's ENABLE is 0 (R255). -/
def State.writeQbase (s : State) (c v : Nat) : State :=
  let x := s.ctx c
  let y := x.queue x.qsel
  if y.enable then s else s.setQueue ⟨c, x.qsel⟩ { y with base := keep v 56 6 }

def State.writeCtx (s : State) (fn c off v : Nat) : State :=
  let x := s.ctx c
  let i := pgCtx c
  match off with
  | 0x48 | 0x54 | 0x80 => s.stageLo fn i off v
  | 0x4C =>
    let w := s.takeLo fn i off x.recAddr v
    w.2.modCtx c (fun x => { x with recAddr := keep w.1 41 7 })
  | 0x50 => s.modCtx c (fun x => { x with qsel := sl v 3 0 })
  | 0x58 =>
    let w := s.takeLo fn i off (x.queue x.qsel).base v
    w.2.writeQbase c w.1
  | 0x5C => s.writeQcfg c v
  | 0x68 => s.writeResume c v
  | 0x70 => s.writeFaultCons c v
  | 0x74 => s.modCtx c (fun x => { x with fenceSel := sl v 15 0 })
  | 0x84 =>
    let w := s.takeLo fn i off x.invalVa v
    w.2.modCtx c (fun x => { x with invalVa := keep w.1 56 16 })
  | 0x88 => s.writeInval c v
  | 0x8C => s.modCtx c (fun x => { x with obsSel := sl v 3 0 })
  | 0x9C => s.writeHostMode c v
  | _ => s

/-! ### PORT_CTRL (R203, R239) -/

/-- Lanes go out of service, unless fewer than 4 would stay active; on a port that carries no traffic the lanes that are not off
count. Lanes the training left in the set return to it. On a port that is up both happen at the flit of the lane map (R204). -/
def State.setLaneOff (s : State) (q m : Nat) : State :=
  let p := s.port q
  let left := if p.active.isEmpty then 8 - popcount m 8 else (p.coming.filter (fun l => !bit m l)).length
  if left < 4 then s
  else
    let old := p.laneOff
    let p := { p with laneOff := m, recalReq := p.recalReq.filter (fun l => !bit m l), recalOps := p.recalOps.filter (fun l => !bit m l) }
    let before := p.coming
    let p := (List.range 8).foldl (fun (p : Port) l =>
      let x := p.lane l
      if bit m l then (if x.st = 1 && p.st = 3 then p.setLane l { x with next := some 0 } else p.setLane l { x with st := 0, next := none })
      else if bit old l && p.st = 3 && bit p.mask l && bit p.peerMask l && (x.st = 0 || x.next = some 0) then p.setLane l { x with next := some 1 }
      else p) p
    let s := s.setPort q p
    if p.coming = before then s else s.announceLanes q

/-- The operator requests the recalibration of an active lane. -/
def State.requestRecal (s : State) (q : Nat) : State :=
  let p := s.port q
  let l := p.recalLane
  if p.st = 3 && (p.lane l).st = 1 then
    (s.setPort q { p with recalOps := if p.recalOps.contains l then p.recalOps else p.recalOps ++ [l] }).askRecal q l
  else s

/-- ENABLE: 0 takes the port down; 1 lets it come up, a removed one too (R381). -/
def State.enablePort (s : State) (q : Nat) (on : Bool) : State :=
  if on then s.modPort q (fun p => { p with enable := true, removed := false })
  else
    let s := s.portDown q
    s.modPort q (fun p => { p with enable := false, st := 0, light := false })

def State.writePortCtrl (s : State) (q v : Nat) : State :=
  let s := s.setLaneOff q (sl v 15 8)
  let s := s.modPort q (fun p => { p with recalLane := sl v 6 4 })
  let s := if bit v 1 then s.requestRecal q else s
  s.enablePort q (bit v 0)

def State.writePort (s : State) (q off v : Nat) : State :=
  match off with
  | 0x48 => s.writePortCtrl q v
  | 0x50 => s.modPort q (fun p => { p with laneSel := sl v 2 0 })
  | _ => s

/-! ### Further pages -/

def State.writeHostif (s : State) (off v : Nat) : State :=
  if off = 0x44 then { s with pcie := { s.pcie with tdiSel := sl v 5 0 } } else s

def State.writeMemcrypt (s : State) (off v : Nat) : State :=
  match off with
  | 0x48 => s.writeAnnealReq v
  | 0x50 => { s with mem := { s.mem with annealBw := inRange 8 1024 s.mem.annealBw (sl v 10 0) } }
  | _ => s

/-- Q and RL change only while no STRICT context is LIVE (R280). -/
def State.gridFree (s : State) : Bool :=
  (List.range 64).all (fun c => !((s.ctx c).state = 1 && (s.ctx c).strict))

/-- STRICT_LIMIT: not below a current reservation sum, or one that an accepted RELOAD is about to make (R285). -/
def State.writeStrictLimit (s : State) (v : Nat) : State :=
  let n := sl v 6 0
  if n < s.ident.variant.cores && (List.range 64).all (fun q => s.reserved q ≤ n && s.withReloads.reserved q ≤ n) then
    { s with sched := { s.sched with strict := if n = s.ident.variant.cores - 10 then none else some n } }
  else s

def State.writeSched (s : State) (off v : Nat) : State :=
  let d := s.sched
  match off with
  | 0x40 =>
    if s.gridFree then State.regrid { s with sched := { d with quantum := inRange 100 100000 d.quantum (sl v 16 0) } } else s
  | 0x44 => if s.gridFree then { s with sched := { d with round := inRange 1 64 d.round (sl v 6 0) } } else s
  | 0x48 => s.writeStrictLimit v
  | 0x4C => { s with sched := { d with
      maxUs := inRange 10 10000 d.maxUs (sl v 31 16), idleUs := inRange 1 255 d.idleUs (sl v 15 8), sprigs := bit v 0 } }
  | 0x50 => { s with sched := { d with resSel := sl v 13 8 } }
  | 0x54 => { s with sched := { d with sel := sl v 5 0 } }
  | 0x6C => s.writeReload v
  | _ => s

/-- A threshold byte of 0 reads back as 1. -/
def thresh (v : Nat) : Nat := if v % 256 = 0 then 1 else v % 256

def State.writeAssayCtrl (s : State) (v : Nat) : State :=
  { s with num := { s.num with
    log2n := inRange 8 16 s.num.log2n (sl v 20 16), enable := bit v 0, hist := if bit v 1 then [] else s.num.hist } }

def State.writeNumeric (s : State) (off v : Nat) : State :=
  match off with
  | 0x44 => s.writeAssayCtrl v
  | 0x48 => { s with num := { s.num with
      threshA := pack [(24, 8, thresh (sl v 31 24)), (16, 8, thresh (sl v 23 16)), (8, 8, thresh (sl v 15 8)), (0, 8, thresh (sl v 7 0))] } }
  | 0x4C => { s with num := { s.num with threshB := thresh (sl v 7 0) } }
  | 0x64 => { s with num := { s.num with histSel := sl v 6 0 } }
  | _ => s

def State.writeRas (s : State) (off v : Nat) : State :=
  match off with
  | 0x44 => { s with ras := { s.ras with logSel := sl v 9 0 } }
  | 0x68 => { s with ras := { s.ras with mask := sl v 7 0 } }
  | 0x6C => s.writeResetCtrl v
  | 0x74 => s.writeSelftest v
  | _ => s

/-- POWER_LIMIT: 500 to the variant maximum. -/
def State.writePowerLimit (s : State) (v : Nat) : State :=
  let w := sl v 15 0
  let old := s.limit
  if 500 ≤ w ∧ w ≤ s.ident.variant.maxPower then
    State.relimit { s with pwr := { s.pwr with limitReg := if w = s.ident.variant.maxPower then none else some w } } old
  else s

def State.writePwr (s : State) (off v : Nat) : State :=
  match off with
  | 0x40 => if s.railPresent (sl v 3 0) then { s with pwr := { s.pwr with railSel := sl v 3 0 } } else s
  | 0x48 => if s.regions.contains (sl v 2 0) then { s with pwr := { s.pwr with regionSel := sl v 2 0 } } else s
  | 0x58 => s.writePowerLimit v
  | _ => s

def State.writePerf (s : State) (off v : Nat) : State :=
  match off with
  | 0x40 => { s with test := { s.test with pcSel := sl v 2 0 } }
  | 0x44 => s.writePcCfg v
  | 0x48 => s.writePcTag v
  | 0x54 => s.writePcCtrl v
  | _ => s

def State.writePerturb (s : State) (off v : Nat) : State :=
  match off with
  | 0x40 => s.writePtArm v
  | 0x44 => s.writePtPort v
  | 0x48 => s.writePtMem v
  | 0x4C => s.writePtShrink v
  | 0x50 => s.writePtVec v
  | 0x54 => s.writePtClock v
  | _ => s

/-- The layer's writes to the DEBUG page. -/
def State.writeDebug (s : State) (fn off v : Nat) : State :=
  let i := pgDebug
  match off with
  | 0x44 => s.writeCpCtrl v
  | 0x7C | 0x180 => s.stageLo fn i off v
  | 0x80 =>
    let w := s.takeLo fn i off s.dbg.fvAddr v
    { w.2 with dbg := { w.2.dbg with fvAddr := keep w.1 41 7 } }
  | 0x84 => s.writeFvCtrl v
  | 0x184 =>
    let w := s.takeLo fn i off s.dbg.fvTag v
    { w.2 with dbg := { w.2.dbg with fvTag := w.1 } }
  | 0x188 => { s with dbg := { s.dbg with fvPoison := bit v 8 } }
  | _ =>
    if 0x4C ≤ off ∧ off < 0x5C then s.writeCpBp ((off - 0x4C) / 4) v
    else if 0x5C ≤ off ∧ off < 0x6C then s.writeWlBp ((off - 0x5C) / 4) v
    else if 0x6C ≤ off ∧ off < 0x7C then s.writeWlTag ((off - 0x6C) / 4) v
    else if 0x100 ≤ off ∧ off < 0x180 then s.writeFvData ((off - 0x100) / 4) v
    else s

/-! ### Every write -/

/-- The fields of a register that a function may write (R277, R344, R420). -/
def State.mayWrite (s : State) (fn i off : Nat) : Bool :=
  match pageOf i with
  | .ctx c => s.mayWriteCtx fn c (off = 0x40)
  | .debug => decide (fn = 65)
  | _ => true

/-- A write takes effect by its register's access type (R403). -/
def State.applyWrite (s : State) (fn i off v : Nat) : State :=
  if off < 0x40 then s.writeHdr i off v
  else
    match pageOf i with
    | .core c => s.writeCore c off v
    | .near k => s.writeMc k off v
    | .bulk k => s.writeMc (16 + k) off v
    | .place => s.writePlace off v
    | .mmu => s.writeMmu off v
    | .ctx c => if off = 0x40 then s.writeCtxCtrl fn c v else s.writeCtx fn c off v
    | .port p => s.writePort p off v
    | .route => if off = 0x44 then { s with fab := { s.fab with rtIdx := sl v 13 0 } } else s
    | .reduce => if off = 0x44 then { s with fab := { s.fab with guard := inRange 1 4095 s.fab.guard (sl v 11 0) } } else s
    | .memcrypt => s.writeMemcrypt off v
    | .linkcrypt => if off = 0x40 && sl v 4 0 < s.ident.variant.ports then { s with fab := { s.fab with lcSel := sl v 4 0 } } else s
    | .hostif => s.writeHostif off v
    | .sched => s.writeSched off v
    | .numeric => s.writeNumeric off v
    | .ras => s.writeRas off v
    | .pwrclk => s.writePwr off v
    | .perf => s.writePerf off v
    | .perturb => s.writePerturb off v
    | .debug => s.writeDebug fn off v
    | .top | .none => s

/-- A register write of a function, 32 bits with every byte enabled (R401): while the page is in reset only W1C writes to `IRQ_STAT`
act (R405). -/
def State.regWrite (s : State) (fn i off v : Nat) : State :=
  let s := s.access fn i
  if off % 4 ≠ 0 || off ≥ 4096 || !s.mayWrite fn i off then s
  else if s.opens fn i || (off = 0x10 && s.reaches fn i && s.live) then s.applyWrite fn i off (v % 2 ^ 32)
  else s

/-! ### The commands -/

/-- HIST_CLEAR (R125). -/
def execHistClear (t fn : Nat) (s : State) : Res :=
  let s := (s.tick t).access fn pgNumeric
  .next (if pf0 fn && s.opens fn pgNumeric then { s with num := { s.num with hist := [] } } else s)

/-- RECAL (R203): a write to PORT_CTRL. -/
def execRecal (t fn port value : Nat) (s : State) : Res :=
  .next (if port < 32 then (s.tick t).regWrite fn (pgPort port) 0x48 value else s.tick t)

/-- PORT_ENABLE (R239): a write to PORT_CTRL. -/
def execPortEnable (t fn port value : Nat) (s : State) : Res :=
  .next (if port < 32 then (s.tick t).regWrite fn (pgPort port) 0x48 value else s.tick t)

/-- LANE_OFF (R239): a write to PORT_CTRL. -/
def execLaneOff (t fn port value : Nat) (s : State) : Res :=
  .next (if port < 32 then (s.tick t).regWrite fn (pgPort port) 0x48 value else s.tick t)

/-- IRQ_STAT_CLEAR (R408). -/
def execIrqStatClear (t fn page value : Nat) (s : State) : Res := .next ((s.tick t).regWrite fn page 0x10 value)

/-- IRQ_SET (R406). -/
def execIrqSet (t fn page value : Nat) (s : State) : Res := .next ((s.tick t).regWrite fn page 0x18 value)

/-- ERR_FIRST_CLEAR (R409). -/
def execErrFirstClear (t fn page value : Nat) (s : State) : Res := .next ((s.tick t).regWrite fn page 0x20 value)

/-- HI_WRITE_COMMIT (R404). -/
def execHiWriteCommit (t fn page off value : Nat) (s : State) : Res := .next ((s.tick t).regWrite fn page off value)

/-- LO_READ_LATCH (R404): the read of a register; its value goes to the function. -/
def execLoReadLatch (t fn page off : Nat) (s : State) : Res :=
  let s := s.tick t
  let there := fn ≤ 65 && (fn = 65 && s.dbg.session || fn ≠ 65 && s.hostUp)
  let own := pf0 fn || (match pageOf page with | .ctx c => decide (fn = c + 1) && s.bound c | _ => false)
  if there && own && off % 4 = 0 && off < 4096 && page < 0x4000 then
    let r := s.hostRead fn page off
    .next (r.2.emit (.reg fn r.1))
  else .next s

/-- REGISTER_WRITE (R403). -/
def execRegisterWrite (t fn page off value : Nat) (s : State) : Res := .next ((s.tick t).regWrite fn page off value)

/-! ### Observation (R345, R346) -/

/-- A count rounded down to a multiple of 64. -/
def quantised (n : Nat) : Nat := n / 64 * 64

/-- OBS_LATCH (R345): every context's counters are latched in quantised form. -/
def execObsLatch (t : Nat) (s : State) : Res :=
  let s := s.tick t
  if !s.running then .next s
  else
  let s := s.charge
  .next { s with ctxs := s.ctxs.map (fun (p : Nat × Ctx) =>
    let x := p.2
    let n := fun (k : Nat) => if k = 7 then x.time / 1000 else if k = 8 then s.sprigAll p.1 else tget 0 x.obs k
    (p.1, { x with obsLatch := (List.range 9).foldl (fun m k => tput 0 m k (quantised (n k))) [] })) }

/-- EPOCH_END (R346): mean power in steps of 25 W, the highest die temperature, the throttled eighths of 100 ms: those the power
controller measured, and no fewer than the epoch was throttled here, rounded down (R287, log 117). -/
def execEpochEnd (t watts temp throttle : Nat) (s : State) : Res :=
  let s := s.tick t
  if !s.running then .next s
  else
    let ns := s.epoch.ns + (match s.epoch.since with | some a => s.clk.now - a | none => 0)
    .next { s with epoch := {
      number := (s.epoch.number + 1) % 256, throttle := min (max throttle (8 * ns / 100000000)) 8
      temp := min temp 255, power := min (watts / 25) 255
      since := s.epoch.since.map (fun _ => s.clk.now) } }

end Sys2Proof.Machine
end

