-- ==== Sys2Proof/Machine/Oliastor.lean ====
section
/-! DEFINITION. Management through Oliastor: connections, functions and roles, firmware, life cycle, domains, fabric manager (R353,
R354, R357, R364 to R373, R387, R414). -/

namespace Sys2Proof.Machine

/-- The service runs: firmware running, an identity to authenticate with (R352, R355, R371). -/
def State.serviceUp (s : State) : Bool := s.live && decide (s.sec.lifecycle ≠ .blank) && s.sec.root.isSome

/-- The open connection of a request. -/
def State.conn (s : State) (m : Call) : Option Conn :=
  if s.serviceUp then s.conns.find? (fun c => c.id = m.conn) else none

/-- Who may call a function (R372). In PROVISIONED no client chains to an anchor, and only SET_LIFECYCLE is answered (R354). -/
inductive Allowed where
  | all | admin | fabric
  deriving DecidableEq, Repr

def State.allows (s : State) (c : Conn) (a : Allowed) : Bool :=
  decide (s.sec.lifecycle ≠ .provisioned) &&
    (match a with
     | .all => true
     | .admin => decide (c.role = .admin)
     | .fabric => decide (c.role = .fabric))

/-- A request on a connection: nothing without it, DENIED for a role that may not, else its effect. -/
def State.serve (s : State) (m : Call) (a : Allowed) (f : State → State) : State :=
  match s.conn m with
  | none => s
  | some c => if s.allows c a then f s else s.respond m resDenied

/-! ### Connections and events (R371, R372, R378) -/

/-- A client's handshake succeeds. In PROVISIONED any TLS client is accepted (R354). -/
def State.accepts (s : State) (k : ClientCert) : Bool :=
  s.serviceUp && s.fw.act.isNone && k.paramsOk && decide (s.mgmt.conns.length < 8) &&
    (decide (s.sec.lifecycle = .provisioned) || (k.role.isSome && decide (s.sec.anchor = some k.anchor)))

/-- OLIASTOR_CONNECT (R371). -/
def execOliastorConnect (t : Nat) (cert : ClientCert) (s : State) : Res :=
  let s := s.tick t
  .next (if s.accepts cert then
    { s with mgmt := { s.mgmt with
      conns := s.mgmt.conns ++ [({ id := s.mgmt.nextConn, role := cert.role.getD .monitor, anchor := cert.anchor } : Conn)]
      nextConn := s.mgmt.nextConn + 1 } }
  else s)

/-- The result of the latest ACTIVATE: 0 none, 1 completed, 2 failed. -/
def Firmware.actResult (f : Firmware) : Nat := if f.lastOk then 1 else if f.failed then 2 else 0

/-- The payload of GET_STATUS; its layout is not given (log 51). -/
def State.statusBytes (s : State) : Bytes :=
  toLE 1 (lifeCode s.sec.lifecycle) ++ toLE 1 (b2n s.sec.fuse + 2 * b2n s.sec.latch) ++ toLE 1 (b2n s.sec.batteryLow)
    ++ toLE 1 s.fw.actResult ++ toLE 4 s.unack
    ++ joinBytes ((s.ras.log.filter (fun r => r.routed && !r.acked)).map (·.bytes))

/-- GET_STATUS (R372). -/
def execGetStatus (t : Nat) (msg : Call) (s : State) : Res :=
  .next ((s.tick t).serve msg .all (fun s => s.reply msg resOk s.statusBytes))

/-- GET_HALLMARK (R369). -/
def execGetHallmark (t : Nat) (msg : Call) (req : HallmarkRequest) (s : State) : Res :=
  .next ((s.tick t).serve msg .all (fun s => s.askHallmark (some msg) req))

/-- SUBSCRIBE (R372). -/
def execSubscribe (t : Nat) (msg : Call) (s : State) : Res :=
  .next ((s.tick t).serve msg .all (fun s =>
    State.respond { s with mgmt := { s.mgmt with
      conns := s.mgmt.conns.map (fun (c : Conn) => if c.id = msg.conn then { c with sub := true } else c) } } msg resOk))

/-- ACK_EVENT (R18, R378). -/
def execAckEvent (t : Nat) (msg : Call) (seq : Nat) (s : State) : Res :=
  .next ((s.tick t).serve msg .admin (fun s =>
    if s.ras.log.any (fun r => r.seq = seq) then
      State.respond { s with ras := { s.ras with
        log := s.ras.log.map (fun (r : RasRec) => if r.seq = seq then { r with acked := true } else r) } } msg resOk
    else s.respond msg resInvalid))

/-! ### READ_PAGE (R414) -/

/-- One register after another of a page. -/
def State.readPageFrom (s : State) (i : Nat) : Nat → Nat → Bytes × State
  | 0, _ => ([], s)
  | n + 1, off =>
    let r := s.readReg i off
    let rest := r.2.readPageFrom i n (off + 4)
    (toLE 4 r.1 ++ rest.1, rest.2)

/-- The management-side pages. -/
def mgmtPage (i : Nat) : Option Nat :=
  if i = 0x800 then some 0 else if i = 0x810 then some 1 else if i = 0x820 then some 2 else if i = 0x830 then some 3 else none

/-- A register of the common header of a management-side page. -/
def State.mgmtHdr (s : State) (k off : Nat) : Nat :=
  match off with
  | 0x00 => pack [(24, 8, 1), (0, 16, 0x70 + k)]
  | 0x08 => 1
  | 0x0C => pack [(1, 1, b2n s.live), (0, 1, 1)]
  | _ => 0

/-- A register of a management-side page: behind the header, where each of its contents lies is not given, and the word is free
(log 7). -/
def State.mgmtReg (s : State) (k off : Nat) : Nat × State :=
  if off < 0x40 then (s.mgmtHdr k off, s)
  else
    let v := s.draw
    (v.1 % 2 ^ 32, v.2)

def State.mgmtPageFrom (s : State) (k : Nat) : Nat → Nat → Bytes × State
  | 0, _ => ([], s)
  | n + 1, off =>
    let r := s.mgmtReg k off
    let rest := r.2.mgmtPageFrom k n (off + 4)
    (toLE 4 r.1 ++ rest.1, rest.2)

/-- READ_PAGE: 4,096 bytes of the page. -/
def execReadPage (t : Nat) (msg : Call) (page : Nat) (s : State) : Res :=
  .next ((s.tick t).serve msg .all (fun s =>
    if page ≥ 65536 then s.respond msg resInvalid
    else
      let r := match mgmtPage page with
        | some k => s.mgmtPageFrom k 1024 0
        | none => s.readPageFrom page 1024 0
      r.2.reply msg resOk r.1))

/-! ### Firmware (R364 to R368) -/

def Firmware.comp (f : Firmware) : Component → Fw
  | .sec => f.sec | .mgmt => f.mgmt | .ctrl => f.ctrl | .link => f.link

def Firmware.setComp (f : Firmware) : Component → Fw → Firmware
  | .sec, x => { f with sec := x }
  | .mgmt, x => { f with mgmt := x }
  | .ctrl, x => { f with ctrl := x }
  | .link, x => { f with link := x }

/-- The inactive bank takes an image. -/
def Fw.load (x : Fw) (b : Bank) (ok : Bool) : Fw :=
  let x := { x with staged := ok, parts := [] }
  if x.run = 0 then { x with b := { b with valid := ok } } else { x with a := { b with valid := ok } }

/-- A fragment of an image under way: the inactive bank it is written to is no longer bootable. -/
def Fw.part (x : Fw) (i : Image) : Fw :=
  let x := { x with staged := false, parts := x.parts ++ [(i.offset, i.length)] }
  if x.run = 0 then { x with b := { x.b with valid := false } } else { x with a := { x.a with valid := false } }

/-- With this fragment the whole image has come (R372). -/
def Fw.complete (x : Fw) (i : Image) : Bool :=
  let got := x.parts ++ [(i.offset, i.length)]
  decide (i.total ≤ reachFrom got.length got 0)

/-- STAGE_IMAGE (R366, R372): written to the inactive bank fragment by fragment, and verified there when the last has come. -/
def execStageImage (t : Nat) (msg : Call) (image : Image) (s : State) : Res :=
  .next ((s.tick t).serve msg .admin (fun s =>
    if s.fw.act.isSome then s.respond msg resBusy
    else
      let x := s.fw.comp image.comp
      if !x.complete image then State.respond { s with fw := s.fw.setComp image.comp (x.part image) } msg resOk
      else
      let r := if !image.sigOk then resSignature else if image.secver < x.fuse then resRollback else resOk
      let b : Bank := { secver := image.secver, build := image.build, digest := image.digest }
      State.respond { s with fw := s.fw.setComp image.comp (x.load b (r = resOk)) } msg r))

/-- ACTIVATE (R367): at t0 hallmark requests, queue fetches and CREATE wait; every core saves its state, and no quanta run. -/
def execActivate (t : Nat) (msg : Call) (s : State) : Res :=
  .next ((s.tick t).serve msg .admin (fun s =>
    if s.fw.act.isSome then s.respond msg resBusy
    else if !s.fw.mgmt.staged && !s.fw.ctrl.staged then s.respond msg resState
    else
      let s := s.releaseCps
      let s := s.coreList.foldl (fun s k => s.saveCore k) s
      let s := s.tidyCores
      State.respond { s with fw := { s.fw with act := some s.clk.now } } msg resOk))

/-- A staged image becomes the running one. -/
def Fw.swap (x : Fw) : Fw := if x.staged then { x with run := 1 - x.run, staged := false } else x

/-- The end of an activation: the connections are closed; held hallmark requests are answered, waiting CREATEs run, quanta
resume. -/
def State.endActivation (s : State) : State :=
  let waiting := s.fw.creates
  let s := State.closeConns { s with fw := { s.fw with act := none, creates := [] } } (fun _ => false)
  let s := s.answerHeld
  let s := waiting.foldl (fun s c => s.createCtx c) s
  s.resume

/-- A moment lies within 200 ms of the running activation's start. -/
def State.actDue (s : State) : Bool := match s.fw.act with | some t0 => decide (s.clk.now ≤ t0 + 200000000) | none => false

/-- ACTIVATION_COMPLETE (R340, R367): the new images run within 200 ms; a charter-bound context that pins no composite of the new set
is quenched. -/
def execActivationComplete (t : Nat) (s : State) : Res :=
  let s := s.tick t
  if !s.actDue || !s.running then .next s
  else
    let s := { s with fw := { s.fw with mgmt := s.fw.mgmt.swap, ctrl := s.fw.ctrl.swap, lastOk := true } }
    let now := s.fw.composite
    let s := (List.range 64).foldl (fun s c =>
      match (s.ctx c).charter with
      | some ch => if ch.touchmarks.contains now then s else s.quench c
      | none => s) s
    .next s.endActivation

/-- ACTIVATION_FAIL (R368): the new images do not run by t0 + 200 ms, and the previous banks restart; the touchmarks are unchanged. -/
def execActivationFail (t : Nat) (s : State) : Res :=
  let s := s.tick t
  if s.fw.act.isNone || s.clk.now < (s.fw.act.getD 0) + 200000000 || !s.running then .next s
  else .next (State.endActivation { s with fw := { s.fw with failed := true, lastOk := false } })

/-- The running bank of a component. -/
def Fw.running (x : Fw) : Bank := x.bank x.run

def Fw.commit (x : Fw) : Fw := { x with fuse := max x.fuse x.running.secver }

/-- COMMIT (R366). -/
def execCommit (t : Nat) (msg : Call) (s : State) : Res :=
  .next ((s.tick t).serve msg .admin (fun s =>
    if [s.fw.sec, s.fw.mgmt, s.fw.ctrl, s.fw.link].any (fun x => x.running.secver > 63) then s.respond msg resRollback
    else
      State.respond { s with fw := { s.fw with
        sec := s.fw.sec.commit, mgmt := s.fw.mgmt.commit, ctrl := s.fw.ctrl.commit, link := s.fw.link.commit } } msg resOk))

/-- The inactive bank becomes unbootable. -/
def Fw.discard (x : Fw) : Fw :=
  let x := { x with staged := false, parts := [] }
  if x.run = 0 then { x with b := { x.b with valid := false } } else { x with a := { x.a with valid := false } }

/-- DISCARD_STAGED (R372). -/
def execDiscardStaged (t : Nat) (msg : Call) (s : State) : Res :=
  .next ((s.tick t).serve msg .admin (fun s =>
    State.respond { s with fw := { s.fw with
      sec := s.fw.sec.discard, mgmt := s.fw.mgmt.discard, ctrl := s.fw.ctrl.discard, link := s.fw.link.discard } } msg resOk))

/-! ### Life cycle and domain (R353, R354, R357) -/

/-- Every context has been quenched and released. -/
def State.allFree (s : State) : Bool := (List.range 64).all (fun c => (s.ctx c).state = 0)

/-- The life-cycle state is one in which contexts exist (R355). -/
def State.hasContexts (s : State) : Bool := decide (s.sec.lifecycle = .deployed ∨ s.sec.lifecycle = .returned)

/-- The module is RETIRED: every root and key is destroyed (R353). -/
def State.retireNow (s : State) : State :=
  { s with
    sec := { s.sec with lifecycle := .retired, root := none, certs := [], domain := none, pending := none }
    mem := { s.mem with
      keySlots := s.mem.keySlots.map (fun (p : Nat × Nat) => (p.1, 0)), tableKey := 0, reserveKey := 0 } }

/-- PROVISIONED to DEPLOYED: a fresh root, whose identity key the factory identity key certifies, the trust anchor stored (R353, R354).
The connections of clients that no anchor stood behind close (log 123). -/
def State.deploy (s : State) (m : Call) (anchor : Nat) : State :=
  if !s.sec.trngOk then (s.owe m).waitFresh (.lifecycle m)
  else
    let v := s.secret
    (State.respond { v.2 with sec := { v.2.sec with
      lifecycle := .deployed, root := some v.1, certs := v.2.sec.certs ++ [⟨.deployed, v.1⟩], anchor := some anchor } }
      m resOk).closeConns (fun _ => false)

/-- SET_LIFECYCLE on a module in its present state. RETURNED, and RETIRED where contexts exist, wait for a package reset (R353). The one
request of any client is that of R354; else it takes the administrator (log 123). -/
def State.setLifecycle (s : State) (m : Call) (c : Conn) (dest : Lifecycle) (anchor : Nat) : State :=
  let first := decide (s.sec.lifecycle = .provisioned ∧ dest = .deployed)
  if !first && decide (c.role ≠ .admin) then s.respond m resDenied
  else if s.fw.act.isSome then s.respond m resBusy
  else if first then s.deploy m anchor
  else if dest = .retired && !s.hasContexts then s.retireNow.respond m resOk
  else if (s.sec.lifecycle = .deployed && dest = .returned) || dest = .retired then
    if s.allFree then State.respond { s with sec := { s.sec with pending := some dest } } m resOk
    else s.respond m resState
  else s.respond m resState

/-- SET_LIFECYCLE (R353, R354). -/
def execSetLifecycle (t : Nat) (msg : Call) (state : Lifecycle) (anchor : Nat) (s : State) : Res :=
  let s := s.tick t
  match s.conn msg with
  | none => .next s
  | some c => .next (s.setLifecycle msg c state anchor)

/-- SET_ANCHOR (R372): connections under the old anchor close. -/
def execSetAnchor (t : Nat) (msg : Call) (anchor : Nat) (s : State) : Res :=
  .next ((s.tick t).serve msg .admin (fun s =>
    let s := s.respond msg resOk
    State.closeConns { s with sec := { s.sec with anchor := some anchor } } (fun c => c.anchor = anchor)))

/-- DOMAIN_CREATE (R357). -/
def execDomainCreate (t : Nat) (msg : Call) (s : State) : Res :=
  .next ((s.tick t).serve msg .admin (fun s =>
    if s.sec.domain.isSome ∨ s.sec.lifecycle ≠ .deployed then s.respond msg resState
    else if !s.sec.trngOk then (s.owe msg).waitFresh (.domain msg)
    else
      let v := s.secret
      State.respond (State.joinsNone { v.2 with sec := { v.2.sec with domain := some (Config.fresh 4 v.1 % 2 ^ 384) } }) msg resOk))

/-- DOMAIN_JOIN (R357): the port's next session is a join session; one that is up starts over. -/
def execDomainJoin (t : Nat) (msg : Call) (port : Nat) (s : State) : Res :=
  .next ((s.tick t).serve msg .admin (fun s =>
    if port ≥ s.ident.variant.ports then s.respond msg resUnitAbsent
    else if s.sec.domain.isSome ∨ s.sec.lifecycle ≠ .deployed then s.respond msg resState
    else
      let s := s.modPort port (fun p => { p with joinReq := true, link := { p.link with join := decide (p.st ≠ 3) } })
      let s := if (s.port port).st = 3 then s.restartPort port else s
      s.respond msg resOk))

/-- SET_ALLOWLIST (R372): up to 16 composites. -/
def execSetAllowlist (t : Nat) (msg : Call) (composites : List Nat) (s : State) : Res :=
  .next ((s.tick t).serve msg .admin (fun s =>
    if composites.length > 16 then s.respond msg resInvalid
    else State.respond { s with mgmt := { s.mgmt with allow := composites } } msg resOk))

/-! ### The fabric manager (R218, R221, R233, R387) -/

/-- SET_MODULE_ID (R218, R372). -/
def execSetModuleId (t : Nat) (msg : Call) (ident : Nat) (s : State) : Res :=
  .next ((s.tick t).serve msg .fabric (fun s =>
    if ident ≥ 65536 then s.respond msg resInvalid
    else State.respond { s with fab := { s.fab with moduleId := ident } } msg resOk))

/-- ROUTE_WRITE (R218): a request that names an absent port has no effect (R372). -/
def execRouteWrite (t : Nat) (msg : Call) (entries : List RouteEntry) (s : State) : Res :=
  .next ((s.tick t).serve msg .fabric (fun s =>
    if entries.any (fun e => e.ports.any (fun p => p ≥ s.ident.variant.ports)) then s.respond msg resUnitAbsent
    else if entries.any (fun e => e.index ≥ 16384 || e.ports.length > 4) then s.respond msg resInvalid
    else
      let table := entries.foldl (fun m e => tput [] m e.index e.ports) s.fab.table
      let w := { s with fab := { s.fab with table := table } }
      (w.noteRoutes s).raise pgRoute 2 |>.respond msg resOk))

/-- TIME_TREE (R221, R222): the root flag and the parent port. Another parent is followed from the time kept so far, its hops from
the root being free (log 7), where its port is up and the time did not run free; a module that loses its parent or becomes the root
is no longer locked. -/
def execTimeTree (t : Nat) (msg : Call) (root : Bool) (parent : Option Nat) (s : State) : Res :=
  .next ((s.tick t).serve msg .fabric (fun s =>
    if (match parent with | some p => decide (p ≥ s.ident.variant.ports) | none => false) then s.respond msg resUnitAbsent
    else if root && parent.isSome then s.respond msg resInvalid
    else
      let keeps := s.clk.locked && (match parent with | some p => (s.port p).carries | none => false)
      let v := s.draw
      let hops := if root then 0 else if keeps && s.clk.parent ≠ parent then 1 + v.1 % 15 else s.clk.hops
      let w := { v.2 with clk := { v.2.clk with root, parent, hops, free := false, locked := keeps, stepNext := s.clk.stepNext || !keeps } }
      (if s.clk.locked && !keeps then w.raise pgRoute 1 else w).respond msg resOk))

/-- What a notice does to one rank of a slot's job. -/
def State.notice (s : State) (kind : NoticeKind) (c m : Nat) : State :=
  match kind with
  | .lost => s.lostPeer c m
  | .cpResetStart =>
    if s.fab.cpNotices.contains (c, m) then s
    else State.resettle { s with fab := { s.fab with cpNotices := (c, m) :: s.fab.cpNotices } } c
  | .cpResetDone => { s with fab := { s.fab with cpNotices := s.fab.cpNotices.filter (fun p => p ≠ (c, m)) } }

/-- The slots that hold a context of a job. -/
def State.slotsOfJob (s : State) (job : Nat) : List Nat :=
  (List.range 64).filter (fun c => (s.ctx c).record.isSome && (s.ctxRec c).job = job)

/-- PEER_NOTICE (R233, R387): positions of the job's rank list; record 0x63 for a rank declared lost. -/
def execPeerNotice (t : Nat) (msg : Call) (job : Nat) (positions : List Nat) (kind : NoticeKind) (s : State) : Res :=
  .next ((s.tick t).serve msg .fabric (fun s =>
    let ms := (s.slotsOfJob job).flatMap (fun c => positions.filterMap (fun p => ((s.ranks c 0)[p]?).map (fun m => (c, m))))
    let s := ms.foldl (fun s x => s.notice kind x.1 x.2) s
    let s := if kind = .lost then ((ms.map (·.2)).eraseDups).foldl (fun s m => s.logRas pgRoute 6 0x63 none m) s else s
    s.respond msg resOk))

/-! ### Units (R36, R244, R269, R319) -/

/-- LASER_RELEASE (R36): the bay's ports move to the other unit, one at a time. -/
def execLaserRelease (t : Nat) (msg : Call) (unit : Nat) (s : State) : Res :=
  .next ((s.tick t).serve msg .admin (fun s =>
    if unit ≥ 2 || !(s.laser unit).present then s.respond msg resInvalid
    else
      let s := s.pinLight
      let s := s.setLaser unit { s.laser unit with released := true }
      s.shiftLight.respond msg resOk))

/-- QUENCH_CONTEXT (R269). -/
def execQuenchContext (t : Nat) (msg : Call) (slot : Nat) (s : State) : Res :=
  .next ((s.tick t).serve msg .admin (fun s =>
    if slot ≥ 64 then s.respond msg resInvalid else (s.quench slot).respond msg resOk))

/-- ANNEAL (R319). -/
def execAnneal (t : Nat) (msg : Call) (slot range : Nat) (s : State) : Res :=
  .next ((s.tick t).serve msg .admin (fun s =>
    if slot ≥ 64 ∨ range ≥ 8 then s.respond msg resInvalid else (s.queueAnneal slot range).respond msg resOk))

/-- SET_BAR4 (R244): at the next package reset. -/
def execSetBar4 (t : Nat) (msg : Call) (enable : Bool) (s : State) : Res :=
  .next ((s.tick t).serve msg .admin (fun s =>
    State.respond { s with pcie := { s.pcie with bar4Next := enable } } msg resOk))

end Sys2Proof.Machine
end

