-- ==== Sys2Proof/Machine/DebugPort.lean ====
section
/-! DEFINITION. The debug port: the TAP, the debug access layer with its spaces, sessions and factory operations (R352, R353, R415 to
R423, R429). -/

namespace Sys2Proof.Machine

/-! ### The TAP (R416, R417) -/

/-- The TAP leaves EXTEST. -/
def State.noDrive (s : State) : State := { s with dbg := { s.dbg with driven := false } }

/-- SAMPLE/PRELOAD: the pins are captured and the boundary register takes the bits; its length and order are not given, and what it
captures is free (log 7). -/
def State.sample (s : State) (bits : Nat) : State :=
  let v := s.draw
  ({ v.2 with dbg := { v.2.dbg with boundary := bits, driven := false } }).emit (.tap v.1)

/-- EXTEST (R417): drives the pins while MOD_RESET_N is low; at any other time it acts as SAMPLE/PRELOAD. -/
def execExtest (t bits : Nat) (s : State) : Res :=
  let s := s.tick t
  if !s.powered then .next s
  else
    let low := !s.pins.modResetN
    let s := s.sample bits
    .next { s with dbg := { s.dbg with driven := low } }

/-- SAMPLE_PRELOAD (R416). -/
def execSamplePreload (t bits : Nat) (s : State) : Res :=
  let s := s.tick t
  .next (if s.powered then s.sample bits else s)

/-- IDCODE (R416). -/
def execIdcode (t : Nat) (s : State) : Res :=
  let s := s.tick t
  .next (if s.powered then s.noDrive.emit (.tap 0x14B2156F) else s)

/-! ### The debug access layer (R418 to R422) -/

/-- The response register: STATUS, address, data. -/
def dalBits (r : Nat × Nat × Nat) : Nat := pack [(64, 4, r.1), (32, 32, r.2.1), (0, 32, r.2.2)]

/-- A scan captures the response to the request before it; `f` gives this request's response. -/
def State.scan (s : State) (f : State → (Nat × Nat × Nat) × State) : State :=
  if !s.powered then s
  else
    let s := s.noDrive.emit (.tap (dalBits s.dbg.dal))
    let r := f s
    { r.2 with dbg := { r.2.dbg with dal := r.1 } }

def statusOk : Nat := 0
def statusNoSession : Nat := 2
def statusDenied : Nat := 3
def statusNotServed : Nat := 4

/-- Spaces served in the module's condition (R422). -/
def State.servesSpace (s : State) (sp : Nat) : Bool :=
  match sp with
  | 0 => !s.dead
  | 1 => true
  | 2 | 3 => !s.dead && decide (s.boot ≠ .recovery)
  | _ => false

/-- A word of a processor's memory as it sees it: what was written or read since it was halted, else free (R424, log 7). -/
def State.cpWord (s : State) (n a : Nat) : Nat × State :=
  let k := s.cp n
  match tget none k.words a with
  | some v => (v, s)
  | none =>
    let v := s.draw
    let w := v.1 % 2 ^ 32
    (w, if k.halt then v.2.setCp n { k with words := tput none k.words a (some w) } else v.2)

/-- A word of a core: as stored (free, log 7) while no context's data can be in it, else zero (R429). -/
def State.coreWord (s : State) (c : Nat) : Nat × State :=
  let k := s.core c
  if k.st = 5 ∨ (k.st = 6 ∧ k.last = 2) then
    let v := s.draw
    (v.1 % 2 ^ 32, v.2)
  else (0, s)

/-- The response to a READ (R419, R422). -/
def State.dalReadAt (s : State) (addr : Nat) : (Nat × Nat × Nat) × State :=
  let sp := sl addr 31 28
  let off := sl addr 27 0
  let no := ((statusNotServed, addr, 0), s)
  if !s.dbg.session then ((statusNoSession, addr, 0), s)
  else if !s.servesSpace sp then no
  else
    match sp with
    | 0 =>
      if off % 4 ≠ 0 ∨ off ≥ 0x4000000 then no
      else
        let r := s.hostRead 65 (off / 4096) (off % 4096)
        ((statusOk, addr, r.1), r.2)
    | 1 =>
      match mgmtPage (off / 4096) with
      | none => no
      | some k =>
        if off % 4 ≠ 0 then no
        else
          let r := s.mgmtReg k (off % 4096)
          ((statusOk, addr, r.1), r.2)
    | 2 =>
      if off % 4 ≠ 0 then no
      else
        let r := s.cpWord (sl off 27 24) (sl off 23 2)
        ((statusOk, addr, r.1), r.2)
    | _ =>
      let c := sl off 27 21
      if c ≥ s.ident.variant.cores ∨ sl off 20 0 ≥ 1835008 then no
      else
        let r := s.coreWord c
        ((statusOk, addr, r.1), r.2)

/-- The response to a WRITE. -/
def State.dalWriteAt (s : State) (addr data : Nat) : (Nat × Nat × Nat) × State :=
  let sp := sl addr 31 28
  let off := sl addr 27 0
  let d := data % 2 ^ 32
  if !s.dbg.session then ((statusNoSession, addr, 0), s)
  else if !s.servesSpace sp then ((statusNotServed, addr, 0), s)
  else
    match sp with
    | 0 =>
      if off % 4 ≠ 0 ∨ off ≥ 0x4000000 then ((statusNotServed, addr, 0), s)
      else ((statusOk, addr, 0), s.regWrite 65 (off / 4096) (off % 4096) d)
    | 2 =>
      if off % 4 ≠ 0 then ((statusNotServed, addr, 0), s)
      else
        let n := sl off 27 24
        ((statusOk, addr, 0), s.setCp n { s.cp n with words := tput none (s.cp n).words (sl off 23 2) (some d) })
    | 3 =>
      if sl off 27 21 ≥ s.ident.variant.cores then ((statusNotServed, addr, 0), s) else ((statusDenied, addr, 0), s)
    | _ => ((statusDenied, addr, 0), s)

/-- DAL_READ (R419). -/
def execDalRead (t addr : Nat) (s : State) : Res := .next ((s.tick t).scan (fun s => s.dalReadAt (addr % 2 ^ 32)))

/-- DAL_WRITE (R420). -/
def execDalWrite (t addr data : Nat) (s : State) : Res :=
  .next ((s.tick t).scan (fun s => s.dalWriteAt (addr % 2 ^ 32) data))

/-- DAL_OPEN (R421, R423): an attachment; DEBUG bit 2. -/
def execDalOpen (t : Nat) (s : State) : Res :=
  .next ((s.tick t).scan (fun s =>
    ((statusOk, 0, 0), (({ s with dbg := { s.dbg with session := true } }).attach).raise pgDebug 4)))

/-- DAL_CLOSE (R421). -/
def execDalClose (t : Nat) (s : State) : Res :=
  .next ((s.tick t).scan (fun s => ((statusOk, 0, 0), { s with dbg := { s.dbg with session := false } })))

/-! ### Factory operations (R352, R353, R418, R421) -/

/-- BLANK to PROVISIONED: a fresh factory root, whose identity key the factory CA certifies. Without fresh values it waits, and the
response register keeps what it holds (R350, log 122). -/
def State.provision (s : State) : (Nat × Nat × Nat) × State :=
  if s.sec.lifecycle ≠ .blank || s.sec.fuse || s.sec.latch then ((statusDenied, 0, 0), s)
  else if !s.sec.trngOk then (s.dbg.dal, s.waitFresh .provision)
  else
    let v := s.secret
    ((statusOk, 0, 0), { v.2 with sec := { v.2.sec with
      lifecycle := .provisioned, root := some v.1, certs := [⟨.provisioned, v.1⟩] } })

/-- Any state to RETIRED: where contexts can exist, after each is released and after a package reset. -/
def State.retireModule (s : State) : (Nat × Nat × Nat) × State :=
  if s.sec.lifecycle = .retired then ((statusDenied, 0, 0), s)
  else if s.sec.fuse || s.sec.latch || decide (s.boot = .recovery) || !s.hasContexts then ((statusOk, 0, 0), s.retireNow)
  else if s.allFree then ((statusOk, 0, 0), { s with sec := { s.sec with pending := some .retired } })
  else ((statusDenied, 0, 0), s)

/-- DAL_FACTORY_OP: with the factory credential; to any other operation the manual gives no effect. -/
def execDalFactoryOp (t : Nat) (op : FactoryOp) (credential : Bool) (s : State) : Res :=
  let s := s.tick t
  match op with
  | .other _ => if credential && s.powered then .refused .factoryOperation else .next (s.scan (fun s => ((statusDenied, 0, 0), s)))
  | .provision => .next (s.scan (fun s => if credential then s.provision else ((statusDenied, 0, 0), s)))
  | .retire => .next (s.scan (fun s => if credential then s.retireModule else ((statusDenied, 0, 0), s)))

end Sys2Proof.Machine
end

