-- ==== Sys2Proof/Machine/Lists.lean ====
section
/-! DEFINITION. Work-list control: queue fetch, calls, loops, barriers, fences, RETIRE, completion (R55, R57, R71, R85 to R87,
R257, R258, R260, R296). -/

namespace Sys2Proof.Machine

/-- Opcodes a queue ring may hold (R55). -/
def ringOp (op : Nat) : Bool := [0x00, 0x03, 0x06, 0x07, 0x08, 0x0C].contains op

/-- QUEUE_FETCH (R257): the next ring entry, once the previous one has completed; from a ring in a host page it is read first (R253). -/
def execQueueFetch (t : Nat) (q : QRef) (s : State) : Res :=
  let s := s.tick t
  let y := s.queue q
  if s.serves q.slot && !(s.ctx q.slot).ending && y.enable && !y.error && y.phase = .idle && decide (y.head ≠ y.tail) then
    let k := y.head % 2 ^ y.depth
    let span := if s.bounceRing q.slot y.base then (y.base + k * 128, 128) else (y.base + k * 64, 64)
    let l := s.hostNeeds q.slot span.1 span.2 .ring y.arrived
    if s.accessHeld q.slot span.1 span.2 then .next s
    else if !l.isEmpty then .next (s.askHost q l)
    else
    let r := s.ringRead q.slot y.base k 64
    match r.2 with
    | .ok b =>
      let e := entryOf b
      if !ringOp e.op then .next (r.1.queueError q 2)
      else .next (r.1.modQueue q (fun y => { y with cur := some e, phase := e.first, begun := false, flight := .none }))
    | .error (.fault va reason w true) => .next (r.1.failEntry q 0 3 .waiting (.fault va reason w true))
    | .error (.fault va reason w false) =>
      .next ((r.1.fault q.slot q.queue 0 3 va reason w false).1.queueError q 3)
    | .error a => .next ((r.1.noteAcc (some q.slot) a).queueError q 3)
  else .next s

/-- NOP (R71). -/
def execNop (t : Nat) (q : QRef) (s : State) : Res := s.runEntry t q 0x00 (fun s _ => s.finishEntry q .ok)

/-- LIST_HEAD (R55): opens the list; the revision it runs under enters the step record (R53). -/
def execListHead (t : Nat) (q : QRef) (s : State) : Res :=
  s.runEntry t q 0x01 (fun s _ =>
    let y := s.queue q
    let rev := match y.stack with
      | f :: _ => ((y.list f.addr).map (·.numrev)).getD 1
      | [] => 1
    (s.modCtx q.slot (fun x => x.book y.startStep (fun st => { st with numrev := rev }))).finishEntry q .ok)

/-- LIST_END (R55): closes the list; its completion ends the call. -/
def execListEnd (t : Nat) (q : QRef) (s : State) : Res := s.runEntry t q 0x02 (fun s _ => s.finishEntry q .ok)

/-- Bytes of the context's running trees; a tree that still waits does not count (R57). -/
def State.treesHeld (s : State) (c : Nat) : Nat :=
  (s.ctx c).queues.foldl (fun a p => if p.2.stack.isEmpty then a else a + treeSize p.2.tree) 0

/-- CALL (R55 to R57): a queue CALL admits its tree and starts it, or waits for room; a nested CALL runs the admitted
copy. -/
def execCall (t : Nat) (q : QRef) (s : State) : Res :=
  s.runEntry t q 0x03 (fun s e =>
    let y := s.queue q
    if y.stack.isEmpty then
      match s.admitTree q.slot e.imm0 with
      | .error a => s.failEntry q e.tag 2 .ready a
      | .ok tr =>
        let wait := s.treesHeld q.slot + treeSize tr > maxTree
        let l := if bit (s.ctxRec q.slot).mode 0 then s.tableNeeds q.slot y.arrived 65537 0 else []
        if !l.isEmpty then s.askHost q l
        else
        match s.tableFault q tr with
        | some (.stop st) =>
          ({ s with fab := { s.fab with xferFail := satAdd 32 s.fab.xferFail 1 } } : State).failEntry q e.tag 8 .ready (.stop st)
        | some a => s.failEntry q e.tag 8 .ready a
        | none =>
          let s := (s.meetTree q.slot tr).modQueue q (fun y => { y with tree := tr, phase := if wait then .treeWait else y.phase })
          if wait then s else s.startTree q e.imm0
    else
      let first := match y.list e.imm0 with
        | some l => match l.entries with | h :: _ => h.first | [] => Phase.ready
        | none => Phase.ready
      s.setQueue q { y with stack := { addr := e.imm0 } :: y.stack, phase := first, begun := false })

/-- TREE_ADMIT_RESUME (R57): earlier trees have completed and left room. -/
def execTreeAdmitResume (t : Nat) (q : QRef) (s : State) : Res :=
  let s := s.tick t
  let y := s.queue q
  match y.phase, y.cur with
  | .treeWait, some e =>
    .next (if s.serves q.slot && decide (s.treesHeld q.slot + treeSize y.tree ≤ maxTree) then s.startTree q e.imm0 else s)
  | _, _ => .next s

/-- LOOP_BEGIN (R69, R87): opens a loop; a count of 0 skips the body. -/
def execLoopBegin (t : Nat) (q : QRef) (s : State) : Res :=
  s.runEntry t q 0x04 (fun s e =>
    let y := s.queue q
    match y.stack with
    | [] => s
    | f :: r =>
      let n := sl e.imm0 31 0
      let es := ((y.list f.addr).map (·.entries)).getD []
      let f := if n = 0 then { f with jump := some (afterLoop es f.pos) }
        else { f with loops := { start := f.pos, count := n, iter := 0 } :: f.loops }
      (s.setQueue q { y with stack := f :: r }).finishEntry q .ok)

/-- LOOP_END (R69, R87): the next iteration, or the end of the loop. -/
def execLoopEnd (t : Nat) (q : QRef) (s : State) : Res :=
  s.runEntry t q 0x05 (fun s _ =>
    let y := s.queue q
    match y.stack with
    | [] => s
    | f :: r =>
      let f := match f.loops with
        | [] => f
        | l :: ls =>
          if l.iter + 1 < l.count then { f with loops := { l with iter := l.iter + 1 } :: ls, jump := some (l.start + 1) }
          else { f with loops := ls }
      (s.setQueue q { y with stack := f :: r }).finishEntry q .ok)

/-- BARRIER (R86): list scope is met in list order; at context and job scope the entry waits. -/
def execBarrier (t : Nat) (q : QRef) (s : State) : Res :=
  s.runEntry t q 0x06 (fun s e =>
    if e.variant = 0 then s.finishEntry q .ok
    else if e.variant ≥ 3 then s.finishEntry q .contractUnsupported
    else s.modQueue q (fun y => { y with
      phase := .running, flight := .barrier e.variant e.imm0 s.clk.now e.imm1 }))

/-- The queue waits at this barrier. -/
def Queue.atBarrier (y : Queue) (scope ident : Nat) : Bool :=
  y.phase = .running && (match y.flight with | .barrier a b _ _ => a = scope && b = ident | _ => false)

/-- BARRIER_COMPLETE (R86): at context scope every enabled queue that is not stopped has arrived, and all complete; at
job scope the command says that every rank has arrived. -/
def execBarrierComplete (t : Nat) (q : QRef) (s : State) : Res :=
  let s := s.tick t
  let y := s.queue q
  match y.phase, y.flight with
  | .running, .barrier scope ident _ _ =>
    if !s.serves q.slot then .next s
    else if scope = 2 then .next (s.finishEntry q .ok)
    else
      let qs := (s.ctx q.slot).queues.filter (fun p => p.2.enable && !p.2.error)
      if qs.all (fun p => p.2.atBarrier scope ident) then
        .next ((qs.map (·.1)).foldl (fun s k => s.finishEntry ⟨q.slot, k⟩ .ok) s)
      else .next s
  | _, _ => .next s

/-- BARRIER_PATIENCE (R86): a job barrier's patience in µs has passed; 0 waits without limit. -/
def execBarrierPatience (t : Nat) (q : QRef) (s : State) : Res :=
  let s := s.tick t
  let y := s.queue q
  match y.phase, y.flight with
  | .running, .barrier 2 _ start p =>
    .next (if s.serves q.slot && p ≠ 0 && s.clk.now ≥ start + p * 1000 then s.finishEntry q .peerLost else s)
  | _, _ => .next s

/-- FENCE_WAIT (R260): the entry waits for its fence. -/
def execFenceWait (t : Nat) (q : QRef) (s : State) : Res :=
  s.runEntry t q 0x07 (fun s _ => s.modQueue q (fun y => { y with phase := .waiting }))

/-- FENCE_WAIT_SATISFIED (R260): an entry whose fence has reached its value starts, or completes with ABANDONED. -/
def execFenceWaitSatisfied (t : Nat) (q : QRef) (s : State) : Res :=
  let s := s.tick t
  .next (if s.serves q.slot && s.inPeriod q then s.wake q else s)

/-- FENCE_SIGNAL (R85, R261). -/
def execFenceSignal (t : Nat) (q : QRef) (s : State) : Res :=
  s.runEntry t q 0x08 (fun s e =>
    match s.signalFence q.slot e.signalFence e.signalValue .ok with
    | (s, none) => s.finishEntry q .ok
    | (s, some a) => s.failEntry q e.tag 8 .ready a)

/-- PERIOD_MARK (R88, R296): waits for the boundary in a periodic context. -/
def execPeriodMark (t : Nat) (q : QRef) (s : State) : Res :=
  s.runEntry t q 0x09 (fun s _ =>
    if bit (s.ctxRec q.slot).mode 2 then s.modQueue q (fun y => { y with phase := .running, flight := .period })
    else s.finishEntry q .ok)

/-- RETIRE begins: it edits the tables; its frames are scrubbed when it completes (R258, R271). -/
def State.startRetire (s : State) (q : QRef) (e : Entry) : State :=
  match s.retireEdit q.slot e.imm0 e.imm1 with
  | (s, .ok fs) => s.modQueue q (fun y => { y with phase := .done .ok, flight := .scrub fs })
  | (s, .error st) => s.finishEntry q st

/-- RETIRE (R258). -/
def execRetire (t : Nat) (q : QRef) (s : State) : Res := s.runEntry t q 0x0C (fun s e => s.startRetire q e)

end Sys2Proof.Machine
end

