-- ==== Sys2Proof/Machine/Dispatch.lean ====
section
/-! DEFINITION. One arm per command: its meaning. -/

namespace Sys2Proof.Machine

def exec (i : Instr) (s : State) : Host.Outcome State Fault Refusal :=
  match i with
  | .powerUp t mv => Sys2Proof.Machine.execPowerUp t mv s
  | .inputLow t mv => Sys2Proof.Machine.execInputLow t mv s
  | .inputLowClear t => Sys2Proof.Machine.execInputLowClear t s
  | .powerLoss t => Sys2Proof.Machine.execPowerLoss t s
  | .modResetAssert t => Sys2Proof.Machine.execModResetAssert t s
  | .modResetRelease t strap => Sys2Proof.Machine.execModResetRelease t strap s
  | .perstAssert t => Sys2Proof.Machine.execPerstAssert t s
  | .perstRelease t => Sys2Proof.Machine.execPerstRelease t s
  | .endpointConfigReady t => Sys2Proof.Machine.execEndpointConfigReady t s
  | .flrVf t slot => Sys2Proof.Machine.execFlrVf t slot s
  | .flrPf0 t => Sys2Proof.Machine.execFlrPf0 t s
  | .tamper t src => Sys2Proof.Machine.execTamper t src s
  | .batteryLow t months => Sys2Proof.Machine.execBatteryLow t months s
  | .trngHealthFail t => Sys2Proof.Machine.execTrngHealthFail t s
  | .freshValueTimeout t wait => Sys2Proof.Machine.execFreshValueTimeout t wait s
  | .laserUnitFail t unit => Sys2Proof.Machine.execLaserUnitFail t unit s
  | .laserLatchOpen t unit => Sys2Proof.Machine.execLaserLatchOpen t unit s
  | .laserSafeToRemove t unit => Sys2Proof.Machine.execLaserSafeToRemove t unit s
  | .laserUnitInsert t unit healthy => Sys2Proof.Machine.execLaserUnitInsert t unit healthy s
  | .refclkLinkLost t => Sys2Proof.Machine.execRefclkLinkLost t s
  | .refclkLinkReturn t => Sys2Proof.Machine.execRefclkLinkReturn t s
  | .refclkPcieLost t => Sys2Proof.Machine.execRefclkPcieLost t s
  | .railExcursion t rail mv => Sys2Proof.Machine.execRailExcursion t rail mv s
  | .railExcursionEnd t rail mv => Sys2Proof.Machine.execRailExcursionEnd t rail mv s
  | .railResetLevel t rail => Sys2Proof.Machine.execRailResetLevel t rail s
  | .photonicRailRecover t => Sys2Proof.Machine.execPhotonicRailRecover t s
  | .skewCheck t meas => Sys2Proof.Machine.execSkewCheck t meas s
  | .skewDrain t region => Sys2Proof.Machine.execSkewDrain t region s
  | .regionRejoin t region => Sys2Proof.Machine.execRegionRejoin t region s
  | .thermalRegionThrottle t region temp => Sys2Proof.Machine.execThermalRegionThrottle t region temp s
  | .thermalClockStep t region temp => Sys2Proof.Machine.execThermalClockStep t region temp s
  | .thermalRegionDrain t region temp => Sys2Proof.Machine.execThermalRegionDrain t region temp s
  | .thermalSysdieLimit t temp => Sys2Proof.Machine.execThermalSysdieLimit t temp s
  | .thermalStackAction t stack temp => Sys2Proof.Machine.execThermalStackAction t stack temp s
  | .thermalCoolantLimit t inlet outlet => Sys2Proof.Machine.execThermalCoolantLimit t inlet outlet s
  | .thermalInletLimit t inlet => Sys2Proof.Machine.execThermalInletLimit t inlet s
  | .thermalRelease t action => Sys2Proof.Machine.execThermalRelease t action s
  | .thermalTrip t temp => Sys2Proof.Machine.execThermalTrip t temp s
  | .powerMeasure t watts => Sys2Proof.Machine.execPowerMeasure t watts s
  | .lightDetected t port => Sys2Proof.Machine.execLightDetected t port s
  | .bringupTimeout t port => Sys2Proof.Machine.execBringupTimeout t port s
  | .bringupRetry t port => Sys2Proof.Machine.execBringupRetry t port s
  | .train t port payload => Sys2Proof.Machine.execTrain t port payload s
  | .hello t port payload => Sys2Proof.Machine.execHello t port payload s
  | .cert t port offset payload => Sys2Proof.Machine.execCert t port offset payload s
  | .proof t port payload verdict => Sys2Proof.Machine.execProof t port payload verdict s
  | .finish t port payload => Sys2Proof.Machine.execFinish t port payload s
  | .rekey t port pkt => Sys2Proof.Machine.execRekey t port pkt s
  | .rekeyTimer t port => Sys2Proof.Machine.execRekeyTimer t port s
  | .charter t port pkt => Sys2Proof.Machine.execCharter t port pkt s
  | .domain t port pkt => Sys2Proof.Machine.execDomain t port pkt s
  | .laneFail t port lane => Sys2Proof.Machine.execLaneFail t port lane s
  | .laneRetry t port lane => Sys2Proof.Machine.execLaneRetry t port lane s
  | .laneMarginLow t port lane margin => Sys2Proof.Machine.execLaneMarginLow t port lane margin s
  | .recalStart t port lane => Sys2Proof.Machine.execRecalStart t port lane s
  | .recalDone t port lane good margin => Sys2Proof.Machine.execRecalDone t port lane good margin s
  | .laneMap t port pkt => Sys2Proof.Machine.execLaneMap t port pkt s
  | .flitReceive t port flit => Sys2Proof.Machine.execFlitReceive t port flit s
  | .flitSend t port => Sys2Proof.Machine.execFlitSend t port s
  | .packetTransit t port pkt => Sys2Proof.Machine.execPacketTransit t port pkt s
  | .duplicateRecordExpire t port => Sys2Proof.Machine.execDuplicateRecordExpire t port s
  | .portDownDetect t port => Sys2Proof.Machine.execPortDownDetect t port s
  | .timeSyncTick t => Sys2Proof.Machine.execTimeSyncTick t s
  | .timeSync t port pkt rx => Sys2Proof.Machine.execTimeSync t port pkt rx s
  | .data t port pkt => Sys2Proof.Machine.execData t port pkt s
  | .redReady t port pkt => Sys2Proof.Machine.execRedReady t port pkt s
  | .redPull t port pkt => Sys2Proof.Machine.execRedPull t port pkt s
  | .redData t port pkt => Sys2Proof.Machine.execRedData t port pkt s
  | .redResult t port pkt => Sys2Proof.Machine.execRedResult t port pkt s
  | .redRedo t port pkt => Sys2Proof.Machine.execRedRedo t port pkt s
  | .abort t port pkt => Sys2Proof.Machine.execAbort t port pkt s
  | .gatherReq t port pkt => Sys2Proof.Machine.execGatherReq t port pkt s
  | .gatherReqServe t slot => Sys2Proof.Machine.execGatherReqServe t slot s
  | .bucketStart t slot tag => Sys2Proof.Machine.execBucketStart t slot tag s
  | .contributionReady t slot tag => Sys2Proof.Machine.execContributionReady t slot tag s
  | .redDeadline t slot tag => Sys2Proof.Machine.execRedDeadline t slot tag s
  | .redPullIssue t slot tag level => Sys2Proof.Machine.execRedPullIssue t slot tag level s
  | .allToAllPatience t q => Sys2Proof.Machine.execAllToAllPatience t q s
  | .peerWaitTimeout t q => Sys2Proof.Machine.execPeerWaitTimeout t q s
  | .nop t q => Sys2Proof.Machine.execNop t q s
  | .listHead t q => Sys2Proof.Machine.execListHead t q s
  | .listEnd t q => Sys2Proof.Machine.execListEnd t q s
  | .call t q => Sys2Proof.Machine.execCall t q s
  | .treeAdmitResume t q => Sys2Proof.Machine.execTreeAdmitResume t q s
  | .loopBegin t q => Sys2Proof.Machine.execLoopBegin t q s
  | .loopEnd t q => Sys2Proof.Machine.execLoopEnd t q s
  | .barrier t q => Sys2Proof.Machine.execBarrier t q s
  | .barrierComplete t q => Sys2Proof.Machine.execBarrierComplete t q s
  | .barrierPatience t q => Sys2Proof.Machine.execBarrierPatience t q s
  | .fenceWait t q => Sys2Proof.Machine.execFenceWait t q s
  | .fenceWaitSatisfied t q => Sys2Proof.Machine.execFenceWaitSatisfied t q s
  | .fenceSignal t q => Sys2Proof.Machine.execFenceSignal t q s
  | .periodMark t q => Sys2Proof.Machine.execPeriodMark t q s
  | .stepBegin t q => Sys2Proof.Machine.execStepBegin t q s
  | .stepEnd t q => Sys2Proof.Machine.execStepEnd t q s
  | .retire t q => Sys2Proof.Machine.execRetire t q s
  | .matmul t q => Sys2Proof.Machine.execMatmul t q s
  | .matmulBwdPair t q => Sys2Proof.Machine.execMatmulBwdPair t q s
  | .groupedMatmul t q => Sys2Proof.Machine.execGroupedMatmul t q s
  | .groupedBwdPair t q => Sys2Proof.Machine.execGroupedBwdPair t q s
  | .attnFwd t q => Sys2Proof.Machine.execAttnFwd t q s
  | .attnBwd t q => Sys2Proof.Machine.execAttnBwd t q s
  | .normFwd t q => Sys2Proof.Machine.execNormFwd t q s
  | .normBwd t q => Sys2Proof.Machine.execNormBwd t q s
  | .lossXent t q => Sys2Proof.Machine.execLossXent t q s
  | .elementwise t q => Sys2Proof.Machine.execElementwise t q s
  | .rowreduce t q => Sys2Proof.Machine.execRowreduce t q s
  | .convert t q => Sys2Proof.Machine.execConvert t q s
  | .copy t q => Sys2Proof.Machine.execCopy t q s
  | .embed t q => Sys2Proof.Machine.execEmbed t q s
  | .routeTopk t q => Sys2Proof.Machine.execRouteTopk t q s
  | .compress t q => Sys2Proof.Machine.execCompress t q s
  | .expand t q => Sys2Proof.Machine.execExpand t q s
  | .allReduce t q => Sys2Proof.Machine.execAllReduce t q s
  | .reduceScatter t q => Sys2Proof.Machine.execReduceScatter t q s
  | .allGather t q => Sys2Proof.Machine.execAllGather t q s
  | .allToAll t q => Sys2Proof.Machine.execAllToAll t q s
  | .send t q => Sys2Proof.Machine.execSend t q s
  | .recv t q => Sys2Proof.Machine.execRecv t q s
  | .gatherShard t q => Sys2Proof.Machine.execGatherShard t q s
  | .dropShard t q => Sys2Proof.Machine.execDropShard t q s
  | .reshard t q => Sys2Proof.Machine.execReshard t q s
  | .optAdam t q => Sys2Proof.Machine.execOptAdam t q s
  | .optMomentum t q => Sys2Proof.Machine.execOptMomentum t q s
  | .scaleUpdate t q => Sys2Proof.Machine.execScaleUpdate t q s
  | .ingest t q => Sys2Proof.Machine.execIngest t q s
  | .checkpoint t q => Sys2Proof.Machine.execCheckpoint t q s
  | .restore t q => Sys2Proof.Machine.execRestore t q s
  | .release t q => Sys2Proof.Machine.execRelease t q s
  | .log t q => Sys2Proof.Machine.execLog t q s
  | .entryComplete t q => Sys2Proof.Machine.execEntryComplete t q s
  | .wlBreakpointHit t q bp => Sys2Proof.Machine.execWlBreakpointHit t q bp s
  | .create t fn slot => Sys2Proof.Machine.execCreate t fn slot s
  | .quench t fn slot => Sys2Proof.Machine.execQuench t fn slot s
  | .quenchDone t slot => Sys2Proof.Machine.execQuenchDone t slot s
  | .ctxRelease t fn slot => Sys2Proof.Machine.execCtxRelease t fn slot s
  | .ctxDrain t fn slot => Sys2Proof.Machine.execCtxDrain t fn slot s
  | .drainComplete t slot => Sys2Proof.Machine.execDrainComplete t slot s
  | .hostCplTimeout t tag => Sys2Proof.Machine.execHostCplTimeout t tag s
  | .doorbell t fn slot off value => Sys2Proof.Machine.execDoorbell t fn slot off value s
  | .queueFetch t q => Sys2Proof.Machine.execQueueFetch t q s
  | .queueEnable t fn slot value => Sys2Proof.Machine.execQueueEnable t fn slot value s
  | .resume t fn slot value => Sys2Proof.Machine.execResume t fn slot value s
  | .faultConsWrite t fn slot value => Sys2Proof.Machine.execFaultConsWrite t fn slot value s
  | .invalidate t fn slot value => Sys2Proof.Machine.execInvalidate t fn slot value s
  | .invalidateDone t slot => Sys2Proof.Machine.execInvalidateDone t slot s
  | .scrub t fn value => Sys2Proof.Machine.execScrub t fn value s
  | .scrubDone t => Sys2Proof.Machine.execScrubDone t s
  | .hostModeWrite t fn slot value => Sys2Proof.Machine.execHostModeWrite t fn slot value s
  | .windowRead t fn off len => Sys2Proof.Machine.execWindowRead t fn off len s
  | .windowWrite t fn off data => Sys2Proof.Machine.execWindowWrite t fn off data s
  | .tdiStateChange t slot state => Sys2Proof.Machine.execTdiStateChange t slot state s
  | .bindSlot t session req => Sys2Proof.Machine.execBindSlot t session req s
  | .unbind t session req => Sys2Proof.Machine.execUnbind t session req s
  | .spdmSessionEnd t session => Sys2Proof.Machine.execSpdmSessionEnd t session s
  | .getMeasurements t req => Sys2Proof.Machine.execGetMeasurements t req s
  | .quantumBoundary t => Sys2Proof.Machine.execQuantumBoundary t s
  | .preemptRequest t => Sys2Proof.Machine.execPreemptRequest t s
  | .preemptionPoint t core => Sys2Proof.Machine.execPreemptionPoint t core s
  | .coreTransfer t slot => Sys2Proof.Machine.execCoreTransfer t slot s
  | .sprigStart t core => Sys2Proof.Machine.execSprigStart t core s
  | .sprigEnd t core => Sys2Proof.Machine.execSprigEnd t core s
  | .periodBoundary t slot => Sys2Proof.Machine.execPeriodBoundary t slot s
  | .reload t fn value => Sys2Proof.Machine.execReload t fn value s
  | .migrationStart t frame tier stack => Sys2Proof.Machine.execMigrationStart t frame tier stack s
  | .migrationSwitch t frame => Sys2Proof.Machine.execMigrationSwitch t frame s
  | .migrationCancel t frame => Sys2Proof.Machine.execMigrationCancel t frame s
  | .patrolRead t tier stack outcome => Sys2Proof.Machine.execPatrolRead t tier stack outcome s
  | .seqSlotRelease t slot tensor => Sys2Proof.Machine.execSeqSlotRelease t slot tensor s
  | .annealReq t fn value => Sys2Proof.Machine.execAnnealReq t fn value s
  | .annealStart t => Sys2Proof.Machine.execAnnealStart t s
  | .annealBlock t slot range => Sys2Proof.Machine.execAnnealBlock t slot range s
  | .annealDone t slot range => Sys2Proof.Machine.execAnnealDone t slot range s
  | .coreDrain t fn core value => Sys2Proof.Machine.execCoreDrain t fn core value s
  | .selftest t fn core => Sys2Proof.Machine.execSelftest t fn core s
  | .selftestDone t core pass => Sys2Proof.Machine.execSelftestDone t core pass s
  | .ftqClear t fn core => Sys2Proof.Machine.execFtqClear t fn core s
  | .sweep t fn value => Sys2Proof.Machine.execSweep t fn value s
  | .sweepInterval t => Sys2Proof.Machine.execSweepInterval t s
  | .multiBitError t core => Sys2Proof.Machine.execMultiBitError t core s
  | .engineReset t page reason => Sys2Proof.Machine.execEngineReset t page reason s
  | .engineResetDone t page => Sys2Proof.Machine.execEngineResetDone t page s
  | .hangWatchdog t page => Sys2Proof.Machine.execHangWatchdog t page s
  | .engineResetWatchdog t page => Sys2Proof.Machine.execEngineResetWatchdog t page s
  | .computePartReset t cause => Sys2Proof.Machine.execComputePartReset t cause s
  | .computePartResetDone t => Sys2Proof.Machine.execComputePartResetDone t s
  | .cpResetWatchdog t => Sys2Proof.Machine.execCpResetWatchdog t s
  | .controlProcessorWatchdog t cp => Sys2Proof.Machine.execControlProcessorWatchdog t cp s
  | .mgmtWatchdog t => Sys2Proof.Machine.execMgmtWatchdog t s
  | .securityWatchdog t => Sys2Proof.Machine.execSecurityWatchdog t s
  | .packageReset t cause => Sys2Proof.Machine.execPackageReset t cause s
  | .bootComplete t => Sys2Proof.Machine.execBootComplete t s
  | .cpReset t fn value => Sys2Proof.Machine.execCpReset t fn value s
  | .histClear t fn => Sys2Proof.Machine.execHistClear t fn s
  | .recal t fn port value => Sys2Proof.Machine.execRecal t fn port value s
  | .portEnable t fn port value => Sys2Proof.Machine.execPortEnable t fn port value s
  | .laneOff t fn port value => Sys2Proof.Machine.execLaneOff t fn port value s
  | .stallMaxClear t fn value => Sys2Proof.Machine.execStallMaxClear t fn value s
  | .pcClear t fn value => Sys2Proof.Machine.execPcClear t fn value s
  | .irqStatClear t fn page value => Sys2Proof.Machine.execIrqStatClear t fn page value s
  | .irqSet t fn page value => Sys2Proof.Machine.execIrqSet t fn page value s
  | .errFirstClear t fn page value => Sys2Proof.Machine.execErrFirstClear t fn page value s
  | .hiWriteCommit t fn page off value => Sys2Proof.Machine.execHiWriteCommit t fn page off value s
  | .loReadLatch t fn page off => Sys2Proof.Machine.execLoReadLatch t fn page off s
  | .registerWrite t fn page off value => Sys2Proof.Machine.execRegisterWrite t fn page off value s
  | .obsLatch t => Sys2Proof.Machine.execObsLatch t s
  | .epochEnd t watts temp throttle => Sys2Proof.Machine.execEpochEnd t watts temp throttle s
  | .oliastorConnect t cert => Sys2Proof.Machine.execOliastorConnect t cert s
  | .getStatus t msg => Sys2Proof.Machine.execGetStatus t msg s
  | .getHallmark t msg req => Sys2Proof.Machine.execGetHallmark t msg req s
  | .subscribe t msg => Sys2Proof.Machine.execSubscribe t msg s
  | .ackEvent t msg seq => Sys2Proof.Machine.execAckEvent t msg seq s
  | .readPage t msg page => Sys2Proof.Machine.execReadPage t msg page s
  | .stageImage t msg image => Sys2Proof.Machine.execStageImage t msg image s
  | .activate t msg => Sys2Proof.Machine.execActivate t msg s
  | .activationComplete t => Sys2Proof.Machine.execActivationComplete t s
  | .activationFail t => Sys2Proof.Machine.execActivationFail t s
  | .commit t msg => Sys2Proof.Machine.execCommit t msg s
  | .discardStaged t msg => Sys2Proof.Machine.execDiscardStaged t msg s
  | .setLifecycle t msg state anchor => Sys2Proof.Machine.execSetLifecycle t msg state anchor s
  | .setAnchor t msg anchor => Sys2Proof.Machine.execSetAnchor t msg anchor s
  | .domainCreate t msg => Sys2Proof.Machine.execDomainCreate t msg s
  | .domainJoin t msg port => Sys2Proof.Machine.execDomainJoin t msg port s
  | .setAllowlist t msg composites => Sys2Proof.Machine.execSetAllowlist t msg composites s
  | .setModuleId t msg ident => Sys2Proof.Machine.execSetModuleId t msg ident s
  | .routeWrite t msg entries => Sys2Proof.Machine.execRouteWrite t msg entries s
  | .timeTree t msg root parent => Sys2Proof.Machine.execTimeTree t msg root parent s
  | .peerNotice t msg job positions kind => Sys2Proof.Machine.execPeerNotice t msg job positions kind s
  | .laserRelease t msg unit => Sys2Proof.Machine.execLaserRelease t msg unit s
  | .quenchContext t msg slot => Sys2Proof.Machine.execQuenchContext t msg slot s
  | .anneal t msg slot range => Sys2Proof.Machine.execAnneal t msg slot range s
  | .setBar4 t msg enable => Sys2Proof.Machine.execSetBar4 t msg enable s
  | .extest t bits => Sys2Proof.Machine.execExtest t bits s
  | .samplePreload t bits => Sys2Proof.Machine.execSamplePreload t bits s
  | .idcode t => Sys2Proof.Machine.execIdcode t s
  | .dalRead t addr => Sys2Proof.Machine.execDalRead t addr s
  | .dalWrite t addr data => Sys2Proof.Machine.execDalWrite t addr data s
  | .dalOpen t => Sys2Proof.Machine.execDalOpen t s
  | .dalClose t => Sys2Proof.Machine.execDalClose t s
  | .dalFactoryOp t op credential => Sys2Proof.Machine.execDalFactoryOp t op credential s
  | .cpHalt t fn value => Sys2Proof.Machine.execCpHalt t fn value s
  | .cpStep t fn value => Sys2Proof.Machine.execCpStep t fn value s
  | .cpBreakpointHit t cp bp => Sys2Proof.Machine.execCpBreakpointHit t cp bp s
  | .wlResume t fn bp => Sys2Proof.Machine.execWlResume t fn bp s
  | .frameViewRead t fn => Sys2Proof.Machine.execFrameViewRead t fn s
  | .frameViewWrite t fn => Sys2Proof.Machine.execFrameViewWrite t fn s
  | .ptArm t fn value => Sys2Proof.Machine.execPtArm t fn value s
  | .refclkPcieReturn t => Sys2Proof.Machine.execRefclkPcieReturn t s
  | .codewordLock t port lanes => Sys2Proof.Machine.execCodewordLock t port lanes s
  | .hostCompletion t tag data => Sys2Proof.Machine.execHostCompletion t tag data s
  | .pcieLinkRetrain t speed width flit => Sys2Proof.Machine.execPcieLinkRetrain t speed width flit s
  | .sriovEnable t enable numVfs => Sys2Proof.Machine.execSriovEnable t enable numVfs s
  | .thermalTripRailsOn t temp => Sys2Proof.Machine.execThermalTripRailsOn t temp s
  | .spdmSessionStart t session transcript => Sys2Proof.Machine.execSpdmSessionStart t session transcript s
  | .ideKm t session slot => Sys2Proof.Machine.execIdeKm t session slot s

end Sys2Proof.Machine
end

