-- ==== Sys2Proof/WellFormed.lean ====
section
/-! DEFINITION. Well-formed commands: every operand lies in the range the spec gives it. A command outside these ranges cannot be
sent; its meaning is defined all the same. -/

namespace Sys2Proof

/-- A context slot (R247). -/
def slotOk (c : Nat) : Bool := decide (c < 64)

/-- A binding request's fields, and the 96 bytes of its signature (R342). -/
def bindOk (r : BindRequest) : Bool :=
  decide (r.slot < 256) && decide (r.gen < 256) && decide (r.owner < 256) && decide (r.sig.length = 96)

/-- A queue of a slot (R255). -/
def QRef.ok (q : QRef) : Bool := slotOk q.slot && decide (q.queue < 16)

/-- A function: PF0, a virtual function, or the debug access layer (R242, R420). -/
def fnOk (f : Nat) : Bool := decide (f ≤ 65)

/-- A port (R198). -/
def portOk (p : Nat) : Bool := decide (p < 32)

/-- A 32-bit word (R401). -/
def wordOk (v : Nat) : Bool := decide (v < 2 ^ 32)

/-- A page index (R400, R414). -/
def pageOk (p : Nat) : Bool := decide (p < 65536)

/-- An offset of a register in its page (R401). -/
def regOff (o : Nat) : Bool := decide (o < 4096 ∧ o % 4 = 0)

/-- An offset in the window (R244). -/
def winOff (o : Nat) : Bool := decide (o < 2 ^ 36)

/-- A core (R130). -/
def coreOk (c : Nat) : Bool := decide (c < 80)

/-- A laser bay (R34); a tier. -/
def unitOk (u : Nat) : Bool := decide (u < 2)

/-- A region (R390). -/
def regionOk (r : Nat) : Bool := decide (r < 8)

/-- A lane (R199); a key-range entry (R302); a strap value (R17). -/
def laneOk (l : Nat) : Bool := decide (l < 8)

/-- A rail (R388), a stack (R177), a control processor (R419). -/
def railOk (r : Nat) : Bool := decide (r < 16)

/-- A work-list or processor breakpoint (R424, R426). -/
def bpOk (n : Nat) : Bool := decide (n < 4)

/-- A frame number: 26 bits (R179). -/
def frameOk (f : Nat) : Bool := decide (f < 2 ^ 26)

def byteOk (b : Nat) : Bool := decide (b < 256)

/-- NumVFs (R243). -/
def vfsOk (n : Nat) : Bool := decide (n ≤ 64)

/-- A payload (R209). -/
def payloadOk (b : Bytes) : Bool := decide (b.length ≤ 4096)

/-- A packet's fields fit their places (R209). -/
def Packet.ok (p : Packet) : Bool :=
  decide (p.ptype < 16 ∧ p.ctl < 256 ∧ p.dst < 65536 ∧ p.src < 65536 ∧ p.job < 65536 ∧ p.gen < 256 ∧ p.hops < 16)
    && decide (p.tag < 2 ^ 48 ∧ p.level < 256 ∧ p.offset < 2 ^ 32 ∧ p.ctr < 2 ^ 64) && payloadOk p.payload

/-- The header of a request for a function, with a payload of at most 16 MiB (R372). -/
def Call.ok (c : Call) (function : Nat) : Bool :=
  decide (c.function = function ∧ c.request < 2 ^ 32 ∧ c.length ≤ 2 ^ 24)

/-- A fragment lies in its image (R372). -/
def Image.ok (i : Image) : Bool := decide (i.offset + i.length ≤ i.total)

/-- A command is well formed. -/
def Instr.wf : Instr → Bool
  | .powerUp _ _ => true
  | .inputLow _ _ => true
  | .inputLowClear _ => true
  | .powerLoss _ => true
  | .modResetAssert _ => true
  | .modResetRelease _ strap => laneOk strap
  | .perstAssert _ => true
  | .perstRelease _ => true
  | .endpointConfigReady _ => true
  | .flrVf _ slot => slotOk slot
  | .flrPf0 _ => true
  | .tamper _ _ => true
  | .batteryLow _ _ => true
  | .trngHealthFail _ => true
  | .freshValueTimeout _ _ => true
  | .laserUnitFail _ unit => unitOk unit
  | .laserLatchOpen _ unit => unitOk unit
  | .laserSafeToRemove _ unit => unitOk unit
  | .laserUnitInsert _ unit _ => unitOk unit
  | .refclkLinkLost _ => true
  | .refclkLinkReturn _ => true
  | .refclkPcieLost _ => true
  | .railExcursion _ rail _ => railOk rail
  | .railExcursionEnd _ rail _ => railOk rail
  | .railResetLevel _ rail => railOk rail
  | .photonicRailRecover _ => true
  | .skewCheck _ _ => true
  | .skewDrain _ region => regionOk region
  | .regionRejoin _ region => regionOk region
  | .thermalRegionThrottle _ region _ => regionOk region
  | .thermalClockStep _ region _ => regionOk region
  | .thermalRegionDrain _ region _ => regionOk region
  | .thermalSysdieLimit _ _ => true
  | .thermalStackAction _ stack _ => railOk stack
  | .thermalCoolantLimit _ _ _ => true
  | .thermalInletLimit _ _ => true
  | .thermalRelease _ _ => true
  | .thermalTrip _ _ => true
  | .powerMeasure _ _ => true
  | .lightDetected _ port => portOk port
  | .bringupTimeout _ port => portOk port
  | .bringupRetry _ port => portOk port
  | .train _ port payload => portOk port && payloadOk payload
  | .hello _ port payload => portOk port && payloadOk payload
  | .cert _ port _ payload => portOk port && payloadOk payload
  | .proof _ port payload _ => portOk port && payloadOk payload
  | .finish _ port payload => portOk port && payloadOk payload
  | .rekey _ port pkt => portOk port && pkt.ok
  | .rekeyTimer _ port => portOk port
  | .charter _ port pkt => portOk port && pkt.ok
  | .domain _ port pkt => portOk port && pkt.ok
  | .laneFail _ port lane => portOk port && laneOk lane
  | .laneRetry _ port lane => portOk port && laneOk lane
  | .laneMarginLow _ port lane _ => portOk port && laneOk lane
  | .recalStart _ port lane => portOk port && laneOk lane
  | .recalDone _ port lane _ _ => portOk port && laneOk lane
  | .laneMap _ port pkt => portOk port && pkt.ok
  | .flitReceive _ port flit => portOk port && decide (flit.length = 642)
  | .flitSend _ port => portOk port
  | .packetTransit _ port pkt => portOk port && pkt.ok
  | .duplicateRecordExpire _ port => portOk port
  | .portDownDetect _ port => portOk port
  | .timeSyncTick _ => true
  | .timeSync _ port pkt _ => portOk port && pkt.ok
  | .data _ port pkt => portOk port && pkt.ok
  | .redReady _ port pkt => portOk port && pkt.ok
  | .redPull _ port pkt => portOk port && pkt.ok
  | .redData _ port pkt => portOk port && pkt.ok
  | .redResult _ port pkt => portOk port && pkt.ok
  | .redRedo _ port pkt => portOk port && pkt.ok
  | .abort _ port pkt => portOk port && pkt.ok
  | .gatherReq _ port pkt => portOk port && pkt.ok
  | .gatherReqServe _ slot => slotOk slot
  | .bucketStart _ slot _ => slotOk slot
  | .contributionReady _ slot _ => slotOk slot
  | .redDeadline _ slot _ => slotOk slot
  | .redPullIssue _ slot _ _ => slotOk slot
  | .allToAllPatience _ q => q.ok
  | .peerWaitTimeout _ q => q.ok
  | .nop _ q => q.ok
  | .listHead _ q => q.ok
  | .listEnd _ q => q.ok
  | .call _ q => q.ok
  | .treeAdmitResume _ q => q.ok
  | .loopBegin _ q => q.ok
  | .loopEnd _ q => q.ok
  | .barrier _ q => q.ok
  | .barrierComplete _ q => q.ok
  | .barrierPatience _ q => q.ok
  | .fenceWait _ q => q.ok
  | .fenceWaitSatisfied _ q => q.ok
  | .fenceSignal _ q => q.ok
  | .periodMark _ q => q.ok
  | .stepBegin _ q => q.ok
  | .stepEnd _ q => q.ok
  | .retire _ q => q.ok
  | .matmul _ q => q.ok
  | .matmulBwdPair _ q => q.ok
  | .groupedMatmul _ q => q.ok
  | .groupedBwdPair _ q => q.ok
  | .attnFwd _ q => q.ok
  | .attnBwd _ q => q.ok
  | .normFwd _ q => q.ok
  | .normBwd _ q => q.ok
  | .lossXent _ q => q.ok
  | .elementwise _ q => q.ok
  | .rowreduce _ q => q.ok
  | .convert _ q => q.ok
  | .copy _ q => q.ok
  | .embed _ q => q.ok
  | .routeTopk _ q => q.ok
  | .compress _ q => q.ok
  | .expand _ q => q.ok
  | .allReduce _ q => q.ok
  | .reduceScatter _ q => q.ok
  | .allGather _ q => q.ok
  | .allToAll _ q => q.ok
  | .send _ q => q.ok
  | .recv _ q => q.ok
  | .gatherShard _ q => q.ok
  | .dropShard _ q => q.ok
  | .reshard _ q => q.ok
  | .optAdam _ q => q.ok
  | .optMomentum _ q => q.ok
  | .scaleUpdate _ q => q.ok
  | .ingest _ q => q.ok
  | .checkpoint _ q => q.ok
  | .restore _ q => q.ok
  | .release _ q => q.ok
  | .log _ q => q.ok
  | .entryComplete _ q => q.ok
  | .wlBreakpointHit _ q bp => q.ok && bpOk bp
  | .create _ fn slot => fnOk fn && slotOk slot
  | .quench _ fn slot => fnOk fn && slotOk slot
  | .quenchDone _ slot => slotOk slot
  | .ctxRelease _ fn slot => fnOk fn && slotOk slot
  | .ctxDrain _ fn slot => fnOk fn && slotOk slot
  | .drainComplete _ slot => slotOk slot
  | .hostCplTimeout _ _ => true
  | .doorbell _ fn slot off value => fnOk fn && slotOk slot && regOff off && wordOk value
  | .queueFetch _ q => q.ok
  | .queueEnable _ fn slot value => fnOk fn && slotOk slot && wordOk value
  | .resume _ fn slot value => fnOk fn && slotOk slot && wordOk value
  | .faultConsWrite _ fn slot value => fnOk fn && slotOk slot && wordOk value
  | .invalidate _ fn slot value => fnOk fn && slotOk slot && wordOk value
  | .invalidateDone _ slot => slotOk slot
  | .scrub _ fn value => fnOk fn && wordOk value
  | .scrubDone _ => true
  | .hostModeWrite _ fn slot value => fnOk fn && slotOk slot && wordOk value
  | .windowRead _ fn off _ => fnOk fn && winOff off
  | .windowWrite _ fn off _ => fnOk fn && winOff off
  | .tdiStateChange _ slot _ => slotOk slot
  | .bindSlot _ _ req => bindOk req
  | .unbind _ _ req => bindOk req
  | .spdmSessionEnd _ _ => true
  | .getMeasurements _ _ => true
  | .quantumBoundary _ => true
  | .preemptRequest _ => true
  | .preemptionPoint _ core => coreOk core
  | .coreTransfer _ slot => slotOk slot
  | .sprigStart _ core => coreOk core
  | .sprigEnd _ core => coreOk core
  | .periodBoundary _ slot => slotOk slot
  | .reload _ fn value => fnOk fn && wordOk value
  | .migrationStart _ frame tier stack => frameOk frame && unitOk tier && railOk stack
  | .migrationSwitch _ frame => frameOk frame
  | .migrationCancel _ frame => frameOk frame
  | .patrolRead _ tier stack _ => unitOk tier && railOk stack
  | .seqSlotRelease _ slot _ => slotOk slot
  | .annealReq _ fn value => fnOk fn && wordOk value
  | .annealStart _ => true
  | .annealBlock _ slot range => slotOk slot && laneOk range
  | .annealDone _ slot range => slotOk slot && laneOk range
  | .coreDrain _ fn core value => fnOk fn && coreOk core && wordOk value
  | .selftest _ fn core => fnOk fn && coreOk core
  | .selftestDone _ core _ => coreOk core
  | .ftqClear _ fn core => fnOk fn && coreOk core
  | .sweep _ fn value => fnOk fn && wordOk value
  | .sweepInterval _ => true
  | .multiBitError _ core => coreOk core
  | .engineReset _ page _ => pageOk page
  | .engineResetDone _ page => pageOk page
  | .hangWatchdog _ page => pageOk page
  | .engineResetWatchdog _ page => pageOk page
  | .computePartReset _ cause => byteOk cause
  | .computePartResetDone _ => true
  | .cpResetWatchdog _ => true
  | .controlProcessorWatchdog _ cp => railOk cp
  | .mgmtWatchdog _ => true
  | .securityWatchdog _ => true
  | .packageReset _ cause => byteOk cause
  | .bootComplete _ => true
  | .cpReset _ fn value => fnOk fn && wordOk value
  | .histClear _ fn => fnOk fn
  | .recal _ fn port value => fnOk fn && portOk port && wordOk value
  | .portEnable _ fn port value => fnOk fn && portOk port && wordOk value
  | .laneOff _ fn port value => fnOk fn && portOk port && wordOk value
  | .stallMaxClear _ fn value => fnOk fn && wordOk value
  | .pcClear _ fn value => fnOk fn && wordOk value
  | .irqStatClear _ fn page value => fnOk fn && pageOk page && wordOk value
  | .irqSet _ fn page value => fnOk fn && pageOk page && wordOk value
  | .errFirstClear _ fn page value => fnOk fn && pageOk page && wordOk value
  | .hiWriteCommit _ fn page off value => fnOk fn && pageOk page && regOff off && wordOk value
  | .loReadLatch _ fn page off => fnOk fn && pageOk page && regOff off
  | .registerWrite _ fn page off value => fnOk fn && pageOk page && regOff off && wordOk value
  | .obsLatch _ => true
  | .epochEnd _ _ _ _ => true
  | .oliastorConnect _ _ => true
  | .getStatus _ msg => msg.ok 0x0001
  | .getHallmark _ msg _ => msg.ok 0x0002
  | .subscribe _ msg => msg.ok 0x0003
  | .ackEvent _ msg _ => msg.ok 0x0004
  | .readPage _ msg page => msg.ok 0x0005 && pageOk page
  | .stageImage _ msg image => msg.ok 0x0010 && image.ok
  | .activate _ msg => msg.ok 0x0011
  | .activationComplete _ => true
  | .activationFail _ => true
  | .commit _ msg => msg.ok 0x0012
  | .discardStaged _ msg => msg.ok 0x0013
  | .setLifecycle _ msg _ _ => msg.ok 0x0020
  | .setAnchor _ msg _ => msg.ok 0x0021
  | .domainCreate _ msg => msg.ok 0x0030
  | .domainJoin _ msg port => msg.ok 0x0031 && portOk port
  | .setAllowlist _ msg _ => msg.ok 0x0032
  | .setModuleId _ msg _ => msg.ok 0x0040
  | .routeWrite _ msg _ => msg.ok 0x0041
  | .timeTree _ msg _ _ => msg.ok 0x0042
  | .peerNotice _ msg _ _ _ => msg.ok 0x0043
  | .laserRelease _ msg unit => msg.ok 0x0050 && unitOk unit
  | .quenchContext _ msg slot => msg.ok 0x0051 && slotOk slot
  | .anneal _ msg slot range => msg.ok 0x0052 && slotOk slot && laneOk range
  | .setBar4 _ msg _ => msg.ok 0x0053
  | .extest _ _ => true
  | .samplePreload _ _ => true
  | .idcode _ => true
  | .dalRead _ addr => wordOk addr
  | .dalWrite _ addr d => wordOk addr && wordOk d
  | .dalOpen _ => true
  | .dalClose _ => true
  | .dalFactoryOp _ _ _ => true
  | .cpHalt _ fn value => fnOk fn && wordOk value
  | .cpStep _ fn value => fnOk fn && wordOk value
  | .cpBreakpointHit _ cp bp => railOk cp && bpOk bp
  | .wlResume _ fn bp => fnOk fn && bpOk bp
  | .frameViewRead _ fn => fnOk fn
  | .frameViewWrite _ fn => fnOk fn
  | .ptArm _ fn value => fnOk fn && wordOk value
  | .refclkPcieReturn _ => true
  | .codewordLock _ port lanes => portOk port && byteOk lanes
  | .hostCompletion _ _ _ => true
  | .pcieLinkRetrain _ _ _ _ => true
  | .sriovEnable _ _ numVfs => vfsOk numVfs
  | .thermalTripRailsOn _ _ => true
  | .spdmSessionStart _ _ _ => true
  | .ideKm _ _ slot => slotOk slot

end Sys2Proof
end

