-- ==== Sys2Proof/Safety.lean ====
section
/-! DEFINITION. What a safe step is: it answers a next state. -/

namespace Sys2Proof

/-- A step from this state answers a next state: neither a fault nor a refusal. -/
def Machine.State.stepsOn (s : Machine.State) : Prop := ∃ t, Machine.step s = .next t

/-- A command that can stop the machine: POWER_UP beyond the absolute limit of the input (R43), and a factory operation outside
the contract (R418, R421). -/
def Instr.mayStop : Instr → Bool
  | .powerUp _ mv => decide (mv > 65000)
  | .dalFactoryOp _ (.other _) credential => credential
  | _ => false

/-- The security controller of a module that was tampered with or retired holds no root, and no life-cycle transition
waits in it (R351 to R353). -/
def Machine.Sec.Shut (c : Machine.Sec) : Prop :=
  c.latch = true ∨ c.fuse = true ∨ c.lifecycle = .retired → c.root = none ∧ c.pending = none

/-- From one security controller to the next: such a controller stays so, a blown fuse stays blown, and a tampered or RETIRED
module keeps its life-cycle state or becomes RETIRED. -/
def Machine.Sec.Kept (a b : Machine.Sec) : Prop :=
  (a.Shut → b.Shut) ∧ (a.fuse = true → b.fuse = true) ∧
  (a.Shut → a.fuse = true ∨ a.lifecycle = .retired → b.lifecycle = a.lifecycle ∨ b.lifecycle = .retired)

namespace Claims

open Sys2Proof.Machine

/-- When `G` holds at the moment of the command, the command answers exactly the next state `E`; both are read after
the clock has reached that moment. -/
def Gives (c : Nat → Instr) (G : State → Prop) (E : State → State) : Prop :=
  ∀ (t : Nat) (s : State), G (s.tick t) → exec (c t) s = .next (E (s.tick t))

/-- When `G` holds at the moment of the command, the command answers a next state that stands to that moment's state
in the relation `P`. -/
def Reaches (c : Nat → Instr) (G : State → Prop) (P : State → State → Prop) : Prop :=
  ∀ (t : Nat) (s : State), G (s.tick t) → ∃ u : State, exec (c t) s = .next u ∧ P (s.tick t) u

/-- The state in which the effect of an entry begins: the clock at `t`, the entry started, its operands' pages met. -/
def begun (s : State) (t : Nat) (q : QRef) (e : Entry) : State := ((s.tick t).start q).touch q e

/-- When the current entry of the queue can run as opcode `op`, and `G` holds where its effect begins, the command
answers exactly the next state `E`. -/
def Runs (c : Nat → QRef → Instr) (op : Nat) (G : QRef → Entry → State → Prop) (E : QRef → Entry → State → State) : Prop :=
  ∀ (t : Nat) (q : QRef) (s : State) (e : Entry), (s.tick t).ready q op = some e → G q e (begun s t q e) →
    exec (c t q) s = .next (E q e (begun s t q e))

/-- As `Runs`, for a next state that stands in the relation `P` to the state in which the effect began. -/
def RunsTo (c : Nat → QRef → Instr) (op : Nat) (G : QRef → Entry → State → Prop) (P : QRef → Entry → State → State → Prop) :
    Prop :=
  ∀ (t : Nat) (q : QRef) (s : State) (e : Entry), (s.tick t).ready q op = some e → G q e (begun s t q e) →
    ∃ u : State, exec (c t q) s = .next u ∧ P q e (begun s t q e) u

/-- When the current entry of the queue can run as opcode `op`, its operator `f` gives a result on its operands, or rounded tiles of
it are kept since a fault (R152), its work enters its cores, every line it writes translates and every store succeeds, the command
answers the state in which the stores are made and the entry is completed. -/
def Computes (c : Nat → QRef → Instr) (op : Nat) (f : QRef → State → Queue → Entry → Except Acc Done) :
    Prop :=
  ∀ (t : Nat) (q : QRef) (s : State) (e : Entry) (r : Done) (u : State), (s.tick t).ready q op = some e →
    ((begun s t q e).queue q).outcome (f q (begun s t q e) ((begun s t q e).queue q) e) = .ok r →
    ((begun s t q e).occupy q e).effFault q.slot r.eff = none →
    ((begun s t q e).occupy q e).applyEff q.slot r.eff = (u, none) → exec (c t q) s = .next (u.computed q e r)

/-- A function of the Oliastor service answers an open connection of a role that may call it. -/
def Serves (s : State) (msg : Call) (a : Allowed) : Prop := ∃ k : Conn, s.conn msg = some k ∧ s.allows k a = true

/-- PF0 or the debug layer writes a page that is present, not in reset, of a module that serves it. -/
def Opened (s : State) (fn page : Nat) : Prop := pf0 fn = true ∧ (s.access fn page).opens fn page = true

/-- A function that may write the CTX page of a slot writes it. -/
def CtxOpened (s : State) (fn slot : Nat) : Prop := (s.access fn (pgCtx slot)).ctxOpens fn slot false = true

end Claims

end Sys2Proof
end

