-- ==== Sys2Proof/Certificates/Slice0/Obligations.lean ====
section
/-! DEFINITION. The statements about the model. A statement about a command says in which next state it ends, with its
effect and everything it leaves: `Gives` names that state exactly, `Reaches` by what holds of it, `Runs`, `RunsTo` and
`Computes` for the entries of a work list. Its hypotheses speak of the state at the moment of the command. -/

open Sys2Proof Sys2Proof.Machine Sys2Proof.Claims

/-! ### The machine's own frame -/

/-- A step runs the command at the front of the queue on the state with the queue's rest; an empty queue idles (log 1). -/
def Obligations.StepRunsTheFrontCommand : Prop :=
  (∀ (c : Instr) (rest : List Instr) (s : State), s.pending = c :: rest → step s = exec c { s with pending := rest })
  ∧ ∀ s : State, s.pending = [] → step s = .next s

/-- A command first brings the clock to its moment (log 2): the interval clock never moves back; device time counts with it,
stands still while the reference is held (R41), and leaves it by at most 100 ppm of the elapsed time while it is slewed (R221);
nothing else changes but the counter of free values. -/
def Obligations.TickMovesOnlyTheClocks : Prop :=
  ∀ (t : Nat) (s : State),
    s.tick t = { s with clk := { s.clk with now := max s.clk.now t, time := (s.tick t).clk.time, slew := (s.tick t).clk.slew }
                        free := (s.tick t).free }
    ∧ (s.clk.held = true → (s.tick t).clk.time = s.clk.time ∧ (s.tick t).clk.slew = s.clk.slew)
    ∧ (s.clk.held = false → s.clk.slew = 0 → (s.tick t).clk.time = (s.clk.time + (t - s.clk.now)) % 2 ^ 64)
    ∧ (s.clk.held = false → ∃ d : Int, d.natAbs ≤ (t - s.clk.now) / 10000 ∧ d.natAbs ≤ s.clk.slew.natAbs
        ∧ (s.tick t).clk.slew = s.clk.slew - d
        ∧ (s.tick t).clk.time = (((s.clk.time + (t - s.clk.now) : Nat) : Int) + d).toNat % 2 ^ 64)

/-- Every command answers a next state, whatever the state, but for POWER_UP beyond the absolute limit and a factory
operation outside the contract. -/
def Obligations.EveryOtherCommandCompletes : Prop :=
  ∀ (c : Instr) (s : State), c.mayStop = false → ∃ u : State, exec c s = .next u

/-- The two stops. POWER_UP with an input above 65 V on a module without power faults (R43). DAL_FACTORY_OP with a credential
and an operation other than those of R353 is refused (R418, R421). -/
def Obligations.TheTwoStops : Prop :=
  (∀ (t mv : Nat) (s : State), (s.tick t).powered = false → mv > 65000 → exec (.powerUp t mv) s = .fault .absoluteLimit)
  ∧ ∀ (t code : Nat) (s : State), (s.tick t).powered = true →
      exec (.dalFactoryOp t (.other code) true) s = .refused .factoryOperation

/-! ### Power, pins, security events, lasers, clocks -/

/-- The input and the pins: POWER_UP (R19; the rows of a tamper latched without power run now, R351), INPUT_LOW, INPUT_LOW_CLEAR
(R20), POWER_LOSS (R21), MOD_RESET_ASSERT, MOD_RESET_RELEASE (R17, R25), PERST_ASSERT, PERST_RELEASE (R24, R25),
ENDPOINT_CONFIG_READY (R22). A link held in reset trains once nothing holds it: `linkTrains`. -/
def Obligations.PowerAndPinCommands : Prop :=
  (∀ mv : Nat, 47000 ≤ mv → mv ≤ 65000 → Gives (.powerUp · mv) (fun s => s.powered = false)
    (fun s =>
      let u := ([0, 1] : List Nat).foldl (fun s u => s.setLaser u (s.laser u).powerUp) { s with
        boot := .standby
        pins := { s.pins with inputOn := true, lowInput := decide (mv < 48000), inputMv := mv, pwrgd := true, onBattery := false }
        ras := { bootCause := causePowerUp } }
      if s.sec.latch && !s.sec.fuse then u.tamperRest else u))
  ∧ (∀ mv : Nat, 45000 ≤ mv → mv < 48000 → Gives (.inputLow · mv) (fun s => s.powered = true)
    (fun s => ({ s with pins := { s.pins with lowInput := true, inputMv := mv } }.logRas pgPwrclk 5 0x52 none mv).relimit s.limit))
  ∧ Gives .inputLowClear (fun s => s.powered = true)
    (fun s => { s with pins := { s.pins with lowInput := false } }.relimit s.limit)
  ∧ Reaches .powerLoss (fun s => s.powered = true) (fun s u =>
      u.boot = .off ∧ u.ctxs = [] ∧ u.mem = { host := s.mem.host } ∧ u.sec.root = s.sec.root ∧ u.sec.fuse = s.sec.fuse
      ∧ u.sec.pending = none ∧ u.pins.pwrgd = false ∧ u.pins.onBattery = true ∧ u.clk.now = s.clk.now ∧ u.dbg = {} ∧ u.cores = []
      ∧ ∀ l < 2, (u.laser l).present = (s.laser l).present ∧ (u.laser l).healthy = (s.laser l).healthy
          ∧ (u.laser l).latchOpen = (s.laser l).latchOpen ∧ (u.laser l).emitting = false)
  ∧ Gives .modResetAssert (fun s => s.powered = true ∧ s.pins.modResetN = true ∧ s.boot ≠ .tripHeld)
    (fun s => { s with pins := { s.pins with modResetN := false } }.packageReset causeModReset)
  ∧ Gives .modResetAssert (fun s => s.pins.modResetN = true ∧ s.boot = .tripHeld)
    (fun s => { ({ s with pins := { s.pins with modResetN := false } }.packageReset causeModReset) with boot := .tripHeld })
  ∧ (∀ strap : Nat, Gives (.modResetRelease · strap)
      (fun s => s.powered = true ∧ s.pins.modResetN = false)
      (fun s => State.linkTrains { s with
        boot := if s.boot = .tripHeld then .tripHeld else .booting
        pins := { s.pins with modResetN := true, strap := strap % 8, slotId := strap % 8 } }))
  ∧ Gives .perstAssert (fun s => s.pins.perstN = true ∧ s.powered = true)
    (fun s => { s with pins := { s.pins with perstN := false } }.endpointReset)
  ∧ Gives .perstAssert (fun s => s.pins.perstN = true ∧ s.powered = false)
    (fun s => { s with pins := { s.pins with perstN := false } })
  ∧ Gives .perstRelease (fun s => s.powered = true ∧ s.pins.perstN = false)
    (fun s => State.linkTrains { s with pins := { s.pins with perstN := true } })
  ∧ Gives .endpointConfigReady (fun s => s.linkTrains.hostUp = true)
    (fun s => { s.linkTrains with pcie := { s.linkTrains.pcie with crs := false } })

/-- Function-level resets and security events: FLR_VF quenches its slot alone, FLR_PF0 resets what the host sees; TAMPER zeroes the
root, the domain secret and the anchor, sets the latch, and on a powered module blows the fuse and resets the package (R351);
BATTERY_LOW and TRNG_HEALTH_FAIL; FRESH_VALUE_TIMEOUT ends what has waited for 1 s, here an anneal, a CREATE, a bring-up, a request of
the service, a REKEY and a boot (R350; what a failed boot and a failed REKEY leave is the model's choice, log 122). -/
def Obligations.SecurityEventCommands : Prop :=
  (∀ slot : Nat, slot < 64 → Gives (.flrVf · slot) (fun s => s.hostUp = true ∧ s.bound slot = true)
    (fun s => (s.setHdr (pgCtx slot) { s.hdr (pgCtx slot) with stat := 0, en := none }).quench slot))
  ∧ Gives .flrPf0 (fun s => s.hostUp = true) (fun s => s.hostReset)
  ∧ (∀ src : TamperSource, Reaches (.tamper · src) (fun s => s.powered = true) (fun s u =>
      u.sec.root = none ∧ u.sec.domain = none ∧ u.sec.anchor = none ∧ u.sec.latch = true ∧ u.sec.fuse = true
      ∧ u.sec.source = some src ∧ u.sec.pending = none ∧ u.mem = { host := s.mem.host } ∧ u.ctxs = [] ∧ u.ports = []
      ∧ u.pins.ledTamper = true ∧ u.ident.serial = s.ident.serial))
  ∧ (∀ src : TamperSource, Gives (.tamper · src) (fun s => s.powered = false)
      (fun s => { s with sec := { s.sec with root := none, domain := none, anchor := none, latch := true, source := some src,
                                             pending := none } }))
  ∧ (∀ months : Nat, months < 6 → Gives (.batteryLow · months) (fun _ => True)
      (fun s => State.tellBattery { s with sec := { s.sec with months, batteryLow := true, batteryTold := false } }))
  ∧ (∀ months : Nat, months < 6 → Gives (.batteryLow · months) (fun s => s.running = true)
      (fun s => { s with sec := { s.sec with months, batteryLow := true, batteryTold := true } }.logRas pgRas 5 0x58 none months))
  ∧ Gives .trngHealthFail (fun s => s.powered = true)
      (fun s => { s with sec := { s.sec with trngOk := false } }.logRas pgRas 7 0x70 none 0)
  ∧ (∀ wait a : Nat, Gives (.freshValueTimeout · wait)
      (fun s => s.sec.waits[wait]? = some (a, .anneal) ∧ a + 1000000000 ≤ s.clk.now)
      (fun s => { s with sec := { s.sec with waits := s.sec.waits.filter (fun x => x ≠ (a, .anneal)) }
                         mem := { s.mem with annealQ := s.mem.annealQ.drop 1 } }))
  ∧ (∀ wait a slot : Nat, Reaches (.freshValueTimeout · wait)
      (fun s => s.sec.waits[wait]? = some (a, .create slot) ∧ a + 1000000000 ≤ s.clk.now) (fun s u =>
      u = { s with sec := { s.sec with waits := s.sec.waits.filter (fun x => x ≠ (a, .create slot)) }, free := s.free + 1
                   ctxs := u.ctxs }
      ∧ (u.ctx slot) = { s.ctx slot with createErr := (u.ctx slot).createErr } ∧ (u.ctx slot).createErr ≠ 0
      ∧ ∀ c, c ≠ slot → u.ctx c = s.ctx c))
  ∧ (∀ wait a port : Nat, Reaches (.freshValueTimeout · wait)
      (fun s => s.sec.waits[wait]? = some (a, .hello port) ∧ a + 1000000000 ≤ s.clk.now) (fun s u =>
      (u.port port).st = 4 ∧ (u.port port).retryAt = s.clk.now + 1000000000
      ∧ (∀ p, p ≠ port → u.port p = s.port p) ∧ u.mem = s.mem ∧ u.ctxs = s.ctxs))
  ∧ (∀ (wait a : Nat) (m : Call), Reaches (.freshValueTimeout · wait)
      (fun s => s.sec.waits[wait]? = some (a, .domain m) ∧ a + 1000000000 ≤ s.clk.now) (fun s u =>
      ∃ code : Nat, code ≠ resOk ∧ u = State.respond { s with
        sec := { s.sec with waits := s.sec.waits.filter (fun x => x ≠ (a, .domain m)) }, free := s.free + 1 } m code))
  ∧ (∀ wait a port : Nat, Gives (.freshValueTimeout · wait)
      (fun s => s.sec.waits[wait]? = some (a, .rekey port) ∧ a + 1000000000 ≤ s.clk.now)
      (fun s => { s with sec := { s.sec with waits := s.sec.waits.filter (fun x => x ≠ (a, .rekey port)) } }))
  ∧ (∀ wait a : Nat, Gives (.freshValueTimeout · wait)
      (fun s => s.sec.waits[wait]? = some (a, .boot) ∧ a + 1000000000 ≤ s.clk.now)
      (fun s => { s with sec := { s.sec with waits := s.sec.waits.filter (fun x => x ≠ (a, .boot)) }, boot := .recovery }))

/-- The laser units: LASER_UNIT_FAIL (whether a failed unit still counts as present is a free value), LASER_LATCH_OPEN,
LASER_SAFE_TO_REMOVE, LASER_UNIT_INSERT. -/
def Obligations.LaserCommands : Prop :=
  (∀ unit : Nat, unit < 2 → Reaches (.laserUnitFail · unit) (fun s => (s.laser unit).present = true) (fun s u =>
      ∃ p : Bool, u = ({ s with free := s.free + 1 } : State).darken unit { s.laser unit with
        present := p, healthy := false, emitting := false, power := 0 }))
  ∧ (∀ unit : Nat, unit < 2 → Gives (.laserLatchOpen · unit) (fun _ => True)
      (fun s => s.darken unit { s.laser unit with emitting := false, power := 0, latchOpen := true }))
  ∧ (∀ unit : Nat, unit < 2 → Gives (.laserSafeToRemove · unit) (fun s => (s.laser unit).released = true
      ∧ ∀ q ∈ s.portList, s.feeds q ≠ some unit ∧ (s.port q).moving = false)
      (fun s => s.setLaser unit { s.laser unit with safe := true, amber := true }))
  ∧ (∀ (unit : Nat) (healthy : Bool), unit < 2 → Gives (.laserUnitInsert · unit healthy) (fun _ => True)
      (fun s => (s.pinLight.setLaser unit { present := true, healthy, emitting := healthy && s.powered }).shiftLight))

/-- The reference clocks (R41, R392): what is lost is held or reset, bit 3 of PWRCLK is raised, and record 0x57 names the clock
and the direction. -/
def Obligations.ReferenceClockCommands : Prop :=
  Gives .refclkLinkLost (fun s => s.powered = true ∧ s.clk.held = false) (fun s =>
    ((({ s.portsDown with clk := { s.portsDown.clk with
      held := true, locked := false, stepNext := true, free := s.clk.free } } : State).raise
      pgPwrclk 8).logRas pgPwrclk 5 0x57 none 0))
  ∧ Gives .refclkLinkReturn (fun s => s.clk.held = true) (fun s =>
    (({ s with clk := { s.clk with held := false } } : State).raise pgPwrclk 8).logRas pgPwrclk 5 0x57 none 2)
  ∧ Gives .refclkPcieLost (fun s => s.powered = true ∧ s.clk.pcieLost = false) (fun s =>
    ((({ s with clk := { s.clk with pcieLost := true } } : State).endpointReset).raise pgPwrclk 8).logRas pgPwrclk 5 0x57 none 1)
  ∧ Gives .refclkPcieReturn (fun s => s.clk.pcieLost = true) (fun s =>
    ((State.linkTrains { s with clk := { s.clk with pcieLost := false } }).raise pgPwrclk 8).logRas pgPwrclk 5 0x57 none 3)

/-! ### Rails, regions, temperature, power -/

/-- The rails. RAIL_EXCURSION holds issue on the whole module and counts the excursion (R389); while it lasts, a further one only
measures. RAIL_EXCURSION_END ends it with record 0x50, and issue resumes once no rail is below its warning level.
RAIL_RESET_LEVEL takes MOD_PWRGD low (R16) and resets what the rail feeds (R388): rails 0 to 7 the compute part, rail 14 the
ports, the others the package, with record 0x51. After PHOTONIC_RAIL_RECOVER rail 14 is in regulation again. -/
def Obligations.RailCommands : Prop :=
  (∀ rail mv : Nat, Reaches (.railExcursion · rail mv)
      (fun s => s.powered = true ∧ s.railPresent rail = true ∧ (s.rail rail).st ≠ 1) (fun s u =>
      u.rail rail = { s.rail rail with
        st := 1, mv, excursions := satAdd 16 (s.rail rail).excursions 1, at_ := s.clk.now }
      ∧ u.pwr.hold = true ∧ (∀ r, r ≠ rail → u.rail r = s.rail r)
      ∧ u.mem = s.mem ∧ u.ctxs = s.ctxs ∧ u.cores = s.cores ∧ u.ports = s.ports))
  ∧ (∀ rail mv : Nat, Gives (.railExcursion · rail mv)
      (fun s => s.powered = true ∧ s.railPresent rail = true ∧ (s.rail rail).st = 1)
      (fun s => s.setRail rail { s.rail rail with mv }))
  ∧ (∀ rail mv : Nat, Reaches (.railExcursionEnd · rail mv)
      (fun s => s.railPresent rail = true ∧ (s.rail rail).st = 1) (fun s u =>
      u.rail rail = { s.rail rail with st := 0, mv } ∧ (∀ r, r ≠ rail → u.rail r = s.rail r)
      ∧ (u.pwr.hold = true ↔ ∃ r < 16, (u.rail r).st = 1)
      ∧ u.mem = s.mem ∧ u.ctxs = s.ctxs ∧ u.cores = s.cores ∧ u.ports = s.ports))
  ∧ (∀ rail : Nat, rail < 8 → Gives (.railResetLevel · rail) (fun s => s.powered = true ∧ s.railPresent rail = true)
      (fun s =>
        let u := s.logRas pgPwrclk 5 0x51 none rail
        (u.setRail rail { u.rail rail with resetLevel := true }).regulate.cpStart causeRail))
  ∧ Gives (.railResetLevel · 14) (fun s => s.powered = true ∧ s.railPresent 14 = true) (fun s =>
      let u := s.logRas pgPwrclk 5 0x51 none 14
      (u.setRail 14 { u.rail 14 with resetLevel := true }).regulate.portsDown)
  ∧ (∀ rail : Nat, 8 ≤ rail → rail ≠ 14 → Gives (.railResetLevel · rail)
      (fun s => s.powered = true ∧ s.railPresent rail = true)
      (fun s =>
        let u := s.logRas pgPwrclk 5 0x51 none rail
        (u.setRail rail { u.rail rail with resetLevel := true }).regulate.packageReset causeRail))
  ∧ Reaches .photonicRailRecover (fun _ => True) (fun s u =>
      u.rail 14 = { s.rail 14 with resetLevel := false } ∧ (∀ r, r ≠ 14 → u.rail r = s.rail r)
      ∧ u = { s with pwr := { s.pwr with rails := u.pwr.rails }, pins := { s.pins with pwrgd := u.pins.pwrgd } }
      ∧ (u.pins.pwrgd = true ↔
          s.boot ≠ .off ∧ s.boot ≠ .tripHeld ∧ ∀ r ∈ u.pwr.rails, r.2.resetLevel = false))

/-- The regions: SKEW_CHECK stores the measurements, and leaves memory, contexts, cores and ports; where no pair of
neighbours then lies beyond a limit and no region is drained or pulled back, it does nothing else (R390, R391); SKEW_DRAIN
after 1 ms; REGION_REJOIN. -/
def Obligations.RegionCommands : Prop :=
  (∀ meas : List RegionMeasure, Reaches (.skewCheck · meas) (fun s => s.running = true) (fun s u =>
      (u.mem = s.mem ∧ u.ctxs = s.ctxs ∧ u.cores = s.cores ∧ u.ports = s.ports ∧ u.sec = s.sec)
      ∧ ∀ v : State, v = meas.foldl (fun s m => if s.regions.contains m.region then
            s.setRegion m.region { s.region m.region with mhz := m.mhz, mv := m.mv, temp := m.temp } else s) s →
          (∀ p ∈ pairsOf v, ∀ k < 3, beyond (v.region p.1) (v.region p.2) k = false) →
          (∀ r ∈ v.regions, (v.region r).drained = 0 ∧ (v.region r).pulling = none) → u = v))
  ∧ (∀ region : Nat, Gives (.skewDrain · region) (fun s => s.running = true ∧ region ∈ s.regions ∧ (s.region region).drained = 0
      ∧ ∃ p : Nat × Nat, (s.region region).pulling = some p ∧ p.1 + 1000000 ≤ s.clk.now) (fun s => s.drainRegion region 1))
  ∧ (∀ region : Nat, Gives (.regionRejoin · region) (fun s => s.running = true ∧ region ∈ s.regions
      ∧ (((s.region region).drained = 1 ∧ ∃ a : Nat, (s.region region).okAt = some a ∧ a + 100000000 ≤ s.clk.now)
        ∨ ((s.region region).drained = 2 ∧ (s.region region).temp < 90))) (fun s => s.rejoinRegion region))

/-- The thermal actions of R393 and R394 and their releases: each limit at its onset and each release at its own, the trip and
its end. -/
def Obligations.ThermalCommands : Prop :=
  (∀ region temp : Nat, 95 ≤ temp → Gives (.thermalRegionThrottle · region temp) (fun s => s.running = true ∧ region ∈ s.regions)
      (fun s => s.setRegion region { s.region region with throttle := true, temp }))
  ∧ (∀ region temp : Nat, 93 ≤ temp → Gives (.thermalClockStep · region temp)
      (fun s => s.running = true ∧ region ∈ s.regions ∧ (s.region region).drained ≠ 2 ∧ (s.region region).throttle = true)
      (fun s => (s.setRegion region { s.region region with temp }).lowerClock region ((s.region region).mhz - 25)))
  ∧ (∀ region temp : Nat, temp < 90 → Reaches (.thermalClockStep · region temp)
      (fun s => s.running = true ∧ region ∈ s.regions ∧ (s.region region).drained ≠ 2 ∧ (s.region region).mhz < s.clockCap region)
      (fun s u => u = { s with pwr := { s.pwr with regions := u.pwr.regions } } ∧ (∀ r, r ≠ region → u.region r = s.region r)
        ∧ (u.region region).temp = temp
        ∧ (s.region region).mhz ≤ (u.region region).mhz ∧ (u.region region).mhz ≤ (s.region region).mhz + 25
        ∧ (u.region region).mhz ≤ s.clockCap region))
  ∧ (∀ region temp : Nat, 105 ≤ temp → Gives (.thermalRegionDrain · region temp)
      (fun s => s.running = true ∧ region ∈ s.regions ∧ (s.region region).drained ≠ 2) (fun s =>
      ((s.setRegion region { s.region region with throttle := true, temp }).lowerClock region 400).drainRegion region 2))
  ∧ (∀ temp : Nat, 100 ≤ temp → Gives (.thermalSysdieLimit · temp) (fun s => s.running = true)
      (fun s => State.relimit { s with pwr := { s.pwr with limSys := true, sysdie := temp } } s.limit))
  ∧ (∀ stack temp : Nat, 95 ≤ temp → Gives (.thermalStackAction · stack temp)
      (fun s => s.running = true ∧ stack < s.ident.variant.near) (fun s => { s with pwr := { s.pwr with
        refresh := tput false s.pwr.refresh stack true
        halved := if 105 ≤ temp then tput false s.pwr.halved stack true else s.pwr.halved } }))
  ∧ (∀ inlet outlet : Nat, inlet + 15 < outlet ∨ 60 < outlet → Gives (.thermalCoolantLimit · inlet outlet)
      (fun s => s.running = true)
      (fun s => State.relimit { s with pwr := { s.pwr with limCool := true, inlet := inlet, outlet := outlet } } s.limit))
  ∧ (∀ inlet : Nat, 40 < inlet → Gives (.thermalInletLimit · inlet) (fun s => s.running = true)
      (fun s => State.relimit { s with pwr := { s.pwr with limInlet := true, inlet := inlet } } s.limit))
  ∧ (∀ region temp : Nat, temp < 90 → Gives (.thermalRelease · (.region region temp)) (fun s => s.running = true ∧ region ∈ s.regions)
      (fun s => s.setRegion region { s.region region with throttle := false, temp }))
  ∧ (∀ region temp : Nat, temp < 90 → Gives (.thermalRelease · (.regionDrain region temp))
      (fun s => s.running = true ∧ (s.region region).drained = 2)
      (fun s => (s.setRegion region { s.region region with throttle := false, temp }).rejoinRegion region))
  ∧ (∀ stack temp : Nat, temp < 90 → Gives (.thermalRelease · (.stackRefresh stack temp)) (fun s => s.running = true)
      (fun s => { s with pwr := { s.pwr with refresh := tput false s.pwr.refresh stack false } }))
  ∧ (∀ stack temp : Nat, temp < 100 → Gives (.thermalRelease · (.stackHalf stack temp)) (fun s => s.running = true)
      (fun s => { s with pwr := { s.pwr with halved := tput false s.pwr.halved stack false } }))
  ∧ (∀ inlet outlet : Nat, outlet < inlet + 12 → outlet < 55 → Gives (.thermalRelease · (.coolant inlet outlet))
      (fun s => s.running = true)
      (fun s => State.relimit { s with pwr := { s.pwr with limCool := false, inlet := inlet, outlet := outlet } } s.limit))
  ∧ (∀ temp : Nat, temp < 95 → Gives (.thermalRelease · (.sysdie temp)) (fun s => s.running = true)
      (fun s => State.relimit { s with pwr := { s.pwr with limSys := false, sysdie := temp } } s.limit))
  ∧ (∀ inlet : Nat, inlet ≤ 38 → Gives (.thermalRelease · (.inlet inlet)) (fun s => s.running = true)
      (fun s => State.relimit { s with pwr := { s.pwr with limInlet := false, inlet := inlet } } s.limit))
  ∧ (∀ temp : Nat, 115 ≤ temp → Reaches (.thermalTrip · temp) (fun s => s.powered = true) (fun s u =>
      u = s.packageReset causeTrip ∧ u.boot = .tripHeld ∧ u.pins.tripAlert = true))
  ∧ (∀ temp : Nat, temp < 85 → Gives (.thermalTripRailsOn · temp) (fun s => s.boot = .tripHeld)
      (fun s => (State.regulate { s with boot := if s.pins.modResetN then .booting else .resetHeld }).linkTrains))

/-- POWER_MEASURE (R394, every 100 µs): above the limit every clock falls by 25 MHz, not below 400; below 95 % of it the allowed clock
rises by 25, not above 1,600; between, nothing moves. Memory, contexts and links are untouched. -/
def Obligations.PowerMeasureCommand : Prop :=
  ∀ watts : Nat, Reaches (.powerMeasure · watts) (fun s => s.running = true) (fun s u =>
    u.pwr.watts = watts ∧ u.mem = s.mem ∧ u.ctxs = s.ctxs ∧ u.ports = s.ports
    ∧ (watts > s.limit → u.pwr.allowed = max 400 (s.pwr.allowed - 25)
        ∧ ∀ r ∈ s.regions, (u.region r).mhz = max 400 ((s.region r).mhz - 25))
    ∧ (watts ≤ s.limit → watts * 100 < s.limit * 95 → u.pwr.allowed = min 1600 (s.pwr.allowed + 25))
    ∧ (watts ≤ s.limit → s.limit * 95 ≤ watts * 100 → u = { s with pwr := { s.pwr with watts } }))

/-! ### Ports: bring-up, sessions, lanes, flits -/

/-- Bring-up: LIGHT_DETECTED, CODEWORD_LOCK (it starts sequence numbers anew and sends TRAIN with the lanes that locked; a port whose
light moved resumes its traffic, R205), BRINGUP_TIMEOUT after 1 s, BRINGUP_RETRY, TRAIN (lanes both ends hold, their margins free by
log 7, the peer's credits, then the session of R361). -/
def Obligations.BringupCommands : Prop :=
  (∀ port : Nat, Gives (.lightDetected · port) (fun s => s.mayBringUp port = true ∧ (s.port port).st = 0)
      (fun s => s.startBringup port))
  ∧ (∀ port lanes : Nat, Gives (.codewordLock · port lanes)
      (fun s => s.live = true ∧ (s.port port).st = 1 ∧ (s.port port).locked = false ∧ (s.port port).moving = false
        ∧ (s.port port).light = true) (fun s =>
      let m := (List.range 8).foldl (fun a l => if bit lanes l && !bit (s.port port).laneOff l then a ||| (1 <<< l) else a) 0
      (s.setPort port { s.port port with
        txQueue := (s.port port).undelivered, unsaid := [], txLast := none, txRest := []
        locked := true, mask := m, fseqTx := 0, fseqRx := 0, ackRx := 0xFFFF, nakOut := false, window := [], rxBuf := []
        rxPkts := [], early := [] }).enqueue port
        { ptype := 0x0B, src := s.fab.moduleId, payload := trainPayload port (s.port port).usedId m }))
  ∧ (∀ port lanes : Nat, Gives (.codewordLock · port lanes)
      (fun s => s.live = true ∧ (s.port port).st = 1 ∧ (s.port port).locked = false ∧ (s.port port).moving = true)
      (fun s => s.resumeTraffic port lanes))
  ∧ (∀ port : Nat, Gives (.bringupTimeout · port) (fun s => ((s.port port).st = 1 ∨ (s.port port).st = 2)
      ∧ (s.port port).moving = false ∧ (s.port port).lightAt + 1000000000 ≤ s.clk.now) (fun s => s.bringupFail port))
  ∧ (∀ port : Nat, Gives (.bringupTimeout · port) (fun s => (s.port port).moving = true
      ∧ (s.port port).movedAt + 1000000000 ≤ s.clk.now) (fun s => s.portDown port))
  ∧ (∀ port : Nat, Gives (.bringupRetry · port)
      (fun s => (s.port port).st = 4 ∧ (s.port port).retryAt ≤ s.clk.now ∧
        (s.setPort port { s.port port with st := 0 }).mayBringUp port = true)
      (fun s => (s.setPort port { s.port port with st := 0 }).startBringup port))
  ∧ (∀ (port : Nat) (payload : Bytes), payload.length = 16 → fld payload 0 1 = 1 → Gives (.train · port payload)
      (fun s => s.live = true ∧ (s.port port).st = 1 ∧ (s.port port).locked = true ∧ (s.port port).moving = false
        ∧ s.peerAllowed (fld payload 2 2) = true ∧ 4 ≤ popcount ((s.port port).mask &&& fld payload 4 1) 8) (fun s =>
      let p := (((s.port port).setAll 0).applyMask ((s.port port).mask &&& fld payload 4 1)).margins s.draw.1
      (s.draw.2.setPort port { p with
        st := 2, trained := true, peerId := fld payload 2 2, peerPort := fld payload 1 1 % 32, peerMask := fld payload 4 1
        credits := [fld payload 6 2, fld payload 8 2, fld payload 10 2, fld payload 12 2], owed := [0, 0, 0, 0] }).startSession
          port))

/-- The link session (R361 to R363): HELLO is answered with the certificate chain and a proof, CERT is kept, PROOF that verifies
derives the keys and sends FINISH, FINISH that verifies establishes the session. REKEY, protected like any packet, gives the peer's
direction a new key and keeps the old one; REKEY_TIMER sends REKEY when PKT_CTR nears 2^48 or after 24 hours (R328; how near, and
the derivation of a new key, are the model's, log 121). -/
def Obligations.SessionCommands : Prop :=
  (∀ (port : Nat) (payload : Bytes), payload.length = 146 → Gives (.hello · port payload)
      (fun s => s.live = true ∧ (s.port port).st = 2 ∧ (s.port port).link.helloSent = true
        ∧ (s.port port).link.peerHello = none) (fun s =>
      let p := s.port port
      let v := ((s.setPort port { p with link := { p.link with peerHello := some payload } }).sendChain port).draw
      let h := v.2.hallmark (toBE 48 v.1) (sha384 (transcriptOf p.link.hello payload (p.low port))) none
      h.2.sendSession port 3 0 h.1))
  ∧ (∀ (port offset : Nat) (payload : Bytes), Gives (.cert · port offset payload)
      (fun s => s.live = true ∧ (s.port port).st = 2 ∧ (s.port port).link.proofOk = false) (fun s =>
      s.setPort port { s.port port with link := { (s.port port).link with
        certs := (s.port port).link.certs ++ [(offset, payload)] } }))
  ∧ (∀ (port : Nat) (payload peer : Bytes) (verdict : ProofVerdict), Gives (.proof · port payload verdict)
      (fun s => s.live = true ∧ (s.port port).st = 2 ∧ (s.port port).link.proofOk = false
        ∧ (s.port port).link.peerHello = some peer ∧ s.proofOk port payload verdict = true) (fun s =>
      let p := s.port port
      let low := p.low port
      let l := p.link.derive peer low
      (s.setPort port { p with link := { l with
        proofOk := true, finishSent := true
        join := p.link.join || decide (bslice payload 0x018 8 ≠ s.domainId)
        giver := s.sec.domain.isSome && allZero (bslice payload 0x018 8) } }).sendSession port 4 0
          (hmac384 l.finOwn (transcriptOf l.hello peer low))))
  ∧ (∀ (port : Nat) (payload : Bytes), Gives (.finish · port payload)
      (fun s => s.live = true ∧ (s.port port).st = 2 ∧ (s.port port).link.finishSent = true
        ∧ (s.port port).link.established = false ∧ payload = (s.port port).finishMac port)
      (fun s => (s.setPort port { s.port port with link := { (s.port port).link with finishOk := true } }).establish port))
  ∧ (∀ (port : Nat) (pkt : Packet), pkt.ptype = 0x0C → pkt.payload.length = 145 → fld pkt.payload 0 1 = 5 →
      Gives (.rekey · port pkt) (fun s => (s.admitPacket port pkt).2 = true) (fun s =>
      let u := (s.admitPacket port pkt).1
      let p := u.port port
      let k := p.link.sideKey (bslice pkt.payload 1 144 ++ toLE 2 p.peerId) (p.low port) (!p.low port)
      u.setPort port { p with link := { p.link with
        oldRx := some p.link.rxKey, oldHigh := p.link.rxHigh, rxHigh := none, rxKey := k.1, rxSalt := k.2 } }))
  ∧ (∀ port : Nat, Gives (.rekeyTimer · port)
      (fun s => s.live = true ∧ (s.port port).st = 3 ∧ (s.port port).link.established = true
        ∧ (s.port port).link.rekeySent = false ∧ s.sec.trngOk = true
        ∧ ((s.port port).link.ctrNear = true ∨ (s.port port).link.at_ + 86400000000000 ≤ s.clk.now)) (fun s =>
      let u := s.secret.2
      (u.setPort port { u.port port with link := { (u.port port).link with
        rekeySent := true, at_ := s.clk.now, ephNew := s.secret.1 } }).sendSession port 5 0
          (pubOf (ephScalar s.secret.1) ++ ephNonce s.secret.1)))
  ∧ (∀ port : Nat, Gives (.rekeyTimer · port)
      (fun s => s.live = true ∧ (s.port port).st = 3 ∧ (s.port port).link.established = true
        ∧ (s.port port).link.rekeySent = false ∧ s.sec.trngOk = false
        ∧ ((s.port port).link.ctrNear = true ∨ (s.port port).link.at_ + 86400000000000 ≤ s.clk.now))
      (fun s => s.waitFresh (.rekey port)))

/-- The lanes: LANE_FAIL, LANE_RETRY after 10 s, LANE_MARGIN_LOW, RECAL_START, RECAL_DONE (a good lane returns by LANE_MAP, a bad one
fails), LANE_MAP, and the writes to PORT_CTRL that RECAL, PORT_ENABLE and LANE_OFF are. A lane taken out or back changes where the
announced FSEQ comes (R204). -/
def Obligations.LaneCommands : Prop :=
  (∀ port lane : Nat, lane < 8 → Gives (.laneFail · port lane)
      (fun s => ((s.port port).lane lane).st = 1 ∨ ((s.port port).lane lane).st = 2) (fun s => s.laneFails port lane))
  ∧ (∀ port lane : Nat, lane < 8 → Gives (.laneRetry · port lane)
      (fun s => (s.port port).st = 3 ∧ ((s.port port).lane lane).st = 3
        ∧ ((s.port port).lane lane).failedAt + 10000000000 ≤ s.clk.now ∧ (s.port port).recalibrating = false
        ∧ 4 ≤ (s.port port).active.length ∧ (s.port port).active.length ≤ 7)
      (fun s => s.setPort port ((s.port port).setLane lane { (s.port port).lane lane with st := 2, was := 3 })))
  ∧ (∀ port lane margin : Nat, lane < 8 → margin < 10 → Gives (.laneMarginLow · port lane margin)
      (fun s => ((s.port port).lane lane).st = 1) (fun s =>
      (s.setPort port ((s.port port).setLane lane { (s.port port).lane lane with margin })).askRecal port lane))
  ∧ (∀ port lane : Nat, lane < 8 → Gives (.recalStart · port lane)
      (fun s => (s.port port).st = 3 ∧ lane ∈ (s.port port).recalReq ∧ ((s.port port).lane lane).st = 1
        ∧ 5 ≤ (s.port port).coming.length ∧ (s.port port).recalibrating = false) (fun s =>
      (s.setPort port ((s.port port).setLane lane { (s.port port).lane lane with next := some 2, was := 1 })).announceLanes port))
  ∧ (∀ port lane margin : Nat, lane < 8 → Gives (.recalDone · port lane true margin)
      (fun s => ((s.port port).lane lane).st = 2) (fun s =>
      let p := { s.port port with recalReq := (s.port port).recalReq.filter (fun l => l ≠ lane)
                                  recalOps := (s.port port).recalOps.filter (fun l => l ≠ lane) }
      ((s.setPort port (p.setLane lane { (s.port port).lane lane with next := some 1, margin })).announceLanes port).sweepEnd))
  ∧ (∀ port lane margin : Nat, lane < 8 → Gives (.recalDone · port lane false margin)
      (fun s => ((s.port port).lane lane).st = 2) (fun s =>
      let p := { s.port port with recalReq := (s.port port).recalReq.filter (fun l => l ≠ lane)
                                  recalOps := (s.port port).recalOps.filter (fun l => l ≠ lane) }
      let x := (s.port port).lane lane
      (if x.was = 3 then s.setPort port (p.setLane lane { x with st := 3, margin, failedAt := s.clk.now })
       else (s.setPort port (p.setLane lane { x with margin })).laneFails port lane).sweepEnd))
  ∧ (∀ (port : Nat) (pkt : Packet), pkt.payload.length = 8 → Gives (.laneMap · port pkt)
      (fun s => (s.admitPacket port pkt).2 = true)
      (fun s => (s.admitPacket port pkt).1.modPort port (fun p =>
        { p with mapRx := some (fld pkt.payload 2 2, fld pkt.payload 0 1) })))
  ∧ (∀ fn port value : Nat, port < 32 →
      Gives (.recal · fn port value) (fun s => s.opens fn (pgPort port) = true)
        (fun s => (s.access fn (pgPort port)).writePort port 0x48 (value % 2 ^ 32))
      ∧ Gives (.portEnable · fn port value) (fun s => s.opens fn (pgPort port) = true)
        (fun s => (s.access fn (pgPort port)).writePort port 0x48 (value % 2 ^ 32))
      ∧ Gives (.laneOff · fn port value) (fun s => s.opens fn (pgPort port) = true)
        (fun s => (s.access fn (pgPort port)).writePort port 0x48 (value % 2 ^ 32)))
  ∧ (∀ (s : State) (port value : Nat), s.writePort port 0x48 value =
      let u := (s.setLaneOff port (sl value 15 8)).modPort port (fun p => { p with recalLane := sl value 6 4 })
      (if bit value 1 then u.requestRecal port else u).enablePort port (bit value 0))

/-- Flits and packets on a port: FLIT_SEND while the replay window has room (R208); FLIT_RECEIVE of a flit that fails its CRC or lies
beyond what the active lanes can hold (log 101) asks for a replay and changes nothing else, one that came ahead waits, the awaited one
is processed with those that follow it (R206, R208); PACKET_TRANSIT forwards with one more hop (R213); TIME_SYNC answers a request,
and the reply to the port's latest request makes the port up (R200); TIME_SYNC_TICK asks the parent; DUPLICATE_RECORD_EXPIRE forgets
items done for 1 ms (R213); PORT_DOWN_DETECT sends what was not delivered on another way (R219). -/
def Obligations.PortPacketCommands : Prop :=
  (∀ port : Nat, Gives (.flitSend · port)
      (fun s => s.live = true ∧ (s.port port).flows = true ∧ (s.port port).window.length < 2048) (fun s => s.sendFlit port))
  ∧ (∀ port : Nat, Gives (.flitSend · port)
      (fun s => s.live = true ∧ (s.port port).flows = true ∧ (s.port port).window.length < 2048
        ∧ ((s.port port).atFlit (s.port port).fseqTx).starved = false)
      (fun s => ((s.setPort port ((s.port port).atFlit (s.port port).fseqTx)).forceRekey port).putNext port))
  ∧ (∀ (port : Nat) (flit : Bytes), Gives (.flitReceive · port flit)
      (fun s => s.live = true ∧ (s.port port).flows = true ∧ (flit.length ≠ 642 ∨ fld flit 634 8 ≠ crc64 (flit.take 634)
        ∨ max 1 (s.port port).dealt.length ≤ (s.port port).ahead flit))
      (fun s => s.setPort port { s.port port with nakOut := true }))
  ∧ (∀ (port : Nat) (flit : Bytes), flitIntact flit = true → Gives (.flitReceive · port flit)
      (fun s => s.live = true ∧ (s.port port).flows = true ∧ (s.port port).ahead flit = 0)
      (fun s => State.takeEarly 8 (s.takeFlit port flit) port))
  ∧ (∀ (port : Nat) (flit : Bytes), flitIntact flit = true → Gives (.flitReceive · port flit)
      (fun s => s.live = true ∧ (s.port port).flows = true ∧ 0 < (s.port port).ahead flit
        ∧ (s.port port).ahead flit < (s.port port).dealt.length)
      (fun s => s.setPort port { s.port port with
        early := (s.port port).early.filter (fun e => e.1 ≠ fld flit 0 2) ++ [(fld flit 0 2, flit)] }))
  ∧ (∀ (port : Nat) (flit : Bytes), flit.length = 642 → fld flit 634 8 = crc64 (flit.take 634) →
      Reaches (.flitReceive · port flit)
        (fun s => s.live = true ∧ (s.port port).flows = true ∧ fld flit 0 2 = (s.port port).fseqRx ∧ bit (fld flit 4 1) 0 = false
          ∧ (s.port port).early = [] ∧ ((s.port port).takeFlit flit).starved = false)
        (fun s u => u = { s with ports := u.ports } ∧ (∀ p, p ≠ port → u.port p = s.port p)
          ∧ (u.port port).fseqRx = ((s.port port).fseqRx + 1) % 65536 ∧ (u.port port).ackRx = (s.port port).fseqRx))
  ∧ (∀ (port : Nat) (pkt : Packet), 0 < pkt.ptype → pkt.ptype < 0x0B → Gives (.packetTransit · port pkt)
      (fun s => pkt.dst ≠ s.fab.moduleId ∧ (s.admitPacket port pkt).2 = true
        ∧ (s.admitPacket port pkt).1.inPartition pkt.dst = true)
      (fun s => (s.admitPacket port pkt).1.send { pkt with hops := pkt.hops + 1, ctr := 0 }))
  ∧ (∀ port : Nat, Gives .timeSyncTick
      (fun s => s.clk.parent = some port ∧ s.clk.free = false ∧ s.live = true ∧ (s.port port).st = 3)
      (fun s => s.askTime port))
  ∧ (∀ (port rx : Nat) (pkt : Packet), pkt.payload.length = 40 → fld pkt.payload 0 1 = 0 → Gives (.timeSync · port pkt rx)
      (fun s => (s.admitPacket port pkt).2 = true) (fun s =>
      let u := (s.admitPacket port pkt).1
      u.enqueue port { ptype := 9, dst := pkt.src, src := u.fab.moduleId
                       payload := toLE 1 1 ++ zeros 3 ++ bslice pkt.payload 4 4 ++ bslice pkt.payload 8 8 ++ toLE 8 rx
                         ++ zeros 16 }))
  ∧ (∀ (port rx : Nat) (pkt : Packet), pkt.payload.length = 40 → fld pkt.payload 0 1 ≠ 0 → Gives (.timeSync · port pkt rx)
      (fun s => (s.admitPacket port pkt).2 = true
        ∧ ((s.admitPacket port pkt).1.port port).syncSeq = some (fld pkt.payload 4 4)) (fun s =>
      let u := (s.admitPacket port pkt).1.portUp port
      if u.clk.parent = some port ∧ u.clk.root = false ∧ u.clk.free = false then
        u.followParent ((((fld pkt.payload 16 8 : Int) - (fld pkt.payload 8 8 : Int))
          - ((rx : Int) - (fld pkt.payload 24 8 : Int))) / 2)
      else u))
  ∧ (∀ port : Nat, Reaches (.duplicateRecordExpire · port) (fun s => s.present (.port port) = true) (fun s u =>
      u = { s with fab := { s.fab with seen := u.fab.seen }, buckets := u.buckets }
      ∧ (∀ x, x ∈ u.fab.seen ↔ x ∈ s.fab.seen ∧ ∀ a, x.doneAt = some a → s.clk.now < a + 1000000)))
  ∧ (∀ port : Nat, Gives (.portDownDetect · port) (fun s => (s.port port).deadAt ≠ none ∧ (s.port port).moving = false) (fun s =>
      ((s.port port).undelivered.foldl (fun s p => s.resend p)
        ((s.setPort port { s.port port with deadAt := none }).setPort port { s.port port with
          deadAt := none, window := [], unsaid := []
          txQueue := (s.port port).txQueue.filter (fun p => p.ptype ≥ 9), txLast := none, txRest := [] })).noteRoutes s))
  ∧ (∀ port : Nat, Gives (.portDownDetect · port) (fun s => (s.port port).deadAt ≠ none ∧ (s.port port).moving = true) (fun s =>
      let v := s.setPort port { s.port port with deadAt := none }
      (((s.port port).undelivered.filter (fun p => v.route p ≠ some port)).foldl (fun s p => s.resend p)
        (v.setPort port { s.port port with
          deadAt := none
          txQueue := (s.port port).txQueue.filter (fun p => p.ptype ≥ 9 || v.route p = some port)
          unsaid := (s.port port).unsaid.filter (fun p => v.route p = some port) })).noteRoutes s))

/-! ### Job packets and the reduction -/

/-- Packets that end here. DOMAIN from a module that lets this one join gives the domain secret, ends every request to join and
restarts the port (R357); CHARTER records the peer's digest, answers with this module's own, 0 where it has no such context, bars or
admits the rank, and lets go what waited for it, and one in a join session is dropped (R339, R362); DATA goes into the
mailbox (R211); GATHER_REQ is served or held (R80); GATHER_REQ_SERVE serves what was held; ABORT makes its sender lost and
records its new generation (R216, R217). -/
def Obligations.PacketCommands : Prop :=
  (∀ (port : Nat) (pkt : Packet), pkt.payload.length = 49 → fld pkt.payload 0 1 = 7 → Gives (.domain · port pkt)
      (fun s => (s.admitPacket port pkt).2 = true ∧ ((s.admitPacket port pkt).1.port port).link.join = true
        ∧ (s.admitPacket port pkt).1.sec.domain = none ∧ (s.admitPacket port pkt).1.sec.lifecycle = .deployed) (fun s =>
      let u := (s.admitPacket port pkt).1
      { u with sec := { u.sec with domain := some (beNat (bslice pkt.payload 1 48)) } }.joinsNone.restartPort port))
  ∧ (∀ (port : Nat) (pkt : Packet), pkt.ptype = 0x0C → pkt.payload.length = 51 → fld pkt.payload 0 1 = 6 →
      Gives (.charter · port pkt)
        (fun s => (s.admitPacket port pkt).2 = true ∧ ((s.admitPacket port pkt).1.port port).link.join = false) (fun s =>
      let u := (s.admitPacket port pkt).1
      let job := fld pkt.payload 1 2
      let digest := beNat (bslice pkt.payload 3 48)
      let x := u.port port
      let v := u.setPort port { x with link := { x.link with
        digests := (job, digest) :: x.link.digests.filter (fun p => p.1 ≠ job) } }
      match v.jobDigest job with
      | none => (v.sayDigest port job 0).letGo port job
      | some (c, own) =>
        let w := v.sayDigest port job own
        State.letGo (if own = digest then { w with fab := { w.fab with barred := w.fab.barred.filter (· ≠ (c, x.peerId)) } }
          else w.shutOut c x.peerId) port job))
  ∧ (∀ (port : Nat) (pkt : Packet), Gives (.charter · port pkt)
      (fun s => (s.admitPacket port pkt).2 = true ∧ ((s.admitPacket port pkt).1.port port).link.join = true)
      (fun s => (s.admitPacket port pkt).1.dropBad port))
  ∧ (∀ (port c : Nat) (pkt : Packet), pkt.ptype = 1 → Gives (.data · port pkt)
      (fun s => (s.jobPacket port pkt).2 = some c
        ∧ (((s.jobPacket port pkt).1.ctx c).state = 1 ∨ ((s.jobPacket port pkt).1.ctx c).state = 4)
        ∧ (pkt.src, pkt.tag) ∉ ((s.jobPacket port pkt).1.ctx c).dead) (fun s =>
      let u := (s.jobPacket port pkt).1.modCtx c (fun x => x.place pkt)
      (if ((u.ctx c).message pkt.src pkt.tag).isSome then u.itemDone c pkt else u).wakeData c))
  ∧ (∀ (port c : Nat) (pkt : Packet), pkt.ptype = 8 → Gives (.gatherReq · port pkt)
      (fun s => (s.jobPacket port pkt).2 = some c
        ∧ (((s.jobPacket port pkt).1.ctx c).state = 1 ∨ ((s.jobPacket port pkt).1.ctx c).state = 4)) (fun s =>
      ((s.jobPacket port pkt).1.itemDone c pkt).serveGather c
        { src := pkt.src, tensorId := fld pkt.payload 0 4, iter := fld pkt.payload 4 4, shard := fld pkt.payload 8 2
          start := fld pkt.payload 16 8, count := fld pkt.payload 24 8, step := sl pkt.tag 47 44 }))
  ∧ (∀ slot : Nat, Gives (.gatherReqServe · slot) (fun s => s.live = true) (fun s =>
      (s.ctx slot).gathers.foldl (fun u g => u.serveGather slot g) (s.modCtx slot (fun x => { x with gathers := [] }))))
  ∧ (∀ (port c : Nat) (pkt : Packet), pkt.ptype = 7 → Gives (.abort · port pkt)
      (fun s => (s.jobPacket port pkt).2 = some c) (fun s =>
      (((s.jobPacket port pkt).1.itemDone c pkt).modCtx c (fun x =>
        { x with peerGens := tins x.peerGens pkt.src (fld pkt.payload 1 1) })).lostPeer c pkt.src))

/-- The packets of a reduction, once accepted, pass the epoch filter and go to their handlers: RED_READY settles its right
group (R226), RED_PULL starts the stream of a partial (R230), RED_DATA places elements (R223), RED_RESULT brings the sum or its
summary down (R227), RED_REDO starts the second pass (R232). Afterwards the entries that waited look again. The last six clauses
say what a packet that is not turned away does: the right group's input is ready, the pull is noted, the elements are placed by
offset, the sum or its summary is kept, the offenders are left out and the right groups told. -/
def Obligations.ReductionPackets : Prop :=
  (∀ (port c : Nat) (pkt : Packet), pkt.ptype = 2 → Gives (.redReady · port pkt)
      (fun s => (s.jobPacket port pkt).2 = some c ∧ (s.jobPacket port pkt).1.epochOf c pkt.tag = 0)
      (fun s => ((s.jobPacket port pkt).1.redReady c pkt).wakeSums c))
  ∧ (∀ (port c : Nat) (pkt : Packet), pkt.ptype = 3 → Gives (.redPull · port pkt)
      (fun s => (s.jobPacket port pkt).2 = some c ∧ (s.jobPacket port pkt).1.epochOf c pkt.tag = 0)
      (fun s => ((s.jobPacket port pkt).1.redPull c pkt).wakeSums c))
  ∧ (∀ (port c : Nat) (pkt : Packet), pkt.ptype = 4 → Gives (.redData · port pkt)
      (fun s => (s.jobPacket port pkt).2 = some c ∧ (s.jobPacket port pkt).1.epochOf c pkt.tag = 0)
      (fun s => ((s.jobPacket port pkt).1.redData c pkt).wakeSums c))
  ∧ (∀ (port c : Nat) (pkt : Packet), pkt.ptype = 5 → Gives (.redResult · port pkt)
      (fun s => (s.jobPacket port pkt).2 = some c)
      (fun s => ((s.jobPacket port pkt).1.redResult c pkt).wakeSums c))
  ∧ (∀ (port c : Nat) (pkt : Packet), pkt.ptype = 6 → Gives (.redRedo · port pkt)
      (fun s => (s.jobPacket port pkt).2 = some c)
      (fun s => ((s.jobPacket port pkt).1.redRedo c pkt).wakeSums c))
  ∧ (∀ (port c : Nat) (pkt : Packet) (v : State) (b b' : Bucket) (sm : Summary), pkt.ptype = 2 → Gives (.redReady · port pkt)
      (fun s => s.jobPacket port pkt = (v, some c) ∧ v.epochOf c pkt.tag = 0 ∧ v.bucketFor c pkt.tag = (v, some b)
        ∧ b.collect (groupKey pkt.level (v.posOfModule c pkt.src)) (v.ranks c 0).length pkt.offset pkt.payload = (b', some sm)
        ∧ b'.readySent = false
        ∧ b'.inputs.any (fun i => i.level = pkt.level && i.rep = v.posOfModule c pkt.src && i.st = .waiting) = true
        ∧ ∀ d, (v.itemDone c pkt).deadline b' (pkt.level + 1) = some d → (v.itemDone c pkt).clk.now ≤ d)
      (fun _ => ((v.itemDone c pkt).settle { b' with
        anchor := match b'.anchor with | some a => some a | none => some (v.itemDone c pkt).clk.now
        inputs := modFirst (fun i => i.level = pkt.level && i.rep = v.posOfModule c pkt.src)
          (fun i => { i with st := .ready sm }) b'.inputs }).wakeSums c))
  ∧ (∀ (port c : Nat) (pkt : Packet) (v : State) (b : Bucket), pkt.ptype = 3 → Gives (.redPull · port pkt)
      (fun s => s.jobPacket port pkt = (v, some c) ∧ v.epochOf c pkt.tag = 0 ∧ v.bucket c pkt.tag = some b)
      (fun _ => ((v.tryStream { b with
        pullFrom := some (pkt.src, fld pkt.payload 0 8, fld pkt.payload 8 8), sentBlk := [], streamed := false }).itemDone
          c pkt).wakeSums c))
  ∧ (∀ (port c : Nat) (pkt : Packet) (v : State) (b : Bucket), pkt.ptype = 4 → Gives (.redData · port pkt)
      (fun s => s.jobPacket port pkt = (v, some c) ∧ v.epochOf c pkt.tag = 0 ∧ v.bucket c pkt.tag = some b) (fun _ =>
      let mine : Input → Bool := fun i => i.level = pkt.level && i.rep = v.posOfModule c pkt.src
      let x := { b with inputs := modFirst mine (fun i => { i with
        part := bput i.part pkt.offset pkt.payload, got := i.got + pkt.payload.length
        ranges := i.ranges ++ [(pkt.offset, pkt.payload.length)]
        full := decide (i.got + pkt.payload.length ≥ streamLen b.fmt b.elems) }) b.inputs }
      (State.settle (if x.inputs.any (fun i => mine i && i.full) then v.itemDone c pkt else v) x).wakeSums c))
  ∧ (∀ (port c : Nat) (pkt : Packet) (v w : State) (b : Bucket), pkt.ptype = 5 → pkt.summary = false →
      Gives (.redResult · port pkt)
        (fun s => s.jobPacket port pkt = (v, some c) ∧ v.bucketFor c pkt.tag = (w, some b))
        (fun _ => (w.tryResult { b with
          lost := b.lost || pkt.lost, result := bput b.result pkt.offset pkt.payload
          resGot := b.resGot + pkt.payload.length }).wakeSums c))
  ∧ (∀ (port c : Nat) (pkt : Packet) (v w : State) (b b' : Bucket) (sm : Summary), pkt.ptype = 5 → pkt.summary = true →
      Gives (.redResult · port pkt)
        (fun s => s.jobPacket port pkt = (v, some c) ∧ v.bucketFor c pkt.tag = (w, some b)
          ∧ { b with lost := b.lost || pkt.lost }.collect 0 (w.ranks c 0).length pkt.offset pkt.payload = (b', some sm))
        (fun _ => ((w.itemDone c pkt).tryResult { b' with final := some sm }).wakeSums c))
  ∧ (∀ (port c : Nat) (pkt : Packet) (v : State) (b b' : Bucket) (sm : Summary), pkt.ptype = 6 → Gives (.redRedo · port pkt)
      (fun s => s.jobPacket port pkt = (v, some c) ∧ v.bucket c pkt.tag = some b
        ∧ b.collect 1 (v.ranks c 0).length pkt.offset pkt.payload = (b', some sm)) (fun _ =>
      let x := b'.redo sm.offenders
      let u := ((v.itemDone c pkt).setBucket x).forgetData x
      ((u.children x).foldl (fun u i => u.sendStream c { ptype := 6, ctl := 16, dst := u.rankAt c i.2, tag := x.tag, level := i.1 } 0
        (sm.enc (v.ranks c 0).length x.elems)) u).wakeSums c))

/-- The epoch filter (R234): a contribution, a pull or a summary of an earlier layout epoch is counted and dropped, one of a
later epoch is held and nothing else happens to the bucket. -/
def Obligations.EpochFilter : Prop :=
  ∀ (s : State) (c : Nat) (p : Packet), p.ptype ≤ 4 →
    (s.epochOf c p.tag = -1 → s.redFiltered c p = { s with fab := { s.fab with epochDrop := satAdd 32 s.fab.epochDrop 1 } })
    ∧ (s.epochOf c p.tag = 1 → s.redFiltered c p = { s with fab := { s.fab with heldPkts := s.fab.heldPkts ++ [p] } })
    ∧ (s.epochOf c p.tag = -1 ∨ s.epochOf c p.tag = 0 ∨ s.epochOf c p.tag = 1)

/-- The clocks of a reduction. BUCKET_START starts an issued bucket that may start, and settles one whose RED_READY waited for a
place among those in flight (R231); CONTRIBUTION_READY reads this member's elements and hands them in; RED_DEADLINE takes as absent
what is still waited for past its deadline (R226); RED_PULL_ISSUE pulls one right group while the 128 MiB buffer has room, or its left
partial is ready (R230). -/
def Obligations.ReductionTimers : Prop :=
  (∀ (slot tag : Nat) (b : Bucket), Gives (.bucketStart · slot tag)
      (fun s => s.serves slot = true ∧ s.buckets.find? (fun b => b.waitsStart slot tag) = some b ∧ s.mayStart b = true)
      (fun s =>
        let u := { s with
          buckets := modFirst (fun x => x.waitsStart slot tag) (fun x => { x with started := true }) s.buckets }
        match u.bucket slot tag with
        | some x => if x.readySent then u else (u.settle x).wakeSums slot
        | none => u))
  ∧ (∀ (slot tag : Nat) (b x : Bucket), Gives (.bucketStart · slot tag)
      (fun s => s.serves slot = true ∧ s.buckets.find? (fun b => b.waitsStart slot tag) = some b ∧ s.mayStart b = true
        ∧ State.bucket { s with
            buckets := modFirst (fun x => x.waitsStart slot tag) (fun x => { x with started := true }) s.buckets } slot tag
          = some x ∧ x.started = true ∧ x.readySent = false ∧ x.own = .waiting)
      (fun s => (State.setBucket { s with
        buckets := modFirst (fun x => x.waitsStart slot tag) (fun x => { x with started := true }) s.buckets } x).wakeSums slot))
  ∧ (∀ (slot tag : Nat) (b : Bucket), Gives (.bucketStart · slot tag)
      (fun s => s.serves slot = true ∧ s.buckets.find? (fun b => b.waitsStart slot tag) = none ∧ s.bucket slot tag = some b
        ∧ b.readySent = false) (fun s => (s.settle b).wakeSums slot))
  ∧ (∀ (slot tag : Nat) (b : Bucket) (e : Entry) (d0 : Desc) (d : Bytes), b.d0 = some d0 →
      Gives (.contributionReady · slot tag)
        (fun s => s.buckets.find? (fun b => b.owes slot tag) = some b ∧ (s.queue ⟨slot, b.queue⟩).phase = .running
          ∧ (s.queue ⟨slot, b.queue⟩).entry = some e ∧ s.serves slot = true ∧ s.claimed b = true
          ∧ s.entryHeld ⟨slot, b.queue⟩ e = false
          ∧ s.readAddrs slot (d0.bytesAt ((d0.own.drop b.elem0).take b.elems)) = .ok d)
        (fun s => (s.contribute b d).wakeSums slot))
  ∧ (∀ (slot tag : Nat) (b : Bucket) (e : Entry) (d0 : Desc) (d : Bytes), b.d0 = some d0 → b.doneAt = none → b.own = .waiting →
      Gives (.contributionReady · slot tag)
        (fun s => s.buckets.find? (fun b => b.owes slot tag) = some b ∧ (s.queue ⟨slot, b.queue⟩).phase = .running
          ∧ (s.queue ⟨slot, b.queue⟩).entry = some e ∧ s.serves slot = true ∧ s.claimed b = true
          ∧ s.entryHeld ⟨slot, b.queue⟩ e = false
          ∧ s.readAddrs slot (d0.bytesAt ((d0.own.drop b.elem0).take b.elems)) = .ok d
          ∧ ∀ a, s.deadline b 0 = some a → s.clk.now ≤ a) (fun s =>
        let r := s.contribution b d
        let self := (s.ctxRec slot).position
        let nf := streamBad b.fmt b.elems r.2
        let x := { b with
          contrib := some r.2, carriedIn := r.1.isSome
          own := .ready { nf, members := [self], offenders := if nf then [self] else []
                          carried := if r.1.isSome then [self] else [] }
          anchor := match b.anchor with | some a => some a | none => some s.clk.now }
        let u := s.modCtx slot (fun y => { y with carries := match r.1 with | some k => y.carries.erase k | none => y.carries })
        (State.settle { u with buckets := modFirst (fun y => y.owes slot tag) (fun _ => x) u.buckets } x).wakeSums slot))
  ∧ (∀ (slot tag : Nat) (b : Bucket), Gives (.redDeadline · slot tag)
      (fun s => s.bucket slot tag = some b ∧ s.live = true ∧ b.readySent = false) (fun s =>
      let past : Nat → Bool := fun n => match s.deadline b n with | some d => decide (d ≤ s.clk.now) | none => false
      (s.settle { b with
        own := if b.own = .waiting ∧ past 0 then .absent else b.own
        inputs := b.inputs.map (fun (i : Input) =>
          if i.st = .waiting ∧ past (i.level + 1) then { i with st := .absent } else i) }).wakeSums slot))
  ∧ (∀ (slot tag level : Nat) (b : Bucket) (i : Input), Gives (.redPullIssue · slot tag level)
      (fun s => s.live = true ∧ s.bucket slot tag = some b
        ∧ b.inputs.find? (fun i => i.level = level && i.st.data && !i.pulled) = some i
        ∧ (s.redUsed + streamLen b.fmt b.elems ≤ 134217728 ∨ b.leftReady level = true)) (fun s =>
      let u := s.setBucket { b with
        inputs := modFirst (fun i => i.level = level && i.st.data && !i.pulled)
          (fun i => { i with pulled := true, early := !b.leftReady level }) b.inputs }
      ({ u with fab := { u.fab with bufPeak := max u.fab.bufPeak u.redUsed } }).sendFor slot
        { ptype := 3, ctl := 0, dst := u.rankAt slot i.rep, tag, level, payload := zeros 16 }))

/-! ### The work list: fetch, control entries, completion -/

/-- The work queue and its lists. QUEUE_FETCH reads the 64-byte entry at HEAD of an enabled ring and makes it current (R257); NOP
and LIST_END do nothing but complete; LIST_HEAD notes NUMREV; a ring's CALL admits its whole tree of lists and starts it while
the trees of the slot fit (R57); a list's CALL goes into the inner list; TREE_ADMIT_RESUME retries; LOOP_BEGIN with count 0 jumps
past its LOOP_END and otherwise opens a loop, LOOP_END goes back until the count is reached (R69, R87); ENTRY_COMPLETE settles
the outputs of an entry that has ended and moves on. -/
def Obligations.ListCommands : Prop :=
  (∀ (q : QRef) (b : Bytes) (v : State), Gives (.queueFetch · q)
      (fun s => s.serves q.slot = true ∧ (s.ctx q.slot).ending = false ∧ (s.queue q).enable = true ∧ (s.queue q).error = false
        ∧ (s.queue q).phase = .idle ∧ (s.queue q).head ≠ (s.queue q).tail ∧ ringOp (entryOf b).op = true
        ∧ (let k := (s.queue q).head % 2 ^ (s.queue q).depth
           let span := if s.bounceRing q.slot (s.queue q).base then ((s.queue q).base + k * 128, 128)
             else ((s.queue q).base + k * 64, 64)
           s.accessHeld q.slot span.1 span.2 = false
             ∧ s.hostNeeds q.slot span.1 span.2 .ring (s.queue q).arrived = [])
        ∧ s.ringRead q.slot (s.queue q).base ((s.queue q).head % 2 ^ (s.queue q).depth) 64 = (v, .ok b))
      (fun _ => v.modQueue q (fun y =>
        { y with cur := some (entryOf b), phase := (entryOf b).first, begun := false, flight := .none })))
  ∧ Runs .nop 0x00 (fun _ _ _ => True) (fun q _ s => s.finishEntry q .ok)
  ∧ Runs .listEnd 0x02 (fun _ _ _ => True) (fun q _ s => s.finishEntry q .ok)
  ∧ (∀ (f : Frame) (r : List Frame) (l : AdmList),
      Runs .listHead 0x01 (fun q _ s => (s.queue q).stack = f :: r ∧ (s.queue q).list f.addr = some l)
        (fun q _ s => (s.modCtx q.slot (fun x => x.book (s.queue q).startStep (fun st =>
          { st with numrev := l.numrev }))).finishEntry q .ok))
  ∧ (∀ tr : List AdmList, Runs .call 0x03 (fun q e s => (s.queue q).stack = [] ∧ s.admitTree q.slot e.imm0 = .ok tr
        ∧ (bit (s.ctxRec q.slot).mode 0 = true → s.tableNeeds q.slot (s.queue q).arrived 65537 0 = []) ∧ s.tableFault q tr = none
        ∧ s.treesHeld q.slot + treeSize tr ≤ maxTree)
      (fun q e s => ((s.meetTree q.slot tr).modQueue q (fun y => { y with tree := tr })).startTree q e.imm0))
  ∧ (∀ tr : List AdmList, Runs .call 0x03 (fun q e s => (s.queue q).stack = [] ∧ s.admitTree q.slot e.imm0 = .ok tr
        ∧ (bit (s.ctxRec q.slot).mode 0 = true → s.tableNeeds q.slot (s.queue q).arrived 65537 0 = []) ∧ s.tableFault q tr = none
        ∧ maxTree < s.treesHeld q.slot + treeSize tr)
      (fun q _ s => (s.meetTree q.slot tr).modQueue q (fun y => { y with tree := tr, phase := .treeWait })))
  ∧ (∀ (f : Frame) (r : List Frame) (l : AdmList) (h : Entry) (es : List Entry), l.entries = h :: es →
      Runs .call 0x03 (fun q e s => (s.queue q).stack = f :: r ∧ (s.queue q).list e.imm0 = some l)
        (fun q e s => s.setQueue q { s.queue q with stack := { addr := e.imm0 } :: f :: r, phase := h.first, begun := false }))
  ∧ (∀ (q : QRef) (e : Entry), Gives (.treeAdmitResume · q)
      (fun s => (s.queue q).phase = .treeWait ∧ (s.queue q).cur = some e ∧ s.serves q.slot = true
        ∧ s.treesHeld q.slot + treeSize (s.queue q).tree ≤ maxTree) (fun s => s.startTree q e.imm0))
  ∧ (∀ (q : QRef) (e : Entry) (v w : State), Gives (.treeAdmitResume · q)
      (fun s => (s.queue q).phase = .treeWait ∧ (s.queue q).cur = some e ∧ s.serves q.slot = true
        ∧ s.treesHeld q.slot + treeSize (s.queue q).tree ≤ maxTree
        ∧ v = s.modQueue q (fun y => { y with stack := [{ addr := e.imm0 }], phase := .ready, begun := false, flight := .none })
        ∧ w = ((seqIds (s.queue q).tree).foldl (fun u i => u.track q.slot i)
            (v.modQueue q (fun y => { y with phase := y.entering }))).wantSlot q.slot true
        ∧ bit (w.ctxRec q.slot).mode 0 = false) (fun _ => w))
  ∧ (∀ (f : Frame) (r : List Frame) (l : AdmList), Runs .loopBegin 0x04
      (fun q e s => (s.queue q).stack = f :: r ∧ (s.queue q).list f.addr = some l ∧ sl e.imm0 31 0 = 0)
      (fun q _ s => (s.setQueue q { s.queue q with stack := { f with jump := some (afterLoop l.entries f.pos) } :: r
                                  }).finishEntry q .ok))
  ∧ (∀ (f : Frame) (r : List Frame), Runs .loopBegin 0x04
      (fun q e s => (s.queue q).stack = f :: r ∧ sl e.imm0 31 0 ≠ 0)
      (fun q e s => (s.setQueue q { s.queue q with
        stack := { f with loops := { start := f.pos, count := sl e.imm0 31 0, iter := 0 } :: f.loops } :: r
        }).finishEntry q .ok))
  ∧ (∀ (f : Frame) (r : List Frame) (l : Loop) (ls : List Loop), Runs .loopEnd 0x05
      (fun q _ s => (s.queue q).stack = f :: r ∧ f.loops = l :: ls ∧ l.iter + 1 < l.count)
      (fun q _ s => (s.setQueue q { s.queue q with
        stack := { f with loops := { l with iter := l.iter + 1 } :: ls, jump := some (l.start + 1) } :: r }).finishEntry q .ok))
  ∧ (∀ (f : Frame) (r : List Frame) (l : Loop) (ls : List Loop), Runs .loopEnd 0x05
      (fun q _ s => (s.queue q).stack = f :: r ∧ f.loops = l :: ls ∧ l.count ≤ l.iter + 1)
      (fun q _ s => (s.setQueue q { s.queue q with stack := { f with loops := ls } :: r }).finishEntry q .ok))
  ∧ (∀ q : QRef, Gives (.entryComplete · q)
      (fun s => ((s.ctx q.slot).state = 1 ∨ (s.ctx q.slot).state = 4) ∧ s.endHeld q = false) (fun s => s.completeEntry q))
  ∧ (∀ (q : QRef) (e : Entry) (st : Status), Gives (.entryComplete · q)
      (fun s => ((s.ctx q.slot).state = 1 ∨ (s.ctx q.slot).state = 4) ∧ s.endHeld q = false ∧ (s.queue q).phase = .done st
        ∧ (s.queue q).entry = some e) (fun s => (s.unsettle q e st).complete q))

/-- Barriers and fences. BARRIER of scope 0 completes at once, of scope 1 or 2 waits with its id and patience (R86);
BARRIER_COMPLETE ends a job barrier, and a slot barrier in every enabled queue once all of them stand at it; BARRIER_PATIENCE
ends a job barrier as PEER_LOST; FENCE_WAIT waits, FENCE_WAIT_SATISFIED looks again, FENCE_SIGNAL signals (R85, R260); PERIOD_MARK
waits for the period's boundary in a periodic context and otherwise completes (R88, R296). -/
def Obligations.BarrierAndFenceEntries : Prop :=
  Runs .barrier 0x06 (fun _ e _ => e.variant = 0) (fun q _ s => s.finishEntry q .ok)
  ∧ Runs .barrier 0x06 (fun _ e _ => e.variant = 1 ∨ e.variant = 2) (fun q e s => s.modQueue q (fun y => { y with
      phase := .running, flight := .barrier e.variant e.imm0 s.clk.now e.imm1 }))
  ∧ (∀ (q : QRef) (ident start p : Nat), Gives (.barrierComplete · q) (fun s => (s.queue q).phase = .running
        ∧ (s.queue q).flight = .barrier 2 ident start p ∧ s.serves q.slot = true) (fun s => s.finishEntry q .ok))
  ∧ (∀ (q : QRef) (ident start p : Nat), Gives (.barrierComplete · q) (fun s => (s.queue q).phase = .running
        ∧ (s.queue q).flight = .barrier 1 ident start p ∧ s.serves q.slot = true
        ∧ ∀ x ∈ (s.ctx q.slot).queues, x.2.enable = true → x.2.error = false → x.2.atBarrier 1 ident = true)
      (fun s => ((s.ctx q.slot).queues.filter (fun x => x.2.enable && !x.2.error)).foldl (fun u x =>
        u.finishEntry ⟨q.slot, x.1⟩ .ok) s))
  ∧ (∀ (q : QRef) (ident start p : Nat), p ≠ 0 → Gives (.barrierPatience · q) (fun s => (s.queue q).phase = .running
        ∧ (s.queue q).flight = .barrier 2 ident start p ∧ s.serves q.slot = true ∧ start + p * 1000 ≤ s.clk.now)
      (fun s => s.finishEntry q .peerLost))
  ∧ Runs .fenceWait 0x07 (fun _ _ _ => True) (fun q _ s => s.modQueue q (fun y => { y with phase := .waiting }))
  ∧ (∀ q : QRef, Gives (.fenceWaitSatisfied · q) (fun s => s.serves q.slot = true ∧ s.inPeriod q = true) (fun s => s.wake q))
  ∧ (∀ (q : QRef) (e : Entry) (st : Status), Gives (.fenceWaitSatisfied · q)
      (fun s => s.serves q.slot = true ∧ s.inPeriod q = true ∧ (s.queue q).phase = .waiting ∧ (s.queue q).entry = some e
        ∧ State.waitTest (if e.waitFence < (s.ctxRec q.slot).fenceCount then s.meet q.slot (s.fenceVa q.slot e.waitFence) 16
            else s) q.slot e = .ok (some st)) (fun s =>
      (if e.waitFence < (s.ctxRec q.slot).fenceCount then s.meet q.slot (s.fenceVa q.slot e.waitFence) 16 else s).setQueue q
        { s.queue q with phase := if st = .ok ∧ e.op ≠ 0x07 then .ready else .done st }))
  ∧ (∀ v : State, Runs .fenceSignal 0x08 (fun q e s => s.signalFence q.slot e.signalFence e.signalValue .ok = (v, none))
      (fun q _ _ => v.finishEntry q .ok))
  ∧ Runs .periodMark 0x09 (fun q _ s => bit (s.ctxRec q.slot).mode 2 = true)
      (fun q _ s => s.modQueue q (fun y => { y with phase := .running, flight := .period }))
  ∧ Runs .periodMark 0x09 (fun q _ s => bit (s.ctxRec q.slot).mode 2 = false) (fun q _ s => s.finishEntry q .ok)

/-- Steps. STEP_BEGIN starts a new step outside a periodic context; STEP_END writes the masks of late ranks and the step record in its
place of the log ring, and forgets the carries of the earlier steps (R48, R49), where the ring is open to the host or the context has
no charter (R338); RETIRE edits the tables, and its frames are scrubbed as it completes (R258, R271). -/
def Obligations.StepEntries : Prop :=
  Runs .stepBegin 0x0A (fun q _ s => bit (s.ctxRec q.slot).mode 2 = false)
    (fun q e s => (s.modCtx q.slot (fun x => x.newStep (e.imm0 % 2 ^ 64))).finishEntry q .ok)
  ∧ Runs .stepBegin 0x0A (fun q _ s => bit (s.ctxRec q.slot).mode 2 = true) (fun q _ s => s.finishEntry q .ok)
  ∧ (∀ (ls : Nat) (v w : State), Runs .stepEnd 0x0B (fun q _ s =>
        s.logOpen q.slot ((s.ctxRec q.slot).logRing
          + 128 * ((s.queue q).startStep % max (s.ctxRec q.slot).logEntries 1)) = true
        ∧ s.stepScale q.slot (s.queue q).startStep = .ok ls
        ∧ s.vwrites q.slot (s.stepMask q.slot (s.queue q)) = (v, none)
        ∧ v.ringWrite q.slot (v.ctxRec q.slot).logRing ((s.queue q).startStep % max (s.ctxRec q.slot).logEntries 1)
            (v.recordOf q.slot (s.queue q) ls) = (w, none))
      (fun q _ s => (w.stepClosed q.slot (s.queue q)).finishEntry q .ok))
  ∧ (∀ (v : State) (fs : List Nat), Runs .retire 0x0C (fun q e s => s.retireEdit q.slot e.imm0 e.imm1 = (v, .ok fs))
      (fun q _ _ => v.modQueue q (fun y => { y with phase := .done .ok, flight := .scrub fs })))
  ∧ (∀ (v : State) (st : Status), Runs .retire 0x0C (fun q e s => s.retireEdit q.slot e.imm0 e.imm1 = (v, .error st))
      (fun q _ _ => v.finishEntry q st))

/-- The operators of a step. Contractions: MATMUL, MATMUL_BWD_PAIR, GROUPED_MATMUL, GROUPED_BWD_PAIR. Rows: ATTN_FWD, ATTN_BWD,
NORM_FWD, NORM_BWD, LOSS_XENT, ELEMENTWISE, ROWREDUCE, CONVERT. Routing: EMBED, ROUTE_TOPK, COMPRESS, EXPAND. Optimiser: OPT_ADAM,
OPT_MOMENTUM. Each completes with the writes its operator gives (R120). -/
def Obligations.OperatorEntries : Prop :=
  Computes .matmul 0x10 (fun q s y e => s.matmul q.slot y e)
  ∧ Computes .matmulBwdPair 0x11 (fun q s y e => s.bwdPair q.slot y e none)
  ∧ Computes .groupedMatmul 0x12 (fun q s y _ => s.grouped q.slot y)
  ∧ Computes .groupedBwdPair 0x13 (fun q s y e => s.bwdPair q.slot y e (y.desc 5))
  ∧ Computes .attnFwd 0x20 (fun q s y e => s.attnFwd q.slot y e)
  ∧ Computes .attnBwd 0x21 (fun q s y e => s.attnBwd q.slot y e)
  ∧ Computes .normFwd 0x22 (fun q s y e => s.normFwd q.slot y e)
  ∧ Computes .normBwd 0x23 (fun q s y e => s.normBwd q.slot y e)
  ∧ Computes .lossXent 0x24 (fun q s y _ => s.lossXent q.slot y)
  ∧ Computes .elementwise 0x30 (fun q s y e => s.elementwise q.slot y e)
  ∧ Computes .rowreduce 0x31 (fun q s y e => s.rowReduce q.slot y e)
  ∧ Computes .convert 0x32 (fun q s y _ => s.convert q.slot y)
  ∧ Computes .embed 0x40 (fun q s y e => if bit e.variant 0 then s.embedBack q.slot y else s.embed q.slot y)
  ∧ Computes .routeTopk 0x41 (fun q s y e => if bit e.variant 0 then s.routeBack q.slot y else s.routeTopk q.slot y e.imm0)
  ∧ Computes .compress 0x42 (fun q s y e =>
      if bit e.variant 0 then s.compressBack q.slot y e.imm0 else s.compress q.slot y e.imm0)
  ∧ Computes .expand 0x43 (fun q s y e => if bit e.variant 0 then s.expandBack q.slot y else s.expand q.slot y)
  ∧ Computes .optAdam 0x70 (fun q s y _ => s.optimise q.slot y true)
  ∧ Computes .optMomentum 0x71 (fun q s y _ => s.optimise q.slot y false)

/-! ### Collectives and services -/

/-- The collectives. ALL_REDUCE and REDUCE_SCATTER issue their buckets, or stop as CONTRACT_UNSUPPORTED when an index was used
before (R78); RESHARD abandons what no entry owns and sets the epoch once every bucket of the old one is clear, or waits (R82);
ALL_TO_ALL sends its streams (R235); ALL_GATHER and GATHER_SHARD ask every holder of a missing shard (R79, R238); SEND sends; RECV
ends with its message's bytes in D0, or waits for it; DROP_SHARD drops; the patience of an exchange takes the slow members as late,
that of a gather or a receive ends it as PEER_LOST (R237). -/
def Obligations.CollectiveEntries : Prop :=
  (∀ op : Nat, op = 0x50 ∨ op = 0x51 → Runs (if op = 0x50 then .allReduce else .reduceScatter) op
      (fun q e s => ∃ j, j < bucketCount e.imm1 ((s.queue q).d 0) ∧
        (s.ctx q.slot).usedIdx.contains ((s.queue q).startStep, (bucketBase e.imm0 (s.queue q).iter).toNat + j) = true)
      (fun q _ s => s.finishEntry q .contractUnsupported))
  ∧ (∀ op : Nat, op = 0x50 ∨ op = 0x51 → Runs (if op = 0x50 then .allReduce else .reduceScatter) op
      (fun q e s => ∀ j, j < bucketCount e.imm1 ((s.queue q).d 0) →
        (s.ctx q.slot).usedIdx.contains ((s.queue q).startStep, (bucketBase e.imm0 (s.queue q).iter).toNat + j) = false)
      (fun q e s =>
        let y := s.queue q
        let n := bucketCount e.imm1 (y.d 0)
        let base := (bucketBase e.imm0 y.iter).toNat
        let tags := (List.range n).map (fun j => bucketTag (s.ctxRec q.slot).job (s.ctx q.slot).epoch (base + j) y.startStep)
        let u := (List.range n).foldl (fun s j => s.issueBucket q e (y.d 0) (y.d 1) y.startStep (base + j) j)
          (s.modCtx q.slot (fun x => ({ x with
            usedIdx := x.usedIdx ++ (List.range n).map (fun j => (y.startStep, base + j)) }).clearSkips (y.d 1)))
        tags.foldl (fun s t => s.startBucket q.slot t)
          (u.modQueue q (fun y => { y with phase := .running, flight := .collective tags false false }))))
  ∧ Runs .reshard 0x62 (fun _ _ _ => True) (fun q e s =>
        let u := s.abandonOld q.slot (s.queue q).startStep
        ({ u with buckets := u.buckets.filter (fun b => !(b.slot = q.slot && b.doneAt.isSome && !b.issued)) }.modQueue q
          (fun y => { y with phase := .running, flight := .reshard (sl e.imm0 7 0) })).tryReshard q)
  ∧ (∀ v w : State, Runs .reshard 0x62 (fun q e s => v = State.modQueue { (s.abandonOld q.slot (s.queue q).startStep) with
            buckets := (s.abandonOld q.slot (s.queue q).startStep).buckets.filter (fun b =>
              !(b.slot = q.slot && b.doneAt.isSome && !b.issued)) } q
          (fun y => { y with phase := .running, flight := .reshard (sl e.imm0 7 0) })
        ∧ w = v.abandonOld q.slot (v.queue q).startStep
        ∧ w.epochClear q.slot = true)
      (fun q e _ => ((w.modCtx q.slot (fun x => { x with epoch := sl e.imm0 7 0, usedIdx := [] })).releaseHeld q.slot).finishEntry
        q .ok))
  ∧ (∀ v w : State, Runs .reshard 0x62 (fun q e s => v = State.modQueue { (s.abandonOld q.slot (s.queue q).startStep) with
            buckets := (s.abandonOld q.slot (s.queue q).startStep).buckets.filter (fun b =>
              !(b.slot = q.slot && b.doneAt.isSome && !b.issued)) } q
          (fun y => { y with phase := .running, flight := .reshard (sl e.imm0 7 0) })
        ∧ w = v.abandonOld q.slot (v.queue q).startStep
        ∧ w.epochClear q.slot = false) (fun _ _ _ => w))
  ∧ (∀ (counts : List Nat) (ss : List Bytes), Runs .allToAll 0x53
      (fun q e s => (s.dark = true ∨ (s.members q.slot ((s.queue q).d 0)).all (s.peerOk q.slot) = true)
        ∧ s.exchangeStreams q.slot (s.queue q) e = .ok (counts, ss))
      (fun q e s =>
        let u := ((s.members q.slot ((s.queue q).d 0)).zip ss).foldl (fun u p =>
          u.sendMsg q.slot p.1 ((s.queue q).mid e.tag) p.2) (s.keepCounts q.slot (s.queue q) e counts)
        (u.modQueue q (fun y => { y with
          phase := .running
          flight := .exchange u.clk.now (u.patienceEnd q.slot (sl e.imm1 31 0)) [] })).tryExchange q))
  ∧ (∀ (op : Nat) (own : Bytes), op = 0x52 ∨ op = 0x60 → Runs (if op = 0x60 then .gatherShard else .allGather) op
      (fun q e s => e.op = op ∧ s.holderStream q.slot ((s.queue q).d 0) = .ok own
        ∧ ((s.queue q).d 0).missing.all (fun i => s.peerOk q.slot (s.holder q.slot ((s.queue q).d 0) i)) = true)
      (fun q _ s =>
        let y := s.queue q
        let d := y.d 0
        let n := if op = 0x60 then own.length else own.length - 4
        let u := d.missing.foldl (fun u i => u.sendFor q.slot
          { ptype := 8, ctl := 4, dst := u.holder q.slot d i, tag := y.mid d.tensorId
            payload := gatherPayload d.tensorId y.iter i 0 n }) s
        (u.modQueue q (fun y => { y with phase := .running, flight := .gather u.clk.now d.missing })).tryGather q))
  ∧ (∀ (m : Nat) (b : Bytes), Runs .send 0x54
      (fun q e s => s.rankOf q.slot e.imm0 = some m ∧ s.readAddrs q.slot ((s.queue q).d 0).stream = .ok b)
      (fun q e s => ((s.sendMsg q.slot m ((s.queue q).mid e.tag) b).finishEntry q .ok).wakeData q.slot))
  ∧ (∀ m : Nat, Runs .recv 0x55 (fun q e s => s.rankOf q.slot e.imm0 = some m) (fun q _ s =>
      (s.modQueue q (fun y => { y with phase := .running, flight := .recv s.clk.now })).tryRecv q))
  ∧ (∀ (m : Nat) (b : Bytes) (v w : State), Runs .recv 0x55 (fun q e s => s.rankOf q.slot e.imm0 = some m
        ∧ v = s.modQueue q (fun y => { y with phase := .running, flight := .recv s.clk.now }) ∧ (v.queue q).entry = some e
        ∧ (v.ctx q.slot).message (v.rankAt q.slot e.imm0) ((v.queue q).mid e.tag) = some b
        ∧ v.vwrites q.slot (writesAt ((v.queue q).d 0).stream b) = (w, none))
      (fun q e _ => (w.modCtx q.slot (fun x =>
        x.takeMsg (v.rankAt q.slot e.imm0) ((v.queue q).mid e.tag))).finishEntry q .ok))
  ∧ (∀ v : State, Runs .recv 0x55 (fun q e s => (∃ m, s.rankOf q.slot e.imm0 = some m)
        ∧ v = s.modQueue q (fun y => { y with phase := .running, flight := .recv s.clk.now }) ∧ (v.queue q).entry = some e
        ∧ (v.ctx q.slot).message (v.rankAt q.slot e.imm0) ((v.queue q).mid e.tag) = none) (fun _ _ _ => v))
  ∧ (∀ u : State, Runs .dropShard 0x61 (fun q _ s => s.dropView q.slot ((s.queue q).d 0) = (u, none))
      (fun q _ _ => u.finishEntry q .ok))
  ∧ (∀ (q : QRef) (e : Entry) (start d : Nat) (late : List Nat), d ≠ 0 → Gives (.allToAllPatience · q)
      (fun s => (s.queue q).phase = .running ∧ (s.queue q).flight = .exchange start d late ∧ (s.queue q).entry = some e
        ∧ s.serves q.slot = true ∧ d ≤ s.clk.now) (fun s =>
      let slow := (s.members q.slot ((s.queue q).d 0)).filter (fun m =>
        ((s.ctx q.slot).message m ((s.queue q).mid e.tag)).isNone)
      (s.setQueue q { s.queue q with flight := .exchange start d (late ++ slow) }).tryExchange q))
  ∧ (∀ (q : QRef) (start : Nat) (left : List Nat), Gives (.peerWaitTimeout · q)
      (fun s => (s.queue q).phase = .running ∧ ((s.queue q).flight = .gather start left ∨ (s.queue q).flight = .recv start)
        ∧ s.serves q.slot = true ∧ (s.ctxRec q.slot).patience ≠ 0xFFFFFFFF
        ∧ start + (s.ctxRec q.slot).patience * 1000 ≤ s.clk.now) (fun s => s.finishEntry q .peerLost))

/-- The service entries. COPY writes what it read, as sealed units to a host page in bounce mode (R343, R436); INGEST opens its
records and zeroes the rest (R324); CHECKPOINT seals its tensors' units, the last segment with a closing unit, and counts them before
it writes (R323); RESTORE opens them (R325); RELEASE writes what a rule of the charter allows and counts it (R337); LOG keeps a
metric; SCALE_UPDATE writes the scale table and ends the span; a host completion brings the bytes, a timeout parks the entry. -/
def Obligations.ServiceEntries : Prop :=
  (∀ (v w : State) (d : Bytes), Runs .copy 0x33 (fun q _ s =>
        (s.bounceData q.slot ((s.queue q).d 0) = true → s.copyFault q.slot ((s.queue q).d 1) = none)
        ∧ s.copyRead q.slot ((s.queue q).d 0) (s.queue q).arrived = (v, .ok d)
        ∧ s.bounceData q.slot ((s.queue q).d 1) = false
        ∧ v.vwrites q.slot (writesAt ((s.queue q).d 1).stream d) .data = (w, none))
      (fun q _ _ => w.finishEntry q .ok))
  ∧ (∀ (v x w : State) (d : Bytes) (us : List (Nat × Bytes)), Runs .copy 0x33 (fun q _ s =>
        (s.bounceData q.slot ((s.queue q).d 0) = true → s.copyFault q.slot ((s.queue q).d 1) = none)
        ∧ s.copyRead q.slot ((s.queue q).d 0) (s.queue q).arrived = (v, .ok d)
        ∧ s.bounceData q.slot ((s.queue q).d 1) = true
        ∧ v.unitWrites q.slot ((s.queue q).d 1).base d = (x, us) ∧ x.vwrites q.slot us .data = (w, none))
      (fun q _ _ => w.finishEntry q .ok))
  ∧ (∀ (v w : State) (rest : List Nat), Runs .ingest 0x80 (fun q e s =>
        s.ingest q.slot ((s.queue q).d 0) (s.queue q).arrived e.imm1 e.imm0 ((s.queue q).d 0).stream = (v, .ok rest)
        ∧ v.vwrites q.slot (writesAt rest (zeros rest.length)) = (w, none))
      (fun q _ _ => w.finishEntry q .ok))
  ∧ (∀ (w : State) (bs : List Bytes), Runs .checkpoint 0x81 (fun q e s =>
        s.ckptStreams q.slot (s.queue q) = .ok bs
        ∧ State.vwrites { s with sec := { s.sec with sealed := s.sec.sealed + (s.ckptUnits q.slot e.imm0 bs).length
            + (s.ckptClose q.slot e.imm0 (bit e.variant 0) (s.ckptUnits q.slot e.imm0 bs)).length } } q.slot (layUnits e.imm1 ((s.ckptUnits q.slot e.imm0 bs).map (fun (u : Bytes × Bytes) => u.1)
            ++ s.ckptClose q.slot e.imm0 (bit e.variant 0) (s.ckptUnits q.slot e.imm0 bs))) .sealed = (w, none))
      (fun q e s =>
        (w.modCtx q.slot (fun x => { x with
          segs := setSegs x.segs e.imm0 (bit e.variant 0) (segsOf x.segs e.imm0
            ++ (s.ckptUnits q.slot e.imm0 bs).map (fun (u : Bytes × Bytes) => u.2)) })).finishEntry q .ok))
  ∧ (∀ (key : Bytes) (v : State) (r : RestoreAt), Runs .restore 0x82 (fun q e s =>
        s.restoreKey q.slot e.imm0 ((List.range 6).filterMap (s.queue q).desc) = some key
        ∧ s.restoreAll q.slot key e.imm0 (s.queue q).arrived ((List.range 6).filterMap (s.queue q).desc)
            { va := e.imm1, tags := segsOf (s.ctx q.slot).resegs e.imm0 } = (v, .ok r)
        ∧ v.restoreClose q.slot key e.imm0 (bit e.variant 0) (s.queue q).arrived r = .ok ())
      (fun q e _ => (v.modCtx q.slot (fun x =>
        { x with resegs := setSegs x.resegs e.imm0 (bit e.variant 0) r.tags })).finishEntry q .ok))
  ∧ (∀ (ch : Charter) (r : CharterRule) (ws : List (Nat × Bytes)) (n : Nat) (w : State), Runs .release 0x83 (fun q e s =>
        let d := (s.queue q).d 0
        (s.ctx q.slot).charter = some ch ∧ ch.rules[e.imm0]? = some r ∧ d.tensorId = r.tensorId
        ∧ s.rangesOf q.slot d = [r.range] ∧ (r.limit = 0 ∨ tget 0 (s.ctx q.slot).releases e.imm0 < r.limit)
        ∧ s.openAt q.slot e.imm1 (releaseSize r d) = true
        ∧ s.releaseWrites q.slot ch r (((s.queue q).rawDesc 0).getD d) d e.imm1 = .ok (ws, n)
        ∧ State.vwrites { s with sec := { s.sec with sealed := s.sec.sealed + n } } q.slot ws = (w, none))
      (fun q e s => (w.modCtx q.slot (fun x =>
        { x with releases := tput 0 x.releases e.imm0 (tget 0 (s.ctx q.slot).releases e.imm0 + 1) })).finishEntry q .ok))
  ∧ (∀ (ch : Charter) (r : CharterRule), Runs .release 0x83 (fun q e s =>
        (s.ctx q.slot).charter = some ch ∧ ch.rules[e.imm0]? = some r
        ∧ s.openAt q.slot e.imm1 (releaseSize r ((s.queue q).d 0)) = false) (fun q _ s => s.finishEntry q .charterDenied))
  ∧ Runs .release 0x83 (fun q _ s => (s.ctx q.slot).charter = none) (fun q _ s => s.finishEntry q .charterDenied)
  ∧ (∀ v : Val, Runs .log 0x84 (fun q _ s =>
        s.readElem q.slot ((s.queue q).d 0) (List.replicate ((s.queue q).d 0).rank 0) = .ok v)
      (fun q e s => (s.modCtx q.slot (fun x => x.book (s.queue q).startStep (fun st => { st with
        metrics := tins st.metrics (sl e.imm0 2 0) ((scalar16 v).1, (scalar16 v).2, sl e.imm0 15 8) }))).finishEntry q .ok))
  ∧ (∀ n : Nat, Runs .scaleUpdate 0x72 (fun q e s => s.stepScale q.slot (s.queue q).startStep = .ok n
        ∧ ((s.compute q e (s.scaleUpdate q.slot)).queue q).phase = .done .ok)
      (fun q e s =>
        let u := s.compute q e (s.scaleUpdate q.slot)
        u.modCtx q.slot (fun x => Ctx.book { x with span := false } (u.queue q).startStep (fun st =>
          { st with lsExp := some n }))))
  ∧ (∀ (tag : Nat) (data : Bytes) (r : HostRead), Gives (.hostCompletion · tag data)
      (fun s => s.pcie.reads.find? (fun r => r.tag = tag) = some r ∧ r.fetchAdd = none ∧ s.waitsRead r = true) (fun s =>
      let u := (s.freeRead tag).setHostBytes r.addr (bslice data 0 r.len)
      let all := (u.pcie.reads ++ u.pcie.waiting).all (fun x => !r.mate x)
      u.modQueue ⟨r.slot, r.queue⟩ (fun y => { y with
        flight := .hostRead (joinRange (r.addr, r.len) y.arrived)
        phase := if y.phase = Phase.running ∧ all then (if y.cur.isNone then Phase.idle else Phase.ready) else y.phase })))
  ∧ (∀ (tag : Nat) (data : Bytes) (r : HostRead) (f : Nat × Nat × Nat), Gives (.hostCompletion · tag data)
      (fun s => s.pcie.reads.find? (fun r => r.tag = tag) = some r ∧ r.fetchAdd = some f)
      (fun s => (s.freeRead tag).added r f (fld data 0 8)))
  ∧ (∀ (tag : Nat) (data : Bytes) (r : HostRead), Gives (.hostCompletion · tag data)
      (fun s => s.pcie.reads.find? (fun r => r.tag = tag) = some r ∧ r.fetchAdd = none ∧ s.waitsRead r = false)
      (fun s => s.freeRead tag))
  ∧ (∀ (tag : Nat) (r : HostRead) (e : Entry), Gives (.hostCplTimeout · tag)
      (fun s => s.pcie.reads.find? (fun r => r.tag = tag) = some r ∧ r.fetchAdd = none ∧ s.waitsRead r = true
        ∧ (s.queue ⟨r.slot, r.queue⟩).phase = .running ∧ (s.queue ⟨r.slot, r.queue⟩).cur.isSome = true
        ∧ (s.queue ⟨r.slot, r.queue⟩).entry = some e) (fun s =>
      let u := s.freeRead tag
      { u with pcie := { u.pcie with timeouts := satAdd 32 u.pcie.timeouts 1 } }.failEntry
          ⟨r.slot, r.queue⟩ e.tag (if e.op = 0x33 then 0 else if e.op = 0x03 then 8 else 4) .ready (.fault r.va 3 false true)))

/-! ### Contexts, the context page, the host interface -/

/-- The controls of a slot. CREATE of an open slot creates a context, or waits while a firmware activation runs (R249, R367); QUENCH and
RELEASE do theirs; DRAIN turns a LIVE context of Vilif mode to DRAINING, DRAIN_COMPLETE empties it once every queue is dry,
QUENCH_DONE makes it QUENCHED (R270 to R275). -/
def Obligations.ContextCommands : Prop :=
  (∀ fn slot : Nat, pf0 fn = true → Gives (.create · fn slot)
      (fun s => CtxOpened s fn slot ∧ s.fw.act = none) (fun s => (s.access fn (pgCtx slot)).createCtx slot))
  ∧ (∀ (fn slot : Nat) (b : Built), pf0 fn = true → Gives (.create · fn slot)
      (fun s => CtxOpened s fn slot ∧ s.fw.act = none ∧ s.sec.trngOk = true
        ∧ (s.access fn (pgCtx slot)).buildCtx slot = .ok b) (fun s =>
      let a := (s.access fn (pgCtx slot)).assignSlots b.ranges
      (a.2.modCtx slot (fun x => x.created b a.1 (s.access fn (pgCtx slot)).round)).matchCharters slot))
  ∧ (∀ fn slot : Nat, pf0 fn = true → Gives (.create · fn slot)
      (fun s => CtxOpened s fn slot ∧ s.fw.act ≠ none ∧ slot ∉ s.fw.creates)
      (fun s => { s.access fn (pgCtx slot) with fw := { s.fw with creates := s.fw.creates ++ [slot] } }))
  ∧ (∀ fn slot : Nat, Gives (.quench · fn slot)
      (fun s => (s.access fn (pgCtx slot)).ctxOpens fn slot true = true) (fun s => (s.access fn (pgCtx slot)).quench slot))
  ∧ (∀ slot : Nat, Gives (.quenchDone · slot) (fun s => (s.ctx slot).state = 2) (fun s => s.quenched slot))
  ∧ (∀ fn slot : Nat, pf0 fn = true → Gives (.ctxRelease · fn slot)
      (fun s => (s.access fn (pgCtx slot)).ctxOpens fn slot true = true)
      (fun s => (s.access fn (pgCtx slot)).releaseSlot slot))
  ∧ (∀ fn slot : Nat, Gives (.ctxDrain · fn slot)
      (fun s => CtxOpened s fn slot ∧ (s.ctx slot).state = 1 ∧ bit (s.ctxRec slot).mode 0 = true)
      (fun s => (s.access fn (pgCtx slot)).modCtx slot (fun x => { x with state := 4 })))
  ∧ (∀ slot : Nat, Gives (.drainComplete · slot)
      (fun s => (s.ctx slot).state = 4 ∧ ∀ p ∈ (s.ctx slot).queues, p.2.dry = true) (fun s => (s.quenched slot).settleOwed))

/-- The quench of a LIVE or DRAINING context (R247, R269, R270): the slot is QUENCHING and its generation is one higher modulo 256; a
second quench has no effect. -/
def Obligations.QuenchRaisesTheGeneration : Prop :=
  ∀ (s : State) (c : Nat), (s.ctx c).state = 1 ∨ (s.ctx c).state = 4 →
    ((s.quench c).ctx c).state = 2 ∧ ((s.quench c).ctx c).gen = ((s.ctx c).gen + 1) % 256
    ∧ (s.quench c).quench c = s.quench c

/-- The end of a quench or a drain (R304, R342): the slot is QUENCHED, every key slot it holds holds the key zero, the keys of its
charter are zero, its session binding has ended, and its generation stays. -/
def Obligations.QuenchedHoldsNoKey : Prop :=
  ∀ (s : State) (c : Nat),
    ((s.quenched c).ctx c).state = 3 ∧ ((s.quenched c).ctx c).session = none
    ∧ ((s.quenched c).ctx c).gen = (s.ctx c).gen
    ∧ (∀ ch, ((s.quenched c).ctx c).charter = some ch → ∀ k ∈ ch.keys, k.key = 0)
    ∧ (∀ k ∈ s.heldSlots c, tget 0 (s.quenched c).mem.keySlots k = 0)

/-- The registers of a slot's page. DOORBELL sets the tail, and sets the queue in error when more entries than the ring holds are
claimed; QCFG configures the selected queue; HOST_MODE changes only while no queue is enabled; RESUME answers parked entries;
FAULT_CONS and INVALIDATE; INVALIDATE_DONE lets the pins of the range go; SCRUB of a free scrubber starts, SCRUB_DONE unbacks its
frames. -/
def Obligations.ContextRegisterCommands : Prop :=
  (∀ slot k value : Nat, slot < 64 → k < 16 → Gives (.doorbell · 0 slot (8 * k) value)
      (fun s => s.hostUp = true ∧ s.live = true ∧ (s.ctx slot).state = 1
        ∧ (value % 2 ^ 32 + 2 ^ 32 - (s.queue ⟨slot, k⟩).head) % 2 ^ 32 ≤ 2 ^ (s.queue ⟨slot, k⟩).depth)
      (fun s => s.modQueue ⟨slot, k⟩ (fun y => { y with tail := value % 2 ^ 32 })))
  ∧ (∀ slot k value : Nat, slot < 64 → k < 16 → Gives (.doorbell · 0 slot (8 * k) value)
      (fun s => s.hostUp = true ∧ s.live = true ∧ (s.ctx slot).state = 1 ∧ (s.queue ⟨slot, k⟩).error = false
        ∧ 2 ^ (s.queue ⟨slot, k⟩).depth < (value % 2 ^ 32 + 2 ^ 32 - (s.queue ⟨slot, k⟩).head) % 2 ^ 32)
      (fun s => (s.modQueue ⟨slot, k⟩ (fun y => { y with tail := value % 2 ^ 32 })).queueError ⟨slot, k⟩ 1))
  ∧ (∀ fn slot value : Nat,
      Gives (.queueEnable · fn slot value) (fun s => CtxOpened s fn slot)
        (fun s => (s.access fn (pgCtx slot)).writeQcfg slot value)
      ∧ Gives (.queueEnable · fn slot value) (fun s => CtxOpened s fn slot) (fun s =>
        (s.access fn (pgCtx slot)).modCtx slot (fun x => { x.setQueue x.qsel ((x.queue x.qsel).config value) with
          winErr := x.winErr && !(bit value 31 && !(x.queue x.qsel).enable) }))
      ∧ (∀ p : Parked, Gives (.resume · fn slot value) (fun s => CtxOpened s fn slot
            ∧ ((s.access fn (pgCtx slot)).ctx slot).parked.filter (fun p => p.replayable && (sl value 15 0 = 0xFFFF
              || p.rid = sl value 15 0)) = [p])
          (fun s => (((s.access fn (pgCtx slot)).answer slot p (bit value 31)).wakeData slot).flush slot))
      ∧ Gives (.resume · fn slot value) (fun s => CtxOpened s fn slot)
        (fun s => (s.access fn (pgCtx slot)).writeResume slot value)
      ∧ Gives (.faultConsWrite · fn slot value) (fun s => CtxOpened s fn slot) (fun s =>
        ((s.access fn (pgCtx slot)).modCtx slot (fun x => { x with consumed := value % 65536 })).flush slot)
      ∧ Gives (.invalidate · fn slot value) (fun s => CtxOpened s fn slot) (fun s =>
        (s.access fn (pgCtx slot)).modCtx slot (fun x => { x with
          invalPages := sl value 25 0, invalGo := x.invalGo || bit value 31 }))
      ∧ Gives (.hostModeWrite · fn slot value)
        (fun s => CtxOpened s fn slot ∧ ∀ p ∈ (s.ctx slot).queues, p.2.enable = false) (fun s =>
        (s.access fn (pgCtx slot)).modCtx slot (fun x => { x with hostMode := value % 4 }))
      ∧ Gives (.hostModeWrite · fn slot value)
        (fun s => CtxOpened s fn slot ∧ ∃ p ∈ (s.ctx slot).queues, p.2.enable = true) (fun s => s.access fn (pgCtx slot)))
  ∧ (∀ slot : Nat, Gives (.invalidateDone · slot) (fun s => (s.ctx slot).invalGo = true) (fun s =>
      (s.modCtx slot (fun x => { x with invalGo := false })).dropPins (fun p =>
        p.slot = slot && (s.ctx slot).invalVa ≤ p.va && p.va < (s.ctx slot).invalVa + 65536 * (s.ctx slot).invalPages
          && !(s.modCtx slot (fun x => { x with invalGo := false })).pinStands p)))
  ∧ (∀ fn value : Nat, bit value 31 = true → Gives (.scrub · fn value)
      (fun s => Opened s fn pgMmu ∧ s.mem.scrubGo = none) (fun s => { s.access fn pgMmu with mem := { s.mem with
        scrubCount := sl value 25 0, scrubGo := some (s.mem.scrubFrame, sl value 25 0) } }))
  ∧ (∀ f n : Nat, Gives .scrubDone (fun s => s.mem.scrubGo = some (f, n)) (fun s =>
      let u := ((s.mem.frames.map (·.1)).filter (fun k => f ≤ k && k < f + n)).foldl (fun u k => u.unback k) s
      { u with mem := { u.mem with scrubGo := none } }.raise pgMmu 1))

/-- The host interface. WINDOW_READ answers the bytes of an open window and WINDOW_WRITE stores them, held while the reset of an engine
keeps the frame (R379); TDI_STATE_CHANGE, SRIOV_ENABLE
(functions that go are no longer bound), PCIE_LINK_RETRAIN, the SPDM sessions, IDE_KM, BIND_SLOT answers its result and binds,
UNBIND, GET_MEASUREMENTS answers a Hallmark report (R246, R342, R344, R360). -/
def Obligations.HostInterfaceCommands : Prop :=
  (∀ (fn off a k : Nat) (m : Bool) (b : Bytes), Gives (.windowRead · fn off 128)
      (fun s => s.windowOpen fn off 128 = true ∧ s.windowHeld { fn, off, len := 128, data := none } = false
        ∧ piecesOf 128 off 128 = [(off, 128)] ∧ s.windowAt fn off false = (some (a, k, m), false) ∧ (s.windowTouch fn off 128).physRead k m a 128 = .ok b)
      (fun s => ((s.windowTouch fn off 128).noteLines m false a 128).emit (.window fn b)))
  ∧ (∀ (fn off : Nat) (data : Bytes), Gives (.windowWrite · fn off data)
      (fun s => s.windowOpen fn off data.length = true
        ∧ s.windowHeld { fn, off, len := data.length, data := some data } = false) (fun s =>
      (piecesOf 128 off data.length).foldl (fun (s : State) p => s.windowStore fn off data p) s))
  ∧ (∀ fn off : Nat, ∀ data : Bytes, Gives (.windowWrite · fn off data)
      (fun s => s.windowOpen fn off data.length = true
        ∧ s.windowHeld { fn, off, len := data.length, data := some data } = true) (fun s =>
      { s with pcie := { s.pcie with held := s.pcie.held ++ [{ fn, off, len := data.length, data := some data }] } }))
  ∧ (∀ (slot : Nat) (x : TdiState), slot < 64 → Gives (.tdiStateChange · slot x)
      (fun s => s.hostUp = true ∧ s.bound slot = true) (fun s => s.setTdi slot (tdiCode x)))
  ∧ (∀ (enable : Bool) (n : Nat), n ≤ 64 → Reaches (.sriovEnable · enable n) (fun s => s.configUp = true) (fun s u =>
      u.pcie.sriov = enable ∧ u.pcie.numVfs = n
      ∧ ∀ c, c < 64 → s.bound c = true → (enable && decide (c < n)) = false → tget 0 u.pcie.tdi c = 0 ∧ tget false u.pcie.ide c = false))
  ∧ (∀ (speed width : Nat) (flit : Bool), 1 ≤ speed → speed ≤ 6 → width ∈ [1, 2, 4, 8, 16] →
      Gives (.pcieLinkRetrain · speed width flit) (fun s => s.hostUp = true) (fun s =>
      { s with pcie := { s.pcie with speed, width := if width = 16 then 15 else width, flit } }.raise pgHostif 1))
  ∧ (∀ session transcript : Nat, Gives (.spdmSessionStart · session transcript)
      (fun s => s.configUp = true ∧ s.running = true ∧ s.signs = true ∧ ∀ p ∈ s.pcie.sessions, p.1 ≠ session)
      (fun s => { s with pcie := { s.pcie with sessions := s.pcie.sessions ++ [(session, transcript)] } }))
  ∧ (∀ session : Nat, Reaches (.spdmSessionEnd · session) (fun _ => True) (fun s u =>
      u = { s with pcie := u.pcie, ctxs := u.ctxs } ∧ (∀ p ∈ u.pcie.xfers, p.1 ≠ session) ∧ u.pcie.sessions = s.pcie.sessions.filter (fun p => p.1 ≠ session)
      ∧ ∀ c, c < 64 → (s.ctx c).session = some session → (u.ctx c).session = none))
  ∧ (∀ session slot : Nat, slot < 64 → Gives (.ideKm · session slot)
      (fun s => s.hasSession session = true ∧ s.bound slot = true)
      (fun s => { s with pcie := { s.pcie with ide := tput false s.pcie.ide slot true } }))
  ∧ (∀ (session : Nat) (req : BindRequest), Gives (.bindSlot · session req)
      (fun s => s.hasSession session = true ∧ s.bindResult session req = 0)
      (fun s => (s.bind req.slot session).emit (.spdm session 0)))
  ∧ (∀ (session : Nat) (req : BindRequest), Gives (.bindSlot · session req)
      (fun s => s.hasSession session = true ∧ s.bindResult session req ≠ 0)
      (fun s => s.emit (.spdm session (s.bindResult session req))))
  ∧ (∀ (session : Nat) (req : BindRequest), Gives (.unbind · session req)
      (fun s => s.hasSession session = true ∧ (s.ctx req.slot).state = 1 ∧ (s.ctx req.slot).gen = req.gen
        ∧ (s.ctx req.slot).session = some session)
      (fun s => (s.unbind req.slot).emit (.spdm session 0)))
  ∧ (∀ req : HallmarkRequest, Gives (.getMeasurements · req)
      (fun s => s.configUp = true ∧ s.signs = true ∧ s.fw.act = none ∧ s.running = true) (fun s =>
      (s.hallmark req.nonce req.report req.slot).2.emit
        (.hallmark (hallmarkBlock (s.hallmark req.nonce req.report req.slot).1) s.company)))

/-- The outcome of a binding request (R342): 1 for a slot that is not LIVE or of another generation, else 2 for a slot that is
bound, else 4 for an owner the charter does not have, else 3 for a signature that does not verify; a slot without a charter takes
owner 0xFF and a signature of zeros only. -/
def Obligations.BindingOutcome : Prop :=
  ∀ (s : State) (session : Nat) (r : BindRequest),
    (s.bindResult session r = 0 ↔ (s.ctx r.slot).state = 1 ∧ (s.ctx r.slot).gen = r.gen ∧ (s.ctx r.slot).session = none
      ∧ ((∃ ch, (s.ctx r.slot).charter = some ch ∧ r.owner < ch.owners ∧ s.bindSigOk session ch r = true)
        ∨ ((s.ctx r.slot).charter = none ∧ r.owner = 0xFF ∧ allZero r.sig = true)))
    ∧ (s.bindResult session r = 1 ↔ (s.ctx r.slot).state ≠ 1 ∨ (s.ctx r.slot).gen ≠ r.gen)

/-! ### The schedule, migrations, anneal, cores, resets -/

/-- The schedule. QUANTUM_BOUNDARY charges the quantum, ends the sprigs, counts it and enters the next; PREEMPT_REQUEST, 50 µs before
a boundary, marks the cores that change hands; PREEMPTION_POINT saves a draining core, and what a marked one holds; CORE_TRANSFER tops
a runnable slot up; SPRIG_START saves an idle core's state and lends it, SPRIG_END gives it back; PERIOD_BOUNDARY starts a slot's next
period; RELOAD (R150, R279 to R297). -/
def Obligations.ScheduleCommands : Prop :=
  Gives .quantumBoundary (fun s => s.ticking = true ∧ (s.sched.k + 1) * s.quantumNs ≤ s.clk.time) (fun s =>
    let u := (s.coreList.foldl (fun s k => s.endSprig k) s.charge).settleOwed
    let v := { u with sched := { u.sched with k := u.sched.k + 1 } }
    (if v.quantumOf = 0 then v.newRound else v).enterQuantum)
  ∧ Gives .preemptRequest (fun s => s.ticking = true ∧ (s.sched.k + 1) * s.quantumNs ≤ s.clk.time + 50000) (fun s =>
    let q := (s.sched.k + 1) % max s.sched.round 1
    (s.leavers ((if q = 0 then s.newRound else s).targets q).1).foldl (fun u k =>
      u.setCore k { u.core k with preempt := true }) s)
  ∧ (∀ core : Nat, Gives (.preemptionPoint · core) (fun s => s.live = true ∧ core < s.ident.variant.cores
      ∧ (s.core core).st = 3 ∧ s.ras.sweep = false) (fun s => (s.saveCore core).raise (pgCore core) 2))
  ∧ (∀ core slot : Nat, Gives (.preemptionPoint · core) (fun s => s.live = true ∧ core < s.ident.variant.cores
      ∧ (s.core core).st = 2 ∧ (s.core core).preempt = true ∧ (s.core core).ctx = some slot) (fun s =>
    let u := (s.endSprig core).saveWork core slot
    (u.setCore core { u.core core with preempt := false }).settleOwed))
  ∧ (∀ slot : Nat, slot < 64 → Gives (.coreTransfer · slot)
      (fun s => s.ticking = true ∧ (s.ctx slot).strict = false ∧ s.runnable slot = true) (fun s => (s.topUp slot).tidyCores))
  ∧ (∀ core d c : Nat, Gives (.sprigStart · core) (fun s => (s.core core).ctx = some d ∧ s.ticking = true
      ∧ s.sched.sprigs = true ∧ (s.core core).st = 2 ∧ (s.core core).sprig = none ∧ s.donates d = true
      ∧ s.pickSource d = some c) (fun s =>
    let u := s.saveWork core d
    ((u.setCore core { u.core core with sprig := some c, sprigAt := u.clk.now, used := true }).restoreWork core c).settleOwed))
  ∧ (∀ core : Nat, Gives (.sprigEnd · core) (fun _ => True) (fun s => (s.endSprig core).settleOwed))
  ∧ (∀ slot : Nat, slot < 64 → Gives (.periodBoundary · slot) (fun s => s.ticking = true ∧ (s.ctx slot).active = true
      ∧ (s.ctx slot).periodic = true ∧ (s.ctx slot).ending = false ∧ (s.ctx slot).nextPeriod ≤ s.round
      ∧ (s.ctx slot).reload = none ∧ ∀ p ∈ (s.ctx slot).queues, p.2.overruns = false) (fun s =>
    ((s.modCtx slot (fun x => { x with periodAt := x.nextPeriod })).modCtx slot (fun x =>
      { x with ending := true })).closePeriod slot))
  ∧ (∀ fn value : Nat, Gives (.reload · fn value) (fun s => Opened s fn pgSched)
      (fun s => (s.access fn pgSched).writeReload value))
  ∧ (∀ (fn value : Nat) (v : State) (r : SchedRec), bit value 31 = true → Gives (.reload · fn value)
      (fun s => Opened s fn pgSched
        ∧ v = { s.access fn pgSched with sched := { (s.access fn pgSched).sched with reloadCtx := sl value 5 0 } }
        ∧ v.rereadSched (sl value 5 0) = some r) (fun _ =>
      { v with sched := { v.sched with reloadErr := false } }.modCtx (sl value 5 0) (fun x => { x with reload := some r })))

/-- Placement and anneal. MIGRATION_START of a frame that may move, after what waited for its moment; MIGRATION_SWITCH to its new place,
or given up when its class no longer lets it go there (R185); MIGRATION_CANCEL with 1 ms before another try; PATROL_READ of an
uncorrectable line of the stack poisons it and retires its place; SEQ_SLOT_RELEASE after 10 ms without use;
ANNEAL_START takes a free key slot, ANNEAL_BLOCK rewrites a block under the new key, ANNEAL_DONE gives the old slot back and moves
the range to the new one (R190, R319, R321). -/
def Obligations.PlacementCommands : Prop :=
  (∀ frame tier stack : Nat, Gives (.migrationStart · frame tier stack) (fun s => s.placeWaiting.mayMigrate frame tier stack = true)
    (fun s => { s.placeWaiting with mem := { s.placeWaiting.mem with migr := s.placeWaiting.mem.migr ++ [{ frame, tier, stack }] } }))
  ∧ (∀ (frame : Nat) (m : Migration) (b : Backing) (v : State), Gives (.migrationSwitch · frame)
      (fun s => s.mem.migr.find? (fun m => m.frame = frame) = some m ∧ s.classMoves frame m.tier = true
        ∧ v = (s.copyErrors m.frame).dropLines m.frame ∧ v.backing m.frame = some b) (fun _ =>
    let u := v.place m.frame { b with tier := m.tier, stack := m.stack, bad := false }
    (State.endMigration { u with mem := { u.mem with migDone := wrapAdd 64 u.mem.migDone 1 } } m).honourPins))
  ∧ (∀ (frame : Nat) (m : Migration), Gives (.migrationSwitch · frame)
      (fun s => s.mem.migr.find? (fun m => m.frame = frame) = some m ∧ s.classMoves frame m.tier = false) (fun s =>
    (s.cancelMigration m).honourPins))
  ∧ (∀ (frame : Nat) (m : Migration), Gives (.migrationCancel · frame)
      (fun s => s.mem.migr.find? (fun m => m.frame = frame) = some m) (fun s =>
    ({ s with mem := { s.mem with
      migCancel := satAdd 32 s.mem.migCancel 1
      cooldown := tput 0 s.mem.cooldown m.frame (s.clk.now + 1000000) } }.endMigration m).honourPins))
  ∧ (∀ fn value : Nat, Gives (.stallMaxClear · fn value) (fun s => Opened s fn pgPlace)
      (fun s => (s.access fn pgPlace).writeStallMax value))
  ∧ (∀ fn value : Nat, bit value 31 = true → Gives (.stallMaxClear · fn value) (fun s => Opened s fn pgPlace)
      (fun s => { s.access fn pgPlace with mem := { (s.access fn pgPlace).mem with stallMax := 0 } }))
  ∧ (∀ tier stack frame line : Nat, tier < 2 → Gives (.patrolRead · tier stack (.uncorrectable (some frame) line))
      (fun s => s.running = true ∧ stack < s.stacks tier ∧ (s.mc (if tier = 0 then stack else 16 + stack)).patrol = true
        ∧ s.liesIn tier stack (some frame) = true)
      (fun s =>
        let x := if tier = 0 then stack else 16 + stack
        let pg := if tier = 0 then pgNear stack else pgBulk stack
        (((s.setMc x { s.mc x with uncorr := satAdd 32 (s.mc x).uncorr 1 }).raise pg 1).poison
          (512 * frame + line % 512)).retireLocation x pg (some frame)))
  ∧ (∀ slot tensor : Nat, Gives (.seqSlotRelease · slot tensor) (fun _ => True) (fun s =>
      s.dropSeqs (fun x => x.slot = slot && x.tensor = tensor
        && (match x.idleAt with | some a => decide (a + 10000000 ≤ s.clk.now) | none => false))))
  ∧ (∀ fn value : Nat, Gives (.annealReq · fn value) (fun s => Opened s fn pgMemcrypt)
      (fun s => (s.access fn pgMemcrypt).writeAnnealReq value))
  ∧ (∀ (fn value : Nat) (v : State), bit value 31 = true → sl value 10 8 < 8 → Gives (.annealReq · fn value)
      (fun s => Opened s fn pgMemcrypt ∧ v = s.access fn pgMemcrypt ∧ (v.ctx (sl value 5 0)).state ≠ 0
        ∧ (sl value 10 8 ≠ 0 → (((v.ctx (sl value 5 0)).ranges[sl value 10 8]?).getD {}).length ≠ 0)
        ∧ (sl value 5 0, sl value 10 8) ∉ v.mem.annealQ
        ∧ ∀ a ∈ v.mem.anneals, ¬ (a.slot = sl value 5 0 ∧ a.range = sl value 10 8)) (fun _ =>
      { v with mem := { v.mem with
        annealReq := sl value 10 8 * 256 + sl value 5 0, annealQ := v.mem.annealQ ++ [(sl value 5 0, sl value 10 8)] } }))
  ∧ (∀ (c r : Nat) (rest : List (Nat × Nat)), Gives .annealStart (fun s => s.mem.annealQ = (c, r) :: rest ∧ s.live = true
      ∧ (s.ctx c).state = 1 ∧ s.annealing.length < 4 ∧ 1 + 8 * s.freeCtxs ≤ s.freeSlots ∧ s.sec.trngOk = true) (fun s =>
    { s.takeSlot.2 with mem := { s.takeSlot.2.mem with
      annealQ := rest
      anneals := s.takeSlot.2.mem.anneals ++
        [{ slot := c, range := r, newSlot := s.takeSlot.1, ptr := (((s.ctx c).ranges[r]?).getD {}).base }] } }))
  ∧ (∀ (slot range va f i : Nat) (a : Anneal), Gives (.annealBlock · slot range)
      (fun s => s.annealing.find? (fun a => a.slot = slot && a.range = range) = some a ∧ s.blockOf a = some (va, f, i)
        ∧ s.running = true ∧ s.frameHeld f = false ∧ ∀ m ∈ s.mem.migr, m.frame ≠ f) (fun s =>
    let r := (((s.ctx slot).ranges[range]?).getD {})
    let u := s.annealLines (tget 0 s.mem.keySlots r.slot) (tget 0 s.mem.keySlots a.newSlot) (r.replay = 1) f i
    (State.startMoves { u with mem := { u.mem with anneals := u.mem.anneals.map (fun (x : Anneal) =>
      if x = a then { a with ptr := va + 16384, swept := if i = 3 then f :: a.swept else a.swept } else x) } }).honourPins))
  ∧ (∀ (slot range : Nat) (a : Anneal), Gives (.annealDone · slot range)
      (fun s => s.annealing.find? (fun a => a.slot = slot && a.range = range) = some a ∧ s.blockOf a = none
        ∧ s.running = true) (fun s =>
    (({ s with mem := { s.mem with
        keySlots := s.mem.keySlots.filter (fun p => p.1 ≠ (((s.ctx slot).ranges[range]?).getD {}).slot)
        anneals := s.mem.anneals.filter (fun x => x ≠ a)
        annealDone := satAdd 16 s.mem.annealDone 1 } }.modCtx slot (fun x =>
      { x with ranges := lmod x.ranges range (fun r => { r with slot := a.newSlot }) })).raise pgMemcrypt 1)))

/-- The cores: CORE_DRAIN, SELFTEST, FTQ_CLEAR and SWEEP are writes of PF0, SELFTEST_DONE counts the run and returns a core that passed
or removes one that failed (R396), SWEEP_INTERVAL starts a sweep, MULTI_BIT_ERROR resets the core's engine and names its
context. -/
def Obligations.CoreCommands : Prop :=
  (∀ fn core value : Nat,
    Gives (.coreDrain · fn core value) (fun s => (s.access fn (pgCore core)).coreOpens fn core = true)
      (fun s => (s.access fn (pgCore core)).writeCoreCtrl core value)
    ∧ Gives (.coreDrain · fn core value)
      (fun s => (s.access fn (pgCore core)).coreOpens fn core = true ∧ bit value 0 = true ∧ bit value 1 = false) (fun s =>
      let u := s.access fn (pgCore core)
      ((u.setCore core { u.core core with drain := true }).askDrain core).rebalance u.heldCounts)
    ∧ Gives (.selftest · fn core) (fun s => (s.access fn (pgCore core)).coreOpens fn core = true)
      (fun s => (s.access fn (pgCore core)).startTest core)
    ∧ Gives (.selftest · fn core)
      (fun s => (s.access fn (pgCore core)).coreOpens fn core = true ∧ ((s.access fn (pgCore core)).core core).st = 4) (fun s =>
      (s.access fn (pgCore core)).setCore core { (s.access fn (pgCore core)).core core with
        st := 5, selftest := true, used := true })
    ∧ Gives (.ftqClear · fn core) (fun s => (s.access fn (pgCore core)).coreOpens fn core = true) (fun s =>
      (s.access fn (pgCore core)).setCore core { (s.access fn (pgCore core)).core core with
        ftqHigh := ((s.access fn (pgCore core)).core core).ftq.length })
    ∧ Gives (.sweep · fn value) (fun s => Opened s fn pgRas) (fun s => (s.access fn pgRas).writeSelftest value)
    ∧ Gives (.sweep · fn value)
      (fun s => Opened s fn pgRas ∧ bit value 31 = true ∧ (s.access fn pgRas).ras.sweep = false) (fun s =>
      State.sweepFrom { s.access fn pgRas with ras := { (s.access fn pgRas).ras with
        interval := sl value 15 8, lanes := bit value 0, sweep := true } } 0))
  ∧ (∀ core : Nat, Gives (.selftestDone · core true) (fun s => (s.core core).st = 5 ∧ s.running = true) (fun s =>
      ((((s.setCore core { s.core core with runs := satAdd 16 (s.core core).runs 1, last := 1, selftest := false }).raise
        (pgCore core) 4).returnCore core).sweepPast core (core + 1))))
  ∧ (∀ core : Nat, Gives (.selftestDone · core false) (fun s => (s.core core).st = 5 ∧ s.running = true) (fun s =>
      let k := { s.core core with runs := satAdd 16 (s.core core).runs 1, last := 2, selftest := false }
      let u := ((s.setCore core k).raise (pgCore core) 4).setCore core k.removed
      (({ u with ras := { u.ras with failed := satAdd 8 u.ras.failed 1 } }.raise pgRas 4).logRas (pgCore core) 2 0x22 none
        core).sweepPast core (core + 1)))
  ∧ Gives .sweepInterval (fun s => s.live = true ∧ s.ras.cpActive = false ∧ s.ras.interval ≠ 0) (fun s => s.sweepStart)
  ∧ Gives .sweepInterval (fun s => s.live = true ∧ s.ras.cpActive = false ∧ s.ras.interval ≠ 0 ∧ s.ras.sweep = false)
    (fun s => State.sweepFrom { s with ras := { s.ras with sweep := true } } 0)
  ∧ (∀ core : Nat, Gives (.multiBitError · core) (fun s => s.live = true ∧ core < s.ident.variant.cores
      ∧ s.ras.cpActive = false ∧ (s.hdr (pgCore core)).reset = false ∧ (s.core core).st ≠ 6) (fun s =>
      (((s.raise (pgCore core) 1).engineStart (pgCore core) 0).modHdr (pgCore core) (fun h =>
        { h with resetCtx := (s.core core).owner })).sweepAfterReset (pgCore core)))

/-- The resets. ENGINE_RESET, and its end; HANG_WATCHDOG counts the expiry and resets the engine; the reset watchdog after 1 ms turns
a core's reset into one of the compute part, and another engine's into one of the package; COMPUTE_PART_RESET and its end; the
watchdogs of the compute part's reset after 100 ms, of a control processor (a second expiry within 60 s resets the package), of
management, which closes the connections with all they asked for, and of security; PACKAGE_RESET; BOOT_COMPLETE, which waits for
fresh values (R350, R379, R383, R384, R407). -/
def Obligations.ResetCommands : Prop :=
  (∀ page reason : Nat, reason < 3 → Gives (.engineReset · page reason) (fun s => s.live = true)
    (fun s => (s.engineStart page reason).sweepAfterReset page))
  ∧ (∀ page : Nat, Gives (.engineResetDone · page) (fun s => s.running = true ∧ (s.hdr page).reset = true) (fun s =>
    let u := (List.range 64).foldl (fun u c => u.wakeData c) (s.engineEnd page).windowResume
    match pageOf page with | .core c => u.sweepPast c c | _ => u))
  ∧ (∀ page : Nat, Gives (.hangWatchdog · page) (fun s => s.live = true ∧ engineOf (pageOf page) = true
      ∧ s.present (pageOf page) = true ∧ (s.hdr page).reset = false ∧ s.pwr.hold = false) (fun s =>
    ((s.setHdr page { s.hdr page with
      expiries := satAdd 16 (s.hdr page).expiries 1
      longest := max (s.hdr page).longest (min (s.hdr page).hangMs 65535) }).engineStart page 1).sweepAfterReset page))
  ∧ (∀ core : Nat, core < 80 → Gives (.engineResetWatchdog · (pgCore core)) (fun s => s.running = true
      ∧ (s.hdr (pgCore core)).reset = true ∧ (s.hdr (pgCore core)).resetAt + 1000000 ≤ s.clk.now) (fun s =>
    let u := s.setHdr (pgCore core) { s.hdr (pgCore core) with expiries := satAdd 16 (s.hdr (pgCore core)).expiries 1 }
    (u.setHdr (pgCore core) { u.hdr (pgCore core) with reset := false }).cpStart causeEngineWatchdog))
  ∧ (∀ cause : Nat, cause < 256 → Gives (.computePartReset · cause) (fun s => s.running = true) (fun s => s.cpStart cause))
  ∧ Gives .computePartResetDone (fun s => s.ras.cpActive = true) (fun s =>
    if s.cpDone.resume.ras.sweep then s.cpDone.resume.sweepFrom s.cpDone.resume.ras.sweepCore else s.cpDone.resume)
  ∧ (∀ fn value : Nat, Gives (.cpReset · fn value) (fun s => Opened s fn pgRas)
      (fun s => (s.access fn pgRas).writeResetCtrl value))
  ∧ (∀ fn value : Nat, bit value 0 = true → Gives (.cpReset · fn value) (fun s => Opened s fn pgRas)
      (fun s => (s.access fn pgRas).cpStart causePf0))
  ∧ Gives .cpResetWatchdog (fun s => s.ras.cpActive = true ∧ s.ras.cpAt + 100000000 ≤ s.clk.now)
    (fun s => s.packageReset causeCpWatchdog)
  ∧ (∀ cp : Nat, cp < 16 → Gives (.controlProcessorWatchdog · cp) (fun s => s.live = true ∧ (s.cp cp).halt = false
      ∧ ∃ a ∈ (s.cp cp).expired, s.clk.now < a + 60000000000) (fun s => s.packageReset causeProcessor))
  ∧ (∀ cp : Nat, cp < 16 → Gives (.controlProcessorWatchdog · cp) (fun s => s.live = true ∧ (s.cp cp).halt = false
      ∧ ∀ a ∈ (s.cp cp).expired, a + 60000000000 ≤ s.clk.now) (fun s =>
    (s.setCp cp { s.cp cp with expired := [s.clk.now] }).loseServices cp))
  ∧ Gives .mgmtWatchdog (fun s => s.running = true) (fun s =>
    { s with
      mgmt := { s.mgmt with conns := [], held := s.mgmt.held.filter (fun p => p.1.isNone), line := [] }
      sec := { s.sec with
        waits := s.sec.waits.filter (fun w => match w.2 with | .domain _ | .lifecycle _ => false | _ => true) } })
  ∧ Gives .securityWatchdog (fun s => s.running = true) (fun s => s.packageReset causeProcessor)
  ∧ (∀ cause : Nat, cause < 256 → Gives (.packageReset · cause)
      (fun s => s.powered = true ∧ s.boot ≠ .standby ∧ s.boot ≠ .tripHeld) (fun s => s.packageReset cause))
  ∧ Gives .bootComplete (fun s => s.boot = .booting ∧ s.pins.modResetN = true ∧ s.resetOver = true ∧ s.fw.boot = none)
    (fun s => (State.railsBack { s with boot := .recovery } (fun r => decide (r ≠ 14))).linkTrains)
  ∧ (∀ f : Firmware, Reaches .bootComplete
      (fun s => s.boot = .booting ∧ s.pins.modResetN = true ∧ s.resetOver = true ∧ s.fw.boot = some f ∧ s.sec.trngOk = true)
      (fun s u =>
      u.boot = .running ∧ u.fw = f ∧ u.mem.reserveKey = s.sec.nextSecret + 1 ∧ u.pins.tripAlert = false
      ∧ s.sec.reseeds + 1 ≤ u.sec.reseeds ∧ (s.mgmt.held = [] → u.sec.reseeds = s.secret.2.secret.2.sec.reseeds + 1)
      ∧ ∀ r < 16, r ≠ 14 → (u.rail r).resetLevel = false))
  ∧ (∀ f : Firmware, Gives .bootComplete (fun s => s.boot = .booting ∧ s.pins.modResetN = true ∧ s.resetOver = true
        ∧ s.fw.boot = some f ∧ s.sec.trngOk = false) (fun s => s.waitFresh .boot))

/-! ### Registers, the Oliastor service, debug, the test port -/

/-- Register accesses. A write of an aligned 32-bit register of a page that is open to the function is applied with the value modulo
2^32; LO_READ_LATCH and every other host read answers the register's value (R404); HIST_CLEAR, PC_CLEAR and PT_ARM; OBS_LATCH
quantises the counts (R345); EPOCH_END keeps the epoch's values in their steps (R346; the throttled eighths those measured, no fewer
than were throttled here, log 117). -/
def Obligations.RegisterCommands : Prop :=
  (∀ fn page off value : Nat, off % 4 = 0 → off < 4096 → Gives (.registerWrite · fn page off value)
      (fun s => (s.access fn page).mayWrite fn page off = true ∧ (s.access fn page).opens fn page = true)
      (fun s => (s.access fn page).applyWrite fn page off (value % 2 ^ 32)))
  ∧ (∀ fn page off value : Nat, off % 4 = 0 → off < 4096 → Gives (.hiWriteCommit · fn page off value)
      (fun s => (s.access fn page).mayWrite fn page off = true ∧ (s.access fn page).opens fn page = true)
      (fun s => (s.access fn page).applyWrite fn page off (value % 2 ^ 32)))
  ∧ (∀ fn value : Nat, Gives (.registerWrite · fn pgReduce 0x44 value) (fun s => Opened s fn pgReduce) (fun s =>
      { s.access fn pgReduce with fab := { (s.access fn pgReduce).fab with
        guard := inRange 1 4095 (s.access fn pgReduce).fab.guard (sl (value % 2 ^ 32) 11 0) } }))
  ∧ (∀ fn slot value : Nat, slot < 64 → Gives (.hiWriteCommit · fn (pgCtx slot) 0x4C value) (fun s => CtxOpened s fn slot) (fun s =>
      let w := (s.access fn (pgCtx slot)).takeLo fn (pgCtx slot) 0x4C ((s.access fn (pgCtx slot)).ctx slot).recAddr (value % 2 ^ 32)
      w.2.modCtx slot (fun x => { x with recAddr := keep w.1 41 7 })))
  ∧ (∀ fn page value : Nat,
      Gives (.irqStatClear · fn page value) (fun s => (s.access fn page).mayWrite fn page 0x10 = true
          ∧ (s.access fn page).reaches fn page = true ∧ s.live = true)
        (fun s => (s.access fn page).clearStat page (value % 2 ^ 32))
      ∧ Gives (.irqSet · fn page value) (fun s => (s.access fn page).mayWrite fn page 0x18 = true
          ∧ (s.access fn page).opens fn page = true)
        (fun s => (s.access fn page).raise page (value % 2 ^ 32))
      ∧ Gives (.errFirstClear · fn page value) (fun s => (s.access fn page).mayWrite fn page 0x20 = true
          ∧ (s.access fn page).opens fn page = true)
        (fun s => if bit value 31 then (s.access fn page).modHdr page (fun h =>
          { h with errValid := false, errCtx := none, errInfo := 0 }) else s.access fn page))
  ∧ (∀ page off : Nat, off % 4 = 0 → off < 4096 → page < 0x4000 → Gives (.loReadLatch · 0 page off)
      (fun s => s.hostUp = true) (fun s => (s.hostRead 0 page off).2.emit (.reg 0 (s.hostRead 0 page off).1)))
  ∧ (∀ fn : Nat, Gives (.histClear · fn) (fun s => Opened s fn pgNumeric)
      (fun s => { s.access fn pgNumeric with num := { s.num with hist := [] } }))
  ∧ (∀ fn value : Nat, Gives (.pcClear · fn value) (fun s => Opened s fn pgPerf)
      (fun s => (s.access fn pgPerf).writePcCtrl value))
  ∧ (∀ fn value : Nat, bit value 1 = true → Gives (.pcClear · fn value) (fun s => Opened s fn pgPerf) (fun s =>
      let u := s.access fn pgPerf
      { u with test := { u.test with
        freeze := bit value 0
        pcs := (u.test.pcs.map (fun (p : Nat × Pc) => (p.1, { p.2 with val := 0, open_ := p.2.inexact }))).filter (fun p =>
          decide (p.2 ≠ {})) } }))
  ∧ (∀ fn value : Nat, Gives (.ptArm · fn value) (fun s => Opened s fn pgPerturb)
      (fun s => (s.access fn pgPerturb).writePtArm value))
  ∧ (∀ fn value : Nat, bit value 0 = true → Gives (.ptArm · fn value)
      (fun s => Opened s fn pgPerturb ∧ (s.access fn pgPerturb).test.arm = false ∧ (s.access fn pgPerturb).test.force = false)
      (fun s =>
        let u := s.access fn pgPerturb
        ({ u with test := { u.test with arm := true, arms := satAdd 16 u.test.arms 1 } }.attach).applyForce))
  ∧ Gives .obsLatch (fun s => s.running = true) (fun s =>
      { s.charge with ctxs := s.charge.ctxs.map (fun (p : Nat × Ctx) =>
        let n := fun (k : Nat) => if k = 7 then p.2.time / 1000 else if k = 8 then s.charge.sprigAll p.1 else tget 0 p.2.obs k
        (p.1, { p.2 with obsLatch := (List.range 9).foldl (fun m k => tput 0 m k (quantised (n k))) [] })) })
  ∧ (∀ watts temp throttle : Nat, Gives (.epochEnd · watts temp throttle) (fun s => s.running = true) (fun s =>
      { s with epoch := {
        number := (s.epoch.number + 1) % 256
        throttle := min (max throttle (8 * (s.epoch.ns + (match s.epoch.since with | some a => s.clk.now - a | none => 0)) / 100000000)) 8
        temp := min temp 255, power := min (watts / 25) 255, since := s.epoch.since.map (fun _ => s.clk.now) } }))

/-- Reads of a 64-bit pair (R404): a read of the low half latches the high half as it is then for the reading function, its next
read of the high half answers the latched value, and any other access of the page by that function drops what was latched. -/
def Obligations.LowReadLatchesTheHighHalf : Prop :=
  (∀ (s : State) (fn page off : Nat), isLo (pageOf page) off = true → s.present (pageOf page) = true →
      s.pcie.latch.find? (fun p => p.1 = (fn, page) && p.2.1 = off) = none →
      ∃ hi, hi = (((s.access fn page).readReg page off).2.readReg page (off + 4)).1
        ∧ ((s.hostRead fn page off).2.hostRead fn page (off + 4)).1 = hi)
  ∧ ∀ (s : State) (fn page : Nat), (s.access fn page).pcie.latch.find? (fun p => p.1 = (fn, page)) = none

/-- The first error of a page (R409): while one is held, later errors only add to the count; the first of classes 1 to 7 after
it was cleared is latched with its information and its context; an error of class 0 changes nothing here. -/
def Obligations.FirstErrorIsLatched : Prop :=
  (∀ (s : State) (page code info : Nat) (ctx : Option (Nat × Nat)), s.latchErr page 0 code ctx info = s)
  ∧ ∀ (s : State) (page cls code info : Nat) (ctx : Option (Nat × Nat)), cls ≠ 0 →
    (∀ p, p ≠ page → (s.latchErr page cls code ctx info).hdr p = s.hdr p)
    ∧ ((s.hdr page).errValid = true → (s.latchErr page cls code ctx info).hdr page =
        { s.hdr page with errCount := satAdd 32 (s.hdr page).errCount 1 })
    ∧ ((s.hdr page).errValid = false → (s.latchErr page cls code ctx info).hdr page =
        { s.hdr page with
          errValid := true, errClass := cls, errCode := code, errCtx := ctx, errInfo := info % 2 ^ 32
          errCount := satAdd 32 (s.hdr page).errCount 1 })

/-- Oliastor, the functions of every role and of the administrator of operations. OLIASTOR_CONNECT opens a connection for an accepted
certificate; GET_STATUS, GET_HALLMARK, SUBSCRIBE, READ_PAGE answer any role; ACK_EVENT marks a record of the log, COMMIT commits
the running firmware, DISCARD_STAGED drops what is staged, LASER_RELEASE, QUENCH_CONTEXT, ANNEAL, SET_BAR4 (R372). -/
def Obligations.OliastorOperations : Prop :=
  (∀ cert : ClientCert, Gives (.oliastorConnect · cert) (fun s => s.accepts cert = true) (fun s =>
      { s with mgmt := { s.mgmt with
        conns := s.mgmt.conns ++ [{ id := s.mgmt.nextConn, role := cert.role.getD .monitor, anchor := cert.anchor }]
        nextConn := s.mgmt.nextConn + 1 } }))
  ∧ (∀ msg : Call, Gives (.getStatus · msg) (fun s => Serves s msg .all) (fun s => s.reply msg resOk s.statusBytes))
  ∧ (∀ (msg : Call) (req : HallmarkRequest), Gives (.getHallmark · msg req)
      (fun s => Serves s msg .all ∧ s.signs = true ∧ s.fw.act = none ∧ s.running = true) (fun s =>
      (s.hallmark req.nonce req.report req.slot).2.reply msg resOk
        ((s.hallmark req.nonce req.report req.slot).1 ++ s.company)))
  ∧ (∀ msg : Call, Gives (.subscribe · msg) (fun s => Serves s msg .all) (fun s =>
      { s with mgmt := { s.mgmt with conns := s.mgmt.conns.map (fun (c : Conn) =>
        if c.id = msg.conn then { c with sub := true } else c) } }.respond msg resOk))
  ∧ (∀ (msg : Call) (seq : Nat), Gives (.ackEvent · msg seq)
      (fun s => Serves s msg .admin ∧ ∃ r ∈ s.ras.log, r.seq = seq) (fun s =>
      { s with ras := { s.ras with log := s.ras.log.map (fun (r : RasRec) =>
        if r.seq = seq then { r with acked := true } else r) } }.respond msg resOk))
  ∧ (∀ (conn : Call) (page : Nat), page < 65536 → mgmtPage page = none → Gives (.readPage · conn page)
      (fun s => Serves s conn .all)
      (fun s => (s.readPageFrom page 1024 0).2.reply conn resOk (s.readPageFrom page 1024 0).1))
  ∧ (∀ conn : Call, Gives (.commit · conn) (fun s => Serves s conn .admin ∧ s.fw.sec.running.secver ≤ 63
        ∧ s.fw.mgmt.running.secver ≤ 63 ∧ s.fw.ctrl.running.secver ≤ 63 ∧ s.fw.link.running.secver ≤ 63) (fun s =>
      { s with fw := { s.fw with
        sec := s.fw.sec.commit, mgmt := s.fw.mgmt.commit, ctrl := s.fw.ctrl.commit, link := s.fw.link.commit
        } }.respond conn resOk))
  ∧ (∀ conn : Call, Gives (.discardStaged · conn) (fun s => Serves s conn .admin) (fun s =>
      { s with fw := { s.fw with
        sec := s.fw.sec.discard, mgmt := s.fw.mgmt.discard, ctrl := s.fw.ctrl.discard, link := s.fw.link.discard
        } }.respond conn resOk))
  ∧ (∀ (conn : Call) (unit : Nat), unit < 2 → Gives (.laserRelease · conn unit)
      (fun s => Serves s conn .admin ∧ (s.laser unit).present = true) (fun s =>
      (s.pinLight.setLaser unit { s.pinLight.laser unit with released := true }).shiftLight.respond conn resOk))
  ∧ (∀ (conn : Call) (slot : Nat), slot < 64 → Gives (.quenchContext · conn slot) (fun s => Serves s conn .admin)
      (fun s => (s.quench slot).respond conn resOk))
  ∧ (∀ (conn : Call) (slot range : Nat), slot < 64 → range < 8 → Gives (.anneal · conn slot range) (fun s => Serves s conn .admin)
      (fun s => (s.queueAnneal slot range).respond conn resOk))
  ∧ (∀ (conn : Call) (enable : Bool), Gives (.setBar4 · conn enable) (fun s => Serves s conn .admin)
      (fun s => { s with pcie := { s.pcie with bar4Next := enable } }.respond conn resOk))

/-- Oliastor, the firmware, the life cycle and the fabric. STAGE_IMAGE loads the inactive bank and answers the signature's and the
rollback's verdict; ACTIVATE saves every core and starts, ACTIVATION_COMPLETE swaps the banks and quenches contexts whose charter
does not permit the new firmware, ACTIVATION_FAIL keeps the old; SET_LIFECYCLE waits for a package reset; SET_ANCHOR, DOMAIN_CREATE,
DOMAIN_JOIN, SET_ALLOWLIST, SET_MODULE_ID, ROUTE_WRITE, TIME_TREE, PEER_NOTICE (R353, R366 to R368, R372). -/
def Obligations.OliastorAdministration : Prop :=
  (∀ (conn : Call) (image : Image), Gives (.stageImage · conn image)
      (fun s => Serves s conn .admin ∧ s.fw.act = none ∧ (s.fw.comp image.comp).complete image = false) (fun s =>
      { s with fw := s.fw.setComp image.comp ((s.fw.comp image.comp).part image) }.respond conn resOk))
  ∧ (∀ (conn : Call) (image : Image), Gives (.stageImage · conn image)
      (fun s => Serves s conn .admin ∧ s.fw.act = none ∧ (s.fw.comp image.comp).complete image = true) (fun s =>
      let x := s.fw.comp image.comp
      let r := if !image.sigOk then resSignature else if image.secver < x.fuse then resRollback else resOk
      { s with fw := s.fw.setComp image.comp (x.load
        { secver := image.secver, build := image.build, digest := image.digest } (r = resOk)) }.respond conn r))
  ∧ (∀ conn : Call, Gives (.activate · conn) (fun s => Serves s conn .admin ∧ s.fw.act = none
        ∧ (s.fw.mgmt.staged = true ∨ s.fw.ctrl.staged = true)) (fun s =>
      let u := (s.releaseCps.coreList.foldl (fun u k => u.saveCore k) s.releaseCps).tidyCores
      { u with fw := { u.fw with act := some u.clk.now } }.respond conn resOk))
  ∧ Gives .activationComplete (fun s => s.running = true ∧ ∃ t0 : Nat, s.fw.act = some t0 ∧ s.clk.now ≤ t0 + 200000000) (fun s =>
      let u := { s with fw := { s.fw with mgmt := s.fw.mgmt.swap, ctrl := s.fw.ctrl.swap, lastOk := true } }
      ((List.range 64).foldl (fun v c => match (v.ctx c).charter with
        | some ch => if ch.touchmarks.contains u.fw.composite then v else v.quench c
        | none => v) u).endActivation)
  ∧ Gives .activationFail (fun s => s.running = true ∧ ∃ t0 : Nat, s.fw.act = some t0 ∧ t0 + 200000000 ≤ s.clk.now) (fun s =>
      { s with fw := { s.fw with failed := true, lastOk := false } }.endActivation)
  ∧ (∀ (conn : Call) (anchor : Nat) (c : Conn) (dest : Lifecycle), dest = .returned ∨ dest = .retired → Gives (.setLifecycle · conn dest anchor)
      (fun s => s.conn conn = some c ∧ c.role = .admin ∧ s.fw.act = none ∧ s.sec.lifecycle = .deployed ∧ s.allFree = true)
      (fun s => { s with sec := { s.sec with pending := some dest } }.respond conn resOk))
  ∧ (∀ (conn : Call) (anchor : Nat) (c : Conn), Gives (.setLifecycle · conn .deployed anchor)
      (fun s => s.conn conn = some c ∧ s.fw.act = none ∧ s.sec.lifecycle = .provisioned ∧ s.sec.trngOk = true) (fun s =>
      let u := s.secret.2
      ({ u with sec := { u.sec with
        lifecycle := .deployed, root := some s.secret.1, certs := u.sec.certs ++ [({ state := .deployed, root := s.secret.1 } : IdCert)], anchor := some anchor
        } }.respond conn resOk).closeConns (fun _ => false)))
  ∧ (∀ (conn : Call) (anchor : Nat) (c : Conn) (dest : Lifecycle), Gives (.setLifecycle · conn dest anchor)
      (fun s => s.conn conn = some c ∧ c.role ≠ .admin ∧ s.sec.lifecycle = .deployed) (fun s => s.respond conn resDenied))
  ∧ (∀ (conn : Call) (anchor : Nat), Gives (.setAnchor · conn anchor) (fun s => Serves s conn .admin) (fun s =>
      let u := s.respond conn resOk
      State.closeConns { u with sec := { u.sec with anchor := some anchor } } (fun c => c.anchor = anchor)))
  ∧ (∀ (conn : Call) (anchor : Nat), Reaches (.setAnchor · conn anchor) (fun s => Serves s conn .admin) (fun s u =>
      u.sec.anchor = some anchor ∧ u.mgmt.conns = s.mgmt.conns.filter (fun c => c.anchor = anchor)))
  ∧ (∀ conn : Call, Gives (.domainCreate · conn) (fun s => Serves s conn .admin ∧ s.sec.domain = none
        ∧ s.sec.lifecycle = .deployed ∧ s.sec.trngOk = true) (fun s =>
      { s.secret.2 with sec := { s.secret.2.sec with
        domain := some (Config.fresh 4 s.secret.1 % 2 ^ 384) } }.joinsNone.respond conn resOk))
  ∧ (∀ (conn : Call) (port : Nat), Gives (.domainJoin · conn port) (fun s => Serves s conn .admin ∧ port < s.ident.variant.ports
        ∧ s.sec.domain = none ∧ s.sec.lifecycle = .deployed ∧ (s.port port).st ≠ 3) (fun s =>
      (s.modPort port (fun p => { p with joinReq := true, link := { p.link with join := true } })).respond conn resOk))
  ∧ (∀ (conn : Call) (composites : List Nat), composites.length ≤ 16 → Gives (.setAllowlist · conn composites)
      (fun s => Serves s conn .admin) (fun s => { s with mgmt := { s.mgmt with allow := composites } }.respond conn resOk))
  ∧ (∀ (conn : Call) (ident : Nat), ident < 65536 → Gives (.setModuleId · conn ident) (fun s => Serves s conn .fabric)
      (fun s => { s with fab := { s.fab with moduleId := ident } }.respond conn resOk))
  ∧ (∀ (conn : Call) (entries : List RouteEntry), (∀ e ∈ entries, e.index < 16384 ∧ e.ports.length ≤ 4) →
      Gives (.routeWrite · conn entries)
        (fun s => Serves s conn .fabric ∧ ∀ e ∈ entries, ∀ p ∈ e.ports, p < s.ident.variant.ports) (fun s =>
        let table := entries.foldl (fun m (e : RouteEntry) => tput [] m e.index e.ports) s.fab.table
        let w := { s with fab := { s.fab with table := table } }
        ((w.noteRoutes s).raise pgRoute 2).respond conn resOk))
  ∧ (∀ (conn : Call) (port : Nat), Gives (.timeTree · conn false (some port)) (fun s => Serves s conn .fabric
        ∧ port < s.ident.variant.ports ∧ s.clk.locked = false) (fun s =>
      { s.draw.2 with clk := { s.clk with
        root := false, parent := some port, free := false, locked := false, stepNext := true } }.respond conn resOk))
  ∧ (∀ (conn : Call) (port : Nat), Gives (.timeTree · conn false (some port)) (fun s => Serves s conn .fabric
        ∧ port < s.ident.variant.ports ∧ s.clk.locked = true ∧ s.clk.parent = some port ∧ (s.port port).carries = true)
      (fun s => { s.draw.2 with clk := { s.clk with root := false, free := false } }.respond conn resOk))
  ∧ (∀ (conn : Call) (port : Nat), Gives (.timeTree · conn false (some port)) (fun s => Serves s conn .fabric
        ∧ port < s.ident.variant.ports ∧ s.clk.locked = true ∧ (s.port port).carries = false) (fun s =>
      ({ s.draw.2 with clk := { s.clk with
        root := false, parent := some port, free := false, locked := false, stepNext := true } }.raise pgRoute 1).respond conn
          resOk))
  ∧ (∀ (conn : Call) (job : Nat) (positions : List Nat), Gives (.peerNotice · conn job positions .cpResetStart)
      (fun s => Serves s conn .fabric) (fun s =>
      (((s.slotsOfJob job).flatMap (fun c => positions.filterMap (fun p =>
        ((s.ranks c 0)[p]?).map (fun m => (c, m))))).foldl (fun u x => u.notice .cpResetStart x.1 x.2) s).respond conn resOk))

/-- Debug and the test port. CP_HALT and CP_STEP write the control register of the debug layer, CP_BREAKPOINT_HIT stops a control
processor, WL_BREAKPOINT_HIT holds the entry it matches, WL_RESUME lets it go, the frame view reads and writes; EXTEST,
SAMPLE_PRELOAD, IDCODE; DAL_READ, DAL_WRITE, DAL_OPEN (it counts as an attachment), DAL_CLOSE and the two factory
operations answer in the data register (R416 to R428). -/
def Obligations.DebugCommands : Prop :=
  (∀ value : Nat, Gives (.cpHalt · 65 value) (fun s => (s.access 65 pgDebug).debugOpens 65 = true)
      (fun s => (s.access 65 pgDebug).writeCpCtrl value)
    ∧ Gives (.cpStep · 65 value) (fun s => (s.access 65 pgDebug).debugOpens 65 = true)
      (fun s => (s.access 65 pgDebug).writeCpCtrl value))
  ∧ (∀ value : Nat, bit value 31 = true → bit value 30 = false → Gives (.cpHalt · 65 value)
      (fun s => (s.access 65 pgDebug).debugOpens 65 = true ∧ ((s.access 65 pgDebug).cp (sl value 3 0)).halt = false) (fun s =>
      let u := s.access 65 pgDebug
      let v := State.draw { u with dbg := { u.dbg with cpSel := sl value 3 0 } }
      (v.2.setCp (sl value 3 0) { v.2.cp (sl value 3 0) with halt := true, pc := v.1 % 2 ^ 24 }).raise pgDebug 2))
  ∧ (∀ value : Nat, bit value 31 = true → bit value 30 = true → Gives (.cpStep · 65 value)
      (fun s => (s.access 65 pgDebug).debugOpens 65 = true ∧ ((s.access 65 pgDebug).cp (sl value 3 0)).halt = true) (fun s =>
      let u := s.access 65 pgDebug
      let v := State.draw { u with dbg := { u.dbg with cpSel := sl value 3 0 } }
      let w := v.2.setCp (sl value 3 0) { v.2.cp (sl value 3 0) with words := [] }
      (w.setCp (sl value 3 0) { w.cp (sl value 3 0) with halt := true, pc := v.1 % 2 ^ 24 }).raise pgDebug 2))
  ∧ (∀ cp bp b : Nat, cp < 16 → bit b 0 = true → Gives (.cpBreakpointHit · cp bp)
      (fun s => (s.cp cp).bps[bp]? = some b ∧ s.live = true ∧ (s.cp cp).halt = false)
      (fun s => (s.setCp cp { s.cp cp with halt := true, pc := b - b % 4 }).raise pgDebug 2))
  ∧ (∀ (q : QRef) (bp : Nat) (e : Entry), bp < 4 → Gives (.wlBreakpointHit · q bp) (fun s => (s.queue q).entry = some e
        ∧ s.serves q.slot = true ∧ s.inPeriod q = true ∧ (s.queue q).phase = .ready ∧ (s.queue q).begun = false
        ∧ s.breakHits q e bp = true) (fun s =>
      ((s.setQueue q { s.queue q with phase := .held bp }).setWl bp { s.wl bp with
        held := some q, tag := if (s.wl bp).next.isSome then e.tag else (s.wl bp).tag, next := none }).raise pgDebug 1))
  ∧ (∀ bp : Nat, bp < 4 → Gives (.wlResume · 65 bp) (fun s => (s.access 65 pgDebug).debugOpens 65 = true)
      (fun s => (s.access 65 pgDebug).wlResume bp))
  ∧ (∀ (bp : Nat) (q : QRef) (u : State), bp < 4 → Gives (.wlResume · 65 bp)
      (fun s => u = s.access 65 pgDebug ∧ u.debugOpens 65 = true ∧ (u.wl bp).held = some q ∧ (u.queue q).phase = .held bp)
      (fun _ => ((u.setWl bp { u.wl bp with
        held := none
        next := if (u.wl bp).step && (u.wl bp).enable then ((u.queue q).stack.head?.map (·.addr)).map (fun a => (q, a)) else none
        }).setQueue q { u.queue q with phase := .ready }).start q))
  ∧ Gives (.frameViewRead · 65) (fun s => (s.access 65 pgDebug).debugOpens 65 = true) (fun s =>
      let u := s.access 65 pgDebug
      { u with dbg := { u.dbg with fvWrite := false } }.viewRead)
  ∧ (∀ (u v : State) (l : Line), Gives (.frameViewRead · 65) (fun s => u = s.access 65 pgDebug ∧ u.debugOpens 65 = true
        ∧ v = State.view { u with dbg := { u.dbg with fvWrite := false } } (u.dbg.fvAddr / 128 / 512)
        ∧ v.line (u.dbg.fvAddr / 128) = some l) (fun _ =>
      { u with dbg := { u.dbg with
        fvWrite := false, fvValid := true, fvReplay := l.replay
        fvData := (l.raw.getD (v.lineStored (u.dbg.fvAddr / 128) l)).1, fvTag := (l.raw.getD (v.lineStored (u.dbg.fvAddr / 128) l)).2
        fvPoison := l.poison, fvMinor := if l.replay then v.minor (u.dbg.fvAddr / 128) else 0 } }))
  ∧ Gives (.frameViewWrite · 65) (fun s => (s.access 65 pgDebug).debugOpens 65 = true) (fun s =>
      let u := s.access 65 pgDebug
      { u with dbg := { u.dbg with fvWrite := true } }.viewWrite)
  ∧ (∀ (u v : State) (l : Line), Gives (.frameViewWrite · 65) (fun s => u = s.access 65 pgDebug ∧ u.debugOpens 65 = true
        ∧ v = { u with dbg := { u.dbg with fvWrite := true } } ∧ v.line (v.dbg.fvAddr / 128) = some l
        ∧ v.migrating (v.dbg.fvAddr / 128 / 512) = none) (fun _ =>
      let new := (bslice v.dbg.fvData 0 128, v.dbg.fvTag)
      let w := v.setLine (v.dbg.fvAddr / 128) { l with
        raw := if new = v.lineStored (v.dbg.fvAddr / 128) l then none else some new, poison := v.dbg.fvPoison }
      { w with dbg := { w.dbg with fvValid := true, fvReplay := l.replay } }))
  ∧ (∀ bits : Nat, Gives (.extest · bits) (fun s => s.powered = true) (fun s =>
      { s.sample bits with dbg := { (s.sample bits).dbg with driven := !s.pins.modResetN } }))
  ∧ (∀ bits : Nat, Gives (.samplePreload · bits) (fun s => s.powered = true) (fun s => s.sample bits))
  ∧ Gives .idcode (fun s => s.powered = true) (fun s => s.noDrive.emit (.tap 0x14B2156F))
  ∧ (∀ addr data : Nat, addr < 2 ^ 32 →
      Gives (.dalRead · addr) (fun s => s.powered = true) (fun s =>
        let r := (s.noDrive.emit (.tap (dalBits s.noDrive.dbg.dal))).dalReadAt addr
        { r.2 with dbg := { r.2.dbg with dal := r.1 } })
      ∧ Gives (.dalWrite · addr data) (fun s => s.powered = true) (fun s =>
        let r := (s.noDrive.emit (.tap (dalBits s.noDrive.dbg.dal))).dalWriteAt addr data
        { r.2 with dbg := { r.2.dbg with dal := r.1 } }))
  ∧ Reaches .dalOpen (fun s => s.powered = true) (fun s u => u.dbg.session = true ∧ u.dbg.dal = (statusOk, 0, 0)
      ∧ u.sec.debugBoot = wrapAdd 32 s.sec.debugBoot 1 ∧ u.sec.debugLife = wrapAdd 32 s.sec.debugLife 1
      ∧ (s.sec.debugBoot = 0 → u.sec.debugFirst = s.clk.time))
  ∧ Reaches .dalClose (fun s => s.powered = true) (fun _ u => u.dbg.session = false ∧ u.dbg.dal = (statusOk, 0, 0))
  ∧ Reaches (.dalFactoryOp · .provision true) (fun s => s.powered = true ∧ s.sec.lifecycle = .blank ∧ s.sec.fuse = false
      ∧ s.sec.latch = false ∧ s.sec.trngOk = true) (fun _ u => u.sec.lifecycle = .provisioned ∧ (∃ r, u.sec.root = some r)
        ∧ u.dbg.dal = (statusOk, 0, 0))
  ∧ Reaches (.dalFactoryOp · .retire true) (fun s => s.powered = true ∧ s.sec.lifecycle ≠ .retired ∧ s.sec.fuse = true)
      (fun _ u => u.sec.lifecycle = .retired ∧ u.sec.root = none ∧ u.sec.certs = [] ∧ u.sec.domain = none
        ∧ u.sec.pending = none ∧ u.mem.tableKey = 0 ∧ u.mem.reserveKey = 0 ∧ ∀ p ∈ u.mem.keySlots, p.2 = 0)
  ∧ Reaches (.dalFactoryOp · .retire true) (fun s => s.powered = true ∧ s.hasContexts = true ∧ s.sec.fuse = false
      ∧ s.sec.latch = false ∧ s.boot ≠ .recovery ∧ s.allFree = true)
      (fun s u => u.sec.lifecycle = s.sec.lifecycle ∧ u.sec.pending = some .retired)
  ∧ (∀ op : FactoryOp, Reaches (.dalFactoryOp · op false) (fun s => s.powered = true)
      (fun s u => u.sec = s.sec ∧ u.dbg.dal = (statusDenied, 0, 0)))

/-! ### What holds of the whole machine -/

/-- The state after reset: no command waits, memory has its canonical form and lists nothing, no context, port or entry exists,
every page header is as its reset column says, the security controller meets its invariant. The life-cycle state is the model's
choice (log 4). -/
def Obligations.ResetState : Prop :=
  State.reset.pending = [] ∧ State.reset.mem = {} ∧ State.reset.mem.wf = true ∧ State.reset.sec.Shut ∧ State.reset.ctxs = []
  ∧ State.reset.ports = [] ∧ State.reset.buckets = [] ∧ State.reset.out = []
  ∧ (∀ p, State.reset.hdr p = {}) ∧ (∀ c, (State.reset.ctx c).state = 0 ∧ (State.reset.ctx c).gen = 0)

/-- Every step keeps the canonical form of memory, from every state that has it. -/
def Obligations.StepKeepsMemoryForm : Prop :=
  ∀ s u : State, s.mem.wf = true → step s = .next u → u.mem.wf = true

/-- Every step keeps the security controller's invariant (R351 to R353): a tampered or RETIRED module that holds no root and no
waiting transition goes on so, a blown fuse stays blown, and such a module's life-cycle state stays or becomes RETIRED. -/
def Obligations.StepKeepsTheTamperedModuleShut : Prop :=
  ∀ s u : State, step s = .next u → s.sec.Kept u.sec

/-- Every step takes exactly the front command from the queue; no command adds to the queue, changes the variant or the serial
number, or moves the interval clock back. -/
def Obligations.StepTakesOneCommand : Prop :=
  ∀ (c : Instr) (rest : List Instr) (s u : State), s.pending = c :: rest → step s = .next u →
    u.pending = rest ∧ u.ident.variant = s.ident.variant ∧ u.ident.serial = s.ident.serial ∧ s.clk.now ≤ u.clk.now

/-- A package reset (R382, R405) leaves no context, session, bucket, connection, page header or key, whatever the state, and keeps
the deployment root, the domain secret, the anchor and the fuses unless a life-cycle transition waited. -/
def Obligations.PackageResetLeaves : Prop :=
  ∀ (s : State) (cause : Nat),
    (s.packageReset cause).ctxs = [] ∧ (s.packageReset cause).ports = [] ∧ (s.packageReset cause).buckets = []
    ∧ (s.packageReset cause).mgmt.conns = [] ∧ (s.packageReset cause).mem = { host := s.mem.host }
    ∧ (∀ p, (s.packageReset cause).hdr p = {}) ∧ (s.packageReset cause).ras.bootCause = cause
    ∧ (s.packageReset cause).sec.fuse = s.sec.fuse ∧ (s.packageReset cause).lasers = s.lasers
    ∧ (s.sec.pending = none → (s.packageReset cause).sec.root = s.sec.root
        ∧ (s.packageReset cause).sec.domain = s.sec.domain ∧ (s.packageReset cause).sec.anchor = s.sec.anchor
        ∧ (s.packageReset cause).sec.lifecycle = s.sec.lifecycle)

/-- A module whose tamper fuse is blown (R352): CREATE has no effect on it but the latch that the access of the page lets go, it
brings up no port, it answers no Oliastor call and accepts no client, and it signs nothing. -/
def Obligations.TamperedModuleServesNothing : Prop :=
  ∀ s : State, s.sec.fuse = true →
    s.signs = false ∧ (∀ p, s.mayBringUp p = false) ∧ (∀ k, s.accepts k = false) ∧ (∀ n, s.conn n = none)
    ∧ (∀ t fn slot, exec (.create t fn slot) s = .next ((s.tick t).access fn (pgCtx slot)))
    ∧ (∀ (n : Call) (a : Allowed) (f : State → State), s.serve n a f = s)

/-- The key slots of a context (R304). When its slot becomes QUENCHED, by quench or by drain, every key slot it holds is zero; RELEASE
returns those key slots to the pool; a package reset zeroes every key slot and the reserve key; a boot replaces the reserve key by the
number of a fresh value. -/
def Obligations.KeySlotsOfAContext : Prop :=
  (∀ (t c : Nat) (s : State), ((s.tick t).ctx c).state = 2 → ∃ u, exec (.quenchDone t c) s = .next u ∧ (u.ctx c).state = 3
      ∧ ∀ k ∈ s.heldSlots c, tget 0 u.mem.keySlots k = 0)
  ∧ (∀ (t c : Nat) (s : State), ((s.tick t).ctx c).state = 4 → (∀ p ∈ ((s.tick t).ctx c).queues, p.2.dry = true) →
      ∃ u, exec (.drainComplete t c) s = .next u ∧ (u.ctx c).state = 3 ∧ ∀ k ∈ s.heldSlots c, tget 0 u.mem.keySlots k = 0)
  ∧ (∀ (s : State) (c : Nat), (s.ctx c).state = 3 → ((s.releaseSlot c).ctx c).state = 0
      ∧ (s.releaseSlot c).mem.keySlots = s.mem.keySlots.filter (fun p => !(s.heldSlots c).contains p.1))
  ∧ (∀ (s : State) (cause k : Nat), tget 0 (s.packageReset cause).mem.keySlots k = 0
      ∧ (s.packageReset cause).mem.reserveKey = 0)
  ∧ ∀ (t : Nat) (s : State) (f : Firmware), s.boot = .booting → s.pins.modResetN = true → s.pins.holdUntil ≤ max s.clk.now t →
      s.fw.boot = some f → s.sec.trngOk = true → ∃ u, exec (.bootComplete t) s = .next u ∧ u.mem.reserveKey = s.sec.nextSecret + 1 ∧ u.mem.tableKey = s.sec.nextSecret

/-- The test port (R417): EXTEST drives pins only while MOD_RESET_N is low, at any other time it acts as SAMPLE/PRELOAD, and the port
and the debug access layer answer whenever the input is on, whatever the boot state, the fuse and the life-cycle state. -/
def Obligations.TestPortOnStandbyPower : Prop :=
  (∀ (t bits : Nat) (s : State), s.powered = true → s.pins.modResetN = true →
      exec (.extest t bits) s = exec (.samplePreload t bits) s)
  ∧ (∀ (t bits : Nat) (s : State), s.powered = true →
      ∃ u, exec (.extest t bits) s = .next u ∧ u.dbg.driven = !s.pins.modResetN)
  ∧ (∀ (t addr : Nat) (s : State), s.powered = true →
      (∃ u, exec (.idcode t) s = .next u ∧ u.out = .tap 0x14B2156F :: s.out)
      ∧ ∃ u, exec (.dalRead t addr) s = .next u ∧ u.dbg.dal.2.1 = addr % 2 ^ 32)

/-! ### Device memory -/

/-- A write to device memory changes no byte outside the bytes it stores, whether it completes or stops (R314). -/
def Obligations.WriteTouchesOnlyItsBytes : Prop :=
  ∀ (s u : State) (key fa a : Nat) (replay : Bool) (d : Bytes) (e : Option Acc), s.physWrite key replay fa d = (u, e) →
    (a < fa ∨ fa + d.length ≤ a) → u.byteAt a = s.byteAt a

/-- What a completed write stored is what the same key instance and mode read back (R305, R310), where no frame it covers is
migrating: a write to one that is waits behind the migration (R189). -/
def Obligations.ReadReturnsWhatWasWritten : Prop :=
  ∀ (s u : State) (key fa : Nat) (replay : Bool) (d : Bytes), key ≠ 0 →
    (∀ m ∈ s.mem.migr, ∀ i, i < d.length → m.frame ≠ (fa + i) / 65536) →
    s.physWrite key replay fa d = (u, none) → u.physRead key replay fa d.length = .ok d

/-- A line reads only through the key instance and the mode that wrote it (R305), where no migration of its frame holds writes that
a read waits behind (R189): through any other it fails its tag. -/
def Obligations.LineReadsOnlyThroughItsWriter : Prop :=
  ∀ (s u : State) (key key' ln : Nat) (replay replay' : Bool) (d : Bytes), d.length = 128 → s.backing (ln / 512) ≠ none →
    (∀ m ∈ s.mem.migr, m.frame ≠ ln / 512) → s.lineWrite key replay (128 * ln) d = (u, none) → (replay' = true → u.counterFailed (ln / 128) = false) →
    (key' ≠ key ∨ replay' ≠ replay) → u.physRead key' replay' (128 * ln) 128 = .error (.tag (128 * ln))

/-- A write of part of a line (R314): when the line fails verification, nothing is stored, the line is poisoned and the access
ends as FAULT_TAG; when it verifies, the bytes are stored and the rest of the line stays as it was. -/
def Obligations.PartialWriteVerifiesFirst : Prop :=
  ∀ (s : State) (key fa : Nat) (replay : Bool) (d : Bytes) (l : Line), d.length < 128 → fa % 128 + d.length ≤ 128 →
    s.line (fa / 128) = some l → (replay = true → s.counterFailed (fa / 16384) = false
      ∧ fa / 16384 ∉ s.mem.readonly) →
    (s.checkLine key replay (fa / 128) ≠ none →
      s.lineWrite key replay fa d = (s.setLine (fa / 128) { l with poison := true }, some (.tag (fa / 128 * 128)))
      ∧ (Acc.tag (fa / 128 * 128)).status = .faultTag
      ∧ ∀ a, (s.setLine (fa / 128) { l with poison := true }).byteAt a = s.byteAt a)
    ∧ (s.checkLine key replay (fa / 128) = none → ∃ u, s.lineWrite key replay fa d = (u, none)
      ∧ ∀ a, a < fa ∨ fa + d.length ≤ a → u.byteAt a = s.byteAt a)

/-- Poisoned lines and failed tags (R315): a read of one ends as FAULT_TAG (where no migration of its frame holds writes that the read
waits behind, R189), and the entry that read it completes with that status and is not parked; a full write clears the poison and stores
the line; a partial write to it ends as FAULT_TAG. -/
def Obligations.PoisonedLines : Prop :=
  (∀ (s : State) (key ln : Nat) (replay : Bool) (l : Line), s.line ln = some l → (∀ m ∈ s.mem.migr, m.frame ≠ ln / 512) →
      (replay = true → s.counterFailed (ln / 128) = false) → (l.poison = true ∨ l.key ≠ key ∨ l.replay ≠ replay) →
      s.physRead key replay (128 * ln) 128 = .error (.tag (128 * ln)))
  ∧ (∀ (s : State) (q : QRef) (tag source fa : Nat) (back : Back),
      ((s.failEntry q tag source back (.tag fa)).queue q).phase = .done .faultTag)
  ∧ (∀ (s : State) (key ln : Nat) (replay : Bool) (d : Bytes) (l : Line), d.length = 128 → s.line ln = some l →
      l.poison = true → (replay = true → s.counterFailed (ln / 128) = false ∧ ln / 128 ∉ s.mem.readonly) →
      ∃ u, s.lineWrite key replay (128 * ln) d = (u, none) ∧ ∃ k, u.line ln = some k ∧ k.poison = false ∧ k.key = key)
  ∧ (∀ (s : State) (key fa : Nat) (replay : Bool) (d : Bytes) (l : Line), d.length < 128 → s.line (fa / 128) = some l →
      l.poison = true → (replay = true → s.counterFailed (fa / 16384) = false ∧ fa / 16384 ∉ s.mem.readonly) →
      (s.lineWrite key replay fa d).2 = some (.tag (fa / 128 * 128)))

/-- An operator whose stores succeed changes no byte of device memory outside the ranges its writes translate to and the writes that
migrations hold (R189), which a pin met on the way may bring to memory (R190). -/
def Obligations.OperatorsStoreOnlyTheirWrites : Prop :=
  ∀ (s u : State) (q : QRef) (e : Entry) (r : Done) (a : Nat), s.applyEff q.slot r.eff = (u, none) →
    (∀ p ∈ s.stores q.slot (s.writtenBy q.slot r.eff), a < p.1 ∨ p.1 + p.2 ≤ a) →
    (∀ m ∈ s.mem.migr, ∀ w ∈ m.held, a < w.fa ∨ w.fa + w.data.length ≤ a) →
    (u.computed q e r).byteAt a = s.byteAt a

/-- A translation (R251, R252): beyond 57 bits it faults and does not park; otherwise a translation to device memory lies in a
frame the module has, and keeps the offset in the 64 KiB page. -/
def Obligations.TranslationKeepsTheOffset : Prop :=
  (∀ (s : State) (c va : Nat) (write : Bool), 2 ^ 57 ≤ va → s.translate c va write = .error (.fault va 0 write false))
  ∧ ∀ (s : State) (c va : Nat) (write : Bool) (x : Xlat), s.translate c va write = .ok x →
    x.addr % 65536 = va % 65536 ∧ (x.host = false → x.addr / 65536 < s.frameCount)

/-- Rounding to a grid to nearest, ties to even (R101): the result times the step is within half a step of the value, and a
value half-way between two grid points goes to the even one. -/
def Obligations.NearestEven : Prop :=
  (∀ (m k : Nat) (e : Int), 2 * (rneGrid m e (e + k) * 2 ^ k - m) ≤ 2 ^ k ∧ 2 * (m - rneGrid m e (e + k) * 2 ^ k) ≤ 2 ^ k)
  ∧ (∀ (m k : Nat) (e : Int), 2 * (m % 2 ^ k) = 2 ^ k → rneGrid m e (e + k) % 2 = 0)
  ∧ ∀ (m k : Nat) (e : Int), rneGrid m e (e - k) = m * 2 ^ k

/-- The interrupts of a page other than a CTX page (R403, R408): raising sets its defined bits, and sends one message exactly when
the enabled value turns from zero to non-zero while the route is enabled; writing ones clears those bits, and sends one further
message when the enabled value is still non-zero. -/
def Obligations.PageInterrupts : Prop :=
  ∀ (s : State) (page v : Nat), s.present (pageOf page) = true → (∀ c, pageOf page ≠ .ctx c) →
    ((s.raise page v).hdr page = { s.hdr page with stat := (s.hdr page).stat ||| (v &&& irqMask (pageOf page)) }
      ∧ (s.raise page v).out = (if (s.hdr page).stat &&& s.irqEn page = 0
            ∧ ((s.hdr page).stat ||| (v &&& irqMask (pageOf page))) &&& s.irqEn page ≠ 0 ∧ bit (s.hdr page).route 31 = true
          then .msix 0 (512 + sl (s.hdr page).route 8 0) :: s.out else s.out))
    ∧ ((s.clearStat page v).hdr page = { s.hdr page with stat := (s.hdr page).stat - ((s.hdr page).stat &&& v) }
      ∧ (s.clearStat page v).out = (if ((s.hdr page).stat - ((s.hdr page).stat &&& v)) &&& s.irqEn page ≠ 0
            ∧ bit (s.hdr page).route 31 = true
          then .msix 0 (512 + sl (s.hdr page).route 8 0) :: s.out else s.out))

/-! ### The supply commands complete -/

/-- Each command of the rails, the regions, the temperature and the power measurement ends, wherever the spec has it act, in a next
state with its own effect. An excursion holds issue and counts; its end lets issue go once no rail is below its warning level (R389);
a rail at its reset level takes MOD_PWRGD low (R16) and resets what R388 names; a skew check pulls every outlier that is not drained
(R391); throttle, drain, limits and refresh follow R393 and end with their releases; power follows R394. -/
def Obligations.SupplyCommandsComplete : Prop :=
  (∀ (t rail mv : Nat) (s : State), s.powered = true → s.railPresent rail = true →
      ∃ u : State, exec (.railExcursion t rail mv) s = .next u ∧ (u.rail rail).st = 1 ∧ (u.rail rail).mv = mv
        ∧ ((s.rail rail).st ≠ 1 → u.pwr.hold = true ∧ (u.rail rail).excursions = satAdd 16 (s.rail rail).excursions 1))
  ∧ (∀ (t rail mv : Nat) (s : State), s.railPresent rail = true → (s.rail rail).st = 1 →
      ∃ u : State, exec (.railExcursionEnd t rail mv) s = .next u ∧ (u.rail rail).st = 0 ∧ (u.rail rail).mv = mv
        ∧ ((∀ r, r ≠ rail → (s.rail r).st ≠ 1) → u.pwr.hold = false)
        ∧ (s.running = true → ∃ x ∈ u.ras.log, x.code = 0x50))
  ∧ (∀ (t rail : Nat) (s : State), s.powered = true → s.railPresent rail = true →
      ∃ u : State, exec (.railResetLevel t rail) s = .next u ∧ u.pins.pwrgd = false
        ∧ (rail < 8 → u.ras.cpActive = true ∨ u.ras.bootCause = causeCpLimit)
        ∧ (rail = 14 → ∀ p < 32, (u.port p).st ≠ 3)
        ∧ (8 ≤ rail → rail ≠ 14 → u.ctxs = [] ∧ u.ras.bootCause = causeRail))
  ∧ (∀ (t : Nat) (s : State), ∃ u : State, exec (.photonicRailRecover t) s = .next u ∧ (u.rail 14).resetLevel = false)
  ∧ (∀ (t : Nat) (m : RegionMeasure) (s : State), s.running = true → m.region ∈ s.regions →
      ∃ u : State, exec (.skewCheck t [m]) s = .next u ∧ (u.region m.region).temp = m.temp
        ∧ ∀ v : State, v = s.setRegion m.region { s.region m.region with mhz := m.mhz, mv := m.mv, temp := m.temp } →
          ∀ p ∈ pairsOf v, ∀ k < 3, beyond (v.region p.1) (v.region p.2) k = true →
            (v.region (v.outlier k p.1 p.2)).drained = 0 → (u.region (v.outlier k p.1 p.2)).pulling.isSome = true)
  ∧ (∀ (t region : Nat) (p : Nat × Nat) (s : State), s.running = true → region ∈ s.regions → (s.region region).drained = 0 →
      (s.region region).pulling = some p → p.1 + 1000000 ≤ max s.clk.now t →
      ∃ u : State, exec (.skewDrain t region) s = .next u ∧ (u.region region).drained = 1
        ∧ (s.ras.sweep = false → ∃ x ∈ u.ras.log, x.code = 0x54))
  ∧ (∀ (t region : Nat) (s : State), s.running = true → region ∈ s.regions →
      ((s.region region).drained = 1 ∧ (∃ a : Nat, (s.region region).okAt = some a ∧ a + 100000000 ≤ max s.clk.now t)
        ∨ (s.region region).drained = 2 ∧ (s.region region).temp < 90) →
      ∃ u : State, exec (.regionRejoin t region) s = .next u ∧ (u.region region).drained = 0 ∧ ∃ x ∈ u.ras.log, x.code = 0x55)
  ∧ (∀ (t region temp : Nat) (s : State), s.running = true → region ∈ s.regions → 95 ≤ temp →
      ∃ u : State, exec (.thermalRegionThrottle t region temp) s = .next u ∧ (u.region region).throttle = true
        ∧ (u.region region).temp = temp)
  ∧ (∀ (t region temp : Nat) (s : State), s.running = true → region ∈ s.regions →
      ∃ u : State, exec (.thermalClockStep t region temp) s = .next u ∧ (u.region region).temp = temp
        ∧ (93 ≤ temp → (s.region region).throttle = true → (s.region region).drained ≠ 2 →
            (u.region region).mhz ≤ max 400 ((s.region region).mhz - 25)))
  ∧ (∀ (t region temp : Nat) (s : State), s.running = true → region ∈ s.regions → 105 ≤ temp → (s.region region).drained ≠ 2 →
      ∃ u : State, exec (.thermalRegionDrain t region temp) s = .next u ∧ (u.region region).drained = 2
        ∧ (u.region region).mhz = 400)
  ∧ (∀ (t temp : Nat) (s : State), s.running = true → 100 ≤ temp →
      ∃ u : State, exec (.thermalSysdieLimit t temp) s = .next u ∧ u.limit ≤ s.percent 80)
  ∧ (∀ (t stack temp : Nat) (s : State), s.running = true → stack < s.ident.variant.near → 95 ≤ temp →
      ∃ u : State, exec (.thermalStackAction t stack temp) s = .next u ∧ tget false u.pwr.refresh stack = true
        ∧ (105 ≤ temp → tget false u.pwr.halved stack = true))
  ∧ (∀ (t inlet outlet : Nat) (s : State), s.running = true → inlet + 15 < outlet ∨ 60 < outlet →
      ∃ u : State, exec (.thermalCoolantLimit t inlet outlet) s = .next u ∧ u.limit ≤ s.percent 60)
  ∧ (∀ (t inlet : Nat) (s : State), s.running = true → 40 < inlet →
      ∃ u : State, exec (.thermalInletLimit t inlet) s = .next u ∧ u.limit ≤ s.percent 80)
  ∧ (∀ (t region temp : Nat) (s : State), s.running = true → temp < 90 →
      (region ∈ s.regions → ∃ u : State, exec (.thermalRelease t (.region region temp)) s = .next u
        ∧ (u.region region).throttle = false)
      ∧ ((s.region region).drained = 2 → ∃ u : State, exec (.thermalRelease t (.regionDrain region temp)) s = .next u
        ∧ (u.region region).drained = 0))
  ∧ (∀ (t temp : Nat) (s : State), 115 ≤ temp → s.powered = true →
      ∃ u : State, exec (.thermalTrip t temp) s = .next u ∧ u.boot = .tripHeld ∧ u.pins.pwrgd = false ∧ u.alert =
        decide (u.sec.lifecycle ≠ .retired))
  ∧ (∀ (t temp : Nat) (s : State), temp < 85 → s.boot = .tripHeld →
      ∃ u : State, exec (.thermalTripRailsOn t temp) s = .next u
        ∧ u.boot = (if s.pins.modResetN then .booting else .resetHeld))
  ∧ ∀ (t watts : Nat) (s : State), s.running = true →
      ∃ u : State, exec (.powerMeasure t watts) s = .next u ∧ u.pwr.watts = watts
        ∧ (watts > s.limit → ∀ r ∈ s.regions, (u.region r).mhz = max 400 ((s.region r).mhz - 25))
        ∧ (watts ≤ s.limit → ∀ r ∈ s.regions, (s.region r).mhz ≤ (u.region r).mhz)
end

