-- ==== Sys2Proof/Laws/Tables.lean ====
section
/-! SUPPORT. The laws of sparse tables: what a read gives after a write, and that writes keep the canonical form. -/

namespace Sys2Proof.Machine

variable {α : Type}

/-! ### Reads after writes -/

theorem tget_tdel_same (d : α) (m : SMap α) (k : Nat) : tget d (tdel m k) k = d := by
  induction m with
  | nil => rfl
  | cons p m ih =>
    obtain ⟨i, a⟩ := p
    by_cases h : k = i
    · simpa [tdel, h] using h ▸ ih
    · simpa [tdel, tget, h] using ih

theorem tget_tdel_other (d : α) (m : SMap α) (k j : Nat) (h : j ≠ k) : tget d (tdel m k) j = tget d m j := by
  induction m with
  | nil => rfl
  | cons p m ih =>
    obtain ⟨i, a⟩ := p
    by_cases hk : k = i
    · subst hk
      simp [tdel, tget, h, ih]
    · simp [tdel, tget, hk, ih]

theorem tget_tins_same (d : α) (m : SMap α) (k : Nat) (v : α) : tget d (tins m k v) k = v := by
  induction m with
  | nil => simp [tins, tget]
  | cons p m ih =>
    obtain ⟨i, a⟩ := p
    by_cases h : k < i
    · simp [tins, tget, h]
    · by_cases hk : k = i
      · simp [tins, tget, hk]
      · simp [tins, tget, h, hk, ih]

theorem tget_tins_other (d : α) (m : SMap α) (k j : Nat) (v : α) (hj : j ≠ k) : tget d (tins m k v) j = tget d m j := by
  induction m with
  | nil => simp [tins, tget, hj]
  | cons p m ih =>
    obtain ⟨i, a⟩ := p
    by_cases h : k < i
    · simp [tins, tget, h, hj]
    · by_cases hk : k = i
      · subst hk
        simp [tins, tget, hj]
      · simp [tins, tget, h, hk, ih]

@[simp] theorem tget_tput_same [DecidableEq α] (d : α) (m : SMap α) (k : Nat) (v : α) : tget d (tput d m k v) k = v := by
  by_cases h : v = d
  · simp [tput, h, tget_tdel_same]
  · simp [tput, h, tget_tins_same]

theorem tget_tput_other [DecidableEq α] (d : α) (m : SMap α) (k j : Nat) (v : α) (h : j ≠ k) :
    tget d (tput d m k v) j = tget d m j := by
  by_cases hv : v = d
  · simp [tput, hv, tget_tdel_other _ _ _ _ h]
  · simp [tput, hv, tget_tins_other _ _ _ _ _ h]

/-! ### The canonical form -/

/-- A key lies above a bound that may be absent. -/
def aboveLo (lo : Option Nat) (k : Nat) : Bool :=
  match lo with
  | none => true
  | some l => decide (l < k)

theorem twfFrom_cons [DecidableEq α] (d : α) (lo : Option Nat) (i : Nat) (a : α) (m : SMap α) :
    twfFrom d lo ((i, a) :: m) = true ↔ aboveLo lo i = true ∧ a ≠ d ∧ twfFrom d (some i) m = true := by
  cases lo <;> simp [twfFrom, aboveLo, and_assoc]

theorem twfFrom_weaken [DecidableEq α] (d : α) (m : SMap α) (k : Nat) (lo : Option Nat) (hl : aboveLo lo k = true)
    (hm : twfFrom d (some k) m = true) : twfFrom d lo m = true := by
  cases m with
  | nil => rfl
  | cons p m =>
    obtain ⟨i, a⟩ := p
    rw [twfFrom_cons] at hm ⊢
    obtain ⟨h1, h2, h3⟩ := hm
    refine ⟨?_, h2, h3⟩
    cases lo with
    | none => rfl
    | some l => simp only [aboveLo, decide_eq_true_eq] at hl h1 ⊢; omega

theorem twfFrom_tdel [DecidableEq α] (d : α) (m : SMap α) (k : Nat) (lo : Option Nat) (hm : twfFrom d lo m = true) :
    twfFrom d lo (tdel m k) = true := by
  induction m generalizing lo with
  | nil => rfl
  | cons p m ih =>
    obtain ⟨i, a⟩ := p
    rw [twfFrom_cons] at hm
    by_cases h : k = i
    · simp only [tdel, h, if_true]
      exact h ▸ ih lo (twfFrom_weaken d m i lo hm.1 hm.2.2)
    · simp only [tdel, h, if_false]
      exact (twfFrom_cons ..).2 ⟨hm.1, hm.2.1, ih (some i) hm.2.2⟩

theorem twfFrom_tins [DecidableEq α] (d : α) (m : SMap α) (k : Nat) (v : α) (lo : Option Nat) (hk : aboveLo lo k = true)
    (hv : v ≠ d) (hm : twfFrom d lo m = true) : twfFrom d lo (tins m k v) = true := by
  induction m generalizing lo with
  | nil => exact (twfFrom_cons ..).2 ⟨hk, hv, rfl⟩
  | cons p m ih =>
    obtain ⟨i, a⟩ := p
    rw [twfFrom_cons] at hm
    obtain ⟨h1, h2, h3⟩ := hm
    by_cases h : k < i
    · simp only [tins, h, if_true]
      exact (twfFrom_cons ..).2 ⟨hk, hv, (twfFrom_cons ..).2 ⟨by simpa [aboveLo] using h, h2, h3⟩⟩
    · by_cases he : k = i
      · subst he
        simp only [tins, h, if_false, if_true]
        exact (twfFrom_cons ..).2 ⟨hk, hv, h3⟩
      · simp only [tins, h, he, if_false]
        exact (twfFrom_cons ..).2 ⟨h1, h2, ih (some i) (by simp [aboveLo]; omega) h3⟩

theorem twf_tput [DecidableEq α] (d : α) (m : SMap α) (k : Nat) (v : α) (hm : twf d m = true) : twf d (tput d m k v) = true := by
  by_cases h : v = d
  · simpa [tput, h, twf] using twfFrom_tdel d m k none hm
  · simpa [tput, h, twf] using twfFrom_tins d m k v none rfl h hm

theorem twfFrom_filter [DecidableEq α] (d : α) (p : Nat × α → Bool) (m : SMap α) (lo : Option Nat) (hm : twfFrom d lo m = true) :
    twfFrom d lo (m.filter p) = true := by
  induction m generalizing lo with
  | nil => rfl
  | cons e m ih =>
    obtain ⟨i, a⟩ := e
    rw [twfFrom_cons] at hm
    cases h : p (i, a)
    · simpa [List.filter, h] using ih lo (twfFrom_weaken d m i lo hm.1 hm.2.2)
    · simpa [List.filter, h] using (twfFrom_cons ..).2 ⟨hm.1, hm.2.1, ih (some i) hm.2.2⟩

theorem twf_filter [DecidableEq α] (d : α) (p : Nat × α → Bool) (m : SMap α) (hm : twf d m = true) : twf d (m.filter p) = true :=
  twfFrom_filter d p m none hm

/-- Two tables in canonical form that read the same at every key are the same list. -/
theorem twf_ext [DecidableEq α] (d : α) (m n : SMap α) (hm : twf d m = true) (hn : twf d n = true)
    (h : ∀ k, tget d m k = tget d n k) : m = n := by
  have below : ∀ (l : SMap α) (lo k : Nat), twfFrom d (some lo) l = true → k ≤ lo → tget d l k = d := by
    intro l
    induction l with
    | nil => intros; rfl
    | cons p l ih =>
      obtain ⟨i, a⟩ := p
      intro lo k hl hk
      rw [twfFrom_cons] at hl
      obtain ⟨h1, _, h3⟩ := hl
      simp only [aboveLo, decide_eq_true_eq] at h1
      have hne : k ≠ i := by omega
      simp only [tget, hne, if_false]
      exact ih i k h3 (by omega)
  have go : ∀ (l r : SMap α) (lo lo' : Option Nat), twfFrom d lo l = true → twfFrom d lo' r = true →
      (∀ k, tget d l k = tget d r k) → l = r := by
    intro l
    induction l with
    | nil =>
      intro r lo lo' _ hr hk
      cases r with
      | nil => rfl
      | cons p r =>
        obtain ⟨i, a⟩ := p
        rw [twfFrom_cons] at hr
        exact absurd ((hk i).symm.trans rfl : tget d ((i, a) :: r) i = d) (by simpa [tget] using hr.2.1)
    | cons p l ih =>
      obtain ⟨i, a⟩ := p
      intro r lo lo' hl hr hk
      rw [twfFrom_cons] at hl
      cases r with
      | nil => exact absurd (hk i) (by simpa [tget] using hl.2.1)
      | cons q r =>
        obtain ⟨j, b⟩ := q
        rw [twfFrom_cons] at hr
        have hij : i = j := by
          rcases Nat.lt_trichotomy i j with h1 | h1 | h1
          · have := hk i
            have hne : i ≠ j := by omega
            simp only [tget, if_true, hne, if_false] at this
            rw [below r j i hr.2.2 (by omega)] at this
            exact absurd this hl.2.1
          · exact h1
          · have := hk j
            have hne : j ≠ i := by omega
            simp only [tget, if_true, hne, if_false] at this
            rw [below l i j hl.2.2 (by omega)] at this
            exact absurd this.symm hr.2.1
        subst hij
        have hab : a = b := by simpa [tget] using hk i
        subst hab
        have : l = r := by
          refine ih r (some i) (some i) hl.2.2 hr.2.2 ?_
          intro k
          by_cases hki : k = i
          · subst hki
            rw [below l k k hl.2.2 (Nat.le_refl k), below r k k hr.2.2 (Nat.le_refl k)]
          · simpa [tget, hki] using hk k
        rw [this]
  exact go m n none none hm hn h

end Sys2Proof.Machine
end

