-- ==== Sys2Proof/Laws/State.lean ====
section
/-! SUPPORT. What each named write of the state leaves: one lemma per update and field, all true by computation; and what
the named reads read after them. -/

namespace Sys2Proof.Machine

/-! ### setCtx -/

@[simp] theorem setCtx_ident (s : State) (c : Nat) (x : Ctx) : (s.setCtx c x).ident = s.ident := rfl
@[simp] theorem setCtx_clk (s : State) (c : Nat) (x : Ctx) : (s.setCtx c x).clk = s.clk := rfl
@[simp] theorem setCtx_boot (s : State) (c : Nat) (x : Ctx) : (s.setCtx c x).boot = s.boot := rfl
@[simp] theorem setCtx_pins (s : State) (c : Nat) (x : Ctx) : (s.setCtx c x).pins = s.pins := rfl
@[simp] theorem setCtx_pcie (s : State) (c : Nat) (x : Ctx) : (s.setCtx c x).pcie = s.pcie := rfl
@[simp] theorem setCtx_sec (s : State) (c : Nat) (x : Ctx) : (s.setCtx c x).sec = s.sec := rfl
@[simp] theorem setCtx_fw (s : State) (c : Nat) (x : Ctx) : (s.setCtx c x).fw = s.fw := rfl
@[simp] theorem setCtx_mgmt (s : State) (c : Nat) (x : Ctx) : (s.setCtx c x).mgmt = s.mgmt := rfl
@[simp] theorem setCtx_ras (s : State) (c : Nat) (x : Ctx) : (s.setCtx c x).ras = s.ras := rfl
@[simp] theorem setCtx_pwr (s : State) (c : Nat) (x : Ctx) : (s.setCtx c x).pwr = s.pwr := rfl
@[simp] theorem setCtx_lasers (s : State) (c : Nat) (x : Ctx) : (s.setCtx c x).lasers = s.lasers := rfl
@[simp] theorem setCtx_ports (s : State) (c : Nat) (x : Ctx) : (s.setCtx c x).ports = s.ports := rfl
@[simp] theorem setCtx_fab (s : State) (c : Nat) (x : Ctx) : (s.setCtx c x).fab = s.fab := rfl
@[simp] theorem setCtx_buckets (s : State) (c : Nat) (x : Ctx) : (s.setCtx c x).buckets = s.buckets := rfl
@[simp] theorem setCtx_mem (s : State) (c : Nat) (x : Ctx) : (s.setCtx c x).mem = s.mem := rfl
@[simp] theorem setCtx_mcs (s : State) (c : Nat) (x : Ctx) : (s.setCtx c x).mcs = s.mcs := rfl
@[simp] theorem setCtx_cores (s : State) (c : Nat) (x : Ctx) : (s.setCtx c x).cores = s.cores := rfl
@[simp] theorem setCtx_sched (s : State) (c : Nat) (x : Ctx) : (s.setCtx c x).sched = s.sched := rfl
@[simp] theorem setCtx_hdrs (s : State) (c : Nat) (x : Ctx) : (s.setCtx c x).hdrs = s.hdrs := rfl
@[simp] theorem setCtx_num (s : State) (c : Nat) (x : Ctx) : (s.setCtx c x).num = s.num := rfl
@[simp] theorem setCtx_test (s : State) (c : Nat) (x : Ctx) : (s.setCtx c x).test = s.test := rfl
@[simp] theorem setCtx_dbg (s : State) (c : Nat) (x : Ctx) : (s.setCtx c x).dbg = s.dbg := rfl
@[simp] theorem setCtx_epoch (s : State) (c : Nat) (x : Ctx) : (s.setCtx c x).epoch = s.epoch := rfl
@[simp] theorem setCtx_free (s : State) (c : Nat) (x : Ctx) : (s.setCtx c x).free = s.free := rfl
@[simp] theorem setCtx_out (s : State) (c : Nat) (x : Ctx) : (s.setCtx c x).out = s.out := rfl
@[simp] theorem setCtx_pending (s : State) (c : Nat) (x : Ctx) : (s.setCtx c x).pending = s.pending := rfl

/-! ### modCtx -/

@[simp] theorem modCtx_ident (s : State) (c : Nat) (f : Ctx → Ctx) : (s.modCtx c f).ident = s.ident := rfl
@[simp] theorem modCtx_clk (s : State) (c : Nat) (f : Ctx → Ctx) : (s.modCtx c f).clk = s.clk := rfl
@[simp] theorem modCtx_boot (s : State) (c : Nat) (f : Ctx → Ctx) : (s.modCtx c f).boot = s.boot := rfl
@[simp] theorem modCtx_pins (s : State) (c : Nat) (f : Ctx → Ctx) : (s.modCtx c f).pins = s.pins := rfl
@[simp] theorem modCtx_pcie (s : State) (c : Nat) (f : Ctx → Ctx) : (s.modCtx c f).pcie = s.pcie := rfl
@[simp] theorem modCtx_sec (s : State) (c : Nat) (f : Ctx → Ctx) : (s.modCtx c f).sec = s.sec := rfl
@[simp] theorem modCtx_fw (s : State) (c : Nat) (f : Ctx → Ctx) : (s.modCtx c f).fw = s.fw := rfl
@[simp] theorem modCtx_mgmt (s : State) (c : Nat) (f : Ctx → Ctx) : (s.modCtx c f).mgmt = s.mgmt := rfl
@[simp] theorem modCtx_ras (s : State) (c : Nat) (f : Ctx → Ctx) : (s.modCtx c f).ras = s.ras := rfl
@[simp] theorem modCtx_pwr (s : State) (c : Nat) (f : Ctx → Ctx) : (s.modCtx c f).pwr = s.pwr := rfl
@[simp] theorem modCtx_lasers (s : State) (c : Nat) (f : Ctx → Ctx) : (s.modCtx c f).lasers = s.lasers := rfl
@[simp] theorem modCtx_ports (s : State) (c : Nat) (f : Ctx → Ctx) : (s.modCtx c f).ports = s.ports := rfl
@[simp] theorem modCtx_fab (s : State) (c : Nat) (f : Ctx → Ctx) : (s.modCtx c f).fab = s.fab := rfl
@[simp] theorem modCtx_buckets (s : State) (c : Nat) (f : Ctx → Ctx) : (s.modCtx c f).buckets = s.buckets := rfl
@[simp] theorem modCtx_mem (s : State) (c : Nat) (f : Ctx → Ctx) : (s.modCtx c f).mem = s.mem := rfl
@[simp] theorem modCtx_mcs (s : State) (c : Nat) (f : Ctx → Ctx) : (s.modCtx c f).mcs = s.mcs := rfl
@[simp] theorem modCtx_cores (s : State) (c : Nat) (f : Ctx → Ctx) : (s.modCtx c f).cores = s.cores := rfl
@[simp] theorem modCtx_sched (s : State) (c : Nat) (f : Ctx → Ctx) : (s.modCtx c f).sched = s.sched := rfl
@[simp] theorem modCtx_hdrs (s : State) (c : Nat) (f : Ctx → Ctx) : (s.modCtx c f).hdrs = s.hdrs := rfl
@[simp] theorem modCtx_num (s : State) (c : Nat) (f : Ctx → Ctx) : (s.modCtx c f).num = s.num := rfl
@[simp] theorem modCtx_test (s : State) (c : Nat) (f : Ctx → Ctx) : (s.modCtx c f).test = s.test := rfl
@[simp] theorem modCtx_dbg (s : State) (c : Nat) (f : Ctx → Ctx) : (s.modCtx c f).dbg = s.dbg := rfl
@[simp] theorem modCtx_epoch (s : State) (c : Nat) (f : Ctx → Ctx) : (s.modCtx c f).epoch = s.epoch := rfl
@[simp] theorem modCtx_free (s : State) (c : Nat) (f : Ctx → Ctx) : (s.modCtx c f).free = s.free := rfl
@[simp] theorem modCtx_out (s : State) (c : Nat) (f : Ctx → Ctx) : (s.modCtx c f).out = s.out := rfl
@[simp] theorem modCtx_pending (s : State) (c : Nat) (f : Ctx → Ctx) : (s.modCtx c f).pending = s.pending := rfl

/-! ### setCore -/

@[simp] theorem setCore_ident (s : State) (c : Nat) (x : Core) : (s.setCore c x).ident = s.ident := rfl
@[simp] theorem setCore_clk (s : State) (c : Nat) (x : Core) : (s.setCore c x).clk = s.clk := rfl
@[simp] theorem setCore_boot (s : State) (c : Nat) (x : Core) : (s.setCore c x).boot = s.boot := rfl
@[simp] theorem setCore_pins (s : State) (c : Nat) (x : Core) : (s.setCore c x).pins = s.pins := rfl
@[simp] theorem setCore_pcie (s : State) (c : Nat) (x : Core) : (s.setCore c x).pcie = s.pcie := rfl
@[simp] theorem setCore_sec (s : State) (c : Nat) (x : Core) : (s.setCore c x).sec = s.sec := rfl
@[simp] theorem setCore_fw (s : State) (c : Nat) (x : Core) : (s.setCore c x).fw = s.fw := rfl
@[simp] theorem setCore_mgmt (s : State) (c : Nat) (x : Core) : (s.setCore c x).mgmt = s.mgmt := rfl
@[simp] theorem setCore_ras (s : State) (c : Nat) (x : Core) : (s.setCore c x).ras = s.ras := rfl
@[simp] theorem setCore_pwr (s : State) (c : Nat) (x : Core) : (s.setCore c x).pwr = s.pwr := rfl
@[simp] theorem setCore_lasers (s : State) (c : Nat) (x : Core) : (s.setCore c x).lasers = s.lasers := rfl
@[simp] theorem setCore_ports (s : State) (c : Nat) (x : Core) : (s.setCore c x).ports = s.ports := rfl
@[simp] theorem setCore_fab (s : State) (c : Nat) (x : Core) : (s.setCore c x).fab = s.fab := rfl
@[simp] theorem setCore_buckets (s : State) (c : Nat) (x : Core) : (s.setCore c x).buckets = s.buckets := rfl
@[simp] theorem setCore_mem (s : State) (c : Nat) (x : Core) : (s.setCore c x).mem = s.mem := rfl
@[simp] theorem setCore_mcs (s : State) (c : Nat) (x : Core) : (s.setCore c x).mcs = s.mcs := rfl
@[simp] theorem setCore_ctxs (s : State) (c : Nat) (x : Core) : (s.setCore c x).ctxs = s.ctxs := rfl
@[simp] theorem setCore_sched (s : State) (c : Nat) (x : Core) : (s.setCore c x).sched = s.sched := rfl
@[simp] theorem setCore_hdrs (s : State) (c : Nat) (x : Core) : (s.setCore c x).hdrs = s.hdrs := rfl
@[simp] theorem setCore_num (s : State) (c : Nat) (x : Core) : (s.setCore c x).num = s.num := rfl
@[simp] theorem setCore_test (s : State) (c : Nat) (x : Core) : (s.setCore c x).test = s.test := rfl
@[simp] theorem setCore_dbg (s : State) (c : Nat) (x : Core) : (s.setCore c x).dbg = s.dbg := rfl
@[simp] theorem setCore_epoch (s : State) (c : Nat) (x : Core) : (s.setCore c x).epoch = s.epoch := rfl
@[simp] theorem setCore_free (s : State) (c : Nat) (x : Core) : (s.setCore c x).free = s.free := rfl
@[simp] theorem setCore_out (s : State) (c : Nat) (x : Core) : (s.setCore c x).out = s.out := rfl
@[simp] theorem setCore_pending (s : State) (c : Nat) (x : Core) : (s.setCore c x).pending = s.pending := rfl

/-! ### modCore -/

@[simp] theorem modCore_ident (s : State) (c : Nat) (f : Core → Core) : (s.modCore c f).ident = s.ident := rfl
@[simp] theorem modCore_clk (s : State) (c : Nat) (f : Core → Core) : (s.modCore c f).clk = s.clk := rfl
@[simp] theorem modCore_boot (s : State) (c : Nat) (f : Core → Core) : (s.modCore c f).boot = s.boot := rfl
@[simp] theorem modCore_pins (s : State) (c : Nat) (f : Core → Core) : (s.modCore c f).pins = s.pins := rfl
@[simp] theorem modCore_pcie (s : State) (c : Nat) (f : Core → Core) : (s.modCore c f).pcie = s.pcie := rfl
@[simp] theorem modCore_sec (s : State) (c : Nat) (f : Core → Core) : (s.modCore c f).sec = s.sec := rfl
@[simp] theorem modCore_fw (s : State) (c : Nat) (f : Core → Core) : (s.modCore c f).fw = s.fw := rfl
@[simp] theorem modCore_mgmt (s : State) (c : Nat) (f : Core → Core) : (s.modCore c f).mgmt = s.mgmt := rfl
@[simp] theorem modCore_ras (s : State) (c : Nat) (f : Core → Core) : (s.modCore c f).ras = s.ras := rfl
@[simp] theorem modCore_pwr (s : State) (c : Nat) (f : Core → Core) : (s.modCore c f).pwr = s.pwr := rfl
@[simp] theorem modCore_lasers (s : State) (c : Nat) (f : Core → Core) : (s.modCore c f).lasers = s.lasers := rfl
@[simp] theorem modCore_ports (s : State) (c : Nat) (f : Core → Core) : (s.modCore c f).ports = s.ports := rfl
@[simp] theorem modCore_fab (s : State) (c : Nat) (f : Core → Core) : (s.modCore c f).fab = s.fab := rfl
@[simp] theorem modCore_buckets (s : State) (c : Nat) (f : Core → Core) : (s.modCore c f).buckets = s.buckets := rfl
@[simp] theorem modCore_mem (s : State) (c : Nat) (f : Core → Core) : (s.modCore c f).mem = s.mem := rfl
@[simp] theorem modCore_mcs (s : State) (c : Nat) (f : Core → Core) : (s.modCore c f).mcs = s.mcs := rfl
@[simp] theorem modCore_ctxs (s : State) (c : Nat) (f : Core → Core) : (s.modCore c f).ctxs = s.ctxs := rfl
@[simp] theorem modCore_sched (s : State) (c : Nat) (f : Core → Core) : (s.modCore c f).sched = s.sched := rfl
@[simp] theorem modCore_hdrs (s : State) (c : Nat) (f : Core → Core) : (s.modCore c f).hdrs = s.hdrs := rfl
@[simp] theorem modCore_num (s : State) (c : Nat) (f : Core → Core) : (s.modCore c f).num = s.num := rfl
@[simp] theorem modCore_test (s : State) (c : Nat) (f : Core → Core) : (s.modCore c f).test = s.test := rfl
@[simp] theorem modCore_dbg (s : State) (c : Nat) (f : Core → Core) : (s.modCore c f).dbg = s.dbg := rfl
@[simp] theorem modCore_epoch (s : State) (c : Nat) (f : Core → Core) : (s.modCore c f).epoch = s.epoch := rfl
@[simp] theorem modCore_free (s : State) (c : Nat) (f : Core → Core) : (s.modCore c f).free = s.free := rfl
@[simp] theorem modCore_out (s : State) (c : Nat) (f : Core → Core) : (s.modCore c f).out = s.out := rfl
@[simp] theorem modCore_pending (s : State) (c : Nat) (f : Core → Core) : (s.modCore c f).pending = s.pending := rfl

/-! ### setPort -/

@[simp] theorem setPort_ident (s : State) (c : Nat) (x : Port) : (s.setPort c x).ident = s.ident := rfl
@[simp] theorem setPort_clk (s : State) (c : Nat) (x : Port) : (s.setPort c x).clk = s.clk := rfl
@[simp] theorem setPort_boot (s : State) (c : Nat) (x : Port) : (s.setPort c x).boot = s.boot := rfl
@[simp] theorem setPort_pins (s : State) (c : Nat) (x : Port) : (s.setPort c x).pins = s.pins := rfl
@[simp] theorem setPort_pcie (s : State) (c : Nat) (x : Port) : (s.setPort c x).pcie = s.pcie := rfl
@[simp] theorem setPort_sec (s : State) (c : Nat) (x : Port) : (s.setPort c x).sec = s.sec := rfl
@[simp] theorem setPort_fw (s : State) (c : Nat) (x : Port) : (s.setPort c x).fw = s.fw := rfl
@[simp] theorem setPort_mgmt (s : State) (c : Nat) (x : Port) : (s.setPort c x).mgmt = s.mgmt := rfl
@[simp] theorem setPort_ras (s : State) (c : Nat) (x : Port) : (s.setPort c x).ras = s.ras := rfl
@[simp] theorem setPort_pwr (s : State) (c : Nat) (x : Port) : (s.setPort c x).pwr = s.pwr := rfl
@[simp] theorem setPort_lasers (s : State) (c : Nat) (x : Port) : (s.setPort c x).lasers = s.lasers := rfl
@[simp] theorem setPort_fab (s : State) (c : Nat) (x : Port) : (s.setPort c x).fab = s.fab := rfl
@[simp] theorem setPort_buckets (s : State) (c : Nat) (x : Port) : (s.setPort c x).buckets = s.buckets := rfl
@[simp] theorem setPort_mem (s : State) (c : Nat) (x : Port) : (s.setPort c x).mem = s.mem := rfl
@[simp] theorem setPort_mcs (s : State) (c : Nat) (x : Port) : (s.setPort c x).mcs = s.mcs := rfl
@[simp] theorem setPort_ctxs (s : State) (c : Nat) (x : Port) : (s.setPort c x).ctxs = s.ctxs := rfl
@[simp] theorem setPort_cores (s : State) (c : Nat) (x : Port) : (s.setPort c x).cores = s.cores := rfl
@[simp] theorem setPort_sched (s : State) (c : Nat) (x : Port) : (s.setPort c x).sched = s.sched := rfl
@[simp] theorem setPort_hdrs (s : State) (c : Nat) (x : Port) : (s.setPort c x).hdrs = s.hdrs := rfl
@[simp] theorem setPort_num (s : State) (c : Nat) (x : Port) : (s.setPort c x).num = s.num := rfl
@[simp] theorem setPort_test (s : State) (c : Nat) (x : Port) : (s.setPort c x).test = s.test := rfl
@[simp] theorem setPort_dbg (s : State) (c : Nat) (x : Port) : (s.setPort c x).dbg = s.dbg := rfl
@[simp] theorem setPort_epoch (s : State) (c : Nat) (x : Port) : (s.setPort c x).epoch = s.epoch := rfl
@[simp] theorem setPort_free (s : State) (c : Nat) (x : Port) : (s.setPort c x).free = s.free := rfl
@[simp] theorem setPort_out (s : State) (c : Nat) (x : Port) : (s.setPort c x).out = s.out := rfl
@[simp] theorem setPort_pending (s : State) (c : Nat) (x : Port) : (s.setPort c x).pending = s.pending := rfl

/-! ### modPort -/

@[simp] theorem modPort_ident (s : State) (c : Nat) (f : Port → Port) : (s.modPort c f).ident = s.ident := rfl
@[simp] theorem modPort_clk (s : State) (c : Nat) (f : Port → Port) : (s.modPort c f).clk = s.clk := rfl
@[simp] theorem modPort_boot (s : State) (c : Nat) (f : Port → Port) : (s.modPort c f).boot = s.boot := rfl
@[simp] theorem modPort_pins (s : State) (c : Nat) (f : Port → Port) : (s.modPort c f).pins = s.pins := rfl
@[simp] theorem modPort_pcie (s : State) (c : Nat) (f : Port → Port) : (s.modPort c f).pcie = s.pcie := rfl
@[simp] theorem modPort_sec (s : State) (c : Nat) (f : Port → Port) : (s.modPort c f).sec = s.sec := rfl
@[simp] theorem modPort_fw (s : State) (c : Nat) (f : Port → Port) : (s.modPort c f).fw = s.fw := rfl
@[simp] theorem modPort_mgmt (s : State) (c : Nat) (f : Port → Port) : (s.modPort c f).mgmt = s.mgmt := rfl
@[simp] theorem modPort_ras (s : State) (c : Nat) (f : Port → Port) : (s.modPort c f).ras = s.ras := rfl
@[simp] theorem modPort_pwr (s : State) (c : Nat) (f : Port → Port) : (s.modPort c f).pwr = s.pwr := rfl
@[simp] theorem modPort_lasers (s : State) (c : Nat) (f : Port → Port) : (s.modPort c f).lasers = s.lasers := rfl
@[simp] theorem modPort_fab (s : State) (c : Nat) (f : Port → Port) : (s.modPort c f).fab = s.fab := rfl
@[simp] theorem modPort_buckets (s : State) (c : Nat) (f : Port → Port) : (s.modPort c f).buckets = s.buckets := rfl
@[simp] theorem modPort_mem (s : State) (c : Nat) (f : Port → Port) : (s.modPort c f).mem = s.mem := rfl
@[simp] theorem modPort_mcs (s : State) (c : Nat) (f : Port → Port) : (s.modPort c f).mcs = s.mcs := rfl
@[simp] theorem modPort_ctxs (s : State) (c : Nat) (f : Port → Port) : (s.modPort c f).ctxs = s.ctxs := rfl
@[simp] theorem modPort_cores (s : State) (c : Nat) (f : Port → Port) : (s.modPort c f).cores = s.cores := rfl
@[simp] theorem modPort_sched (s : State) (c : Nat) (f : Port → Port) : (s.modPort c f).sched = s.sched := rfl
@[simp] theorem modPort_hdrs (s : State) (c : Nat) (f : Port → Port) : (s.modPort c f).hdrs = s.hdrs := rfl
@[simp] theorem modPort_num (s : State) (c : Nat) (f : Port → Port) : (s.modPort c f).num = s.num := rfl
@[simp] theorem modPort_test (s : State) (c : Nat) (f : Port → Port) : (s.modPort c f).test = s.test := rfl
@[simp] theorem modPort_dbg (s : State) (c : Nat) (f : Port → Port) : (s.modPort c f).dbg = s.dbg := rfl
@[simp] theorem modPort_epoch (s : State) (c : Nat) (f : Port → Port) : (s.modPort c f).epoch = s.epoch := rfl
@[simp] theorem modPort_free (s : State) (c : Nat) (f : Port → Port) : (s.modPort c f).free = s.free := rfl
@[simp] theorem modPort_out (s : State) (c : Nat) (f : Port → Port) : (s.modPort c f).out = s.out := rfl
@[simp] theorem modPort_pending (s : State) (c : Nat) (f : Port → Port) : (s.modPort c f).pending = s.pending := rfl

/-! ### setHdr -/

@[simp] theorem setHdr_ident (s : State) (c : Nat) (x : Hdr) : (s.setHdr c x).ident = s.ident := rfl
@[simp] theorem setHdr_clk (s : State) (c : Nat) (x : Hdr) : (s.setHdr c x).clk = s.clk := rfl
@[simp] theorem setHdr_boot (s : State) (c : Nat) (x : Hdr) : (s.setHdr c x).boot = s.boot := rfl
@[simp] theorem setHdr_pins (s : State) (c : Nat) (x : Hdr) : (s.setHdr c x).pins = s.pins := rfl
@[simp] theorem setHdr_pcie (s : State) (c : Nat) (x : Hdr) : (s.setHdr c x).pcie = s.pcie := rfl
@[simp] theorem setHdr_sec (s : State) (c : Nat) (x : Hdr) : (s.setHdr c x).sec = s.sec := rfl
@[simp] theorem setHdr_fw (s : State) (c : Nat) (x : Hdr) : (s.setHdr c x).fw = s.fw := rfl
@[simp] theorem setHdr_mgmt (s : State) (c : Nat) (x : Hdr) : (s.setHdr c x).mgmt = s.mgmt := rfl
@[simp] theorem setHdr_ras (s : State) (c : Nat) (x : Hdr) : (s.setHdr c x).ras = s.ras := rfl
@[simp] theorem setHdr_pwr (s : State) (c : Nat) (x : Hdr) : (s.setHdr c x).pwr = s.pwr := rfl
@[simp] theorem setHdr_lasers (s : State) (c : Nat) (x : Hdr) : (s.setHdr c x).lasers = s.lasers := rfl
@[simp] theorem setHdr_ports (s : State) (c : Nat) (x : Hdr) : (s.setHdr c x).ports = s.ports := rfl
@[simp] theorem setHdr_fab (s : State) (c : Nat) (x : Hdr) : (s.setHdr c x).fab = s.fab := rfl
@[simp] theorem setHdr_buckets (s : State) (c : Nat) (x : Hdr) : (s.setHdr c x).buckets = s.buckets := rfl
@[simp] theorem setHdr_mem (s : State) (c : Nat) (x : Hdr) : (s.setHdr c x).mem = s.mem := rfl
@[simp] theorem setHdr_mcs (s : State) (c : Nat) (x : Hdr) : (s.setHdr c x).mcs = s.mcs := rfl
@[simp] theorem setHdr_ctxs (s : State) (c : Nat) (x : Hdr) : (s.setHdr c x).ctxs = s.ctxs := rfl
@[simp] theorem setHdr_cores (s : State) (c : Nat) (x : Hdr) : (s.setHdr c x).cores = s.cores := rfl
@[simp] theorem setHdr_sched (s : State) (c : Nat) (x : Hdr) : (s.setHdr c x).sched = s.sched := rfl
@[simp] theorem setHdr_num (s : State) (c : Nat) (x : Hdr) : (s.setHdr c x).num = s.num := rfl
@[simp] theorem setHdr_test (s : State) (c : Nat) (x : Hdr) : (s.setHdr c x).test = s.test := rfl
@[simp] theorem setHdr_dbg (s : State) (c : Nat) (x : Hdr) : (s.setHdr c x).dbg = s.dbg := rfl
@[simp] theorem setHdr_epoch (s : State) (c : Nat) (x : Hdr) : (s.setHdr c x).epoch = s.epoch := rfl
@[simp] theorem setHdr_free (s : State) (c : Nat) (x : Hdr) : (s.setHdr c x).free = s.free := rfl
@[simp] theorem setHdr_out (s : State) (c : Nat) (x : Hdr) : (s.setHdr c x).out = s.out := rfl
@[simp] theorem setHdr_pending (s : State) (c : Nat) (x : Hdr) : (s.setHdr c x).pending = s.pending := rfl

/-! ### modHdr -/

@[simp] theorem modHdr_ident (s : State) (c : Nat) (f : Hdr → Hdr) : (s.modHdr c f).ident = s.ident := rfl
@[simp] theorem modHdr_clk (s : State) (c : Nat) (f : Hdr → Hdr) : (s.modHdr c f).clk = s.clk := rfl
@[simp] theorem modHdr_boot (s : State) (c : Nat) (f : Hdr → Hdr) : (s.modHdr c f).boot = s.boot := rfl
@[simp] theorem modHdr_pins (s : State) (c : Nat) (f : Hdr → Hdr) : (s.modHdr c f).pins = s.pins := rfl
@[simp] theorem modHdr_pcie (s : State) (c : Nat) (f : Hdr → Hdr) : (s.modHdr c f).pcie = s.pcie := rfl
@[simp] theorem modHdr_sec (s : State) (c : Nat) (f : Hdr → Hdr) : (s.modHdr c f).sec = s.sec := rfl
@[simp] theorem modHdr_fw (s : State) (c : Nat) (f : Hdr → Hdr) : (s.modHdr c f).fw = s.fw := rfl
@[simp] theorem modHdr_mgmt (s : State) (c : Nat) (f : Hdr → Hdr) : (s.modHdr c f).mgmt = s.mgmt := rfl
@[simp] theorem modHdr_ras (s : State) (c : Nat) (f : Hdr → Hdr) : (s.modHdr c f).ras = s.ras := rfl
@[simp] theorem modHdr_pwr (s : State) (c : Nat) (f : Hdr → Hdr) : (s.modHdr c f).pwr = s.pwr := rfl
@[simp] theorem modHdr_lasers (s : State) (c : Nat) (f : Hdr → Hdr) : (s.modHdr c f).lasers = s.lasers := rfl
@[simp] theorem modHdr_ports (s : State) (c : Nat) (f : Hdr → Hdr) : (s.modHdr c f).ports = s.ports := rfl
@[simp] theorem modHdr_fab (s : State) (c : Nat) (f : Hdr → Hdr) : (s.modHdr c f).fab = s.fab := rfl
@[simp] theorem modHdr_buckets (s : State) (c : Nat) (f : Hdr → Hdr) : (s.modHdr c f).buckets = s.buckets := rfl
@[simp] theorem modHdr_mem (s : State) (c : Nat) (f : Hdr → Hdr) : (s.modHdr c f).mem = s.mem := rfl
@[simp] theorem modHdr_mcs (s : State) (c : Nat) (f : Hdr → Hdr) : (s.modHdr c f).mcs = s.mcs := rfl
@[simp] theorem modHdr_ctxs (s : State) (c : Nat) (f : Hdr → Hdr) : (s.modHdr c f).ctxs = s.ctxs := rfl
@[simp] theorem modHdr_cores (s : State) (c : Nat) (f : Hdr → Hdr) : (s.modHdr c f).cores = s.cores := rfl
@[simp] theorem modHdr_sched (s : State) (c : Nat) (f : Hdr → Hdr) : (s.modHdr c f).sched = s.sched := rfl
@[simp] theorem modHdr_num (s : State) (c : Nat) (f : Hdr → Hdr) : (s.modHdr c f).num = s.num := rfl
@[simp] theorem modHdr_test (s : State) (c : Nat) (f : Hdr → Hdr) : (s.modHdr c f).test = s.test := rfl
@[simp] theorem modHdr_dbg (s : State) (c : Nat) (f : Hdr → Hdr) : (s.modHdr c f).dbg = s.dbg := rfl
@[simp] theorem modHdr_epoch (s : State) (c : Nat) (f : Hdr → Hdr) : (s.modHdr c f).epoch = s.epoch := rfl
@[simp] theorem modHdr_free (s : State) (c : Nat) (f : Hdr → Hdr) : (s.modHdr c f).free = s.free := rfl
@[simp] theorem modHdr_out (s : State) (c : Nat) (f : Hdr → Hdr) : (s.modHdr c f).out = s.out := rfl
@[simp] theorem modHdr_pending (s : State) (c : Nat) (f : Hdr → Hdr) : (s.modHdr c f).pending = s.pending := rfl

/-! ### setLaser -/

@[simp] theorem setLaser_ident (s : State) (c : Nat) (x : Laser) : (s.setLaser c x).ident = s.ident := rfl
@[simp] theorem setLaser_clk (s : State) (c : Nat) (x : Laser) : (s.setLaser c x).clk = s.clk := rfl
@[simp] theorem setLaser_boot (s : State) (c : Nat) (x : Laser) : (s.setLaser c x).boot = s.boot := rfl
@[simp] theorem setLaser_pins (s : State) (c : Nat) (x : Laser) : (s.setLaser c x).pins = s.pins := rfl
@[simp] theorem setLaser_pcie (s : State) (c : Nat) (x : Laser) : (s.setLaser c x).pcie = s.pcie := rfl
@[simp] theorem setLaser_sec (s : State) (c : Nat) (x : Laser) : (s.setLaser c x).sec = s.sec := rfl
@[simp] theorem setLaser_fw (s : State) (c : Nat) (x : Laser) : (s.setLaser c x).fw = s.fw := rfl
@[simp] theorem setLaser_mgmt (s : State) (c : Nat) (x : Laser) : (s.setLaser c x).mgmt = s.mgmt := rfl
@[simp] theorem setLaser_ras (s : State) (c : Nat) (x : Laser) : (s.setLaser c x).ras = s.ras := rfl
@[simp] theorem setLaser_pwr (s : State) (c : Nat) (x : Laser) : (s.setLaser c x).pwr = s.pwr := rfl
@[simp] theorem setLaser_ports (s : State) (c : Nat) (x : Laser) : (s.setLaser c x).ports = s.ports := rfl
@[simp] theorem setLaser_fab (s : State) (c : Nat) (x : Laser) : (s.setLaser c x).fab = s.fab := rfl
@[simp] theorem setLaser_buckets (s : State) (c : Nat) (x : Laser) : (s.setLaser c x).buckets = s.buckets := rfl
@[simp] theorem setLaser_mem (s : State) (c : Nat) (x : Laser) : (s.setLaser c x).mem = s.mem := rfl
@[simp] theorem setLaser_mcs (s : State) (c : Nat) (x : Laser) : (s.setLaser c x).mcs = s.mcs := rfl
@[simp] theorem setLaser_ctxs (s : State) (c : Nat) (x : Laser) : (s.setLaser c x).ctxs = s.ctxs := rfl
@[simp] theorem setLaser_cores (s : State) (c : Nat) (x : Laser) : (s.setLaser c x).cores = s.cores := rfl
@[simp] theorem setLaser_sched (s : State) (c : Nat) (x : Laser) : (s.setLaser c x).sched = s.sched := rfl
@[simp] theorem setLaser_hdrs (s : State) (c : Nat) (x : Laser) : (s.setLaser c x).hdrs = s.hdrs := rfl
@[simp] theorem setLaser_num (s : State) (c : Nat) (x : Laser) : (s.setLaser c x).num = s.num := rfl
@[simp] theorem setLaser_test (s : State) (c : Nat) (x : Laser) : (s.setLaser c x).test = s.test := rfl
@[simp] theorem setLaser_dbg (s : State) (c : Nat) (x : Laser) : (s.setLaser c x).dbg = s.dbg := rfl
@[simp] theorem setLaser_epoch (s : State) (c : Nat) (x : Laser) : (s.setLaser c x).epoch = s.epoch := rfl
@[simp] theorem setLaser_free (s : State) (c : Nat) (x : Laser) : (s.setLaser c x).free = s.free := rfl
@[simp] theorem setLaser_out (s : State) (c : Nat) (x : Laser) : (s.setLaser c x).out = s.out := rfl
@[simp] theorem setLaser_pending (s : State) (c : Nat) (x : Laser) : (s.setLaser c x).pending = s.pending := rfl

/-! ### setMc -/

@[simp] theorem setMc_ident (s : State) (c : Nat) (x : Mc) : (s.setMc c x).ident = s.ident := rfl
@[simp] theorem setMc_clk (s : State) (c : Nat) (x : Mc) : (s.setMc c x).clk = s.clk := rfl
@[simp] theorem setMc_boot (s : State) (c : Nat) (x : Mc) : (s.setMc c x).boot = s.boot := rfl
@[simp] theorem setMc_pins (s : State) (c : Nat) (x : Mc) : (s.setMc c x).pins = s.pins := rfl
@[simp] theorem setMc_pcie (s : State) (c : Nat) (x : Mc) : (s.setMc c x).pcie = s.pcie := rfl
@[simp] theorem setMc_sec (s : State) (c : Nat) (x : Mc) : (s.setMc c x).sec = s.sec := rfl
@[simp] theorem setMc_fw (s : State) (c : Nat) (x : Mc) : (s.setMc c x).fw = s.fw := rfl
@[simp] theorem setMc_mgmt (s : State) (c : Nat) (x : Mc) : (s.setMc c x).mgmt = s.mgmt := rfl
@[simp] theorem setMc_ras (s : State) (c : Nat) (x : Mc) : (s.setMc c x).ras = s.ras := rfl
@[simp] theorem setMc_pwr (s : State) (c : Nat) (x : Mc) : (s.setMc c x).pwr = s.pwr := rfl
@[simp] theorem setMc_lasers (s : State) (c : Nat) (x : Mc) : (s.setMc c x).lasers = s.lasers := rfl
@[simp] theorem setMc_ports (s : State) (c : Nat) (x : Mc) : (s.setMc c x).ports = s.ports := rfl
@[simp] theorem setMc_fab (s : State) (c : Nat) (x : Mc) : (s.setMc c x).fab = s.fab := rfl
@[simp] theorem setMc_buckets (s : State) (c : Nat) (x : Mc) : (s.setMc c x).buckets = s.buckets := rfl
@[simp] theorem setMc_mem (s : State) (c : Nat) (x : Mc) : (s.setMc c x).mem = s.mem := rfl
@[simp] theorem setMc_ctxs (s : State) (c : Nat) (x : Mc) : (s.setMc c x).ctxs = s.ctxs := rfl
@[simp] theorem setMc_cores (s : State) (c : Nat) (x : Mc) : (s.setMc c x).cores = s.cores := rfl
@[simp] theorem setMc_sched (s : State) (c : Nat) (x : Mc) : (s.setMc c x).sched = s.sched := rfl
@[simp] theorem setMc_hdrs (s : State) (c : Nat) (x : Mc) : (s.setMc c x).hdrs = s.hdrs := rfl
@[simp] theorem setMc_num (s : State) (c : Nat) (x : Mc) : (s.setMc c x).num = s.num := rfl
@[simp] theorem setMc_test (s : State) (c : Nat) (x : Mc) : (s.setMc c x).test = s.test := rfl
@[simp] theorem setMc_dbg (s : State) (c : Nat) (x : Mc) : (s.setMc c x).dbg = s.dbg := rfl
@[simp] theorem setMc_epoch (s : State) (c : Nat) (x : Mc) : (s.setMc c x).epoch = s.epoch := rfl
@[simp] theorem setMc_free (s : State) (c : Nat) (x : Mc) : (s.setMc c x).free = s.free := rfl
@[simp] theorem setMc_out (s : State) (c : Nat) (x : Mc) : (s.setMc c x).out = s.out := rfl
@[simp] theorem setMc_pending (s : State) (c : Nat) (x : Mc) : (s.setMc c x).pending = s.pending := rfl

/-! ### setRail -/

@[simp] theorem setRail_ident (s : State) (c : Nat) (x : Rail) : (s.setRail c x).ident = s.ident := rfl
@[simp] theorem setRail_clk (s : State) (c : Nat) (x : Rail) : (s.setRail c x).clk = s.clk := rfl
@[simp] theorem setRail_boot (s : State) (c : Nat) (x : Rail) : (s.setRail c x).boot = s.boot := rfl
@[simp] theorem setRail_pins (s : State) (c : Nat) (x : Rail) : (s.setRail c x).pins = s.pins := rfl
@[simp] theorem setRail_pcie (s : State) (c : Nat) (x : Rail) : (s.setRail c x).pcie = s.pcie := rfl
@[simp] theorem setRail_sec (s : State) (c : Nat) (x : Rail) : (s.setRail c x).sec = s.sec := rfl
@[simp] theorem setRail_fw (s : State) (c : Nat) (x : Rail) : (s.setRail c x).fw = s.fw := rfl
@[simp] theorem setRail_mgmt (s : State) (c : Nat) (x : Rail) : (s.setRail c x).mgmt = s.mgmt := rfl
@[simp] theorem setRail_ras (s : State) (c : Nat) (x : Rail) : (s.setRail c x).ras = s.ras := rfl
@[simp] theorem setRail_lasers (s : State) (c : Nat) (x : Rail) : (s.setRail c x).lasers = s.lasers := rfl
@[simp] theorem setRail_ports (s : State) (c : Nat) (x : Rail) : (s.setRail c x).ports = s.ports := rfl
@[simp] theorem setRail_fab (s : State) (c : Nat) (x : Rail) : (s.setRail c x).fab = s.fab := rfl
@[simp] theorem setRail_buckets (s : State) (c : Nat) (x : Rail) : (s.setRail c x).buckets = s.buckets := rfl
@[simp] theorem setRail_mem (s : State) (c : Nat) (x : Rail) : (s.setRail c x).mem = s.mem := rfl
@[simp] theorem setRail_mcs (s : State) (c : Nat) (x : Rail) : (s.setRail c x).mcs = s.mcs := rfl
@[simp] theorem setRail_ctxs (s : State) (c : Nat) (x : Rail) : (s.setRail c x).ctxs = s.ctxs := rfl
@[simp] theorem setRail_cores (s : State) (c : Nat) (x : Rail) : (s.setRail c x).cores = s.cores := rfl
@[simp] theorem setRail_sched (s : State) (c : Nat) (x : Rail) : (s.setRail c x).sched = s.sched := rfl
@[simp] theorem setRail_hdrs (s : State) (c : Nat) (x : Rail) : (s.setRail c x).hdrs = s.hdrs := rfl
@[simp] theorem setRail_num (s : State) (c : Nat) (x : Rail) : (s.setRail c x).num = s.num := rfl
@[simp] theorem setRail_test (s : State) (c : Nat) (x : Rail) : (s.setRail c x).test = s.test := rfl
@[simp] theorem setRail_dbg (s : State) (c : Nat) (x : Rail) : (s.setRail c x).dbg = s.dbg := rfl
@[simp] theorem setRail_epoch (s : State) (c : Nat) (x : Rail) : (s.setRail c x).epoch = s.epoch := rfl
@[simp] theorem setRail_free (s : State) (c : Nat) (x : Rail) : (s.setRail c x).free = s.free := rfl
@[simp] theorem setRail_out (s : State) (c : Nat) (x : Rail) : (s.setRail c x).out = s.out := rfl
@[simp] theorem setRail_pending (s : State) (c : Nat) (x : Rail) : (s.setRail c x).pending = s.pending := rfl

/-! ### setRegion -/

@[simp] theorem setRegion_ident (s : State) (c : Nat) (x : Region) : (s.setRegion c x).ident = s.ident := rfl
@[simp] theorem setRegion_clk (s : State) (c : Nat) (x : Region) : (s.setRegion c x).clk = s.clk := rfl
@[simp] theorem setRegion_boot (s : State) (c : Nat) (x : Region) : (s.setRegion c x).boot = s.boot := rfl
@[simp] theorem setRegion_pins (s : State) (c : Nat) (x : Region) : (s.setRegion c x).pins = s.pins := rfl
@[simp] theorem setRegion_pcie (s : State) (c : Nat) (x : Region) : (s.setRegion c x).pcie = s.pcie := rfl
@[simp] theorem setRegion_sec (s : State) (c : Nat) (x : Region) : (s.setRegion c x).sec = s.sec := rfl
@[simp] theorem setRegion_fw (s : State) (c : Nat) (x : Region) : (s.setRegion c x).fw = s.fw := rfl
@[simp] theorem setRegion_mgmt (s : State) (c : Nat) (x : Region) : (s.setRegion c x).mgmt = s.mgmt := rfl
@[simp] theorem setRegion_ras (s : State) (c : Nat) (x : Region) : (s.setRegion c x).ras = s.ras := rfl
@[simp] theorem setRegion_lasers (s : State) (c : Nat) (x : Region) : (s.setRegion c x).lasers = s.lasers := rfl
@[simp] theorem setRegion_ports (s : State) (c : Nat) (x : Region) : (s.setRegion c x).ports = s.ports := rfl
@[simp] theorem setRegion_fab (s : State) (c : Nat) (x : Region) : (s.setRegion c x).fab = s.fab := rfl
@[simp] theorem setRegion_buckets (s : State) (c : Nat) (x : Region) : (s.setRegion c x).buckets = s.buckets := rfl
@[simp] theorem setRegion_mem (s : State) (c : Nat) (x : Region) : (s.setRegion c x).mem = s.mem := rfl
@[simp] theorem setRegion_mcs (s : State) (c : Nat) (x : Region) : (s.setRegion c x).mcs = s.mcs := rfl
@[simp] theorem setRegion_ctxs (s : State) (c : Nat) (x : Region) : (s.setRegion c x).ctxs = s.ctxs := rfl
@[simp] theorem setRegion_cores (s : State) (c : Nat) (x : Region) : (s.setRegion c x).cores = s.cores := rfl
@[simp] theorem setRegion_sched (s : State) (c : Nat) (x : Region) : (s.setRegion c x).sched = s.sched := rfl
@[simp] theorem setRegion_hdrs (s : State) (c : Nat) (x : Region) : (s.setRegion c x).hdrs = s.hdrs := rfl
@[simp] theorem setRegion_num (s : State) (c : Nat) (x : Region) : (s.setRegion c x).num = s.num := rfl
@[simp] theorem setRegion_test (s : State) (c : Nat) (x : Region) : (s.setRegion c x).test = s.test := rfl
@[simp] theorem setRegion_dbg (s : State) (c : Nat) (x : Region) : (s.setRegion c x).dbg = s.dbg := rfl
@[simp] theorem setRegion_epoch (s : State) (c : Nat) (x : Region) : (s.setRegion c x).epoch = s.epoch := rfl
@[simp] theorem setRegion_free (s : State) (c : Nat) (x : Region) : (s.setRegion c x).free = s.free := rfl
@[simp] theorem setRegion_out (s : State) (c : Nat) (x : Region) : (s.setRegion c x).out = s.out := rfl
@[simp] theorem setRegion_pending (s : State) (c : Nat) (x : Region) : (s.setRegion c x).pending = s.pending := rfl

/-! ### setQueue -/

@[simp] theorem setQueue_ident (s : State) (q : QRef) (x : Queue) : (s.setQueue q x).ident = s.ident := rfl
@[simp] theorem setQueue_clk (s : State) (q : QRef) (x : Queue) : (s.setQueue q x).clk = s.clk := rfl
@[simp] theorem setQueue_boot (s : State) (q : QRef) (x : Queue) : (s.setQueue q x).boot = s.boot := rfl
@[simp] theorem setQueue_pins (s : State) (q : QRef) (x : Queue) : (s.setQueue q x).pins = s.pins := rfl
@[simp] theorem setQueue_pcie (s : State) (q : QRef) (x : Queue) : (s.setQueue q x).pcie = s.pcie := rfl
@[simp] theorem setQueue_sec (s : State) (q : QRef) (x : Queue) : (s.setQueue q x).sec = s.sec := rfl
@[simp] theorem setQueue_fw (s : State) (q : QRef) (x : Queue) : (s.setQueue q x).fw = s.fw := rfl
@[simp] theorem setQueue_mgmt (s : State) (q : QRef) (x : Queue) : (s.setQueue q x).mgmt = s.mgmt := rfl
@[simp] theorem setQueue_ras (s : State) (q : QRef) (x : Queue) : (s.setQueue q x).ras = s.ras := rfl
@[simp] theorem setQueue_pwr (s : State) (q : QRef) (x : Queue) : (s.setQueue q x).pwr = s.pwr := rfl
@[simp] theorem setQueue_lasers (s : State) (q : QRef) (x : Queue) : (s.setQueue q x).lasers = s.lasers := rfl
@[simp] theorem setQueue_ports (s : State) (q : QRef) (x : Queue) : (s.setQueue q x).ports = s.ports := rfl
@[simp] theorem setQueue_fab (s : State) (q : QRef) (x : Queue) : (s.setQueue q x).fab = s.fab := rfl
@[simp] theorem setQueue_buckets (s : State) (q : QRef) (x : Queue) : (s.setQueue q x).buckets = s.buckets := rfl
@[simp] theorem setQueue_mem (s : State) (q : QRef) (x : Queue) : (s.setQueue q x).mem = s.mem := rfl
@[simp] theorem setQueue_mcs (s : State) (q : QRef) (x : Queue) : (s.setQueue q x).mcs = s.mcs := rfl
@[simp] theorem setQueue_cores (s : State) (q : QRef) (x : Queue) : (s.setQueue q x).cores = s.cores := rfl
@[simp] theorem setQueue_sched (s : State) (q : QRef) (x : Queue) : (s.setQueue q x).sched = s.sched := rfl
@[simp] theorem setQueue_hdrs (s : State) (q : QRef) (x : Queue) : (s.setQueue q x).hdrs = s.hdrs := rfl
@[simp] theorem setQueue_num (s : State) (q : QRef) (x : Queue) : (s.setQueue q x).num = s.num := rfl
@[simp] theorem setQueue_test (s : State) (q : QRef) (x : Queue) : (s.setQueue q x).test = s.test := rfl
@[simp] theorem setQueue_dbg (s : State) (q : QRef) (x : Queue) : (s.setQueue q x).dbg = s.dbg := rfl
@[simp] theorem setQueue_epoch (s : State) (q : QRef) (x : Queue) : (s.setQueue q x).epoch = s.epoch := rfl
@[simp] theorem setQueue_free (s : State) (q : QRef) (x : Queue) : (s.setQueue q x).free = s.free := rfl
@[simp] theorem setQueue_out (s : State) (q : QRef) (x : Queue) : (s.setQueue q x).out = s.out := rfl
@[simp] theorem setQueue_pending (s : State) (q : QRef) (x : Queue) : (s.setQueue q x).pending = s.pending := rfl

/-! ### modQueue -/

@[simp] theorem modQueue_ident (s : State) (q : QRef) (f : Queue → Queue) : (s.modQueue q f).ident = s.ident := rfl
@[simp] theorem modQueue_clk (s : State) (q : QRef) (f : Queue → Queue) : (s.modQueue q f).clk = s.clk := rfl
@[simp] theorem modQueue_boot (s : State) (q : QRef) (f : Queue → Queue) : (s.modQueue q f).boot = s.boot := rfl
@[simp] theorem modQueue_pins (s : State) (q : QRef) (f : Queue → Queue) : (s.modQueue q f).pins = s.pins := rfl
@[simp] theorem modQueue_pcie (s : State) (q : QRef) (f : Queue → Queue) : (s.modQueue q f).pcie = s.pcie := rfl
@[simp] theorem modQueue_sec (s : State) (q : QRef) (f : Queue → Queue) : (s.modQueue q f).sec = s.sec := rfl
@[simp] theorem modQueue_fw (s : State) (q : QRef) (f : Queue → Queue) : (s.modQueue q f).fw = s.fw := rfl
@[simp] theorem modQueue_mgmt (s : State) (q : QRef) (f : Queue → Queue) : (s.modQueue q f).mgmt = s.mgmt := rfl
@[simp] theorem modQueue_ras (s : State) (q : QRef) (f : Queue → Queue) : (s.modQueue q f).ras = s.ras := rfl
@[simp] theorem modQueue_pwr (s : State) (q : QRef) (f : Queue → Queue) : (s.modQueue q f).pwr = s.pwr := rfl
@[simp] theorem modQueue_lasers (s : State) (q : QRef) (f : Queue → Queue) : (s.modQueue q f).lasers = s.lasers := rfl
@[simp] theorem modQueue_ports (s : State) (q : QRef) (f : Queue → Queue) : (s.modQueue q f).ports = s.ports := rfl
@[simp] theorem modQueue_fab (s : State) (q : QRef) (f : Queue → Queue) : (s.modQueue q f).fab = s.fab := rfl
@[simp] theorem modQueue_buckets (s : State) (q : QRef) (f : Queue → Queue) : (s.modQueue q f).buckets = s.buckets := rfl
@[simp] theorem modQueue_mem (s : State) (q : QRef) (f : Queue → Queue) : (s.modQueue q f).mem = s.mem := rfl
@[simp] theorem modQueue_mcs (s : State) (q : QRef) (f : Queue → Queue) : (s.modQueue q f).mcs = s.mcs := rfl
@[simp] theorem modQueue_cores (s : State) (q : QRef) (f : Queue → Queue) : (s.modQueue q f).cores = s.cores := rfl
@[simp] theorem modQueue_sched (s : State) (q : QRef) (f : Queue → Queue) : (s.modQueue q f).sched = s.sched := rfl
@[simp] theorem modQueue_hdrs (s : State) (q : QRef) (f : Queue → Queue) : (s.modQueue q f).hdrs = s.hdrs := rfl
@[simp] theorem modQueue_num (s : State) (q : QRef) (f : Queue → Queue) : (s.modQueue q f).num = s.num := rfl
@[simp] theorem modQueue_test (s : State) (q : QRef) (f : Queue → Queue) : (s.modQueue q f).test = s.test := rfl
@[simp] theorem modQueue_dbg (s : State) (q : QRef) (f : Queue → Queue) : (s.modQueue q f).dbg = s.dbg := rfl
@[simp] theorem modQueue_epoch (s : State) (q : QRef) (f : Queue → Queue) : (s.modQueue q f).epoch = s.epoch := rfl
@[simp] theorem modQueue_free (s : State) (q : QRef) (f : Queue → Queue) : (s.modQueue q f).free = s.free := rfl
@[simp] theorem modQueue_out (s : State) (q : QRef) (f : Queue → Queue) : (s.modQueue q f).out = s.out := rfl
@[simp] theorem modQueue_pending (s : State) (q : QRef) (f : Queue → Queue) : (s.modQueue q f).pending = s.pending := rfl

/-! ### setCp -/

@[simp] theorem setCp_ident (s : State) (c : Nat) (x : Cp) : (s.setCp c x).ident = s.ident := rfl
@[simp] theorem setCp_clk (s : State) (c : Nat) (x : Cp) : (s.setCp c x).clk = s.clk := rfl
@[simp] theorem setCp_boot (s : State) (c : Nat) (x : Cp) : (s.setCp c x).boot = s.boot := rfl
@[simp] theorem setCp_pins (s : State) (c : Nat) (x : Cp) : (s.setCp c x).pins = s.pins := rfl
@[simp] theorem setCp_pcie (s : State) (c : Nat) (x : Cp) : (s.setCp c x).pcie = s.pcie := rfl
@[simp] theorem setCp_sec (s : State) (c : Nat) (x : Cp) : (s.setCp c x).sec = s.sec := rfl
@[simp] theorem setCp_fw (s : State) (c : Nat) (x : Cp) : (s.setCp c x).fw = s.fw := rfl
@[simp] theorem setCp_mgmt (s : State) (c : Nat) (x : Cp) : (s.setCp c x).mgmt = s.mgmt := rfl
@[simp] theorem setCp_ras (s : State) (c : Nat) (x : Cp) : (s.setCp c x).ras = s.ras := rfl
@[simp] theorem setCp_pwr (s : State) (c : Nat) (x : Cp) : (s.setCp c x).pwr = s.pwr := rfl
@[simp] theorem setCp_lasers (s : State) (c : Nat) (x : Cp) : (s.setCp c x).lasers = s.lasers := rfl
@[simp] theorem setCp_ports (s : State) (c : Nat) (x : Cp) : (s.setCp c x).ports = s.ports := rfl
@[simp] theorem setCp_fab (s : State) (c : Nat) (x : Cp) : (s.setCp c x).fab = s.fab := rfl
@[simp] theorem setCp_buckets (s : State) (c : Nat) (x : Cp) : (s.setCp c x).buckets = s.buckets := rfl
@[simp] theorem setCp_mem (s : State) (c : Nat) (x : Cp) : (s.setCp c x).mem = s.mem := rfl
@[simp] theorem setCp_mcs (s : State) (c : Nat) (x : Cp) : (s.setCp c x).mcs = s.mcs := rfl
@[simp] theorem setCp_ctxs (s : State) (c : Nat) (x : Cp) : (s.setCp c x).ctxs = s.ctxs := rfl
@[simp] theorem setCp_cores (s : State) (c : Nat) (x : Cp) : (s.setCp c x).cores = s.cores := rfl
@[simp] theorem setCp_sched (s : State) (c : Nat) (x : Cp) : (s.setCp c x).sched = s.sched := rfl
@[simp] theorem setCp_hdrs (s : State) (c : Nat) (x : Cp) : (s.setCp c x).hdrs = s.hdrs := rfl
@[simp] theorem setCp_num (s : State) (c : Nat) (x : Cp) : (s.setCp c x).num = s.num := rfl
@[simp] theorem setCp_test (s : State) (c : Nat) (x : Cp) : (s.setCp c x).test = s.test := rfl
@[simp] theorem setCp_epoch (s : State) (c : Nat) (x : Cp) : (s.setCp c x).epoch = s.epoch := rfl
@[simp] theorem setCp_free (s : State) (c : Nat) (x : Cp) : (s.setCp c x).free = s.free := rfl
@[simp] theorem setCp_out (s : State) (c : Nat) (x : Cp) : (s.setCp c x).out = s.out := rfl
@[simp] theorem setCp_pending (s : State) (c : Nat) (x : Cp) : (s.setCp c x).pending = s.pending := rfl

/-! ### setWl -/

@[simp] theorem setWl_ident (s : State) (c : Nat) (x : WlBp) : (s.setWl c x).ident = s.ident := rfl
@[simp] theorem setWl_clk (s : State) (c : Nat) (x : WlBp) : (s.setWl c x).clk = s.clk := rfl
@[simp] theorem setWl_boot (s : State) (c : Nat) (x : WlBp) : (s.setWl c x).boot = s.boot := rfl
@[simp] theorem setWl_pins (s : State) (c : Nat) (x : WlBp) : (s.setWl c x).pins = s.pins := rfl
@[simp] theorem setWl_pcie (s : State) (c : Nat) (x : WlBp) : (s.setWl c x).pcie = s.pcie := rfl
@[simp] theorem setWl_sec (s : State) (c : Nat) (x : WlBp) : (s.setWl c x).sec = s.sec := rfl
@[simp] theorem setWl_fw (s : State) (c : Nat) (x : WlBp) : (s.setWl c x).fw = s.fw := rfl
@[simp] theorem setWl_mgmt (s : State) (c : Nat) (x : WlBp) : (s.setWl c x).mgmt = s.mgmt := rfl
@[simp] theorem setWl_ras (s : State) (c : Nat) (x : WlBp) : (s.setWl c x).ras = s.ras := rfl
@[simp] theorem setWl_pwr (s : State) (c : Nat) (x : WlBp) : (s.setWl c x).pwr = s.pwr := rfl
@[simp] theorem setWl_lasers (s : State) (c : Nat) (x : WlBp) : (s.setWl c x).lasers = s.lasers := rfl
@[simp] theorem setWl_ports (s : State) (c : Nat) (x : WlBp) : (s.setWl c x).ports = s.ports := rfl
@[simp] theorem setWl_fab (s : State) (c : Nat) (x : WlBp) : (s.setWl c x).fab = s.fab := rfl
@[simp] theorem setWl_buckets (s : State) (c : Nat) (x : WlBp) : (s.setWl c x).buckets = s.buckets := rfl
@[simp] theorem setWl_mem (s : State) (c : Nat) (x : WlBp) : (s.setWl c x).mem = s.mem := rfl
@[simp] theorem setWl_mcs (s : State) (c : Nat) (x : WlBp) : (s.setWl c x).mcs = s.mcs := rfl
@[simp] theorem setWl_ctxs (s : State) (c : Nat) (x : WlBp) : (s.setWl c x).ctxs = s.ctxs := rfl
@[simp] theorem setWl_cores (s : State) (c : Nat) (x : WlBp) : (s.setWl c x).cores = s.cores := rfl
@[simp] theorem setWl_sched (s : State) (c : Nat) (x : WlBp) : (s.setWl c x).sched = s.sched := rfl
@[simp] theorem setWl_hdrs (s : State) (c : Nat) (x : WlBp) : (s.setWl c x).hdrs = s.hdrs := rfl
@[simp] theorem setWl_num (s : State) (c : Nat) (x : WlBp) : (s.setWl c x).num = s.num := rfl
@[simp] theorem setWl_test (s : State) (c : Nat) (x : WlBp) : (s.setWl c x).test = s.test := rfl
@[simp] theorem setWl_epoch (s : State) (c : Nat) (x : WlBp) : (s.setWl c x).epoch = s.epoch := rfl
@[simp] theorem setWl_free (s : State) (c : Nat) (x : WlBp) : (s.setWl c x).free = s.free := rfl
@[simp] theorem setWl_out (s : State) (c : Nat) (x : WlBp) : (s.setWl c x).out = s.out := rfl
@[simp] theorem setWl_pending (s : State) (c : Nat) (x : WlBp) : (s.setWl c x).pending = s.pending := rfl

/-! ### emit -/

@[simp] theorem emit_ident (s : State) (o : Out) : (s.emit o).ident = s.ident := rfl
@[simp] theorem emit_clk (s : State) (o : Out) : (s.emit o).clk = s.clk := rfl
@[simp] theorem emit_boot (s : State) (o : Out) : (s.emit o).boot = s.boot := rfl
@[simp] theorem emit_pins (s : State) (o : Out) : (s.emit o).pins = s.pins := rfl
@[simp] theorem emit_pcie (s : State) (o : Out) : (s.emit o).pcie = s.pcie := rfl
@[simp] theorem emit_sec (s : State) (o : Out) : (s.emit o).sec = s.sec := rfl
@[simp] theorem emit_fw (s : State) (o : Out) : (s.emit o).fw = s.fw := rfl
@[simp] theorem emit_mgmt (s : State) (o : Out) : (s.emit o).mgmt = s.mgmt := rfl
@[simp] theorem emit_ras (s : State) (o : Out) : (s.emit o).ras = s.ras := rfl
@[simp] theorem emit_pwr (s : State) (o : Out) : (s.emit o).pwr = s.pwr := rfl
@[simp] theorem emit_lasers (s : State) (o : Out) : (s.emit o).lasers = s.lasers := rfl
@[simp] theorem emit_ports (s : State) (o : Out) : (s.emit o).ports = s.ports := rfl
@[simp] theorem emit_fab (s : State) (o : Out) : (s.emit o).fab = s.fab := rfl
@[simp] theorem emit_buckets (s : State) (o : Out) : (s.emit o).buckets = s.buckets := rfl
@[simp] theorem emit_mem (s : State) (o : Out) : (s.emit o).mem = s.mem := rfl
@[simp] theorem emit_mcs (s : State) (o : Out) : (s.emit o).mcs = s.mcs := rfl
@[simp] theorem emit_ctxs (s : State) (o : Out) : (s.emit o).ctxs = s.ctxs := rfl
@[simp] theorem emit_cores (s : State) (o : Out) : (s.emit o).cores = s.cores := rfl
@[simp] theorem emit_sched (s : State) (o : Out) : (s.emit o).sched = s.sched := rfl
@[simp] theorem emit_hdrs (s : State) (o : Out) : (s.emit o).hdrs = s.hdrs := rfl
@[simp] theorem emit_num (s : State) (o : Out) : (s.emit o).num = s.num := rfl
@[simp] theorem emit_test (s : State) (o : Out) : (s.emit o).test = s.test := rfl
@[simp] theorem emit_dbg (s : State) (o : Out) : (s.emit o).dbg = s.dbg := rfl
@[simp] theorem emit_epoch (s : State) (o : Out) : (s.emit o).epoch = s.epoch := rfl
@[simp] theorem emit_free (s : State) (o : Out) : (s.emit o).free = s.free := rfl
@[simp] theorem emit_pending (s : State) (o : Out) : (s.emit o).pending = s.pending := rfl

/-! ### access -/

@[simp] theorem access_ident (s : State) (f i : Nat) : (s.access f i).ident = s.ident := rfl
@[simp] theorem access_clk (s : State) (f i : Nat) : (s.access f i).clk = s.clk := rfl
@[simp] theorem access_boot (s : State) (f i : Nat) : (s.access f i).boot = s.boot := rfl
@[simp] theorem access_pins (s : State) (f i : Nat) : (s.access f i).pins = s.pins := rfl
@[simp] theorem access_sec (s : State) (f i : Nat) : (s.access f i).sec = s.sec := rfl
@[simp] theorem access_fw (s : State) (f i : Nat) : (s.access f i).fw = s.fw := rfl
@[simp] theorem access_mgmt (s : State) (f i : Nat) : (s.access f i).mgmt = s.mgmt := rfl
@[simp] theorem access_ras (s : State) (f i : Nat) : (s.access f i).ras = s.ras := rfl
@[simp] theorem access_pwr (s : State) (f i : Nat) : (s.access f i).pwr = s.pwr := rfl
@[simp] theorem access_lasers (s : State) (f i : Nat) : (s.access f i).lasers = s.lasers := rfl
@[simp] theorem access_ports (s : State) (f i : Nat) : (s.access f i).ports = s.ports := rfl
@[simp] theorem access_fab (s : State) (f i : Nat) : (s.access f i).fab = s.fab := rfl
@[simp] theorem access_buckets (s : State) (f i : Nat) : (s.access f i).buckets = s.buckets := rfl
@[simp] theorem access_mem (s : State) (f i : Nat) : (s.access f i).mem = s.mem := rfl
@[simp] theorem access_mcs (s : State) (f i : Nat) : (s.access f i).mcs = s.mcs := rfl
@[simp] theorem access_ctxs (s : State) (f i : Nat) : (s.access f i).ctxs = s.ctxs := rfl
@[simp] theorem access_cores (s : State) (f i : Nat) : (s.access f i).cores = s.cores := rfl
@[simp] theorem access_sched (s : State) (f i : Nat) : (s.access f i).sched = s.sched := rfl
@[simp] theorem access_hdrs (s : State) (f i : Nat) : (s.access f i).hdrs = s.hdrs := rfl
@[simp] theorem access_num (s : State) (f i : Nat) : (s.access f i).num = s.num := rfl
@[simp] theorem access_test (s : State) (f i : Nat) : (s.access f i).test = s.test := rfl
@[simp] theorem access_dbg (s : State) (f i : Nat) : (s.access f i).dbg = s.dbg := rfl
@[simp] theorem access_epoch (s : State) (f i : Nat) : (s.access f i).epoch = s.epoch := rfl
@[simp] theorem access_free (s : State) (f i : Nat) : (s.access f i).free = s.free := rfl
@[simp] theorem access_out (s : State) (f i : Nat) : (s.access f i).out = s.out := rfl
@[simp] theorem access_pending (s : State) (f i : Nat) : (s.access f i).pending = s.pending := rfl

@[simp] theorem setRail_pwr_railSel (s : State) (c : Nat) (x : Rail) : (s.setRail c x).pwr.railSel = s.pwr.railSel := rfl
@[simp] theorem setRail_pwr_hold (s : State) (c : Nat) (x : Rail) : (s.setRail c x).pwr.hold = s.pwr.hold := rfl
@[simp] theorem setRail_pwr_regionSel (s : State) (c : Nat) (x : Rail) : (s.setRail c x).pwr.regionSel = s.pwr.regionSel := rfl
@[simp] theorem setRail_pwr_regions (s : State) (c : Nat) (x : Rail) : (s.setRail c x).pwr.regions = s.pwr.regions := rfl
@[simp] theorem setRail_pwr_limitReg (s : State) (c : Nat) (x : Rail) : (s.setRail c x).pwr.limitReg = s.pwr.limitReg := rfl
@[simp] theorem setRail_pwr_watts (s : State) (c : Nat) (x : Rail) : (s.setRail c x).pwr.watts = s.pwr.watts := rfl
@[simp] theorem setRail_pwr_sysdie (s : State) (c : Nat) (x : Rail) : (s.setRail c x).pwr.sysdie = s.pwr.sysdie := rfl
@[simp] theorem setRail_pwr_inlet (s : State) (c : Nat) (x : Rail) : (s.setRail c x).pwr.inlet = s.pwr.inlet := rfl
@[simp] theorem setRail_pwr_outlet (s : State) (c : Nat) (x : Rail) : (s.setRail c x).pwr.outlet = s.pwr.outlet := rfl
@[simp] theorem setRail_pwr_limSys (s : State) (c : Nat) (x : Rail) : (s.setRail c x).pwr.limSys = s.pwr.limSys := rfl
@[simp] theorem setRail_pwr_limCool (s : State) (c : Nat) (x : Rail) : (s.setRail c x).pwr.limCool = s.pwr.limCool := rfl
@[simp] theorem setRail_pwr_limInlet (s : State) (c : Nat) (x : Rail) : (s.setRail c x).pwr.limInlet = s.pwr.limInlet := rfl
@[simp] theorem setRail_pwr_refresh (s : State) (c : Nat) (x : Rail) : (s.setRail c x).pwr.refresh = s.pwr.refresh := rfl
@[simp] theorem setRail_pwr_halved (s : State) (c : Nat) (x : Rail) : (s.setRail c x).pwr.halved = s.pwr.halved := rfl
@[simp] theorem setRail_pwr_allowed (s : State) (c : Nat) (x : Rail) : (s.setRail c x).pwr.allowed = s.pwr.allowed := rfl
@[simp] theorem setRail_pwr_throttleNs (s : State) (c : Nat) (x : Rail) : (s.setRail c x).pwr.throttleNs = s.pwr.throttleNs := rfl
@[simp] theorem setRail_pwr_thrAt (s : State) (c : Nat) (x : Rail) : (s.setRail c x).pwr.thrAt = s.pwr.thrAt := rfl
@[simp] theorem setRegion_pwr_railSel (s : State) (c : Nat) (x : Region) : (s.setRegion c x).pwr.railSel = s.pwr.railSel := rfl
@[simp] theorem setRegion_pwr_rails (s : State) (c : Nat) (x : Region) : (s.setRegion c x).pwr.rails = s.pwr.rails := rfl
@[simp] theorem setRegion_pwr_hold (s : State) (c : Nat) (x : Region) : (s.setRegion c x).pwr.hold = s.pwr.hold := rfl
@[simp] theorem setRegion_pwr_regionSel (s : State) (c : Nat) (x : Region) : (s.setRegion c x).pwr.regionSel = s.pwr.regionSel := rfl
@[simp] theorem setRegion_pwr_limitReg (s : State) (c : Nat) (x : Region) : (s.setRegion c x).pwr.limitReg = s.pwr.limitReg := rfl
@[simp] theorem setRegion_pwr_watts (s : State) (c : Nat) (x : Region) : (s.setRegion c x).pwr.watts = s.pwr.watts := rfl
@[simp] theorem setRegion_pwr_sysdie (s : State) (c : Nat) (x : Region) : (s.setRegion c x).pwr.sysdie = s.pwr.sysdie := rfl
@[simp] theorem setRegion_pwr_inlet (s : State) (c : Nat) (x : Region) : (s.setRegion c x).pwr.inlet = s.pwr.inlet := rfl
@[simp] theorem setRegion_pwr_outlet (s : State) (c : Nat) (x : Region) : (s.setRegion c x).pwr.outlet = s.pwr.outlet := rfl
@[simp] theorem setRegion_pwr_limSys (s : State) (c : Nat) (x : Region) : (s.setRegion c x).pwr.limSys = s.pwr.limSys := rfl
@[simp] theorem setRegion_pwr_limCool (s : State) (c : Nat) (x : Region) : (s.setRegion c x).pwr.limCool = s.pwr.limCool := rfl
@[simp] theorem setRegion_pwr_limInlet (s : State) (c : Nat) (x : Region) : (s.setRegion c x).pwr.limInlet = s.pwr.limInlet := rfl
@[simp] theorem setRegion_pwr_refresh (s : State) (c : Nat) (x : Region) : (s.setRegion c x).pwr.refresh = s.pwr.refresh := rfl
@[simp] theorem setRegion_pwr_halved (s : State) (c : Nat) (x : Region) : (s.setRegion c x).pwr.halved = s.pwr.halved := rfl
@[simp] theorem setRegion_pwr_allowed (s : State) (c : Nat) (x : Region) : (s.setRegion c x).pwr.allowed = s.pwr.allowed := rfl
@[simp] theorem setRegion_pwr_throttleNs (s : State) (c : Nat) (x : Region) : (s.setRegion c x).pwr.throttleNs = s.pwr.throttleNs := rfl
@[simp] theorem setRegion_pwr_thrAt (s : State) (c : Nat) (x : Region) : (s.setRegion c x).pwr.thrAt = s.pwr.thrAt := rfl
@[simp] theorem setCp_dbg_session (s : State) (c : Nat) (x : Cp) : (s.setCp c x).dbg.session = s.dbg.session := rfl
@[simp] theorem setCp_dbg_boundary (s : State) (c : Nat) (x : Cp) : (s.setCp c x).dbg.boundary = s.dbg.boundary := rfl
@[simp] theorem setCp_dbg_driven (s : State) (c : Nat) (x : Cp) : (s.setCp c x).dbg.driven = s.dbg.driven := rfl
@[simp] theorem setCp_dbg_dal (s : State) (c : Nat) (x : Cp) : (s.setCp c x).dbg.dal = s.dbg.dal := rfl
@[simp] theorem setCp_dbg_cpSel (s : State) (c : Nat) (x : Cp) : (s.setCp c x).dbg.cpSel = s.dbg.cpSel := rfl
@[simp] theorem setCp_dbg_wl (s : State) (c : Nat) (x : Cp) : (s.setCp c x).dbg.wl = s.dbg.wl := rfl
@[simp] theorem setCp_dbg_fvAddr (s : State) (c : Nat) (x : Cp) : (s.setCp c x).dbg.fvAddr = s.dbg.fvAddr := rfl
@[simp] theorem setCp_dbg_fvWrite (s : State) (c : Nat) (x : Cp) : (s.setCp c x).dbg.fvWrite = s.dbg.fvWrite := rfl
@[simp] theorem setCp_dbg_fvValid (s : State) (c : Nat) (x : Cp) : (s.setCp c x).dbg.fvValid = s.dbg.fvValid := rfl
@[simp] theorem setCp_dbg_fvReplay (s : State) (c : Nat) (x : Cp) : (s.setCp c x).dbg.fvReplay = s.dbg.fvReplay := rfl
@[simp] theorem setCp_dbg_fvData (s : State) (c : Nat) (x : Cp) : (s.setCp c x).dbg.fvData = s.dbg.fvData := rfl
@[simp] theorem setCp_dbg_fvTag (s : State) (c : Nat) (x : Cp) : (s.setCp c x).dbg.fvTag = s.dbg.fvTag := rfl
@[simp] theorem setCp_dbg_fvPoison (s : State) (c : Nat) (x : Cp) : (s.setCp c x).dbg.fvPoison = s.dbg.fvPoison := rfl
@[simp] theorem setCp_dbg_fvMinor (s : State) (c : Nat) (x : Cp) : (s.setCp c x).dbg.fvMinor = s.dbg.fvMinor := rfl
@[simp] theorem setWl_dbg_session (s : State) (c : Nat) (x : WlBp) : (s.setWl c x).dbg.session = s.dbg.session := rfl
@[simp] theorem setWl_dbg_boundary (s : State) (c : Nat) (x : WlBp) : (s.setWl c x).dbg.boundary = s.dbg.boundary := rfl
@[simp] theorem setWl_dbg_driven (s : State) (c : Nat) (x : WlBp) : (s.setWl c x).dbg.driven = s.dbg.driven := rfl
@[simp] theorem setWl_dbg_dal (s : State) (c : Nat) (x : WlBp) : (s.setWl c x).dbg.dal = s.dbg.dal := rfl
@[simp] theorem setWl_dbg_cpSel (s : State) (c : Nat) (x : WlBp) : (s.setWl c x).dbg.cpSel = s.dbg.cpSel := rfl
@[simp] theorem setWl_dbg_cps (s : State) (c : Nat) (x : WlBp) : (s.setWl c x).dbg.cps = s.dbg.cps := rfl
@[simp] theorem setWl_dbg_fvAddr (s : State) (c : Nat) (x : WlBp) : (s.setWl c x).dbg.fvAddr = s.dbg.fvAddr := rfl
@[simp] theorem setWl_dbg_fvWrite (s : State) (c : Nat) (x : WlBp) : (s.setWl c x).dbg.fvWrite = s.dbg.fvWrite := rfl
@[simp] theorem setWl_dbg_fvValid (s : State) (c : Nat) (x : WlBp) : (s.setWl c x).dbg.fvValid = s.dbg.fvValid := rfl
@[simp] theorem setWl_dbg_fvReplay (s : State) (c : Nat) (x : WlBp) : (s.setWl c x).dbg.fvReplay = s.dbg.fvReplay := rfl
@[simp] theorem setWl_dbg_fvData (s : State) (c : Nat) (x : WlBp) : (s.setWl c x).dbg.fvData = s.dbg.fvData := rfl
@[simp] theorem setWl_dbg_fvTag (s : State) (c : Nat) (x : WlBp) : (s.setWl c x).dbg.fvTag = s.dbg.fvTag := rfl
@[simp] theorem setWl_dbg_fvPoison (s : State) (c : Nat) (x : WlBp) : (s.setWl c x).dbg.fvPoison = s.dbg.fvPoison := rfl
@[simp] theorem setWl_dbg_fvMinor (s : State) (c : Nat) (x : WlBp) : (s.setWl c x).dbg.fvMinor = s.dbg.fvMinor := rfl

@[simp] theorem emit_out (s : State) (o : Out) : (s.emit o).out = o :: s.out := rfl

/-! ### Reads after writes -/

@[simp] theorem ctx_setCtx_same (s : State) (c : Nat) (x : Ctx) : (s.setCtx c x).ctx c = x := tget_tput_same _ _ _ _
theorem ctx_setCtx_other (s : State) (c k : Nat) (x : Ctx) (h : k ≠ c) : (s.setCtx c x).ctx k = s.ctx k :=
  tget_tput_other _ _ _ _ _ h
@[simp] theorem core_setCore_same (s : State) (c : Nat) (x : Core) : (s.setCore c x).core c = x := tget_tput_same _ _ _ _
theorem core_setCore_other (s : State) (c k : Nat) (x : Core) (h : k ≠ c) : (s.setCore c x).core k = s.core k :=
  tget_tput_other _ _ _ _ _ h
@[simp] theorem port_setPort_same (s : State) (c : Nat) (x : Port) : (s.setPort c x).port c = x := tget_tput_same _ _ _ _
theorem port_setPort_other (s : State) (c k : Nat) (x : Port) (h : k ≠ c) : (s.setPort c x).port k = s.port k :=
  tget_tput_other _ _ _ _ _ h
@[simp] theorem hdr_setHdr_same (s : State) (c : Nat) (x : Hdr) : (s.setHdr c x).hdr c = x := tget_tput_same _ _ _ _
theorem hdr_setHdr_other (s : State) (c k : Nat) (x : Hdr) (h : k ≠ c) : (s.setHdr c x).hdr k = s.hdr k :=
  tget_tput_other _ _ _ _ _ h
@[simp] theorem laser_setLaser_same (s : State) (c : Nat) (x : Laser) : (s.setLaser c x).laser c = x := tget_tput_same _ _ _ _
theorem laser_setLaser_other (s : State) (c k : Nat) (x : Laser) (h : k ≠ c) : (s.setLaser c x).laser k = s.laser k :=
  tget_tput_other _ _ _ _ _ h
@[simp] theorem mc_setMc_same (s : State) (c : Nat) (x : Mc) : (s.setMc c x).mc c = x := tget_tput_same _ _ _ _
theorem mc_setMc_other (s : State) (c k : Nat) (x : Mc) (h : k ≠ c) : (s.setMc c x).mc k = s.mc k :=
  tget_tput_other _ _ _ _ _ h
@[simp] theorem rail_setRail_same (s : State) (c : Nat) (x : Rail) : (s.setRail c x).rail c = x := tget_tput_same _ _ _ _
theorem rail_setRail_other (s : State) (c k : Nat) (x : Rail) (h : k ≠ c) : (s.setRail c x).rail k = s.rail k :=
  tget_tput_other _ _ _ _ _ h
@[simp] theorem region_setRegion_same (s : State) (c : Nat) (x : Region) : (s.setRegion c x).region c = x := tget_tput_same _ _ _ _
theorem region_setRegion_other (s : State) (c k : Nat) (x : Region) (h : k ≠ c) : (s.setRegion c x).region k = s.region k :=
  tget_tput_other _ _ _ _ _ h
@[simp] theorem cp_setCp_same (s : State) (c : Nat) (x : Cp) : (s.setCp c x).cp c = x := tget_tput_same _ _ _ _
theorem cp_setCp_other (s : State) (c k : Nat) (x : Cp) (h : k ≠ c) : (s.setCp c x).cp k = s.cp k :=
  tget_tput_other _ _ _ _ _ h
@[simp] theorem wl_setWl_same (s : State) (c : Nat) (x : WlBp) : (s.setWl c x).wl c = x := tget_tput_same _ _ _ _
theorem wl_setWl_other (s : State) (c k : Nat) (x : WlBp) (h : k ≠ c) : (s.setWl c x).wl k = s.wl k :=
  tget_tput_other _ _ _ _ _ h
@[simp] theorem ctx_modCtx_same (s : State) (c : Nat) (f : Ctx → Ctx) : (s.modCtx c f).ctx c = f (s.ctx c) :=
  tget_tput_same _ _ _ _
theorem ctx_modCtx_other (s : State) (c k : Nat) (f : Ctx → Ctx) (h : k ≠ c) : (s.modCtx c f).ctx k = s.ctx k :=
  tget_tput_other _ _ _ _ _ h
@[simp] theorem core_modCore_same (s : State) (c : Nat) (f : Core → Core) : (s.modCore c f).core c = f (s.core c) :=
  tget_tput_same _ _ _ _
theorem core_modCore_other (s : State) (c k : Nat) (f : Core → Core) (h : k ≠ c) : (s.modCore c f).core k = s.core k :=
  tget_tput_other _ _ _ _ _ h
@[simp] theorem port_modPort_same (s : State) (c : Nat) (f : Port → Port) : (s.modPort c f).port c = f (s.port c) :=
  tget_tput_same _ _ _ _
theorem port_modPort_other (s : State) (c k : Nat) (f : Port → Port) (h : k ≠ c) : (s.modPort c f).port k = s.port k :=
  tget_tput_other _ _ _ _ _ h
@[simp] theorem hdr_modHdr_same (s : State) (c : Nat) (f : Hdr → Hdr) : (s.modHdr c f).hdr c = f (s.hdr c) :=
  tget_tput_same _ _ _ _
theorem hdr_modHdr_other (s : State) (c k : Nat) (f : Hdr → Hdr) (h : k ≠ c) : (s.modHdr c f).hdr k = s.hdr k :=
  tget_tput_other _ _ _ _ _ h
@[simp] theorem setCtx_core (s : State) (c : Nat) (x : Ctx) (k : Nat) : (s.setCtx c x).core k = s.core k := rfl
@[simp] theorem setCtx_port (s : State) (c : Nat) (x : Ctx) (k : Nat) : (s.setCtx c x).port k = s.port k := rfl
@[simp] theorem setCtx_hdr (s : State) (c : Nat) (x : Ctx) (k : Nat) : (s.setCtx c x).hdr k = s.hdr k := rfl
@[simp] theorem setCtx_laser (s : State) (c : Nat) (x : Ctx) (k : Nat) : (s.setCtx c x).laser k = s.laser k := rfl
@[simp] theorem setCtx_mc (s : State) (c : Nat) (x : Ctx) (k : Nat) : (s.setCtx c x).mc k = s.mc k := rfl
@[simp] theorem modCtx_core (s : State) (c : Nat) (f : Ctx → Ctx) (k : Nat) : (s.modCtx c f).core k = s.core k := rfl
@[simp] theorem modCtx_port (s : State) (c : Nat) (f : Ctx → Ctx) (k : Nat) : (s.modCtx c f).port k = s.port k := rfl
@[simp] theorem modCtx_hdr (s : State) (c : Nat) (f : Ctx → Ctx) (k : Nat) : (s.modCtx c f).hdr k = s.hdr k := rfl
@[simp] theorem modCtx_laser (s : State) (c : Nat) (f : Ctx → Ctx) (k : Nat) : (s.modCtx c f).laser k = s.laser k := rfl
@[simp] theorem modCtx_mc (s : State) (c : Nat) (f : Ctx → Ctx) (k : Nat) : (s.modCtx c f).mc k = s.mc k := rfl
@[simp] theorem setCore_ctx (s : State) (c : Nat) (x : Core) (k : Nat) : (s.setCore c x).ctx k = s.ctx k := rfl
@[simp] theorem setCore_port (s : State) (c : Nat) (x : Core) (k : Nat) : (s.setCore c x).port k = s.port k := rfl
@[simp] theorem setCore_hdr (s : State) (c : Nat) (x : Core) (k : Nat) : (s.setCore c x).hdr k = s.hdr k := rfl
@[simp] theorem setCore_laser (s : State) (c : Nat) (x : Core) (k : Nat) : (s.setCore c x).laser k = s.laser k := rfl
@[simp] theorem setCore_mc (s : State) (c : Nat) (x : Core) (k : Nat) : (s.setCore c x).mc k = s.mc k := rfl
@[simp] theorem setCore_queue (s : State) (c : Nat) (x : Core) (k : QRef) : (s.setCore c x).queue k = s.queue k := rfl
@[simp] theorem modCore_ctx (s : State) (c : Nat) (f : Core → Core) (k : Nat) : (s.modCore c f).ctx k = s.ctx k := rfl
@[simp] theorem modCore_port (s : State) (c : Nat) (f : Core → Core) (k : Nat) : (s.modCore c f).port k = s.port k := rfl
@[simp] theorem modCore_hdr (s : State) (c : Nat) (f : Core → Core) (k : Nat) : (s.modCore c f).hdr k = s.hdr k := rfl
@[simp] theorem modCore_laser (s : State) (c : Nat) (f : Core → Core) (k : Nat) : (s.modCore c f).laser k = s.laser k := rfl
@[simp] theorem modCore_mc (s : State) (c : Nat) (f : Core → Core) (k : Nat) : (s.modCore c f).mc k = s.mc k := rfl
@[simp] theorem modCore_queue (s : State) (c : Nat) (f : Core → Core) (k : QRef) : (s.modCore c f).queue k = s.queue k := rfl
@[simp] theorem setPort_ctx (s : State) (c : Nat) (x : Port) (k : Nat) : (s.setPort c x).ctx k = s.ctx k := rfl
@[simp] theorem setPort_core (s : State) (c : Nat) (x : Port) (k : Nat) : (s.setPort c x).core k = s.core k := rfl
@[simp] theorem setPort_hdr (s : State) (c : Nat) (x : Port) (k : Nat) : (s.setPort c x).hdr k = s.hdr k := rfl
@[simp] theorem setPort_laser (s : State) (c : Nat) (x : Port) (k : Nat) : (s.setPort c x).laser k = s.laser k := rfl
@[simp] theorem setPort_mc (s : State) (c : Nat) (x : Port) (k : Nat) : (s.setPort c x).mc k = s.mc k := rfl
@[simp] theorem setPort_queue (s : State) (c : Nat) (x : Port) (k : QRef) : (s.setPort c x).queue k = s.queue k := rfl
@[simp] theorem modPort_ctx (s : State) (c : Nat) (f : Port → Port) (k : Nat) : (s.modPort c f).ctx k = s.ctx k := rfl
@[simp] theorem modPort_core (s : State) (c : Nat) (f : Port → Port) (k : Nat) : (s.modPort c f).core k = s.core k := rfl
@[simp] theorem modPort_hdr (s : State) (c : Nat) (f : Port → Port) (k : Nat) : (s.modPort c f).hdr k = s.hdr k := rfl
@[simp] theorem modPort_laser (s : State) (c : Nat) (f : Port → Port) (k : Nat) : (s.modPort c f).laser k = s.laser k := rfl
@[simp] theorem modPort_mc (s : State) (c : Nat) (f : Port → Port) (k : Nat) : (s.modPort c f).mc k = s.mc k := rfl
@[simp] theorem modPort_queue (s : State) (c : Nat) (f : Port → Port) (k : QRef) : (s.modPort c f).queue k = s.queue k := rfl
@[simp] theorem setHdr_ctx (s : State) (c : Nat) (x : Hdr) (k : Nat) : (s.setHdr c x).ctx k = s.ctx k := rfl
@[simp] theorem setHdr_core (s : State) (c : Nat) (x : Hdr) (k : Nat) : (s.setHdr c x).core k = s.core k := rfl
@[simp] theorem setHdr_port (s : State) (c : Nat) (x : Hdr) (k : Nat) : (s.setHdr c x).port k = s.port k := rfl
@[simp] theorem setHdr_laser (s : State) (c : Nat) (x : Hdr) (k : Nat) : (s.setHdr c x).laser k = s.laser k := rfl
@[simp] theorem setHdr_mc (s : State) (c : Nat) (x : Hdr) (k : Nat) : (s.setHdr c x).mc k = s.mc k := rfl
@[simp] theorem setHdr_queue (s : State) (c : Nat) (x : Hdr) (k : QRef) : (s.setHdr c x).queue k = s.queue k := rfl
@[simp] theorem modHdr_ctx (s : State) (c : Nat) (f : Hdr → Hdr) (k : Nat) : (s.modHdr c f).ctx k = s.ctx k := rfl
@[simp] theorem modHdr_core (s : State) (c : Nat) (f : Hdr → Hdr) (k : Nat) : (s.modHdr c f).core k = s.core k := rfl
@[simp] theorem modHdr_port (s : State) (c : Nat) (f : Hdr → Hdr) (k : Nat) : (s.modHdr c f).port k = s.port k := rfl
@[simp] theorem modHdr_laser (s : State) (c : Nat) (f : Hdr → Hdr) (k : Nat) : (s.modHdr c f).laser k = s.laser k := rfl
@[simp] theorem modHdr_mc (s : State) (c : Nat) (f : Hdr → Hdr) (k : Nat) : (s.modHdr c f).mc k = s.mc k := rfl
@[simp] theorem modHdr_queue (s : State) (c : Nat) (f : Hdr → Hdr) (k : QRef) : (s.modHdr c f).queue k = s.queue k := rfl
@[simp] theorem setLaser_ctx (s : State) (c : Nat) (x : Laser) (k : Nat) : (s.setLaser c x).ctx k = s.ctx k := rfl
@[simp] theorem setLaser_core (s : State) (c : Nat) (x : Laser) (k : Nat) : (s.setLaser c x).core k = s.core k := rfl
@[simp] theorem setLaser_port (s : State) (c : Nat) (x : Laser) (k : Nat) : (s.setLaser c x).port k = s.port k := rfl
@[simp] theorem setLaser_hdr (s : State) (c : Nat) (x : Laser) (k : Nat) : (s.setLaser c x).hdr k = s.hdr k := rfl
@[simp] theorem setLaser_mc (s : State) (c : Nat) (x : Laser) (k : Nat) : (s.setLaser c x).mc k = s.mc k := rfl
@[simp] theorem setLaser_queue (s : State) (c : Nat) (x : Laser) (k : QRef) : (s.setLaser c x).queue k = s.queue k := rfl
@[simp] theorem setMc_ctx (s : State) (c : Nat) (x : Mc) (k : Nat) : (s.setMc c x).ctx k = s.ctx k := rfl
@[simp] theorem setMc_core (s : State) (c : Nat) (x : Mc) (k : Nat) : (s.setMc c x).core k = s.core k := rfl
@[simp] theorem setMc_port (s : State) (c : Nat) (x : Mc) (k : Nat) : (s.setMc c x).port k = s.port k := rfl
@[simp] theorem setMc_hdr (s : State) (c : Nat) (x : Mc) (k : Nat) : (s.setMc c x).hdr k = s.hdr k := rfl
@[simp] theorem setMc_laser (s : State) (c : Nat) (x : Mc) (k : Nat) : (s.setMc c x).laser k = s.laser k := rfl
@[simp] theorem setMc_queue (s : State) (c : Nat) (x : Mc) (k : QRef) : (s.setMc c x).queue k = s.queue k := rfl
@[simp] theorem setRail_ctx (s : State) (c : Nat) (x : Rail) (k : Nat) : (s.setRail c x).ctx k = s.ctx k := rfl
@[simp] theorem setRail_core (s : State) (c : Nat) (x : Rail) (k : Nat) : (s.setRail c x).core k = s.core k := rfl
@[simp] theorem setRail_port (s : State) (c : Nat) (x : Rail) (k : Nat) : (s.setRail c x).port k = s.port k := rfl
@[simp] theorem setRail_hdr (s : State) (c : Nat) (x : Rail) (k : Nat) : (s.setRail c x).hdr k = s.hdr k := rfl
@[simp] theorem setRail_laser (s : State) (c : Nat) (x : Rail) (k : Nat) : (s.setRail c x).laser k = s.laser k := rfl
@[simp] theorem setRail_mc (s : State) (c : Nat) (x : Rail) (k : Nat) : (s.setRail c x).mc k = s.mc k := rfl
@[simp] theorem setRail_queue (s : State) (c : Nat) (x : Rail) (k : QRef) : (s.setRail c x).queue k = s.queue k := rfl
@[simp] theorem setRegion_ctx (s : State) (c : Nat) (x : Region) (k : Nat) : (s.setRegion c x).ctx k = s.ctx k := rfl
@[simp] theorem setRegion_core (s : State) (c : Nat) (x : Region) (k : Nat) : (s.setRegion c x).core k = s.core k := rfl
@[simp] theorem setRegion_port (s : State) (c : Nat) (x : Region) (k : Nat) : (s.setRegion c x).port k = s.port k := rfl
@[simp] theorem setRegion_hdr (s : State) (c : Nat) (x : Region) (k : Nat) : (s.setRegion c x).hdr k = s.hdr k := rfl
@[simp] theorem setRegion_laser (s : State) (c : Nat) (x : Region) (k : Nat) : (s.setRegion c x).laser k = s.laser k := rfl
@[simp] theorem setRegion_mc (s : State) (c : Nat) (x : Region) (k : Nat) : (s.setRegion c x).mc k = s.mc k := rfl
@[simp] theorem setRegion_queue (s : State) (c : Nat) (x : Region) (k : QRef) : (s.setRegion c x).queue k = s.queue k := rfl
@[simp] theorem setQueue_core (s : State) (q : QRef) (x : Queue) (k : Nat) : (s.setQueue q x).core k = s.core k := rfl
@[simp] theorem setQueue_port (s : State) (q : QRef) (x : Queue) (k : Nat) : (s.setQueue q x).port k = s.port k := rfl
@[simp] theorem setQueue_hdr (s : State) (q : QRef) (x : Queue) (k : Nat) : (s.setQueue q x).hdr k = s.hdr k := rfl
@[simp] theorem setQueue_laser (s : State) (q : QRef) (x : Queue) (k : Nat) : (s.setQueue q x).laser k = s.laser k := rfl
@[simp] theorem setQueue_mc (s : State) (q : QRef) (x : Queue) (k : Nat) : (s.setQueue q x).mc k = s.mc k := rfl
@[simp] theorem modQueue_core (s : State) (q : QRef) (f : Queue → Queue) (k : Nat) : (s.modQueue q f).core k = s.core k := rfl
@[simp] theorem modQueue_port (s : State) (q : QRef) (f : Queue → Queue) (k : Nat) : (s.modQueue q f).port k = s.port k := rfl
@[simp] theorem modQueue_hdr (s : State) (q : QRef) (f : Queue → Queue) (k : Nat) : (s.modQueue q f).hdr k = s.hdr k := rfl
@[simp] theorem modQueue_laser (s : State) (q : QRef) (f : Queue → Queue) (k : Nat) : (s.modQueue q f).laser k = s.laser k := rfl
@[simp] theorem modQueue_mc (s : State) (q : QRef) (f : Queue → Queue) (k : Nat) : (s.modQueue q f).mc k = s.mc k := rfl
@[simp] theorem setCp_ctx (s : State) (c : Nat) (x : Cp) (k : Nat) : (s.setCp c x).ctx k = s.ctx k := rfl
@[simp] theorem setCp_core (s : State) (c : Nat) (x : Cp) (k : Nat) : (s.setCp c x).core k = s.core k := rfl
@[simp] theorem setCp_port (s : State) (c : Nat) (x : Cp) (k : Nat) : (s.setCp c x).port k = s.port k := rfl
@[simp] theorem setCp_hdr (s : State) (c : Nat) (x : Cp) (k : Nat) : (s.setCp c x).hdr k = s.hdr k := rfl
@[simp] theorem setCp_laser (s : State) (c : Nat) (x : Cp) (k : Nat) : (s.setCp c x).laser k = s.laser k := rfl
@[simp] theorem setCp_mc (s : State) (c : Nat) (x : Cp) (k : Nat) : (s.setCp c x).mc k = s.mc k := rfl
@[simp] theorem setCp_queue (s : State) (c : Nat) (x : Cp) (k : QRef) : (s.setCp c x).queue k = s.queue k := rfl
@[simp] theorem setWl_ctx (s : State) (c : Nat) (x : WlBp) (k : Nat) : (s.setWl c x).ctx k = s.ctx k := rfl
@[simp] theorem setWl_core (s : State) (c : Nat) (x : WlBp) (k : Nat) : (s.setWl c x).core k = s.core k := rfl
@[simp] theorem setWl_port (s : State) (c : Nat) (x : WlBp) (k : Nat) : (s.setWl c x).port k = s.port k := rfl
@[simp] theorem setWl_hdr (s : State) (c : Nat) (x : WlBp) (k : Nat) : (s.setWl c x).hdr k = s.hdr k := rfl
@[simp] theorem setWl_laser (s : State) (c : Nat) (x : WlBp) (k : Nat) : (s.setWl c x).laser k = s.laser k := rfl
@[simp] theorem setWl_mc (s : State) (c : Nat) (x : WlBp) (k : Nat) : (s.setWl c x).mc k = s.mc k := rfl
@[simp] theorem setWl_queue (s : State) (c : Nat) (x : WlBp) (k : QRef) : (s.setWl c x).queue k = s.queue k := rfl
@[simp] theorem emit_ctx (s : State) (o : Out) (k : Nat) : (s.emit o).ctx k = s.ctx k := rfl
@[simp] theorem emit_core (s : State) (o : Out) (k : Nat) : (s.emit o).core k = s.core k := rfl
@[simp] theorem emit_port (s : State) (o : Out) (k : Nat) : (s.emit o).port k = s.port k := rfl
@[simp] theorem emit_hdr (s : State) (o : Out) (k : Nat) : (s.emit o).hdr k = s.hdr k := rfl
@[simp] theorem emit_laser (s : State) (o : Out) (k : Nat) : (s.emit o).laser k = s.laser k := rfl
@[simp] theorem emit_mc (s : State) (o : Out) (k : Nat) : (s.emit o).mc k = s.mc k := rfl
@[simp] theorem emit_queue (s : State) (o : Out) (k : QRef) : (s.emit o).queue k = s.queue k := rfl
@[simp] theorem access_ctx (s : State) (f i : Nat) (k : Nat) : (s.access f i).ctx k = s.ctx k := rfl
@[simp] theorem access_core (s : State) (f i : Nat) (k : Nat) : (s.access f i).core k = s.core k := rfl
@[simp] theorem access_port (s : State) (f i : Nat) (k : Nat) : (s.access f i).port k = s.port k := rfl
@[simp] theorem access_hdr (s : State) (f i : Nat) (k : Nat) : (s.access f i).hdr k = s.hdr k := rfl
@[simp] theorem access_laser (s : State) (f i : Nat) (k : Nat) : (s.access f i).laser k = s.laser k := rfl
@[simp] theorem access_mc (s : State) (f i : Nat) (k : Nat) : (s.access f i).mc k = s.mc k := rfl
@[simp] theorem access_queue (s : State) (f i : Nat) (k : QRef) : (s.access f i).queue k = s.queue k := rfl

@[simp] theorem queue_setQueue_same (s : State) (q : QRef) (y : Queue) : (s.setQueue q y).queue q = y := by
  simp [State.queue, State.setQueue, Ctx.queue, Ctx.setQueue, tget_tput_same]

@[simp] theorem queue_modQueue_same (s : State) (q : QRef) (f : Queue → Queue) : (s.modQueue q f).queue q = f (s.queue q) := by
  simp [State.modQueue]

theorem queue_setQueue_other (s : State) (q k : QRef) (y : Queue) (h : k ≠ q) : (s.setQueue q y).queue k = s.queue k := by
  obtain ⟨c, n⟩ := q
  obtain ⟨c', n'⟩ := k
  by_cases hc : c' = c
  · subst hc
    have hn : n' ≠ n := fun e => h (by rw [e])
    simp [State.queue, State.setQueue, Ctx.queue, Ctx.setQueue, tget_tput_other _ _ _ _ _ hn]
  · simp [State.queue, State.setQueue, ctx_modCtx_other _ _ _ _ hc]

theorem queue_modQueue_other (s : State) (q k : QRef) (f : Queue → Queue) (h : k ≠ q) :
    (s.modQueue q f).queue k = s.queue k := queue_setQueue_other _ _ _ _ h

/-! ### Answers to requests (R372) -/

/-- With no request of any connection unanswered, an answer leaves at once. -/
theorem reply_of_none_owed (s : State) (m : Call) (result : Nat) (payload : Bytes) (h : s.mgmt.line = []) :
    s.reply m result payload = s.emit (.olia m.conn (answerTo m result payload)) := by
  have e : { s with mgmt := { s.mgmt with line := [] } } = s := by rw [← h]
  simp [State.reply, State.flushLine, h, List.eraseP_cons, e]

end Sys2Proof.Machine
end

