-- ==== Sys2Proof/Laws/Keeps.lean ====
section
/-! SUPPORT. The relation that every step keeps, and how it passes through updates of the state, folds and pairs. -/

namespace Sys2Proof.Machine

/-- What no operation undoes: the queue, the identity, the interval clock's direction, the form of memory, and a security
domain that has been sealed off. -/
structure Keeps (s t : State) : Prop where
  pending : t.pending = s.pending
  variant : t.ident.variant = s.ident.variant
  serial  : t.ident.serial = s.ident.serial
  clock   : s.clk.now ≤ t.clk.now
  mem     : s.mem.wf = true → t.mem.wf = true
  sec     : s.sec.Kept t.sec

theorem Sec.Kept.rfl (a : Sec) : a.Kept a := ⟨id, id, fun _ _ => .inl (Eq.refl _)⟩

theorem Sec.Kept.trans {a b c : Sec} (h : a.Kept b) (k : b.Kept c) : a.Kept c :=
  ⟨fun x => k.1 (h.1 x), fun x => k.2.1 (h.2.1 x), fun x y => by
    have hb := h.2.2 x y
    have hc := k.2.2 (h.1 x) (y.imp h.2.1 (fun r => by rcases hb with e | e; exact e.trans r; exact e))
    rcases hc with e | e
    · rcases hb with f | f
      · exact .inl (e.trans f)
      · exact .inr (e.trans f)
    · exact .inr e⟩

theorem Keeps.refl (s : State) : Keeps s s := ⟨rfl, rfl, rfl, Nat.le_refl _, id, .rfl _⟩

theorem Keeps.trans {s t u : State} (h : Keeps s t) (k : Keeps t u) : Keeps s u :=
  ⟨k.pending.trans h.pending, k.variant.trans h.variant, k.serial.trans h.serial, Nat.le_trans h.clock k.clock,
    fun x => k.mem (h.mem x), h.sec.trans k.sec⟩

/-- `Keeps`, said of the parts of the later state that it speaks of. -/
structure KeepsParts (s : State) (i : Ident) (c : Clock) (k : Sec) (m : Mem) (p : List Instr) : Prop where
  pending : p = s.pending
  variant : i.variant = s.ident.variant
  serial  : i.serial = s.ident.serial
  clock   : s.clk.now ≤ c.now
  mem     : s.mem.wf = true → m.wf = true
  sec     : s.sec.Kept k

theorem keeps_mk_iff {s : State} {ident clk boot pins pcie sec fw mgmt ras pwr lasers ports fab buckets mem mcs ctxs cores sched
    hdrs num test dbg epoch free out pending} :
    Keeps s ⟨ident, clk, boot, pins, pcie, sec, fw, mgmt, ras, pwr, lasers, ports, fab, buckets, mem, mcs, ctxs, cores,
      sched, hdrs, num, test, dbg, epoch, free, out, pending⟩ ↔ KeepsParts s ident clk sec mem pending :=
  ⟨fun h => ⟨h.1, h.2, h.3, h.4, h.5, h.6⟩, fun h => ⟨h.1, h.2, h.3, h.4, h.5, h.6⟩⟩

/-- An update that leaves the identity, the clock, the security controller, memory and the queue. -/
theorem Keeps.upd {s x : State} (h : Keeps s x) : KeepsParts s x.ident x.clk x.sec x.mem x.pending :=
  ⟨h.1, h.2, h.3, h.4, h.5, h.6⟩

/-- An update of memory as well. -/
theorem Keeps.updMem {s x : State} {m : Mem} (h : Keeps s x) (hm : x.mem.wf = true → m.wf = true) :
    KeepsParts s x.ident x.clk x.sec m x.pending :=
  ⟨h.1, h.2, h.3, h.4, fun k => hm (h.5 k), h.6⟩

/-- An update of the security controller as well. -/
theorem Keeps.updSec {s x : State} {k : Sec} (h : Keeps s x) (hs : x.sec.Kept k) :
    KeepsParts s x.ident x.clk k x.mem x.pending :=
  ⟨h.1, h.2, h.3, h.4, h.5, h.6.trans hs⟩

/-- An update of the clocks as well. -/
theorem Keeps.updClk {s x : State} {c : Clock} (h : Keeps s x) (hc : x.clk.now ≤ c.now) :
    KeepsParts s x.ident c x.sec x.mem x.pending :=
  ⟨h.1, h.2, h.3, Nat.le_trans h.4 hc, h.5, h.6⟩

/-- An update of anything but the queue. -/
theorem Keeps.updAll {s x : State} {i : Ident} {c : Clock} {k : Sec} {m : Mem} (h : Keeps s x)
    (hv : i.variant = x.ident.variant) (hn : i.serial = x.ident.serial) (hc : x.clk.now ≤ c.now)
    (hm : x.mem.wf = true → m.wf = true) (hs : x.sec.Kept k) : KeepsParts s i c k m x.pending :=
  ⟨h.1, hv.trans h.2, hn.trans h.3, Nat.le_trans h.4 hc, fun k => hm (h.5 k), h.6.trans hs⟩

theorem Keeps.foldl {α : Type} {s x : State} {f : State → α → State} {l : List α}
    (hf : ∀ y a, Keeps s y → Keeps s (f y a)) (h : Keeps s x) : Keeps s (l.foldl f x) := by
  induction l generalizing x with
  | nil => exact h
  | cons a l ih => exact ih (hf x a h)

/-- A fold whose state is the first of a pair. -/
theorem Keeps.foldlFst {α β : Type} {s : State} {x : State × β} {f : State × β → α → State × β} {l : List α}
    (hf : ∀ (y : State × β) a, Keeps s y.1 → Keeps s (f y a).1) (h : Keeps s x.1) : Keeps s (l.foldl f x).1 := by
  induction l generalizing x with
  | nil => exact h
  | cons a l ih => exact ih (hf x a h)

theorem Keeps.ofFst {β : Type} {s x : State} {y : β} {a : State × β} (e : a = (x, y)) (h : Keeps s a.1) : Keeps s x := by
  subst e
  exact h

theorem Keeps.ofSnd {β : Type} {s x : State} {y : β} {a : β × State} (e : a = (y, x)) (h : Keeps s a.2) : Keeps s x := by
  subst e
  exact h

theorem Keeps.untilStop {α : Type} {s x : State} {f : State → α → State × Option Acc} {l : List α}
    (hf : ∀ y a, Keeps s y → Keeps s (f y a).1) (h : Keeps s x) : Keeps s (Sys2Proof.Machine.untilStop f l x).1 := by
  unfold Sys2Proof.Machine.untilStop
  refine Keeps.foldlFst (fun y a hy => ?_) h
  split
  · exact hy
  · exact hf _ _ hy

/-! ### Memory in canonical form -/

theorem Mem.wf_iff (m : Mem) : m.wf = true ↔ twf 0 m.cells = true ∧ twf none m.frames = true ∧ twf none m.lines = true
    ∧ twf {} m.blocks = true ∧ twf 0 m.fver = true ∧ twf 0 m.host = true := by
  simp [Mem.wf, and_assoc]

/-- Memory that reads and lists the same six tables. -/
theorem Mem.wf_same {m n : Mem} (h1 : n.cells = m.cells) (h2 : n.frames = m.frames) (h3 : n.lines = m.lines)
    (h4 : n.blocks = m.blocks) (h5 : n.fver = m.fver) (h6 : n.host = m.host) (h : m.wf = true) : n.wf = true := by
  rw [Mem.wf_iff] at h ⊢
  rw [h1, h2, h3, h4, h5, h6]
  exact h

theorem Mem.wf_cells {m : Mem} (k : Nat) (b : Byte) (h : m.wf = true) :
    Mem.wf { m with cells := tput 0 m.cells k b } = true := by
  rw [Mem.wf_iff] at h ⊢
  exact ⟨twf_tput _ _ _ _ h.1, h.2⟩

theorem Mem.wf_frames {m : Mem} (k : Nat) (b : Option Backing) (h : m.wf = true) :
    Mem.wf { m with frames := tput none m.frames k b } = true := by
  rw [Mem.wf_iff] at h ⊢
  exact ⟨h.1, twf_tput _ _ _ _ h.2.1, h.2.2⟩

theorem Mem.wf_lines {m : Mem} (k : Nat) (b : Option Line) (h : m.wf = true) :
    Mem.wf { m with lines := tput none m.lines k b } = true := by
  rw [Mem.wf_iff] at h ⊢
  exact ⟨h.1, h.2.1, twf_tput _ _ _ _ h.2.2.1, h.2.2.2⟩

theorem Mem.wf_blocks {m : Mem} (k : Nat) (b : Block) (h : m.wf = true) :
    Mem.wf { m with blocks := tput {} m.blocks k b } = true := by
  rw [Mem.wf_iff] at h ⊢
  exact ⟨h.1, h.2.1, h.2.2.1, twf_tput _ _ _ _ h.2.2.2.1, h.2.2.2.2⟩

theorem Mem.wf_fver {m : Mem} (k v : Nat) (h : m.wf = true) : Mem.wf { m with fver := tput 0 m.fver k v } = true := by
  rw [Mem.wf_iff] at h ⊢
  exact ⟨h.1, h.2.1, h.2.2.1, h.2.2.2.1, twf_tput _ _ _ _ h.2.2.2.2.1, h.2.2.2.2.2⟩

theorem Mem.wf_host {m : Mem} (k : Nat) (b : Byte) (h : m.wf = true) :
    Mem.wf { m with host := tput 0 m.host k b } = true := by
  rw [Mem.wf_iff] at h ⊢
  exact ⟨h.1, h.2.1, h.2.2.1, h.2.2.2.1, h.2.2.2.2.1, twf_tput _ _ _ _ h.2.2.2.2.2⟩

theorem reset_mem_wf : State.reset.mem.wf = true := by decide

end Sys2Proof.Machine
end

