-- ==== Sys2Proof/Laws/OpsKeep.lean ====
section
/-! SUPPORT. Every operation of Ops, Flags, Memory, Crypto, Numerics, Vector, Operands, Packets keeps what no operation undoes. -/

namespace Sys2Proof.Machine

theorem State.setCtx_keeps {s₀ s : State} (h : Keeps s₀ s) (c : Nat) (x : Ctx) :
    Keeps s₀ (State.setCtx s c x) := by
  unfold State.setCtx
  repeat' (first
    | with_reducible assumption
    | with_reducible exact id
    | simp only [keeps_mk_iff]
    | with_reducible apply Keeps.upd
    | intro _ _ _
    | refine Keeps.ofFst (by with_reducible assumption) ?_
    | refine Keeps.ofSnd (by with_reducible assumption) ?_
    | dsimp only
    | split)

theorem State.modCtx_keeps {s₀ s : State} (h : Keeps s₀ s) (c : Nat) (f : Ctx → Ctx) :
    Keeps s₀ (State.modCtx s c f) := by
  unfold State.modCtx
  repeat' (first
    | with_reducible assumption
    | with_reducible apply State.setCtx_keeps
    | with_reducible exact id
    | intro _ _ _
    | refine Keeps.ofFst (by with_reducible assumption) ?_
    | refine Keeps.ofSnd (by with_reducible assumption) ?_
    | dsimp only
    | split)

theorem State.setCore_keeps {s₀ s : State} (h : Keeps s₀ s) (c : Nat) (x : Core) :
    Keeps s₀ (State.setCore s c x) := by
  unfold State.setCore
  repeat' (first
    | with_reducible assumption
    | with_reducible exact id
    | simp only [keeps_mk_iff]
    | with_reducible apply Keeps.upd
    | intro _ _ _
    | refine Keeps.ofFst (by with_reducible assumption) ?_
    | refine Keeps.ofSnd (by with_reducible assumption) ?_
    | dsimp only
    | split)

theorem State.modCore_keeps {s₀ s : State} (h : Keeps s₀ s) (c : Nat) (f : Core → Core) :
    Keeps s₀ (State.modCore s c f) := by
  unfold State.modCore
  repeat' (first
    | with_reducible assumption
    | with_reducible apply State.setCore_keeps
    | with_reducible exact id
    | intro _ _ _
    | refine Keeps.ofFst (by with_reducible assumption) ?_
    | refine Keeps.ofSnd (by with_reducible assumption) ?_
    | dsimp only
    | split)

theorem State.setPort_keeps {s₀ s : State} (h : Keeps s₀ s) (p : Nat) (x : Port) :
    Keeps s₀ (State.setPort s p x) := by
  unfold State.setPort
  repeat' (first
    | with_reducible assumption
    | with_reducible exact id
    | simp only [keeps_mk_iff]
    | with_reducible apply Keeps.upd
    | intro _ _ _
    | refine Keeps.ofFst (by with_reducible assumption) ?_
    | refine Keeps.ofSnd (by with_reducible assumption) ?_
    | dsimp only
    | split)

theorem State.modPort_keeps {s₀ s : State} (h : Keeps s₀ s) (p : Nat) (f : Port → Port) :
    Keeps s₀ (State.modPort s p f) := by
  unfold State.modPort
  repeat' (first
    | with_reducible assumption
    | with_reducible apply State.setPort_keeps
    | with_reducible exact id
    | intro _ _ _
    | refine Keeps.ofFst (by with_reducible assumption) ?_
    | refine Keeps.ofSnd (by with_reducible assumption) ?_
    | dsimp only
    | split)

theorem State.setHdr_keeps {s₀ s : State} (h : Keeps s₀ s) (p : Nat) (x : Hdr) :
    Keeps s₀ (State.setHdr s p x) := by
  unfold State.setHdr
  repeat' (first
    | with_reducible assumption
    | with_reducible exact id
    | simp only [keeps_mk_iff]
    | with_reducible apply Keeps.upd
    | intro _ _ _
    | refine Keeps.ofFst (by with_reducible assumption) ?_
    | refine Keeps.ofSnd (by with_reducible assumption) ?_
    | dsimp only
    | split)

theorem State.modHdr_keeps {s₀ s : State} (h : Keeps s₀ s) (p : Nat) (f : Hdr → Hdr) :
    Keeps s₀ (State.modHdr s p f) := by
  unfold State.modHdr
  repeat' (first
    | with_reducible assumption
    | with_reducible apply State.setHdr_keeps
    | with_reducible exact id
    | intro _ _ _
    | refine Keeps.ofFst (by with_reducible assumption) ?_
    | refine Keeps.ofSnd (by with_reducible assumption) ?_
    | dsimp only
    | split)

theorem State.setLaser_keeps {s₀ s : State} (h : Keeps s₀ s) (u : Nat) (x : Laser) :
    Keeps s₀ (State.setLaser s u x) := by
  unfold State.setLaser
  repeat' (first
    | with_reducible assumption
    | with_reducible exact id
    | simp only [keeps_mk_iff]
    | with_reducible apply Keeps.upd
    | intro _ _ _
    | refine Keeps.ofFst (by with_reducible assumption) ?_
    | refine Keeps.ofSnd (by with_reducible assumption) ?_
    | dsimp only
    | split)

theorem State.setMc_keeps {s₀ s : State} (h : Keeps s₀ s) (i : Nat) (x : Mc) :
    Keeps s₀ (State.setMc s i x) := by
  unfold State.setMc
  repeat' (first
    | with_reducible assumption
    | with_reducible exact id
    | simp only [keeps_mk_iff]
    | with_reducible apply Keeps.upd
    | intro _ _ _
    | refine Keeps.ofFst (by with_reducible assumption) ?_
    | refine Keeps.ofSnd (by with_reducible assumption) ?_
    | dsimp only
    | split)

theorem State.setRail_keeps {s₀ s : State} (h : Keeps s₀ s) (r : Nat) (x : Rail) :
    Keeps s₀ (State.setRail s r x) := by
  unfold State.setRail
  repeat' (first
    | with_reducible assumption
    | with_reducible exact id
    | simp only [keeps_mk_iff]
    | with_reducible apply Keeps.upd
    | intro _ _ _
    | refine Keeps.ofFst (by with_reducible assumption) ?_
    | refine Keeps.ofSnd (by with_reducible assumption) ?_
    | dsimp only
    | split)

theorem State.setRegion_keeps {s₀ s : State} (h : Keeps s₀ s) (r : Nat) (x : Region) :
    Keeps s₀ (State.setRegion s r x) := by
  unfold State.setRegion
  repeat' (first
    | with_reducible assumption
    | with_reducible exact id
    | simp only [keeps_mk_iff]
    | with_reducible apply Keeps.upd
    | intro _ _ _
    | refine Keeps.ofFst (by with_reducible assumption) ?_
    | refine Keeps.ofSnd (by with_reducible assumption) ?_
    | dsimp only
    | split)

theorem State.setQueue_keeps {s₀ s : State} (h : Keeps s₀ s) (q : QRef) (y : Queue) :
    Keeps s₀ (State.setQueue s q y) := by
  unfold State.setQueue
  repeat' (first
    | with_reducible assumption
    | with_reducible apply State.modCtx_keeps
    | with_reducible exact id
    | intro _ _ _
    | refine Keeps.ofFst (by with_reducible assumption) ?_
    | refine Keeps.ofSnd (by with_reducible assumption) ?_
    | dsimp only
    | split)

theorem State.modQueue_keeps {s₀ s : State} (h : Keeps s₀ s) (q : QRef) (f : Queue → Queue) :
    Keeps s₀ (State.modQueue s q f) := by
  unfold State.modQueue
  repeat' (first
    | with_reducible assumption
    | with_reducible apply State.setQueue_keeps
    | with_reducible exact id
    | intro _ _ _
    | refine Keeps.ofFst (by with_reducible assumption) ?_
    | refine Keeps.ofSnd (by with_reducible assumption) ?_
    | dsimp only
    | split)

theorem State.setCp_keeps {s₀ s : State} (h : Keeps s₀ s) (n : Nat) (x : Cp) :
    Keeps s₀ (State.setCp s n x) := by
  unfold State.setCp
  repeat' (first
    | with_reducible assumption
    | with_reducible exact id
    | simp only [keeps_mk_iff]
    | with_reducible apply Keeps.upd
    | intro _ _ _
    | refine Keeps.ofFst (by with_reducible assumption) ?_
    | refine Keeps.ofSnd (by with_reducible assumption) ?_
    | dsimp only
    | split)

theorem State.setWl_keeps {s₀ s : State} (h : Keeps s₀ s) (n : Nat) (x : WlBp) :
    Keeps s₀ (State.setWl s n x) := by
  unfold State.setWl
  repeat' (first
    | with_reducible assumption
    | with_reducible exact id
    | simp only [keeps_mk_iff]
    | with_reducible apply Keeps.upd
    | intro _ _ _
    | refine Keeps.ofFst (by with_reducible assumption) ?_
    | refine Keeps.ofSnd (by with_reducible assumption) ?_
    | dsimp only
    | split)

theorem State.emit_keeps {s₀ s : State} (h : Keeps s₀ s) (o : Out) :
    Keeps s₀ (State.emit s o) := by
  unfold State.emit
  repeat' (first
    | with_reducible assumption
    | with_reducible exact id
    | simp only [keeps_mk_iff]
    | with_reducible apply Keeps.upd
    | intro _ _ _
    | refine Keeps.ofFst (by with_reducible assumption) ?_
    | refine Keeps.ofSnd (by with_reducible assumption) ?_
    | dsimp only
    | split)

theorem State.flushLine_keeps {s₀ s : State} (h : Keeps s₀ s) (conn n : Nat) : Keeps s₀ (State.flushLine conn n s) := by
  induction n generalizing s with
  | zero => exact h
  | succ n ih =>
    unfold State.flushLine
    split
    · exact ih (State.emit_keeps (keeps_mk_iff.2 h.upd) _)
    · exact h

theorem State.reply_keeps {s₀ s : State} (h : Keeps s₀ s) (m : Call) (result : Nat) (payload : Bytes) :
    Keeps s₀ (State.reply s m result payload) := by
  unfold State.reply
  exact State.flushLine_keeps (keeps_mk_iff.2 h.upd) _ _

theorem State.respond_keeps {s₀ s : State} (h : Keeps s₀ s) (m : Call) (result : Nat) :
    Keeps s₀ (State.respond s m result) := by
  unfold State.respond
  repeat' (first
    | with_reducible assumption
    | with_reducible apply State.reply_keeps
    | with_reducible exact id
    | intro _ _ _
    | refine Keeps.ofFst (by with_reducible assumption) ?_
    | refine Keeps.ofSnd (by with_reducible assumption) ?_
    | dsimp only
    | split)

theorem State.owe_keeps {s₀ s : State} (h : Keeps s₀ s) (m : Call) :
    Keeps s₀ (State.owe s m) := by
  unfold State.owe
  repeat' (first
    | with_reducible assumption
    | with_reducible exact id
    | simp only [keeps_mk_iff]
    | with_reducible apply Keeps.upd
    | intro _ _ _
    | refine Keeps.ofFst (by with_reducible assumption) ?_
    | refine Keeps.ofSnd (by with_reducible assumption) ?_
    | dsimp only
    | split)

theorem State.draw_keeps {s₀ s : State} (h : Keeps s₀ s) :
    Keeps s₀ (State.draw s).2 := by
  unfold State.draw
  repeat' (first
    | with_reducible assumption
    | with_reducible exact id
    | simp only [keeps_mk_iff]
    | with_reducible apply Keeps.upd
    | intro _ _ _
    | refine Keeps.ofFst (by with_reducible assumption) ?_
    | refine Keeps.ofSnd (by with_reducible assumption) ?_
    | dsimp only
    | split)

theorem State.secret_keeps {s₀ s : State} (h : Keeps s₀ s) :
    Keeps s₀ (State.secret s).2 := by
  unfold State.secret
  repeat' (first
    | with_reducible assumption
    | with_reducible exact id
    | simp only [keeps_mk_iff]
    | with_reducible apply Keeps.upd
    | ((with_reducible apply Keeps.updSec) <;> first | exact ⟨id, id, fun _ _ => .inl rfl⟩ | skip)
    | intro _ _ _
    | refine Keeps.ofFst (by with_reducible assumption) ?_
    | refine Keeps.ofSnd (by with_reducible assumption) ?_
    | dsimp only
    | split)

theorem State.waitFresh_keeps {s₀ s : State} (h : Keeps s₀ s) (w : Wait) :
    Keeps s₀ (State.waitFresh s w) := by
  unfold State.waitFresh
  split
  · exact h
  · exact keeps_mk_iff.2 (h.updSec ⟨id, id, fun _ _ => .inl rfl⟩)

theorem State.linkTrains_keeps {s₀ s : State} (h : Keeps s₀ s) :
    Keeps s₀ (State.linkTrains s) := by
  unfold State.linkTrains
  repeat' (first
    | with_reducible assumption
    | with_reducible exact id
    | simp only [keeps_mk_iff]
    | with_reducible apply Keeps.upd
    | intro _ _ _
    | refine Keeps.ofFst (by with_reducible assumption) ?_
    | refine Keeps.ofSnd (by with_reducible assumption) ?_
    | dsimp only
    | split)

theorem State.regulate_keeps {s₀ s : State} (h : Keeps s₀ s) :
    Keeps s₀ (State.regulate s) := by
  unfold State.regulate
  repeat' (first
    | with_reducible assumption
    | with_reducible exact id
    | simp only [keeps_mk_iff]
    | with_reducible apply Keeps.upd
    | intro _ _ _
    | refine Keeps.ofFst (by with_reducible assumption) ?_
    | refine Keeps.ofSnd (by with_reducible assumption) ?_
    | dsimp only
    | split)

theorem State.railsBack_keeps {s₀ s : State} (h : Keeps s₀ s) (p : Nat → Bool) :
    Keeps s₀ (State.railsBack s p) := by
  unfold State.railsBack
  repeat' (first
    | with_reducible assumption
    | with_reducible apply State.setRail_keeps
    | with_reducible apply State.regulate_keeps
    | with_reducible exact id
    | simp only [keeps_mk_iff]
    | with_reducible apply Keeps.upd
    | with_reducible apply Keeps.foldl
    | with_reducible apply Keeps.foldlFst
    | intro _ _ _
    | refine Keeps.ofFst (by with_reducible assumption) ?_
    | refine Keeps.ofSnd (by with_reducible assumption) ?_
    | dsimp only
    | split)

theorem State.access_keeps {s₀ s : State} (h : Keeps s₀ s) (fn : Nat) (i : Nat) :
    Keeps s₀ (State.access s fn i) := by
  unfold State.access
  repeat' (first
    | with_reducible assumption
    | with_reducible exact id
    | simp only [keeps_mk_iff]
    | with_reducible apply Keeps.upd
    | intro _ _ _
    | refine Keeps.ofFst (by with_reducible assumption) ?_
    | refine Keeps.ofSnd (by with_reducible assumption) ?_
    | dsimp only
    | split)

theorem State.tick_keeps {s₀ s : State} (h : Keeps s₀ s) (t : Nat) :
    Keeps s₀ (State.tick s t) := by
  unfold State.tick
  repeat' (first
    | with_reducible assumption
    | with_reducible exact id
    | simp only [keeps_mk_iff]
    | with_reducible apply Keeps.upd
    | ((with_reducible apply Keeps.updClk) <;> first | exact Nat.le_refl _ | exact Nat.le_add_right _ _ | skip)
    | intro _ _ _
    | refine Keeps.ofFst (by with_reducible assumption) ?_
    | refine Keeps.ofSnd (by with_reducible assumption) ?_
    | dsimp only
    | split)

theorem State.charge_keeps {s₀ s : State} (h : Keeps s₀ s) :
    Keeps s₀ (State.charge s) := by
  unfold State.charge
  repeat' (first
    | with_reducible assumption
    | with_reducible apply State.modCtx_keeps
    | with_reducible exact id
    | simp only [keeps_mk_iff]
    | with_reducible apply Keeps.upd
    | with_reducible apply Keeps.foldl
    | with_reducible apply Keeps.foldlFst
    | intro _ _ _
    | refine Keeps.ofFst (by with_reducible assumption) ?_
    | refine Keeps.ofSnd (by with_reducible assumption) ?_
    | dsimp only
    | split)

theorem State.slotVector_keeps {s₀ s : State} (h : Keeps s₀ s) (c : Nat) (v : Nat) :
    Keeps s₀ (State.slotVector s c v) := by
  unfold State.slotVector
  repeat' (first
    | with_reducible assumption
    | with_reducible apply State.emit_keeps
    | with_reducible exact id
    | intro _ _ _
    | refine Keeps.ofFst (by with_reducible assumption) ?_
    | refine Keeps.ofSnd (by with_reducible assumption) ?_
    | dsimp only
    | split)

theorem State.sendRise_keeps {s₀ s : State} (h : Keeps s₀ s) (i : Nat) (old : Nat) (new : Nat) :
    Keeps s₀ (State.sendRise s i old new) := by
  unfold State.sendRise
  repeat' (first
    | with_reducible assumption
    | with_reducible apply State.emit_keeps
    | with_reducible apply State.slotVector_keeps
    | with_reducible exact id
    | simp only [keeps_mk_iff]
    | with_reducible apply Keeps.upd
    | with_reducible apply Keeps.foldl
    | with_reducible apply Keeps.foldlFst
    | intro _ _ _
    | refine Keeps.ofFst (by with_reducible assumption) ?_
    | refine Keeps.ofSnd (by with_reducible assumption) ?_
    | dsimp only
    | split)

theorem State.raise_keeps {s₀ s : State} (h : Keeps s₀ s) (i : Nat) (bits : Nat) :
    Keeps s₀ (State.raise s i bits) := by
  unfold State.raise
  repeat' (first
    | with_reducible assumption
    | with_reducible apply State.modHdr_keeps
    | with_reducible apply State.sendRise_keeps
    | with_reducible exact id
    | simp only [keeps_mk_iff]
    | with_reducible apply Keeps.upd
    | intro _ _ _
    | refine Keeps.ofFst (by with_reducible assumption) ?_
    | refine Keeps.ofSnd (by with_reducible assumption) ?_
    | dsimp only
    | split)

theorem State.setEn_keeps {s₀ s : State} (h : Keeps s₀ s) (i : Nat) (v : Nat) :
    Keeps s₀ (State.setEn s i v) := by
  unfold State.setEn
  repeat' (first
    | with_reducible assumption
    | with_reducible apply State.modHdr_keeps
    | with_reducible apply State.sendRise_keeps
    | with_reducible exact id
    | simp only [keeps_mk_iff]
    | with_reducible apply Keeps.upd
    | intro _ _ _
    | refine Keeps.ofFst (by with_reducible assumption) ?_
    | refine Keeps.ofSnd (by with_reducible assumption) ?_
    | dsimp only
    | split)

theorem State.clearStat_keeps {s₀ s : State} (h : Keeps s₀ s) (i : Nat) (v : Nat) :
    Keeps s₀ (State.clearStat s i v) := by
  unfold State.clearStat
  repeat' (first
    | with_reducible assumption
    | with_reducible apply State.modHdr_keeps
    | with_reducible apply State.emit_keeps
    | with_reducible apply State.slotVector_keeps
    | with_reducible exact id
    | simp only [keeps_mk_iff]
    | with_reducible apply Keeps.upd
    | with_reducible apply Keeps.foldl
    | with_reducible apply Keeps.foldlFst
    | intro _ _ _
    | refine Keeps.ofFst (by with_reducible assumption) ?_
    | refine Keeps.ofSnd (by with_reducible assumption) ?_
    | dsimp only
    | split)

theorem State.closeConns_keeps {s₀ s : State} (h : Keeps s₀ s) (stay : Conn → Bool) :
    Keeps s₀ (State.closeConns s stay) := by
  unfold State.closeConns
  exact keeps_mk_iff.2 (h.updSec ⟨id, id, fun _ _ => .inl rfl⟩)

theorem State.push_keeps {s₀ s : State} (h : Keeps s₀ s) (kind : Nat) (value : Nat) :
    Keeps s₀ (State.push s kind value) := by
  unfold State.push
  repeat' (first
    | with_reducible assumption
    | with_reducible apply State.emit_keeps
    | with_reducible exact id
    | with_reducible apply Keeps.foldl
    | with_reducible apply Keeps.foldlFst
    | intro _ _ _
    | refine Keeps.ofFst (by with_reducible assumption) ?_
    | refine Keeps.ofSnd (by with_reducible assumption) ?_
    | dsimp only
    | split)

theorem State.latchErr_keeps {s₀ s : State} (h : Keeps s₀ s) (i : Nat) (cls : Nat) (code : Nat) (ctx : Option (Nat × Nat)) (info : Nat) :
    Keeps s₀ (State.latchErr s i cls code ctx info) := by
  unfold State.latchErr
  repeat' (first
    | with_reducible assumption
    | with_reducible apply State.modHdr_keeps
    | with_reducible exact id
    | simp only [keeps_mk_iff]
    | with_reducible apply Keeps.upd
    | intro _ _ _
    | refine Keeps.ofFst (by with_reducible assumption) ?_
    | refine Keeps.ofSnd (by with_reducible assumption) ?_
    | dsimp only
    | split)

theorem State.logRas_keeps {s₀ s : State} (h : Keeps s₀ s) (page : Nat) (cls : Nat) (code : Nat) (ctx : Option Nat) (info : Nat) :
    Keeps s₀ (State.logRas s page cls code ctx info) := by
  unfold State.logRas
  repeat' (first
    | with_reducible assumption
    | with_reducible apply State.raise_keeps
    | with_reducible apply State.push_keeps
    | with_reducible apply State.latchErr_keeps
    | with_reducible exact id
    | simp only [keeps_mk_iff]
    | with_reducible apply Keeps.upd
    | intro _ _ _
    | refine Keeps.ofFst (by with_reducible assumption) ?_
    | refine Keeps.ofSnd (by with_reducible assumption) ?_
    | dsimp only
    | split)

theorem State.perf_keeps {s₀ s : State} (h : Keeps s₀ s) (ev : Nat) (slot : Nat) (op : Nat) (tag : Nat) (n : Nat) :
    Keeps s₀ (State.perf s ev slot op tag n) := by
  unfold State.perf
  repeat' (first
    | with_reducible assumption
    | with_reducible apply State.raise_keeps
    | with_reducible exact id
    | simp only [keeps_mk_iff]
    | with_reducible apply Keeps.upd
    | with_reducible apply Keeps.foldl
    | with_reducible apply Keeps.foldlFst
    | intro _ _ _
    | refine Keeps.ofFst (by with_reducible assumption) ?_
    | refine Keeps.ofSnd (by with_reducible assumption) ?_
    | dsimp only
    | split)

theorem State.putFlit_keeps {s₀ s : State} (h : Keeps s₀ s) (q : Nat) (b : Bytes) :
    Keeps s₀ (State.putFlit s q b) := by
  unfold State.putFlit
  repeat' (first
    | with_reducible assumption
    | with_reducible apply State.modPort_keeps
    | with_reducible apply State.emit_keeps
    | with_reducible apply State.perf_keeps
    | with_reducible exact id
    | simp only [keeps_mk_iff]
    | with_reducible apply Keeps.upd
    | intro _ _ _
    | refine Keeps.ofFst (by with_reducible assumption) ?_
    | refine Keeps.ofSnd (by with_reducible assumption) ?_
    | dsimp only
    | split)

theorem State.setLine_keeps {s₀ s : State} (h : Keeps s₀ s) (ln : Nat) (l : Line) :
    Keeps s₀ (State.setLine s ln l) := by
  unfold State.setLine
  repeat' (first
    | with_reducible assumption
    | with_reducible exact id
    | simp only [keeps_mk_iff]
    | with_reducible apply Keeps.upd
    | ((with_reducible apply Keeps.updMem) <;> first | with_reducible exact Mem.wf_same rfl rfl rfl rfl rfl rfl | with_reducible exact Mem.evict_keeps _ _ | with_reducible exact Mem.evicts_keep _ _ | with_reducible exact Mem.wf_cells _ _ | with_reducible exact Mem.wf_frames _ _ | exact fun h => Mem.wf_same rfl rfl rfl rfl rfl rfl (Mem.wf_frames _ _ h) | with_reducible exact Mem.wf_lines _ _ | with_reducible exact Mem.wf_blocks _ _ | with_reducible exact Mem.wf_fver _ _ | with_reducible exact Mem.wf_host _ _ | skip)
    | intro _ _ _
    | refine Keeps.ofFst (by with_reducible assumption) ?_
    | refine Keeps.ofSnd (by with_reducible assumption) ?_
    | dsimp only
    | split)

theorem Mem.evict_keeps (m : Mem) (e : Cstr × Bool) : m.wf = true → (m.evict e).wf = true := by
  intro h
  unfold Mem.evict
  dsimp only
  split
  · exact Mem.wf_same rfl rfl rfl rfl rfl rfl h
  · split
    · split <;> exact Mem.wf_same rfl rfl rfl rfl rfl rfl h
    · split <;> exact Mem.wf_same rfl rfl rfl rfl rfl rfl h
    · exact Mem.wf_same rfl rfl rfl rfl rfl rfl h

theorem Mem.evicts_keep (l : List (Cstr × Bool)) (m : Mem) : m.wf = true → (l.foldl Mem.evict m).wf = true := by
  induction l generalizing m with
  | nil => exact id
  | cons e r ih => exact fun h => ih _ (Mem.evict_keeps m e h)

theorem State.bring_keeps {s₀ s : State} (h : Keeps s₀ s) (c : Cstr) (dirty : Bool) :
    Keeps s₀ (State.bring s c dirty) := by
  unfold State.bring
  repeat' (first
    | with_reducible assumption
    | with_reducible apply State.draw_keeps
    | with_reducible apply Mem.evict_keeps
    | with_reducible exact id
    | simp only [keeps_mk_iff]
    | with_reducible apply Keeps.upd
    | ((with_reducible apply Keeps.updMem) <;> first | with_reducible exact Mem.wf_same rfl rfl rfl rfl rfl rfl | with_reducible exact Mem.evict_keeps _ _ | with_reducible exact Mem.evicts_keep _ _ | with_reducible exact Mem.wf_cells _ _ | with_reducible exact Mem.wf_frames _ _ | exact fun h => Mem.wf_same rfl rfl rfl rfl rfl rfl (Mem.wf_frames _ _ h) | with_reducible exact Mem.wf_lines _ _ | with_reducible exact Mem.wf_blocks _ _ | with_reducible exact Mem.wf_fver _ _ | with_reducible exact Mem.wf_host _ _ | skip)
    | intro _ _ _
    | refine Keeps.ofFst (by with_reducible assumption) ?_
    | refine Keeps.ofSnd (by with_reducible assumption) ?_
    | dsimp only
    | split)

theorem State.fill_keeps {s₀ s : State} (h : Keeps s₀ s) (replay : Bool) (write : Bool) (ln : Nat) :
    Keeps s₀ (State.fill s replay write ln) := by
  unfold State.fill
  repeat' (first
    | with_reducible assumption
    | with_reducible apply State.bring_keeps
    | with_reducible exact id
    | with_reducible apply Keeps.foldl
    | with_reducible apply Keeps.foldlFst
    | intro _ _ _
    | refine Keeps.ofFst (by with_reducible assumption) ?_
    | refine Keeps.ofSnd (by with_reducible assumption) ?_
    | dsimp only
    | split)

theorem State.fillAt_keeps {s₀ s : State} (h : Keeps s₀ s) (replay : Bool) (write : Bool) (fa : Nat) (n : Nat) :
    Keeps s₀ (State.fillAt s replay write fa n) := by
  unfold State.fillAt
  repeat' (first
    | with_reducible assumption
    | with_reducible apply State.fill_keeps
    | with_reducible exact id
    | with_reducible apply Keeps.foldl
    | with_reducible apply Keeps.foldlFst
    | intro _ _ _
    | refine Keeps.ofFst (by with_reducible assumption) ?_
    | refine Keeps.ofSnd (by with_reducible assumption) ?_
    | dsimp only
    | split)

theorem State.setByte_keeps {s₀ s : State} (h : Keeps s₀ s) (fa : Nat) (b : Byte) :
    Keeps s₀ (State.setByte s fa b) := by
  unfold State.setByte
  repeat' (first
    | with_reducible assumption
    | with_reducible exact id
    | simp only [keeps_mk_iff]
    | with_reducible apply Keeps.upd
    | ((with_reducible apply Keeps.updMem) <;> first | with_reducible exact Mem.wf_same rfl rfl rfl rfl rfl rfl | with_reducible exact Mem.evict_keeps _ _ | with_reducible exact Mem.evicts_keep _ _ | with_reducible exact Mem.wf_cells _ _ | with_reducible exact Mem.wf_frames _ _ | exact fun h => Mem.wf_same rfl rfl rfl rfl rfl rfl (Mem.wf_frames _ _ h) | with_reducible exact Mem.wf_lines _ _ | with_reducible exact Mem.wf_blocks _ _ | with_reducible exact Mem.wf_fver _ _ | with_reducible exact Mem.wf_host _ _ | skip)
    | intro _ _ _
    | refine Keeps.ofFst (by with_reducible assumption) ?_
    | refine Keeps.ofSnd (by with_reducible assumption) ?_
    | dsimp only
    | split)

theorem State.setBytes_keeps {s₀ s : State} (h : Keeps s₀ s) (fa : Nat) (d : Bytes) : Keeps s₀ (s.setBytes fa d) := by
  induction d generalizing s fa with
  | nil => exact h
  | cons b d ih => exact ih (State.setByte_keeps h fa b) (fa + 1)

theorem State.queueAnneal_keeps {s₀ s : State} (h : Keeps s₀ s) (c : Nat) (r : Nat) :
    Keeps s₀ (State.queueAnneal s c r) := by
  unfold State.queueAnneal
  repeat' (first
    | with_reducible assumption
    | with_reducible exact id
    | simp only [keeps_mk_iff]
    | with_reducible apply Keeps.upd
    | ((with_reducible apply Keeps.updMem) <;> first | with_reducible exact Mem.wf_same rfl rfl rfl rfl rfl rfl | with_reducible exact Mem.evict_keeps _ _ | with_reducible exact Mem.evicts_keep _ _ | with_reducible exact Mem.wf_cells _ _ | with_reducible exact Mem.wf_frames _ _ | exact fun h => Mem.wf_same rfl rfl rfl rfl rfl rfl (Mem.wf_frames _ _ h) | with_reducible exact Mem.wf_lines _ _ | with_reducible exact Mem.wf_blocks _ _ | with_reducible exact Mem.wf_fver _ _ | with_reducible exact Mem.wf_host _ _ | skip)
    | intro _ _ _
    | refine Keeps.ofFst (by with_reducible assumption) ?_
    | refine Keeps.ofSnd (by with_reducible assumption) ?_
    | dsimp only
    | split)

theorem State.annealKey_keeps {s₀ s : State} (h : Keeps s₀ s) (key : Nat) :
    Keeps s₀ (State.annealKey s key) := by
  unfold State.annealKey
  repeat' (first
    | with_reducible assumption
    | with_reducible apply State.queueAnneal_keeps
    | with_reducible exact id
    | with_reducible apply Keeps.foldl
    | with_reducible apply Keeps.foldlFst
    | intro _ _ _
    | refine Keeps.ofFst (by with_reducible assumption) ?_
    | refine Keeps.ofSnd (by with_reducible assumption) ?_
    | dsimp only
    | split)

theorem State.setBlock_keeps {s₀ s : State} (h : Keeps s₀ s) (b : Nat) (x : Block) :
    Keeps s₀ (State.setBlock s b x) := by
  unfold State.setBlock
  repeat' (first
    | with_reducible assumption
    | with_reducible exact id
    | simp only [keeps_mk_iff]
    | with_reducible apply Keeps.upd
    | ((with_reducible apply Keeps.updMem) <;> first | with_reducible exact Mem.wf_same rfl rfl rfl rfl rfl rfl | with_reducible exact Mem.evict_keeps _ _ | with_reducible exact Mem.evicts_keep _ _ | with_reducible exact Mem.wf_cells _ _ | with_reducible exact Mem.wf_frames _ _ | exact fun h => Mem.wf_same rfl rfl rfl rfl rfl rfl (Mem.wf_frames _ _ h) | with_reducible exact Mem.wf_lines _ _ | with_reducible exact Mem.wf_blocks _ _ | with_reducible exact Mem.wf_fver _ _ | with_reducible exact Mem.wf_host _ _ | skip)
    | intro _ _ _
    | refine Keeps.ofFst (by with_reducible assumption) ?_
    | refine Keeps.ofSnd (by with_reducible assumption) ?_
    | dsimp only
    | split)

theorem State.bumpFver_keeps {s₀ s : State} (h : Keeps s₀ s) (f : Nat) (n : Nat) :
    Keeps s₀ (State.bumpFver s f n) := by
  unfold State.bumpFver
  repeat' (first
    | with_reducible assumption
    | with_reducible exact id
    | simp only [keeps_mk_iff]
    | with_reducible apply Keeps.upd
    | ((with_reducible apply Keeps.updMem) <;> first | with_reducible exact Mem.wf_same rfl rfl rfl rfl rfl rfl | with_reducible exact Mem.evict_keeps _ _ | with_reducible exact Mem.evicts_keep _ _ | with_reducible exact Mem.wf_cells _ _ | with_reducible exact Mem.wf_frames _ _ | exact fun h => Mem.wf_same rfl rfl rfl rfl rfl rfl (Mem.wf_frames _ _ h) | with_reducible exact Mem.wf_lines _ _ | with_reducible exact Mem.wf_blocks _ _ | with_reducible exact Mem.wf_fver _ _ | with_reducible exact Mem.wf_host _ _ | skip)
    | intro _ _ _
    | refine Keeps.ofFst (by with_reducible assumption) ?_
    | refine Keeps.ofSnd (by with_reducible assumption) ?_
    | dsimp only
    | split)

theorem State.poisonFailing_keeps {s₀ s : State} (h : Keeps s₀ s) (b : Nat) (key : Nat) :
    Keeps s₀ (State.poisonFailing s b key) := by
  unfold State.poisonFailing
  repeat' (first
    | with_reducible assumption
    | with_reducible apply State.setLine_keeps
    | with_reducible exact id
    | simp only [keeps_mk_iff]
    | with_reducible apply Keeps.upd
    | with_reducible apply Keeps.foldl
    | with_reducible apply Keeps.foldlFst
    | intro _ _ _
    | refine Keeps.ofFst (by with_reducible assumption) ?_
    | refine Keeps.ofSnd (by with_reducible assumption) ?_
    | dsimp only
    | split)

theorem State.reencrypt_keeps {s₀ s : State} (h : Keeps s₀ s) (b : Nat) (key : Nat) :
    Keeps s₀ (State.reencrypt s b key) := by
  unfold State.reencrypt
  repeat' (first
    | with_reducible assumption
    | with_reducible apply State.raise_keeps
    | with_reducible apply State.logRas_keeps
    | with_reducible apply State.annealKey_keeps
    | with_reducible apply State.setBlock_keeps
    | with_reducible apply State.poisonFailing_keeps
    | with_reducible exact id
    | simp only [keeps_mk_iff]
    | with_reducible apply Keeps.upd
    | ((with_reducible apply Keeps.updMem) <;> first | with_reducible exact Mem.wf_same rfl rfl rfl rfl rfl rfl | with_reducible exact Mem.evict_keeps _ _ | with_reducible exact Mem.evicts_keep _ _ | with_reducible exact Mem.wf_cells _ _ | with_reducible exact Mem.wf_frames _ _ | exact fun h => Mem.wf_same rfl rfl rfl rfl rfl rfl (Mem.wf_frames _ _ h) | with_reducible exact Mem.wf_lines _ _ | with_reducible exact Mem.wf_blocks _ _ | with_reducible exact Mem.wf_fver _ _ | with_reducible exact Mem.wf_host _ _ | skip)
    | intro _ _ _
    | refine Keeps.ofFst (by with_reducible assumption) ?_
    | refine Keeps.ofSnd (by with_reducible assumption) ?_
    | dsimp only
    | split)

theorem State.initBlock_keeps {s₀ s : State} (h : Keeps s₀ s) (b : Nat) (key : Nat) :
    Keeps s₀ (State.initBlock s b key) := by
  unfold State.initBlock
  repeat' (first
    | with_reducible assumption
    | with_reducible apply State.setBlock_keeps
    | with_reducible apply State.reencrypt_keeps
    | with_reducible exact id
    | intro _ _ _
    | refine Keeps.ofFst (by with_reducible assumption) ?_
    | refine Keeps.ofSnd (by with_reducible assumption) ?_
    | dsimp only
    | split)

theorem State.countWrite_keeps {s₀ s : State} (h : Keeps s₀ s) (ln : Nat) (key : Nat) :
    Keeps s₀ (State.countWrite s ln key) := by
  unfold State.countWrite
  repeat' (first
    | with_reducible assumption
    | with_reducible apply State.setBlock_keeps
    | with_reducible apply State.bumpFver_keeps
    | with_reducible apply State.reencrypt_keeps
    | with_reducible exact id
    | simp only [keeps_mk_iff]
    | with_reducible apply Keeps.upd
    | intro _ _ _
    | refine Keeps.ofFst (by with_reducible assumption) ?_
    | refine Keeps.ofSnd (by with_reducible assumption) ?_
    | dsimp only
    | split)

theorem State.lineWrite_keeps {s₀ s : State} (h : Keeps s₀ s) (key : Nat) (replay : Bool) (fa : Nat) (d : Bytes) :
    Keeps s₀ (State.lineWrite s key replay fa d).1 := by
  unfold State.lineWrite
  repeat' (first
    | with_reducible assumption
    | with_reducible apply State.setLine_keeps
    | with_reducible apply State.setBytes_keeps
    | with_reducible apply State.countWrite_keeps
    | with_reducible exact id
    | simp only [keeps_mk_iff]
    | with_reducible apply Keeps.upd
    | ((with_reducible apply Keeps.updMem) <;> first | with_reducible exact Mem.wf_same rfl rfl rfl rfl rfl rfl | with_reducible exact Mem.evict_keeps _ _ | with_reducible exact Mem.evicts_keep _ _ | with_reducible exact Mem.wf_cells _ _ | with_reducible exact Mem.wf_frames _ _ | exact fun h => Mem.wf_same rfl rfl rfl rfl rfl rfl (Mem.wf_frames _ _ h) | with_reducible exact Mem.wf_lines _ _ | with_reducible exact Mem.wf_blocks _ _ | with_reducible exact Mem.wf_fver _ _ | with_reducible exact Mem.wf_host _ _ | skip)
    | intro _ _ _
    | refine Keeps.ofFst (by with_reducible assumption) ?_
    | refine Keeps.ofSnd (by with_reducible assumption) ?_
    | dsimp only
    | split)

theorem State.putHeld_keeps {s₀ s : State} (h : Keeps s₀ s) (w : HeldWrite) :
    Keeps s₀ (State.putHeld s w).1 := by
  unfold State.putHeld
  repeat' (first
    | with_reducible assumption
    | with_reducible apply State.setLine_keeps
    | with_reducible apply State.lineWrite_keeps
    | with_reducible exact id
    | simp only [keeps_mk_iff]
    | with_reducible apply Keeps.upd
    | intro _ _ _
    | refine Keeps.ofFst (by with_reducible assumption) ?_
    | refine Keeps.ofSnd (by with_reducible assumption) ?_
    | dsimp only
    | split)

theorem State.heldWrites_keeps {s₀ s : State} (h : Keeps s₀ s) (m : Migration) :
    Keeps s₀ (State.heldWrites s m) := by
  unfold State.heldWrites
  repeat' (first
    | with_reducible assumption
    | with_reducible apply State.putHeld_keeps
    | with_reducible exact id
    | with_reducible apply Keeps.foldl
    | with_reducible apply Keeps.foldlFst
    | intro _ _ _
    | refine Keeps.ofFst (by with_reducible assumption) ?_
    | refine Keeps.ofSnd (by with_reducible assumption) ?_
    | dsimp only
    | split)

theorem State.view_keeps {s₀ s : State} (h : Keeps s₀ s) (f : Nat) :
    Keeps s₀ (State.view s f) := by
  unfold State.view
  repeat' (first
    | with_reducible assumption
    | with_reducible apply State.heldWrites_keeps
    | with_reducible exact id
    | simp only [keeps_mk_iff]
    | with_reducible apply Keeps.upd
    | intro _ _ _
    | refine Keeps.ofFst (by with_reducible assumption) ?_
    | refine Keeps.ofSnd (by with_reducible assumption) ?_
    | dsimp only
    | split)

theorem State.untilStop_keeps {α : Type} {s₀ s : State} {f : State → α → State × Option Acc} {l : List α}
    (hf : ∀ y a, Keeps s₀ y → Keeps s₀ (f y a).1) (h : Keeps s₀ s) : Keeps s₀ (untilStop f l s).1 := Keeps.untilStop hf h

theorem State.failStructure_keeps {s₀ s : State} (h : Keeps s₀ s) (c : Cstr) (ctx : Option Nat) :
    Keeps s₀ (State.failStructure s c ctx) := by
  unfold State.failStructure
  repeat' (first
    | with_reducible assumption
    | with_reducible apply State.raise_keeps
    | with_reducible apply State.logRas_keeps
    | with_reducible exact id
    | simp only [keeps_mk_iff]
    | with_reducible apply Keeps.upd
    | ((with_reducible apply Keeps.updMem) <;> first | with_reducible exact Mem.wf_same rfl rfl rfl rfl rfl rfl | with_reducible exact Mem.evict_keeps _ _ | with_reducible exact Mem.evicts_keep _ _ | with_reducible exact Mem.wf_cells _ _ | with_reducible exact Mem.wf_frames _ _ | exact fun h => Mem.wf_same rfl rfl rfl rfl rfl rfl (Mem.wf_frames _ _ h) | with_reducible exact Mem.wf_lines _ _ | with_reducible exact Mem.wf_blocks _ _ | with_reducible exact Mem.wf_fver _ _ | with_reducible exact Mem.wf_host _ _ | skip)
    | intro _ _ _
    | refine Keeps.ofFst (by with_reducible assumption) ?_
    | refine Keeps.ofSnd (by with_reducible assumption) ?_
    | dsimp only
    | split)

theorem State.poison_keeps {s₀ s : State} (h : Keeps s₀ s) (ln : Nat) :
    Keeps s₀ (State.poison s ln) := by
  unfold State.poison
  repeat' (first
    | with_reducible assumption
    | with_reducible apply State.setLine_keeps
    | with_reducible exact id
    | simp only [keeps_mk_iff]
    | with_reducible apply Keeps.upd
    | intro _ _ _
    | refine Keeps.ofFst (by with_reducible assumption) ?_
    | refine Keeps.ofSnd (by with_reducible assumption) ?_
    | dsimp only
    | split)

theorem State.place_keeps {s₀ s : State} (h : Keeps s₀ s) (f : Nat) (b : Backing) :
    Keeps s₀ (State.place s f b) := by
  unfold State.place
  repeat' (first
    | with_reducible assumption
    | with_reducible apply State.setMc_keeps
    | with_reducible apply State.draw_keeps
    | with_reducible exact id
    | simp only [keeps_mk_iff]
    | with_reducible apply Keeps.upd
    | ((with_reducible apply Keeps.updMem) <;> first | with_reducible exact Mem.wf_same rfl rfl rfl rfl rfl rfl | with_reducible exact Mem.evict_keeps _ _ | with_reducible exact Mem.evicts_keep _ _ | with_reducible exact Mem.wf_cells _ _ | with_reducible exact Mem.wf_frames _ _ | exact fun h => Mem.wf_same rfl rfl rfl rfl rfl rfl (Mem.wf_frames _ _ h) | with_reducible exact Mem.wf_lines _ _ | with_reducible exact Mem.wf_blocks _ _ | with_reducible exact Mem.wf_fver _ _ | with_reducible exact Mem.wf_host _ _ | skip)
    | intro _ _ _
    | refine Keeps.ofFst (by with_reducible assumption) ?_
    | refine Keeps.ofSnd (by with_reducible assumption) ?_
    | dsimp only
    | split)

theorem State.startMoves_keeps {s₀ s : State} (h : Keeps s₀ s) :
    Keeps s₀ (State.startMoves s) := by
  unfold State.startMoves
  repeat' (first
    | with_reducible assumption
    | with_reducible apply State.draw_keeps
    | with_reducible exact id
    | simp only [keeps_mk_iff]
    | with_reducible apply Keeps.upd
    | ((with_reducible apply Keeps.updMem) <;> first | with_reducible exact Mem.wf_same rfl rfl rfl rfl rfl rfl | with_reducible exact Mem.evict_keeps _ _ | with_reducible exact Mem.evicts_keep _ _ | with_reducible exact Mem.wf_cells _ _ | with_reducible exact Mem.wf_frames _ _ | exact fun h => Mem.wf_same rfl rfl rfl rfl rfl rfl (Mem.wf_frames _ _ h) | with_reducible exact Mem.wf_lines _ _ | with_reducible exact Mem.wf_blocks _ _ | with_reducible exact Mem.wf_fver _ _ | with_reducible exact Mem.wf_host _ _ | skip)
    | with_reducible apply Keeps.foldl
    | with_reducible apply Keeps.foldlFst
    | intro _ _ _
    | refine Keeps.ofFst (by with_reducible assumption) ?_
    | refine Keeps.ofSnd (by with_reducible assumption) ?_
    | dsimp only
    | split)

theorem State.wantNear_keeps {s₀ s : State} (h : Keeps s₀ s) (f : Nat) (seq : Bool) :
    Keeps s₀ (State.wantNear s f seq) := by
  unfold State.wantNear
  repeat' (first
    | with_reducible assumption
    | with_reducible exact id
    | simp only [keeps_mk_iff]
    | with_reducible apply Keeps.upd
    | ((with_reducible apply Keeps.updMem) <;> first | with_reducible exact Mem.wf_same rfl rfl rfl rfl rfl rfl | with_reducible exact Mem.evict_keeps _ _ | with_reducible exact Mem.evicts_keep _ _ | with_reducible exact Mem.wf_cells _ _ | with_reducible exact Mem.wf_frames _ _ | exact fun h => Mem.wf_same rfl rfl rfl rfl rfl rfl (Mem.wf_frames _ _ h) | with_reducible exact Mem.wf_lines _ _ | with_reducible exact Mem.wf_blocks _ _ | with_reducible exact Mem.wf_fver _ _ | with_reducible exact Mem.wf_host _ _ | skip)
    | intro _ _ _
    | refine Keeps.ofFst (by with_reducible assumption) ?_
    | refine Keeps.ofSnd (by with_reducible assumption) ?_
    | dsimp only
    | split)

theorem State.retireLocation_keeps {s₀ s : State} (h : Keeps s₀ s) (mcx : Nat) (pg : Nat) (frame : Option Nat) :
    Keeps s₀ (State.retireLocation s mcx pg frame) := by
  unfold State.retireLocation
  split
  · have h₁ : Keeps s₀ { s with
        ident := { s.ident with retired := tmod 0 s.ident.retired mcx (fun n => satAdd 16 n 1) }
        mem := { s.mem with spares := s.mem.spares - 1, retiredNow := satAdd 16 s.mem.retiredNow 1 } } :=
      keeps_mk_iff.2 (h.updAll rfl rfl (Nat.le_refl _) (Mem.wf_same rfl rfl rfl rfl rfl rfl) (.rfl _))
    dsimp only at h₁ ⊢
    refine State.raise_keeps (State.raise_keeps ?_ _ _) _ _
    split
    · split
      · exact State.startMoves_keeps (keeps_mk_iff.2 (h₁.updMem (Mem.wf_frames _ _)))
      · exact h₁
    · exact h₁
  · exact State.logRas_keeps (State.raise_keeps h _ _) _ _ _ _ _

theorem State.correctedAt_keeps {s₀ s : State} (h : Keeps s₀ s) (mcx : Nat) (pg : Nat) (frame : Option Nat) :
    Keeps s₀ (State.correctedAt s mcx pg frame) := by
  unfold State.correctedAt
  repeat' (first
    | with_reducible assumption
    | with_reducible apply State.setMc_keeps
    | with_reducible apply State.draw_keeps
    | with_reducible apply State.logRas_keeps
    | with_reducible apply State.retireLocation_keeps
    | with_reducible exact id
    | simp only [keeps_mk_iff]
    | with_reducible apply Keeps.upd
    | intro _ _ _
    | refine Keeps.ofFst (by with_reducible assumption) ?_
    | refine Keeps.ofSnd (by with_reducible assumption) ?_
    | dsimp only
    | split)

theorem State.uncorrectableAt_keeps {s₀ s : State} (h : Keeps s₀ s) (ctx : Option (Option Nat)) (ln : Nat) :
    Keeps s₀ (State.uncorrectableAt s ctx ln) := by
  unfold State.uncorrectableAt
  repeat' (first
    | with_reducible assumption
    | with_reducible apply State.setMc_keeps
    | with_reducible apply State.raise_keeps
    | with_reducible apply State.logRas_keeps
    | with_reducible apply State.poison_keeps
    | with_reducible apply State.retireLocation_keeps
    | with_reducible exact id
    | simp only [keeps_mk_iff]
    | with_reducible apply Keeps.upd
    | ((with_reducible apply Keeps.updMem) <;> first | with_reducible exact Mem.wf_same rfl rfl rfl rfl rfl rfl | with_reducible exact Mem.evict_keeps _ _ | with_reducible exact Mem.evicts_keep _ _ | with_reducible exact Mem.wf_cells _ _ | with_reducible exact Mem.wf_frames _ _ | exact fun h => Mem.wf_same rfl rfl rfl rfl rfl rfl (Mem.wf_frames _ _ h) | with_reducible exact Mem.wf_lines _ _ | with_reducible exact Mem.wf_blocks _ _ | with_reducible exact Mem.wf_fver _ _ | with_reducible exact Mem.wf_host _ _ | skip)
    | intro _ _ _
    | refine Keeps.ofFst (by with_reducible assumption) ?_
    | refine Keeps.ofSnd (by with_reducible assumption) ?_
    | dsimp only
    | split)

theorem State.noteAcc_keeps {s₀ s : State} (h : Keeps s₀ s) (c : Option Nat) (e : Acc) :
    Keeps s₀ (State.noteAcc s c e) := by
  unfold State.noteAcc
  repeat' (first
    | with_reducible assumption
    | with_reducible apply State.logRas_keeps
    | with_reducible apply State.failStructure_keeps
    | with_reducible apply State.uncorrectableAt_keeps
    | with_reducible exact id
    | simp only [keeps_mk_iff]
    | with_reducible apply Keeps.upd
    | ((with_reducible apply Keeps.updMem) <;> first | with_reducible exact Mem.wf_same rfl rfl rfl rfl rfl rfl | with_reducible exact Mem.evict_keeps _ _ | with_reducible exact Mem.evicts_keep _ _ | with_reducible exact Mem.wf_cells _ _ | with_reducible exact Mem.wf_frames _ _ | exact fun h => Mem.wf_same rfl rfl rfl rfl rfl rfl (Mem.wf_frames _ _ h) | with_reducible exact Mem.wf_lines _ _ | with_reducible exact Mem.wf_blocks _ _ | with_reducible exact Mem.wf_fver _ _ | with_reducible exact Mem.wf_host _ _ | skip)
    | intro _ _ _
    | refine Keeps.ofFst (by with_reducible assumption) ?_
    | refine Keeps.ofSnd (by with_reducible assumption) ?_
    | dsimp only
    | split)

theorem State.corrections_keeps {s₀ s : State} (h : Keeps s₀ s) (fa : Nat) (n : Nat) :
    Keeps s₀ (State.corrections s fa n) := by
  unfold State.corrections
  repeat' (first
    | with_reducible assumption
    | with_reducible apply State.correctedAt_keeps
    | with_reducible exact id
    | simp only [keeps_mk_iff]
    | with_reducible apply Keeps.upd
    | ((with_reducible apply Keeps.updMem) <;> first | with_reducible exact Mem.wf_same rfl rfl rfl rfl rfl rfl | with_reducible exact Mem.evict_keeps _ _ | with_reducible exact Mem.evicts_keep _ _ | with_reducible exact Mem.wf_cells _ _ | with_reducible exact Mem.wf_frames _ _ | exact fun h => Mem.wf_same rfl rfl rfl rfl rfl rfl (Mem.wf_frames _ _ h) | with_reducible exact Mem.wf_lines _ _ | with_reducible exact Mem.wf_blocks _ _ | with_reducible exact Mem.wf_fver _ _ | with_reducible exact Mem.wf_host _ _ | skip)
    | with_reducible apply Keeps.foldl
    | with_reducible apply Keeps.foldlFst
    | intro _ _ _
    | refine Keeps.ofFst (by with_reducible assumption) ?_
    | refine Keeps.ofSnd (by with_reducible assumption) ?_
    | dsimp only
    | split)

theorem State.noteHold_keeps {s₀ s : State} (h : Keeps s₀ s) (m : Migration) :
    Keeps s₀ (State.noteHold s m) := by
  unfold State.noteHold
  repeat' (first
    | with_reducible assumption
    | with_reducible apply State.perf_keeps
    | with_reducible exact id
    | simp only [keeps_mk_iff]
    | with_reducible apply Keeps.upd
    | ((with_reducible apply Keeps.updMem) <;> first | with_reducible exact Mem.wf_same rfl rfl rfl rfl rfl rfl | with_reducible exact Mem.evict_keeps _ _ | with_reducible exact Mem.evicts_keep _ _ | with_reducible exact Mem.wf_cells _ _ | with_reducible exact Mem.wf_frames _ _ | exact fun h => Mem.wf_same rfl rfl rfl rfl rfl rfl (Mem.wf_frames _ _ h) | with_reducible exact Mem.wf_lines _ _ | with_reducible exact Mem.wf_blocks _ _ | with_reducible exact Mem.wf_fver _ _ | with_reducible exact Mem.wf_host _ _ | skip)
    | with_reducible apply Keeps.foldl
    | with_reducible apply Keeps.foldlFst
    | intro _ _ _
    | refine Keeps.ofFst (by with_reducible assumption) ?_
    | refine Keeps.ofSnd (by with_reducible assumption) ?_
    | dsimp only
    | split)

theorem State.copyErrors_keeps {s₀ s : State} (h : Keeps s₀ s) (f : Nat) :
    Keeps s₀ (State.copyErrors s f) := by
  unfold State.copyErrors
  repeat' (first
    | with_reducible assumption
    | with_reducible apply State.uncorrectableAt_keeps
    | with_reducible exact id
    | with_reducible apply Keeps.foldl
    | with_reducible apply Keeps.foldlFst
    | intro _ _ _
    | refine Keeps.ofFst (by with_reducible assumption) ?_
    | refine Keeps.ofSnd (by with_reducible assumption) ?_
    | dsimp only
    | split)

theorem State.dropLines_keeps {s₀ s : State} (h : Keeps s₀ s) (f : Nat) :
    Keeps s₀ (State.dropLines s f) := by
  unfold State.dropLines
  repeat' (first
    | with_reducible assumption
    | with_reducible apply Mem.evict_keeps
    | with_reducible exact id
    | simp only [keeps_mk_iff]
    | with_reducible apply Keeps.upd
    | ((with_reducible apply Keeps.updMem) <;> first | with_reducible exact Mem.wf_same rfl rfl rfl rfl rfl rfl | with_reducible exact Mem.evict_keeps _ _ | with_reducible exact Mem.evicts_keep _ _ | with_reducible exact Mem.wf_cells _ _ | with_reducible exact Mem.wf_frames _ _ | exact fun h => Mem.wf_same rfl rfl rfl rfl rfl rfl (Mem.wf_frames _ _ h) | with_reducible exact Mem.wf_lines _ _ | with_reducible exact Mem.wf_blocks _ _ | with_reducible exact Mem.wf_fver _ _ | with_reducible exact Mem.wf_host _ _ | skip)
    | with_reducible apply Keeps.foldl
    | with_reducible apply Keeps.foldlFst
    | intro _ _ _
    | refine Keeps.ofFst (by with_reducible assumption) ?_
    | refine Keeps.ofSnd (by with_reducible assumption) ?_
    | dsimp only
    | split)

theorem State.endMigration_keeps {s₀ s : State} (h : Keeps s₀ s) (m : Migration) :
    Keeps s₀ (State.endMigration s m) := by
  unfold State.endMigration
  repeat' (first
    | with_reducible assumption
    | with_reducible apply State.heldWrites_keeps
    | with_reducible apply State.startMoves_keeps
    | with_reducible apply State.noteHold_keeps
    | with_reducible exact id
    | simp only [keeps_mk_iff]
    | with_reducible apply Keeps.upd
    | ((with_reducible apply Keeps.updMem) <;> first | with_reducible exact Mem.wf_same rfl rfl rfl rfl rfl rfl | with_reducible exact Mem.evict_keeps _ _ | with_reducible exact Mem.evicts_keep _ _ | with_reducible exact Mem.wf_cells _ _ | with_reducible exact Mem.wf_frames _ _ | exact fun h => Mem.wf_same rfl rfl rfl rfl rfl rfl (Mem.wf_frames _ _ h) | with_reducible exact Mem.wf_lines _ _ | with_reducible exact Mem.wf_blocks _ _ | with_reducible exact Mem.wf_fver _ _ | with_reducible exact Mem.wf_host _ _ | skip)
    | intro _ _ _
    | refine Keeps.ofFst (by with_reducible assumption) ?_
    | refine Keeps.ofSnd (by with_reducible assumption) ?_
    | dsimp only
    | split)

theorem State.cancelMigration_keeps {s₀ s : State} (h : Keeps s₀ s) (m : Migration) :
    Keeps s₀ (State.cancelMigration s m) := by
  unfold State.cancelMigration
  repeat' (first
    | with_reducible assumption
    | with_reducible apply State.endMigration_keeps
    | with_reducible exact id
    | simp only [keeps_mk_iff]
    | with_reducible apply Keeps.upd
    | ((with_reducible apply Keeps.updMem) <;> first | with_reducible exact Mem.wf_same rfl rfl rfl rfl rfl rfl | with_reducible exact Mem.evict_keeps _ _ | with_reducible exact Mem.evicts_keep _ _ | with_reducible exact Mem.wf_cells _ _ | with_reducible exact Mem.wf_frames _ _ | exact fun h => Mem.wf_same rfl rfl rfl rfl rfl rfl (Mem.wf_frames _ _ h) | with_reducible exact Mem.wf_lines _ _ | with_reducible exact Mem.wf_blocks _ _ | with_reducible exact Mem.wf_fver _ _ | with_reducible exact Mem.wf_host _ _ | skip)
    | intro _ _ _
    | refine Keeps.ofFst (by with_reducible assumption) ?_
    | refine Keeps.ofSnd (by with_reducible assumption) ?_
    | dsimp only
    | split)

theorem State.switchTo_keeps {s₀ s : State} (h : Keeps s₀ s) (m : Migration) :
    Keeps s₀ (State.switchTo s m) := by
  unfold State.switchTo
  repeat' (first
    | with_reducible assumption
    | with_reducible apply State.place_keeps
    | with_reducible apply State.copyErrors_keeps
    | with_reducible apply State.dropLines_keeps
    | with_reducible apply State.endMigration_keeps
    | with_reducible exact id
    | simp only [keeps_mk_iff]
    | with_reducible apply Keeps.upd
    | ((with_reducible apply Keeps.updMem) <;> first | with_reducible exact Mem.wf_same rfl rfl rfl rfl rfl rfl | with_reducible exact Mem.evict_keeps _ _ | with_reducible exact Mem.evicts_keep _ _ | with_reducible exact Mem.wf_cells _ _ | with_reducible exact Mem.wf_frames _ _ | exact fun h => Mem.wf_same rfl rfl rfl rfl rfl rfl (Mem.wf_frames _ _ h) | with_reducible exact Mem.wf_lines _ _ | with_reducible exact Mem.wf_blocks _ _ | with_reducible exact Mem.wf_fver _ _ | with_reducible exact Mem.wf_host _ _ | skip)
    | intro _ _ _
    | refine Keeps.ofFst (by with_reducible assumption) ?_
    | refine Keeps.ofSnd (by with_reducible assumption) ?_
    | dsimp only
    | split)

theorem State.makeRoom_keeps {s₀ s : State} (h : Keeps s₀ s) (tier : Nat) :
    Keeps s₀ (State.makeRoom s tier) := by
  unfold State.makeRoom
  repeat' (first
    | with_reducible assumption
    | with_reducible apply State.draw_keeps
    | with_reducible apply State.switchTo_keeps
    | with_reducible exact id
    | simp only [keeps_mk_iff]
    | with_reducible apply Keeps.upd
    | intro _ _ _
    | refine Keeps.ofFst (by with_reducible assumption) ?_
    | refine Keeps.ofSnd (by with_reducible assumption) ?_
    | dsimp only
    | split)

theorem State.toTier_keeps {s₀ s : State} (h : Keeps s₀ s) (f : Nat) (tier : Nat) :
    Keeps s₀ (State.toTier s f tier) := by
  unfold State.toTier
  repeat' (first
    | with_reducible assumption
    | with_reducible apply State.draw_keeps
    | with_reducible apply State.cancelMigration_keeps
    | with_reducible apply State.switchTo_keeps
    | with_reducible apply State.makeRoom_keeps
    | with_reducible exact id
    | simp only [keeps_mk_iff]
    | with_reducible apply Keeps.upd
    | intro _ _ _
    | refine Keeps.ofFst (by with_reducible assumption) ?_
    | refine Keeps.ofSnd (by with_reducible assumption) ?_
    | dsimp only
    | split)

theorem State.notePin_keeps {s₀ s : State} (h : Keeps s₀ s) (c : Nat) (va : Nat) (f : Nat) (pin : Nat) :
    Keeps s₀ (State.notePin s c va f pin) := by
  unfold State.notePin
  repeat' (first
    | with_reducible assumption
    | with_reducible apply State.raise_keeps
    | with_reducible apply State.toTier_keeps
    | with_reducible exact id
    | simp only [keeps_mk_iff]
    | with_reducible apply Keeps.upd
    | ((with_reducible apply Keeps.updMem) <;> first | with_reducible exact Mem.wf_same rfl rfl rfl rfl rfl rfl | with_reducible exact Mem.evict_keeps _ _ | with_reducible exact Mem.evicts_keep _ _ | with_reducible exact Mem.wf_cells _ _ | with_reducible exact Mem.wf_frames _ _ | exact fun h => Mem.wf_same rfl rfl rfl rfl rfl rfl (Mem.wf_frames _ _ h) | with_reducible exact Mem.wf_lines _ _ | with_reducible exact Mem.wf_blocks _ _ | with_reducible exact Mem.wf_fver _ _ | with_reducible exact Mem.wf_host _ _ | skip)
    | intro _ _ _
    | refine Keeps.ofFst (by with_reducible assumption) ?_
    | refine Keeps.ofSnd (by with_reducible assumption) ?_
    | dsimp only
    | split)

theorem State.honourPins_keeps {s₀ s : State} (h : Keeps s₀ s) :
    Keeps s₀ (State.honourPins s) := by
  unfold State.honourPins
  repeat' (first
    | with_reducible assumption
    | with_reducible apply State.toTier_keeps
    | with_reducible exact id
    | simp only [keeps_mk_iff]
    | with_reducible apply Keeps.upd
    | ((with_reducible apply Keeps.updMem) <;> first | with_reducible exact Mem.wf_same rfl rfl rfl rfl rfl rfl | with_reducible exact Mem.evict_keeps _ _ | with_reducible exact Mem.evicts_keep _ _ | with_reducible exact Mem.wf_cells _ _ | with_reducible exact Mem.wf_frames _ _ | exact fun h => Mem.wf_same rfl rfl rfl rfl rfl rfl (Mem.wf_frames _ _ h) | with_reducible exact Mem.wf_lines _ _ | with_reducible exact Mem.wf_blocks _ _ | with_reducible exact Mem.wf_fver _ _ | with_reducible exact Mem.wf_host _ _ | skip)
    | with_reducible apply Keeps.foldl
    | with_reducible apply Keeps.foldlFst
    | intro _ _ _
    | refine Keeps.ofFst (by with_reducible assumption) ?_
    | refine Keeps.ofSnd (by with_reducible assumption) ?_
    | dsimp only
    | split)

theorem State.dropPins_keeps {s₀ s : State} (h : Keeps s₀ s) (gone : Pin → Bool) :
    Keeps s₀ (State.dropPins s gone) := by
  unfold State.dropPins
  repeat' (first
    | with_reducible assumption
    | with_reducible apply State.honourPins_keeps
    | with_reducible exact id
    | simp only [keeps_mk_iff]
    | with_reducible apply Keeps.upd
    | ((with_reducible apply Keeps.updMem) <;> first | with_reducible exact Mem.wf_same rfl rfl rfl rfl rfl rfl | with_reducible exact Mem.evict_keeps _ _ | with_reducible exact Mem.evicts_keep _ _ | with_reducible exact Mem.wf_cells _ _ | with_reducible exact Mem.wf_frames _ _ | exact fun h => Mem.wf_same rfl rfl rfl rfl rfl rfl (Mem.wf_frames _ _ h) | with_reducible exact Mem.wf_lines _ _ | with_reducible exact Mem.wf_blocks _ _ | with_reducible exact Mem.wf_fver _ _ | with_reducible exact Mem.wf_host _ _ | skip)
    | intro _ _ _
    | refine Keeps.ofFst (by with_reducible assumption) ?_
    | refine Keeps.ofSnd (by with_reducible assumption) ?_
    | dsimp only
    | split)

theorem State.back_keeps {s₀ s : State} (h : Keeps s₀ s) (f : Nat) (key : Nat) (replay : Bool) :
    Keeps s₀ (State.back s f key replay) := by
  unfold State.back
  repeat' (first
    | with_reducible assumption
    | with_reducible apply State.draw_keeps
    | with_reducible apply State.bumpFver_keeps
    | with_reducible apply State.initBlock_keeps
    | with_reducible apply State.place_keeps
    | with_reducible apply State.makeRoom_keeps
    | with_reducible exact id
    | simp only [keeps_mk_iff]
    | with_reducible apply Keeps.upd
    | with_reducible apply Keeps.foldl
    | with_reducible apply Keeps.foldlFst
    | intro _ _ _
    | refine Keeps.ofFst (by with_reducible assumption) ?_
    | refine Keeps.ofSnd (by with_reducible assumption) ?_
    | dsimp only
    | split)

theorem State.cancelMove_keeps {s₀ s : State} (h : Keeps s₀ s) (f : Nat) :
    Keeps s₀ (State.cancelMove s f) := by
  unfold State.cancelMove
  repeat' (first
    | with_reducible assumption
    | with_reducible apply State.cancelMigration_keeps
    | with_reducible exact id
    | simp only [keeps_mk_iff]
    | with_reducible apply Keeps.upd
    | intro _ _ _
    | refine Keeps.ofFst (by with_reducible assumption) ?_
    | refine Keeps.ofSnd (by with_reducible assumption) ?_
    | dsimp only
    | split)

theorem State.dropCounts_keeps {s₀ s : State} (h : Keeps s₀ s) (f : Nat) :
    Keeps s₀ (State.dropCounts s f) := by
  unfold State.dropCounts
  repeat' (first
    | with_reducible assumption
    | with_reducible apply State.setMc_keeps
    | with_reducible exact id
    | simp only [keeps_mk_iff]
    | with_reducible apply Keeps.upd
    | intro _ _ _
    | refine Keeps.ofFst (by with_reducible assumption) ?_
    | refine Keeps.ofSnd (by with_reducible assumption) ?_
    | dsimp only
    | split)

theorem State.unback_keeps {s₀ s : State} (h : Keeps s₀ s) (f : Nat) :
    Keeps s₀ (State.unback s f) := by
  unfold State.unback
  refine State.dropPins_keeps (keeps_mk_iff.2 ((State.dropCounts_keeps (State.cancelMove_keeps h f) f).updMem ?_)) _
  intro k
  rw [Mem.wf_iff] at k ⊢
  dsimp only
  exact ⟨twf_filter _ _ _ k.1, twf_tput _ _ _ _ k.2.1, twf_filter _ _ _ k.2.2.1, k.2.2.2⟩

theorem State.holdWrite_keeps {s₀ s : State} (h : Keeps s₀ s) (w : HeldWrite) :
    Keeps s₀ (State.holdWrite s w).1 := by
  unfold State.holdWrite
  repeat' (first
    | with_reducible assumption
    | with_reducible apply State.putHeld_keeps
    | with_reducible apply State.view_keeps
    | with_reducible exact id
    | simp only [keeps_mk_iff]
    | with_reducible apply Keeps.upd
    | ((with_reducible apply Keeps.updMem) <;> first | with_reducible exact Mem.wf_same rfl rfl rfl rfl rfl rfl | with_reducible exact Mem.evict_keeps _ _ | with_reducible exact Mem.evicts_keep _ _ | with_reducible exact Mem.wf_cells _ _ | with_reducible exact Mem.wf_frames _ _ | exact fun h => Mem.wf_same rfl rfl rfl rfl rfl rfl (Mem.wf_frames _ _ h) | with_reducible exact Mem.wf_lines _ _ | with_reducible exact Mem.wf_blocks _ _ | with_reducible exact Mem.wf_fver _ _ | with_reducible exact Mem.wf_host _ _ | skip)
    | intro _ _ _
    | refine Keeps.ofFst (by with_reducible assumption) ?_
    | refine Keeps.ofSnd (by with_reducible assumption) ?_
    | dsimp only
    | split)

theorem State.physPiece_keeps {s₀ s : State} (h : Keeps s₀ s) (key : Nat) (replay : Bool) (fa : Nat) (d : Bytes) :
    Keeps s₀ (State.physPiece s key replay fa d).1 := by
  unfold State.physPiece
  repeat' (first
    | with_reducible assumption
    | with_reducible apply State.lineWrite_keeps
    | with_reducible apply State.back_keeps
    | with_reducible apply State.holdWrite_keeps
    | with_reducible exact id
    | intro _ _ _
    | refine Keeps.ofFst (by with_reducible assumption) ?_
    | refine Keeps.ofSnd (by with_reducible assumption) ?_
    | dsimp only
    | split)

theorem State.physWrite_keeps {s₀ s : State} (h : Keeps s₀ s) (key : Nat) (replay : Bool) (fa : Nat) (d : Bytes) :
    Keeps s₀ (State.physWrite s key replay fa d).1 := by
  unfold State.physWrite
  repeat' (first
    | with_reducible assumption
    | with_reducible apply untilStop_keeps
    | with_reducible apply State.physPiece_keeps
    | with_reducible exact id
    | with_reducible apply Keeps.untilStop
    | intro _ _ _
    | refine Keeps.ofFst (by with_reducible assumption) ?_
    | refine Keeps.ofSnd (by with_reducible assumption) ?_
    | dsimp only
    | split)

theorem State.noteClass_keeps {s₀ s : State} (h : Keeps s₀ s) (f : Nat) (pte : Nat) (desc : Option Nat) :
    Keeps s₀ (State.noteClass s f pte desc) := by
  unfold State.noteClass
  repeat' (first
    | with_reducible assumption
    | with_reducible exact id
    | simp only [keeps_mk_iff]
    | with_reducible apply Keeps.upd
    | ((with_reducible apply Keeps.updMem) <;> first | with_reducible exact Mem.wf_same rfl rfl rfl rfl rfl rfl | with_reducible exact Mem.evict_keeps _ _ | with_reducible exact Mem.evicts_keep _ _ | with_reducible exact Mem.wf_cells _ _ | with_reducible exact Mem.wf_frames _ _ | exact fun h => Mem.wf_same rfl rfl rfl rfl rfl rfl (Mem.wf_frames _ _ h) | with_reducible exact Mem.wf_lines _ _ | with_reducible exact Mem.wf_blocks _ _ | with_reducible exact Mem.wf_fver _ _ | with_reducible exact Mem.wf_host _ _ | skip)
    | intro _ _ _
    | refine Keeps.ofFst (by with_reducible assumption) ?_
    | refine Keeps.ofSnd (by with_reducible assumption) ?_
    | dsimp only
    | split)

theorem State.noteLines_keeps {s₀ s : State} (h : Keeps s₀ s) (replay : Bool) (write : Bool) (fa : Nat) (n : Nat) :
    Keeps s₀ (State.noteLines s replay write fa n) := by
  unfold State.noteLines
  repeat' (first
    | with_reducible assumption
    | with_reducible apply State.fillAt_keeps
    | with_reducible apply State.corrections_keeps
    | with_reducible exact id
    | simp only [keeps_mk_iff]
    | with_reducible apply Keeps.upd
    | ((with_reducible apply Keeps.updMem) <;> first | with_reducible exact Mem.wf_same rfl rfl rfl rfl rfl rfl | with_reducible exact Mem.evict_keeps _ _ | with_reducible exact Mem.evicts_keep _ _ | with_reducible exact Mem.wf_cells _ _ | with_reducible exact Mem.wf_frames _ _ | exact fun h => Mem.wf_same rfl rfl rfl rfl rfl rfl (Mem.wf_frames _ _ h) | with_reducible exact Mem.wf_lines _ _ | with_reducible exact Mem.wf_blocks _ _ | with_reducible exact Mem.wf_fver _ _ | with_reducible exact Mem.wf_host _ _ | skip)
    | intro _ _ _
    | refine Keeps.ofFst (by with_reducible assumption) ?_
    | refine Keeps.ofSnd (by with_reducible assumption) ?_
    | dsimp only
    | split)

theorem State.setHostBytes_keeps {s₀ s : State} (h : Keeps s₀ s) (a : Nat) (d : Bytes) :
    Keeps s₀ (s.setHostBytes a d) := by
  induction d generalizing s a with
  | nil => exact h
  | cons b d ih => exact ih (keeps_mk_iff.2 (h.updMem (Mem.wf_host a b))) (a + 1)

theorem State.storePiece_keeps {s₀ s : State} (h : Keeps s₀ s) (c : Nat) (va : Nat) (d : Bytes) (p : Nat × Nat × Xlat) :
    Keeps s₀ (State.storePiece s c va d p).1 := by
  unfold State.storePiece
  repeat' (first
    | with_reducible assumption
    | with_reducible apply State.modCtx_keeps
    | with_reducible apply State.emit_keeps
    | with_reducible apply State.notePin_keeps
    | with_reducible apply State.physWrite_keeps
    | with_reducible apply State.noteClass_keeps
    | with_reducible apply State.noteLines_keeps
    | with_reducible apply State.setHostBytes_keeps
    | with_reducible exact id
    | with_reducible apply Keeps.foldl
    | with_reducible apply Keeps.foldlFst
    | intro _ _ _
    | refine Keeps.ofFst (by with_reducible assumption) ?_
    | refine Keeps.ofSnd (by with_reducible assumption) ?_
    | dsimp only
    | split)

theorem State.vwriteAt_keeps {s₀ s : State} (h : Keeps s₀ s) (s0 : State) (c : Nat) (va : Nat) (d : Bytes) (u : HostUse) :
    Keeps s₀ (State.vwriteAt s s0 c va d u).1 := by
  unfold State.vwriteAt
  repeat' (first
    | with_reducible assumption
    | with_reducible apply untilStop_keeps
    | with_reducible apply State.storePiece_keeps
    | with_reducible exact id
    | simp only [keeps_mk_iff]
    | with_reducible apply Keeps.upd
    | with_reducible apply Keeps.untilStop
    | intro _ _ _
    | refine Keeps.ofFst (by with_reducible assumption) ?_
    | refine Keeps.ofSnd (by with_reducible assumption) ?_
    | dsimp only
    | split)

theorem State.vwrite_keeps {s₀ s : State} (h : Keeps s₀ s) (c : Nat) (va : Nat) (d : Bytes) (u : HostUse) :
    Keeps s₀ (State.vwrite s c va d u).1 := by
  unfold State.vwrite
  repeat' (first
    | with_reducible assumption
    | with_reducible apply State.vwriteAt_keeps
    | with_reducible exact id
    | intro _ _ _
    | refine Keeps.ofFst (by with_reducible assumption) ?_
    | refine Keeps.ofSnd (by with_reducible assumption) ?_
    | dsimp only
    | split)

theorem State.touchPiece_keeps {s₀ s : State} (h : Keeps s₀ s) (c : Nat) (desc : Option Nat) (written : Bool) (p : Nat × Nat) :
    Keeps s₀ (State.touchPiece s c desc written p) := by
  unfold State.touchPiece
  repeat' (first
    | with_reducible assumption
    | with_reducible apply State.modCtx_keeps
    | with_reducible apply State.notePin_keeps
    | with_reducible apply State.noteClass_keeps
    | with_reducible apply State.noteLines_keeps
    | with_reducible exact id
    | simp only [keeps_mk_iff]
    | with_reducible apply Keeps.upd
    | intro _ _ _
    | refine Keeps.ofFst (by with_reducible assumption) ?_
    | refine Keeps.ofSnd (by with_reducible assumption) ?_
    | dsimp only
    | split)

theorem State.meet_keeps {s₀ s : State} (h : Keeps s₀ s) (c : Nat) (va : Nat) (n : Nat) :
    Keeps s₀ (State.meet s c va n) := by
  unfold State.meet
  repeat' (first
    | with_reducible assumption
    | with_reducible apply State.touchPiece_keeps
    | with_reducible exact id
    | with_reducible apply Keeps.foldl
    | with_reducible apply Keeps.foldlFst
    | intro _ _ _
    | refine Keeps.ofFst (by with_reducible assumption) ?_
    | refine Keeps.ofSnd (by with_reducible assumption) ?_
    | dsimp only
    | split)

theorem State.vwrites_keeps {s₀ s : State} (h : Keeps s₀ s) (c : Nat) (ws : List (Nat × Bytes)) (u : HostUse) :
    Keeps s₀ (State.vwrites s c ws u).1 := by
  unfold State.vwrites
  repeat' (first
    | with_reducible assumption
    | with_reducible apply untilStop_keeps
    | with_reducible apply State.vwriteAt_keeps
    | with_reducible exact id
    | simp only [keeps_mk_iff]
    | with_reducible apply Keeps.upd
    | with_reducible apply Keeps.untilStop
    | intro _ _ _
    | refine Keeps.ofFst (by with_reducible assumption) ?_
    | refine Keeps.ofSnd (by with_reducible assumption) ?_
    | dsimp only
    | split)

theorem State.foldSlot_keeps {s₀ s : State} (h : Keeps s₀ s) (s0 : State) (c : Nat) (u : SlotUpd) :
    Keeps s₀ (State.foldSlot s s0 c u).1 := by
  unfold State.foldSlot
  repeat' (first
    | with_reducible assumption
    | with_reducible apply State.vwriteAt_keeps
    | with_reducible exact id
    | simp only [keeps_mk_iff]
    | with_reducible apply Keeps.upd
    | intro _ _ _
    | refine Keeps.ofFst (by with_reducible assumption) ?_
    | refine Keeps.ofSnd (by with_reducible assumption) ?_
    | dsimp only
    | split)

theorem State.applyEff_keeps {s₀ s : State} (h : Keeps s₀ s) (c : Nat) (f : Eff) :
    Keeps s₀ (State.applyEff s c f).1 := by
  unfold State.applyEff
  repeat' (first
    | with_reducible assumption
    | with_reducible apply untilStop_keeps
    | with_reducible apply State.vwrites_keeps
    | with_reducible apply State.foldSlot_keeps
    | with_reducible exact id
    | simp only [keeps_mk_iff]
    | with_reducible apply Keeps.upd
    | with_reducible apply Keeps.untilStop
    | intro _ _ _
    | refine Keeps.ofFst (by with_reducible assumption) ?_
    | refine Keeps.ofSnd (by with_reducible assumption) ?_
    | dsimp only
    | split)

theorem State.enqueue_keeps {s₀ s : State} (h : Keeps s₀ s) (q : Nat) (p : Packet) :
    Keeps s₀ (State.enqueue s q p) := by
  unfold State.enqueue
  repeat' (first
    | with_reducible assumption
    | with_reducible apply State.modPort_keeps
    | with_reducible apply State.emit_keeps
    | with_reducible exact id
    | simp only [keeps_mk_iff]
    | with_reducible apply Keeps.upd
    | intro _ _ _
    | refine Keeps.ofFst (by with_reducible assumption) ?_
    | refine Keeps.ofSnd (by with_reducible assumption) ?_
    | dsimp only
    | split)

theorem State.send_keeps {s₀ s : State} (h : Keeps s₀ s) (p : Packet) :
    Keeps s₀ (State.send s p) := by
  unfold State.send
  repeat' (first
    | with_reducible assumption
    | with_reducible apply State.enqueue_keeps
    | with_reducible exact id
    | simp only [keeps_mk_iff]
    | with_reducible apply Keeps.upd
    | intro _ _ _
    | refine Keeps.ofFst (by with_reducible assumption) ?_
    | refine Keeps.ofSnd (by with_reducible assumption) ?_
    | dsimp only
    | split)

theorem State.sayDigest_keeps {s₀ s : State} (h : Keeps s₀ s) (q : Nat) (job : Nat) (digest : Nat) :
    Keeps s₀ (State.sayDigest s q job digest) := by
  unfold State.sayDigest
  repeat' (first
    | with_reducible assumption
    | with_reducible apply State.setPort_keeps
    | with_reducible apply State.enqueue_keeps
    | with_reducible exact id
    | simp only [keeps_mk_iff]
    | with_reducible apply Keeps.upd
    | intro _ _ _
    | refine Keeps.ofFst (by with_reducible assumption) ?_
    | refine Keeps.ofSnd (by with_reducible assumption) ?_
    | dsimp only
    | split)

theorem State.sendOn_keeps {s₀ s : State} (h : Keeps s₀ s) (c : Nat) (p : Packet) :
    Keeps s₀ (State.sendOn s c p) := by
  unfold State.sendOn
  repeat' (first
    | with_reducible assumption
    | with_reducible apply State.modPort_keeps
    | with_reducible apply State.enqueue_keeps
    | with_reducible apply State.sayDigest_keeps
    | with_reducible exact id
    | simp only [keeps_mk_iff]
    | with_reducible apply Keeps.upd
    | intro _ _ _
    | refine Keeps.ofFst (by with_reducible assumption) ?_
    | refine Keeps.ofSnd (by with_reducible assumption) ?_
    | dsimp only
    | split)

theorem State.sendFor_keeps {s₀ s : State} (h : Keeps s₀ s) (c : Nat) (p : Packet) :
    Keeps s₀ (State.sendFor s c p) := by
  unfold State.sendFor
  repeat' (first
    | with_reducible assumption
    | with_reducible apply State.modCtx_keeps
    | with_reducible apply State.sendOn_keeps
    | with_reducible exact id
    | simp only [keeps_mk_iff]
    | with_reducible apply Keeps.upd
    | intro _ _ _
    | refine Keeps.ofFst (by with_reducible assumption) ?_
    | refine Keeps.ofSnd (by with_reducible assumption) ?_
    | dsimp only
    | split)

theorem State.sendPart_keeps {s₀ s : State} (h : Keeps s₀ s) (c : Nat) (p : Packet) (off : Nat) (fin : Nat) (d : Bytes) :
    Keeps s₀ (State.sendPart s c p off fin d) := by
  unfold State.sendPart
  repeat' (first
    | with_reducible assumption
    | with_reducible apply State.sendFor_keeps
    | with_reducible exact id
    | simp only [keeps_mk_iff]
    | with_reducible apply Keeps.upd
    | with_reducible apply Keeps.foldl
    | with_reducible apply Keeps.foldlFst
    | intro _ _ _
    | refine Keeps.ofFst (by with_reducible assumption) ?_
    | refine Keeps.ofSnd (by with_reducible assumption) ?_
    | dsimp only
    | split)

theorem State.sendStream_keeps {s₀ s : State} (h : Keeps s₀ s) (c : Nat) (p : Packet) (off : Nat) (d : Bytes) :
    Keeps s₀ (State.sendStream s c p off d) := by
  unfold State.sendStream
  repeat' (first
    | with_reducible assumption
    | with_reducible apply State.sendPart_keeps
    | with_reducible exact id
    | intro _ _ _
    | refine Keeps.ofFst (by with_reducible assumption) ?_
    | refine Keeps.ofSnd (by with_reducible assumption) ?_
    | dsimp only
    | split)

theorem State.resend_keeps {s₀ s : State} (h : Keeps s₀ s) (p : Packet) :
    Keeps s₀ (State.resend s p) := by
  unfold State.resend
  repeat' (first
    | with_reducible assumption
    | with_reducible apply State.send_keeps
    | with_reducible apply State.sendOn_keeps
    | with_reducible exact id
    | simp only [keeps_mk_iff]
    | with_reducible apply Keeps.upd
    | intro _ _ _
    | refine Keeps.ofFst (by with_reducible assumption) ?_
    | refine Keeps.ofSnd (by with_reducible assumption) ?_
    | dsimp only
    | split)

end Sys2Proof.Machine
end

