-- ==== Sys2Proof/Laws/ModuleKeep.lean ====
section
/-! SUPPORT. Every operation of Reduce, HostReads, Contexts, Resets, Hallmark, Cores, Power, Supply keeps what no operation undoes. -/

namespace Sys2Proof.Machine

theorem State.setBucket_keeps {s₀ s : State} (h : Keeps s₀ s) (b : Bucket) :
    Keeps s₀ (State.setBucket s b) := by
  unfold State.setBucket
  repeat' (first
    | with_reducible assumption
    | with_reducible exact id
    | simp only [keeps_mk_iff]
    | with_reducible apply Keeps.upd
    | intro _ _ _
    | refine Keeps.ofFst (by with_reducible assumption) ?_
    | refine Keeps.ofSnd (by with_reducible assumption) ?_
    | dsimp only
    | split)

theorem State.openBucket_keeps {s₀ s : State} (h : Keeps s₀ s) (c : Nat) (tag : Nat) :
    Keeps s₀ (State.openBucket s c tag) := by
  unfold State.openBucket
  repeat' (first
    | with_reducible assumption
    | with_reducible exact id
    | simp only [keeps_mk_iff]
    | with_reducible apply Keeps.upd
    | intro _ _ _
    | refine Keeps.ofFst (by with_reducible assumption) ?_
    | refine Keeps.ofSnd (by with_reducible assumption) ?_
    | dsimp only
    | split)

theorem State.broadcast_keeps {s₀ s : State} (h : Keeps s₀ s) (b : Bucket) :
    Keeps s₀ (State.broadcast s b) := by
  unfold State.broadcast
  repeat' (first
    | with_reducible assumption
    | with_reducible apply State.place_keeps
    | with_reducible apply State.sendFor_keeps
    | with_reducible apply State.sendStream_keeps
    | with_reducible exact id
    | simp only [keeps_mk_iff]
    | with_reducible apply Keeps.upd
    | with_reducible apply Keeps.foldl
    | with_reducible apply Keeps.foldlFst
    | intro _ _ _
    | refine Keeps.ofFst (by with_reducible assumption) ?_
    | refine Keeps.ofSnd (by with_reducible assumption) ?_
    | dsimp only
    | split)

theorem State.closeSeen_keeps {s₀ s : State} (h : Keeps s₀ s) (key : List Nat) :
    Keeps s₀ (State.closeSeen s key) := by
  unfold State.closeSeen
  repeat' (first
    | with_reducible assumption
    | with_reducible exact id
    | simp only [keeps_mk_iff]
    | with_reducible apply Keeps.upd
    | intro _ _ _
    | refine Keeps.ofFst (by with_reducible assumption) ?_
    | refine Keeps.ofSnd (by with_reducible assumption) ?_
    | dsimp only
    | split)

theorem State.closeItems_keeps {s₀ s : State} (h : Keeps s₀ s) (b : Bucket) :
    Keeps s₀ (State.closeItems s b) := by
  unfold State.closeItems
  repeat' (first
    | with_reducible assumption
    | with_reducible apply State.closeSeen_keeps
    | with_reducible exact id
    | with_reducible apply Keeps.foldl
    | with_reducible apply Keeps.foldlFst
    | intro _ _ _
    | refine Keeps.ofFst (by with_reducible assumption) ?_
    | refine Keeps.ofSnd (by with_reducible assumption) ?_
    | dsimp only
    | split)

theorem State.account_keeps {s₀ s : State} (h : Keeps s₀ s) (b : Bucket) :
    Keeps s₀ (State.account s b) := by
  unfold State.account
  repeat' (first
    | with_reducible assumption
    | with_reducible apply State.modCtx_keeps
    | with_reducible exact id
    | simp only [keeps_mk_iff]
    | with_reducible apply Keeps.upd
    | intro _ _ _
    | refine Keeps.ofFst (by with_reducible assumption) ?_
    | refine Keeps.ofSnd (by with_reducible assumption) ?_
    | dsimp only
    | split)

theorem State.closeBucket_keeps {s₀ s : State} (h : Keeps s₀ s) (b : Bucket) :
    Keeps s₀ (State.closeBucket s b) := by
  unfold State.closeBucket
  repeat' (first
    | with_reducible assumption
    | with_reducible apply State.modCtx_keeps
    | with_reducible apply State.raise_keeps
    | with_reducible apply State.setBucket_keeps
    | with_reducible apply State.closeItems_keeps
    | with_reducible apply State.account_keeps
    | with_reducible exact id
    | simp only [keeps_mk_iff]
    | with_reducible apply Keeps.upd
    | intro _ _ _
    | refine Keeps.ofFst (by with_reducible assumption) ?_
    | refine Keeps.ofSnd (by with_reducible assumption) ?_
    | dsimp only
    | split)

theorem State.forgetData_keeps {s₀ s : State} (h : Keeps s₀ s) (b : Bucket) :
    Keeps s₀ (State.forgetData s b) := by
  unfold State.forgetData
  repeat' (first
    | with_reducible assumption
    | with_reducible exact id
    | simp only [keeps_mk_iff]
    | with_reducible apply Keeps.upd
    | intro _ _ _
    | refine Keeps.ofFst (by with_reducible assumption) ?_
    | refine Keeps.ofSnd (by with_reducible assumption) ?_
    | dsimp only
    | split)

theorem State.sendResult_keeps {s₀ s : State} (h : Keeps s₀ s) (b : Bucket) :
    Keeps s₀ (State.sendResult s b) := by
  unfold State.sendResult
  repeat' (first
    | with_reducible assumption
    | with_reducible apply State.broadcast_keeps
    | with_reducible apply State.closeBucket_keeps
    | with_reducible exact id
    | simp only [keeps_mk_iff]
    | with_reducible apply Keeps.upd
    | intro _ _ _
    | refine Keeps.ofFst (by with_reducible assumption) ?_
    | refine Keeps.ofSnd (by with_reducible assumption) ?_
    | dsimp only
    | split)

theorem State.finishRoot_keeps {s₀ s : State} (h : Keeps s₀ s) (b : Bucket) :
    Keeps s₀ (State.finishRoot s b) := by
  unfold State.finishRoot
  repeat' (first
    | with_reducible assumption
    | with_reducible apply State.sendStream_keeps
    | with_reducible apply State.setBucket_keeps
    | with_reducible apply State.forgetData_keeps
    | with_reducible apply State.sendResult_keeps
    | with_reducible exact id
    | with_reducible apply Keeps.foldl
    | with_reducible apply Keeps.foldlFst
    | intro _ _ _
    | refine Keeps.ofFst (by with_reducible assumption) ?_
    | refine Keeps.ofSnd (by with_reducible assumption) ?_
    | dsimp only
    | split)

theorem State.sendBlocks_keeps {s₀ s : State} (h : Keeps s₀ s) (b : Bucket) (level : Nat) (dst : Nat) (start : Nat) (fin : Nat) (ks : List Nat) (d : Bytes) :
    Keeps s₀ (State.sendBlocks s b level dst start fin ks d) := by
  unfold State.sendBlocks
  repeat' (first
    | with_reducible assumption
    | with_reducible apply State.sendPart_keeps
    | with_reducible exact id
    | with_reducible apply Keeps.foldl
    | with_reducible apply Keeps.foldlFst
    | intro _ _ _
    | refine Keeps.ofFst (by with_reducible assumption) ?_
    | refine Keeps.ofSnd (by with_reducible assumption) ?_
    | dsimp only
    | split)

theorem State.tryStream_keeps {s₀ s : State} (h : Keeps s₀ s) (b : Bucket) :
    Keeps s₀ (State.tryStream s b) := by
  unfold State.tryStream
  repeat' (first
    | with_reducible assumption
    | with_reducible apply State.setBucket_keeps
    | with_reducible apply State.sendBlocks_keeps
    | with_reducible exact id
    | simp only [keeps_mk_iff]
    | with_reducible apply Keeps.upd
    | intro _ _ _
    | refine Keeps.ofFst (by with_reducible assumption) ?_
    | refine Keeps.ofSnd (by with_reducible assumption) ?_
    | dsimp only
    | split)

theorem State.sendReady_keeps {s₀ s : State} (h : Keeps s₀ s) (b : Bucket) (level : Nat) (q : Nat) :
    Keeps s₀ (State.sendReady s b level q) := by
  unfold State.sendReady
  repeat' (first
    | with_reducible assumption
    | with_reducible apply State.sendStream_keeps
    | with_reducible apply State.setBucket_keeps
    | with_reducible exact id
    | simp only [keeps_mk_iff]
    | with_reducible apply Keeps.upd
    | intro _ _ _
    | refine Keeps.ofFst (by with_reducible assumption) ?_
    | refine Keeps.ofSnd (by with_reducible assumption) ?_
    | dsimp only
    | split)

theorem State.settle_keeps {s₀ s : State} (h : Keeps s₀ s) (b : Bucket) :
    Keeps s₀ (State.settle s b) := by
  unfold State.settle
  repeat' (first
    | with_reducible assumption
    | with_reducible apply State.setBucket_keeps
    | with_reducible apply State.finishRoot_keeps
    | with_reducible apply State.tryStream_keeps
    | with_reducible apply State.sendReady_keeps
    | with_reducible exact id
    | simp only [keeps_mk_iff]
    | with_reducible apply Keeps.upd
    | intro _ _ _
    | refine Keeps.ofFst (by with_reducible assumption) ?_
    | refine Keeps.ofSnd (by with_reducible assumption) ?_
    | dsimp only
    | split)

theorem State.resettle_keeps {s₀ s : State} (h : Keeps s₀ s) (c : Nat) :
    Keeps s₀ (State.resettle s c) := by
  unfold State.resettle
  repeat' (first
    | with_reducible assumption
    | with_reducible apply State.settle_keeps
    | with_reducible exact id
    | simp only [keeps_mk_iff]
    | with_reducible apply Keeps.upd
    | with_reducible apply Keeps.foldl
    | with_reducible apply Keeps.foldlFst
    | intro _ _ _
    | refine Keeps.ofFst (by with_reducible assumption) ?_
    | refine Keeps.ofSnd (by with_reducible assumption) ?_
    | dsimp only
    | split)

theorem State.dropRank_keeps {s₀ s : State} (h : Keeps s₀ s) (c : Nat) (m : Nat) :
    Keeps s₀ (State.dropRank s c m) := by
  unfold State.dropRank
  repeat' (first
    | with_reducible assumption
    | with_reducible apply State.resettle_keeps
    | with_reducible exact id
    | simp only [keeps_mk_iff]
    | with_reducible apply Keeps.upd
    | intro _ _ _
    | refine Keeps.ofFst (by with_reducible assumption) ?_
    | refine Keeps.ofSnd (by with_reducible assumption) ?_
    | dsimp only
    | split)

theorem State.absentOwn_keeps {s₀ s : State} (h : Keeps s₀ s) (c : Nat) :
    Keeps s₀ (State.absentOwn s c) := by
  unfold State.absentOwn
  repeat' (first
    | with_reducible assumption
    | with_reducible apply State.settle_keeps
    | with_reducible exact id
    | simp only [keeps_mk_iff]
    | with_reducible apply Keeps.upd
    | with_reducible apply Keeps.foldl
    | with_reducible apply Keeps.foldlFst
    | intro _ _ _
    | refine Keeps.ofFst (by with_reducible assumption) ?_
    | refine Keeps.ofSnd (by with_reducible assumption) ?_
    | dsimp only
    | split)

theorem State.pumpReads_keeps {s₀ s : State} (h : Keeps s₀ s) :
    Keeps s₀ (State.pumpReads s) := by
  unfold State.pumpReads
  repeat' (first
    | with_reducible assumption
    | with_reducible apply State.emit_keeps
    | with_reducible exact id
    | simp only [keeps_mk_iff]
    | with_reducible apply Keeps.upd
    | with_reducible apply Keeps.foldl
    | with_reducible apply Keeps.foldlFst
    | intro _ _ _
    | refine Keeps.ofFst (by with_reducible assumption) ?_
    | refine Keeps.ofSnd (by with_reducible assumption) ?_
    | dsimp only
    | split)

theorem State.askHost_keeps {s₀ s : State} (h : Keeps s₀ s) (q : QRef) (l : List (Nat × Nat × Nat)) :
    Keeps s₀ (State.askHost s q l) := by
  unfold State.askHost
  repeat' (first
    | with_reducible assumption
    | with_reducible apply State.modQueue_keeps
    | with_reducible apply State.pumpReads_keeps
    | with_reducible exact id
    | simp only [keeps_mk_iff]
    | with_reducible apply Keeps.upd
    | intro _ _ _
    | refine Keeps.ofFst (by with_reducible assumption) ?_
    | refine Keeps.ofSnd (by with_reducible assumption) ?_
    | dsimp only
    | split)

theorem State.hostAdd_keeps {s₀ s : State} (h : Keeps s₀ s) (c : Nat) (va : Nat) (addr : Nat) (operand : Nat) (base : Nat) (len : Nat) :
    Keeps s₀ (State.hostAdd s c va addr operand base len) := by
  unfold State.hostAdd
  repeat' (first
    | with_reducible assumption
    | with_reducible apply State.pumpReads_keeps
    | with_reducible exact id
    | simp only [keeps_mk_iff]
    | with_reducible apply Keeps.upd
    | intro _ _ _
    | refine Keeps.ofFst (by with_reducible assumption) ?_
    | refine Keeps.ofSnd (by with_reducible assumption) ?_
    | dsimp only
    | split)

theorem State.freeRead_keeps {s₀ s : State} (h : Keeps s₀ s) (tag : Nat) :
    Keeps s₀ (State.freeRead s tag) := by
  unfold State.freeRead
  repeat' (first
    | with_reducible assumption
    | with_reducible apply State.pumpReads_keeps
    | with_reducible exact id
    | simp only [keeps_mk_iff]
    | with_reducible apply Keeps.upd
    | intro _ _ _
    | refine Keeps.ofFst (by with_reducible assumption) ?_
    | refine Keeps.ofSnd (by with_reducible assumption) ?_
    | dsimp only
    | split)

theorem State.readArrived_keeps {s₀ s : State} (h : Keeps s₀ s) (r : HostRead) (data : Bytes) :
    Keeps s₀ (State.readArrived s r data) := by
  unfold State.readArrived
  repeat' (first
    | with_reducible assumption
    | with_reducible apply State.modQueue_keeps
    | with_reducible apply State.setHostBytes_keeps
    | with_reducible exact id
    | simp only [keeps_mk_iff]
    | with_reducible apply Keeps.upd
    | intro _ _ _
    | refine Keeps.ofFst (by with_reducible assumption) ?_
    | refine Keeps.ofSnd (by with_reducible assumption) ?_
    | dsimp only
    | split)

theorem State.setXfer_keeps {s₀ s : State} (h : Keeps s₀ s) (sn : Nat) (v : Option Nat × Nat) :
    Keeps s₀ (State.setXfer s sn v) := by
  unfold State.setXfer
  repeat' (first
    | with_reducible assumption
    | with_reducible exact id
    | simp only [keeps_mk_iff]
    | with_reducible apply Keeps.upd
    | intro _ _ _
    | refine Keeps.ofFst (by with_reducible assumption) ?_
    | refine Keeps.ofSnd (by with_reducible assumption) ?_
    | dsimp only
    | split)

theorem State.takeUnit_keeps {s₀ s : State} (h : Keeps s₀ s) (c : Nat) (b : Bytes) (len : Nat) :
    Keeps s₀ (State.takeUnit s c b len).1 := by
  unfold State.takeUnit
  repeat' (first
    | with_reducible assumption
    | with_reducible apply State.setXfer_keeps
    | with_reducible exact id
    | simp only [keeps_mk_iff]
    | with_reducible apply Keeps.upd
    | intro _ _ _
    | refine Keeps.ofFst (by with_reducible assumption) ?_
    | refine Keeps.ofSnd (by with_reducible assumption) ?_
    | dsimp only
    | split)

theorem State.makeUnit_keeps {s₀ s : State} (h : Keeps s₀ s) (c : Nat) (d : Bytes) :
    Keeps s₀ (State.makeUnit s c d).1 := by
  unfold State.makeUnit
  repeat' (first
    | with_reducible assumption
    | with_reducible apply State.setXfer_keeps
    | with_reducible exact id
    | intro _ _ _
    | refine Keeps.ofFst (by with_reducible assumption) ?_
    | refine Keeps.ofSnd (by with_reducible assumption) ?_
    | dsimp only
    | split)

theorem State.ringRead_keeps {s₀ s : State} (h : Keeps s₀ s) (c : Nat) (base : Nat) (k : Nat) (len : Nat) :
    Keeps s₀ (State.ringRead s c base k len).1 := by
  unfold State.ringRead
  repeat' (first
    | with_reducible assumption
    | with_reducible apply State.meet_keeps
    | with_reducible apply State.takeUnit_keeps
    | with_reducible exact id
    | simp only [keeps_mk_iff]
    | with_reducible apply Keeps.upd
    | intro _ _ _
    | refine Keeps.ofFst (by with_reducible assumption) ?_
    | refine Keeps.ofSnd (by with_reducible assumption) ?_
    | dsimp only
    | split)

theorem State.ringWrite_keeps {s₀ s : State} (h : Keeps s₀ s) (c : Nat) (base : Nat) (k : Nat) (d : Bytes) :
    Keeps s₀ (State.ringWrite s c base k d).1 := by
  unfold State.ringWrite
  repeat' (first
    | with_reducible assumption
    | with_reducible apply State.vwrite_keeps
    | with_reducible apply State.makeUnit_keeps
    | with_reducible exact id
    | simp only [keeps_mk_iff]
    | with_reducible apply Keeps.upd
    | intro _ _ _
    | refine Keeps.ofFst (by with_reducible assumption) ?_
    | refine Keeps.ofSnd (by with_reducible assumption) ?_
    | dsimp only
    | split)

theorem State.fenceVector_keeps {s₀ s : State} (h : Keeps s₀ s) (c : Nat) (v : Nat) :
    Keeps s₀ (State.fenceVector s c v) := by
  unfold State.fenceVector
  repeat' (first
    | with_reducible assumption
    | with_reducible apply State.slotVector_keeps
    | with_reducible exact id
    | intro _ _ _
    | refine Keeps.ofFst (by with_reducible assumption) ?_
    | refine Keeps.ofSnd (by with_reducible assumption) ?_
    | dsimp only
    | split)

theorem State.notifyImporters_keeps {s₀ s : State} (h : Keeps s₀ s) (c : Nat) (h : Nat) :
    Keeps s₀ (State.notifyImporters s c h) := by
  unfold State.notifyImporters
  repeat' (first
    | with_reducible assumption
    | with_reducible apply State.meet_keeps
    | with_reducible apply State.fenceVector_keeps
    | with_reducible exact id
    | simp only [keeps_mk_iff]
    | with_reducible apply Keeps.upd
    | with_reducible apply Keeps.foldl
    | with_reducible apply Keeps.foldlFst
    | intro _ _ _
    | refine Keeps.ofFst (by with_reducible assumption) ?_
    | refine Keeps.ofSnd (by with_reducible assumption) ?_
    | dsimp only
    | split)

theorem State.signalFence_keeps {s₀ s : State} (h : Keeps s₀ s) (c : Nat) (h : Nat) (v : Nat) (st : Status) :
    Keeps s₀ (State.signalFence s c h v st).1 := by
  unfold State.signalFence
  repeat' (first
    | with_reducible assumption
    | with_reducible apply State.vwrite_keeps
    | with_reducible apply State.meet_keeps
    | with_reducible apply State.fenceVector_keeps
    | with_reducible apply State.notifyImporters_keeps
    | with_reducible exact id
    | simp only [keeps_mk_iff]
    | with_reducible apply Keeps.upd
    | intro _ _ _
    | refine Keeps.ofFst (by with_reducible assumption) ?_
    | refine Keeps.ofSnd (by with_reducible assumption) ?_
    | dsimp only
    | split)

theorem State.abandonExports_keeps {s₀ s : State} (h : Keeps s₀ s) (c : Nat) :
    Keeps s₀ (State.abandonExports s c) := by
  unfold State.abandonExports
  repeat' (first
    | with_reducible assumption
    | with_reducible apply State.vwrite_keeps
    | with_reducible apply State.fenceVector_keeps
    | with_reducible apply State.notifyImporters_keeps
    | with_reducible exact id
    | simp only [keeps_mk_iff]
    | with_reducible apply Keeps.upd
    | with_reducible apply Keeps.foldl
    | with_reducible apply Keeps.foldlFst
    | intro _ _ _
    | refine Keeps.ofFst (by with_reducible assumption) ?_
    | refine Keeps.ofSnd (by with_reducible assumption) ?_
    | dsimp only
    | split)

theorem State.signalAll_keeps {s₀ s : State} (h : Keeps s₀ s) (c : Nat) (st : Status) (es : List Entry) :
    Keeps s₀ (State.signalAll s c st es) := by
  unfold State.signalAll
  repeat' (first
    | with_reducible assumption
    | with_reducible apply State.signalFence_keeps
    | with_reducible exact id
    | with_reducible apply Keeps.foldl
    | with_reducible apply Keeps.foldlFst
    | intro _ _ _
    | refine Keeps.ofFst (by with_reducible assumption) ?_
    | refine Keeps.ofSnd (by with_reducible assumption) ?_
    | dsimp only
    | split)

theorem State.retireEdit_keeps {s₀ s : State} (h : Keeps s₀ s) (c : Nat) (a : Nat) (n : Nat) :
    Keeps s₀ (State.retireEdit s c a n).1 := by
  unfold State.retireEdit
  repeat' (first
    | with_reducible assumption
    | with_reducible apply State.dropPins_keeps
    | with_reducible apply State.physWrite_keeps
    | with_reducible exact id
    | with_reducible apply Keeps.foldl
    | with_reducible apply Keeps.foldlFst
    | intro _ _ _
    | refine Keeps.ofFst (by with_reducible assumption) ?_
    | refine Keeps.ofSnd (by with_reducible assumption) ?_
    | dsimp only
    | split)

theorem State.scrubFrames_keeps {s₀ s : State} (h : Keeps s₀ s) (fs : List Nat) :
    Keeps s₀ (State.scrubFrames s fs) := by
  unfold State.scrubFrames
  repeat' (first
    | with_reducible assumption
    | with_reducible apply State.unback_keeps
    | with_reducible exact id
    | with_reducible apply Keeps.foldl
    | with_reducible apply Keeps.foldlFst
    | intro _ _ _
    | refine Keeps.ofFst (by with_reducible assumption) ?_
    | refine Keeps.ofSnd (by with_reducible assumption) ?_
    | dsimp only
    | split)

theorem State.retire_keeps {s₀ s : State} (h : Keeps s₀ s) (c : Nat) (a : Nat) (n : Nat) :
    Keeps s₀ (State.retire s c a n).1 := by
  unfold State.retire
  repeat' (first
    | with_reducible assumption
    | with_reducible apply State.retireEdit_keeps
    | with_reducible apply State.scrubFrames_keeps
    | with_reducible exact id
    | simp only [keeps_mk_iff]
    | with_reducible apply Keeps.upd
    | intro _ _ _
    | refine Keeps.ofFst (by with_reducible assumption) ?_
    | refine Keeps.ofSnd (by with_reducible assumption) ?_
    | dsimp only
    | split)

theorem State.objectTake_keeps {s₀ s : State} (h : Keeps s₀ s) (c : Nat) (k : Nat) :
    Keeps s₀ (State.objectTake s c k).1 := by
  unfold State.objectTake
  repeat' (first
    | with_reducible assumption
    | with_reducible apply State.takeUnit_keeps
    | with_reducible exact id
    | simp only [keeps_mk_iff]
    | with_reducible apply Keeps.upd
    | intro _ _ _
    | refine Keeps.ofFst (by with_reducible assumption) ?_
    | refine Keeps.ofSnd (by with_reducible assumption) ?_
    | dsimp only
    | split)

theorem State.addRef_keeps {s₀ s : State} (h : Keeps s₀ s) (c : Nat) (o : ObjRef) (up : Bool) :
    Keeps s₀ (State.addRef s c o up) := by
  unfold State.addRef
  repeat' (first
    | with_reducible assumption
    | with_reducible apply State.vwrite_keeps
    | with_reducible apply State.meet_keeps
    | with_reducible apply State.hostAdd_keeps
    | with_reducible apply State.makeUnit_keeps
    | with_reducible apply State.retire_keeps
    | with_reducible exact id
    | simp only [keeps_mk_iff]
    | with_reducible apply Keeps.upd
    | intro _ _ _
    | refine Keeps.ofFst (by with_reducible assumption) ?_
    | refine Keeps.ofSnd (by with_reducible assumption) ?_
    | dsimp only
    | split)

theorem State.added_keeps {s₀ s : State} (h : Keeps s₀ s) (r : HostRead) (f : Nat × Nat × Nat) (old : Nat) :
    Keeps s₀ (State.added s r f old) := by
  unfold State.added
  repeat' (first
    | with_reducible assumption
    | with_reducible apply State.setHostBytes_keeps
    | with_reducible apply State.retire_keeps
    | with_reducible exact id
    | intro _ _ _
    | refine Keeps.ofFst (by with_reducible assumption) ?_
    | refine Keeps.ofSnd (by with_reducible assumption) ?_
    | dsimp only
    | split)

theorem State.dropRefs_keeps {s₀ s : State} (h : Keeps s₀ s) (q : QRef) :
    Keeps s₀ (State.dropRefs s q) := by
  unfold State.dropRefs
  repeat' (first
    | with_reducible assumption
    | with_reducible apply State.modCtx_keeps
    | with_reducible apply State.addRef_keeps
    | with_reducible exact id
    | simp only [keeps_mk_iff]
    | with_reducible apply Keeps.upd
    | with_reducible apply Keeps.foldl
    | with_reducible apply Keeps.foldlFst
    | intro _ _ _
    | refine Keeps.ofFst (by with_reducible assumption) ?_
    | refine Keeps.ofSnd (by with_reducible assumption) ?_
    | dsimp only
    | split)

theorem State.abortQueue_keeps {s₀ s : State} (h : Keeps s₀ s) (q : QRef) :
    Keeps s₀ (State.abortQueue s q) := by
  unfold State.abortQueue
  repeat' (first
    | with_reducible assumption
    | with_reducible apply State.modCtx_keeps
    | with_reducible apply State.modQueue_keeps
    | with_reducible apply State.emit_keeps
    | with_reducible apply State.signalAll_keeps
    | with_reducible apply State.dropRefs_keeps
    | with_reducible exact id
    | simp only [keeps_mk_iff]
    | with_reducible apply Keeps.upd
    | with_reducible apply Keeps.foldl
    | with_reducible apply Keeps.foldlFst
    | intro _ _ _
    | refine Keeps.ofFst (by with_reducible assumption) ?_
    | refine Keeps.ofSnd (by with_reducible assumption) ?_
    | dsimp only
    | split)

theorem State.grantSeqs_keeps {s₀ s : State} (h : Keeps s₀ s) :
    Keeps s₀ (State.grantSeqs s) := by
  unfold State.grantSeqs
  repeat' (first
    | with_reducible assumption
    | with_reducible exact id
    | simp only [keeps_mk_iff]
    | with_reducible apply Keeps.upd
    | ((with_reducible apply Keeps.updMem) <;> first | with_reducible exact Mem.wf_same rfl rfl rfl rfl rfl rfl | with_reducible exact Mem.evict_keeps _ _ | with_reducible exact Mem.evicts_keep _ _ | with_reducible exact Mem.wf_cells _ _ | with_reducible exact Mem.wf_frames _ _ | exact fun h => Mem.wf_same rfl rfl rfl rfl rfl rfl (Mem.wf_frames _ _ h) | with_reducible exact Mem.wf_lines _ _ | with_reducible exact Mem.wf_blocks _ _ | with_reducible exact Mem.wf_fver _ _ | with_reducible exact Mem.wf_host _ _ | skip)
    | with_reducible apply Keeps.foldl
    | with_reducible apply Keeps.foldlFst
    | intro _ _ _
    | refine Keeps.ofFst (by with_reducible assumption) ?_
    | refine Keeps.ofSnd (by with_reducible assumption) ?_
    | dsimp only
    | split)

theorem State.dropSeqs_keeps {s₀ s : State} (h : Keeps s₀ s) (gone : Seq → Bool) :
    Keeps s₀ (State.dropSeqs s gone) := by
  unfold State.dropSeqs
  repeat' (first
    | with_reducible assumption
    | with_reducible apply State.grantSeqs_keeps
    | with_reducible exact id
    | simp only [keeps_mk_iff]
    | with_reducible apply Keeps.upd
    | ((with_reducible apply Keeps.updMem) <;> first | with_reducible exact Mem.wf_same rfl rfl rfl rfl rfl rfl | with_reducible exact Mem.evict_keeps _ _ | with_reducible exact Mem.evicts_keep _ _ | with_reducible exact Mem.wf_cells _ _ | with_reducible exact Mem.wf_frames _ _ | exact fun h => Mem.wf_same rfl rfl rfl rfl rfl rfl (Mem.wf_frames _ _ h) | with_reducible exact Mem.wf_lines _ _ | with_reducible exact Mem.wf_blocks _ _ | with_reducible exact Mem.wf_fver _ _ | with_reducible exact Mem.wf_host _ _ | skip)
    | intro _ _ _
    | refine Keeps.ofFst (by with_reducible assumption) ?_
    | refine Keeps.ofSnd (by with_reducible assumption) ?_
    | dsimp only
    | split)

theorem State.saveWork_keeps {s₀ s : State} (h : Keeps s₀ s) (k : Nat) (c : Nat) :
    Keeps s₀ (State.saveWork s k c) := by
  unfold State.saveWork
  repeat' (first
    | with_reducible assumption
    | with_reducible apply State.modCtx_keeps
    | with_reducible apply State.setCore_keeps
    | with_reducible apply State.draw_keeps
    | with_reducible apply State.vwrite_keeps
    | with_reducible exact id
    | simp only [keeps_mk_iff]
    | with_reducible apply Keeps.upd
    | intro _ _ _
    | refine Keeps.ofFst (by with_reducible assumption) ?_
    | refine Keeps.ofSnd (by with_reducible assumption) ?_
    | dsimp only
    | split)

theorem State.readSave_keeps {s₀ s : State} (h : Keeps s₀ s) (k : Nat) (c : Nat) (va : Nat) (y : Core) :
    Keeps s₀ (State.readSave s k c va y) := by
  unfold State.readSave
  repeat' (first
    | with_reducible assumption
    | with_reducible apply State.modCtx_keeps
    | with_reducible apply State.setCore_keeps
    | with_reducible apply State.meet_keeps
    | with_reducible exact id
    | simp only [keeps_mk_iff]
    | with_reducible apply Keeps.upd
    | intro _ _ _
    | refine Keeps.ofFst (by with_reducible assumption) ?_
    | refine Keeps.ofSnd (by with_reducible assumption) ?_
    | dsimp only
    | split)

theorem State.takeBack_keeps {s₀ s : State} (h : Keeps s₀ s) (k : Nat) (c : Nat) (x : Saved) :
    Keeps s₀ (State.takeBack s k c x) := by
  unfold State.takeBack
  exact State.readSave_keeps (State.draw_keeps (State.draw_keeps h)) _ _ _ _

theorem State.restoreWork_keeps {s₀ s : State} (h : Keeps s₀ s) (k : Nat) (c : Nat) :
    Keeps s₀ (State.restoreWork s k c) := by
  unfold State.restoreWork
  repeat' (first
    | with_reducible assumption
    | with_reducible apply State.modCtx_keeps
    | with_reducible apply State.setCore_keeps
    | with_reducible apply State.takeBack_keeps
    | with_reducible exact id
    | simp only [keeps_mk_iff]
    | with_reducible apply Keeps.upd
    | intro _ _ _
    | refine Keeps.ofFst (by with_reducible assumption) ?_
    | refine Keeps.ofSnd (by with_reducible assumption) ?_
    | dsimp only
    | split)

theorem State.endSprig_keeps {s₀ s : State} (h : Keeps s₀ s) (k : Nat) :
    Keeps s₀ (State.endSprig s k) := by
  unfold State.endSprig
  repeat' (first
    | with_reducible assumption
    | with_reducible apply State.modCtx_keeps
    | with_reducible apply State.setCore_keeps
    | with_reducible apply State.saveWork_keeps
    | with_reducible apply State.restoreWork_keeps
    | with_reducible exact id
    | simp only [keeps_mk_iff]
    | with_reducible apply Keeps.upd
    | intro _ _ _
    | refine Keeps.ofFst (by with_reducible assumption) ?_
    | refine Keeps.ofSnd (by with_reducible assumption) ?_
    | dsimp only
    | split)

theorem State.cutSprig_keeps {s₀ s : State} (h : Keeps s₀ s) (k : Nat) (c : Nat) :
    Keeps s₀ (State.cutSprig s k c) := by
  unfold State.cutSprig
  repeat' (first
    | with_reducible assumption
    | with_reducible apply State.modCtx_keeps
    | with_reducible apply State.setCore_keeps
    | with_reducible exact id
    | simp only [keeps_mk_iff]
    | with_reducible apply Keeps.upd
    | intro _ _ _
    | refine Keeps.ofFst (by with_reducible assumption) ?_
    | refine Keeps.ofSnd (by with_reducible assumption) ?_
    | dsimp only
    | split)

theorem State.freeCore_keeps {s₀ s : State} (h : Keeps s₀ s) (k : Nat) :
    Keeps s₀ (State.freeCore s k) := by
  unfold State.freeCore
  repeat' (first
    | with_reducible assumption
    | with_reducible apply State.setCore_keeps
    | with_reducible apply State.raise_keeps
    | with_reducible exact id
    | simp only [keeps_mk_iff]
    | with_reducible apply Keeps.upd
    | intro _ _ _
    | refine Keeps.ofFst (by with_reducible assumption) ?_
    | refine Keeps.ofSnd (by with_reducible assumption) ?_
    | dsimp only
    | split)

theorem State.freeCores_keeps {s₀ s : State} (h : Keeps s₀ s) (c : Nat) :
    Keeps s₀ (State.freeCores s c) := by
  unfold State.freeCores
  repeat' (first
    | with_reducible assumption
    | with_reducible apply State.charge_keeps
    | with_reducible apply State.restoreWork_keeps
    | with_reducible apply State.endSprig_keeps
    | with_reducible apply State.cutSprig_keeps
    | with_reducible apply State.freeCore_keeps
    | with_reducible exact id
    | simp only [keeps_mk_iff]
    | with_reducible apply Keeps.upd
    | with_reducible apply Keeps.foldl
    | with_reducible apply Keeps.foldlFst
    | intro _ _ _
    | refine Keeps.ofFst (by with_reducible assumption) ?_
    | refine Keeps.ofSnd (by with_reducible assumption) ?_
    | dsimp only
    | split)

theorem State.tidyCores_keeps {s₀ s : State} (h : Keeps s₀ s) :
    Keeps s₀ (State.tidyCores s) := by
  unfold State.tidyCores
  repeat' (first
    | with_reducible assumption
    | with_reducible exact id
    | simp only [keeps_mk_iff]
    | with_reducible apply Keeps.upd
    | intro _ _ _
    | refine Keeps.ofFst (by with_reducible assumption) ?_
    | refine Keeps.ofSnd (by with_reducible assumption) ?_
    | dsimp only
    | split)

theorem State.sendAborts_keeps {s₀ s : State} (h : Keeps s₀ s) (c : Nat) :
    Keeps s₀ (State.sendAborts s c) := by
  unfold State.sendAborts
  repeat' (first
    | with_reducible assumption
    | with_reducible apply State.draw_keeps
    | with_reducible apply State.sendFor_keeps
    | with_reducible exact id
    | with_reducible apply Keeps.foldl
    | with_reducible apply Keeps.foldlFst
    | intro _ _ _
    | refine Keeps.ofFst (by with_reducible assumption) ?_
    | refine Keeps.ofSnd (by with_reducible assumption) ?_
    | dsimp only
    | split)

theorem State.clearBreaks_keeps {s₀ s : State} (h : Keeps s₀ s) (c : Nat) :
    Keeps s₀ (State.clearBreaks s c) := by
  unfold State.clearBreaks
  repeat' (first
    | with_reducible assumption
    | with_reducible apply State.setWl_keeps
    | with_reducible exact id
    | simp only [keeps_mk_iff]
    | with_reducible apply Keeps.upd
    | with_reducible apply Keeps.foldl
    | with_reducible apply Keeps.foldlFst
    | intro _ _ _
    | refine Keeps.ofFst (by with_reducible assumption) ?_
    | refine Keeps.ofSnd (by with_reducible assumption) ?_
    | dsimp only
    | split)

theorem State.releaseCps_keeps {s₀ s : State} (h : Keeps s₀ s) :
    Keeps s₀ (State.releaseCps s) := by
  unfold State.releaseCps
  repeat' (first
    | with_reducible assumption
    | with_reducible exact id
    | simp only [keeps_mk_iff]
    | with_reducible apply Keeps.upd
    | intro _ _ _
    | refine Keeps.ofFst (by with_reducible assumption) ?_
    | refine Keeps.ofSnd (by with_reducible assumption) ?_
    | dsimp only
    | split)

theorem State.quenchOne_keeps {s₀ s : State} (h : Keeps s₀ s) (c : Nat) :
    Keeps s₀ (State.quenchOne s c) := by
  unfold State.quenchOne
  repeat' (first
    | with_reducible assumption
    | with_reducible apply State.modCtx_keeps
    | with_reducible apply State.absentOwn_keeps
    | with_reducible apply State.abandonExports_keeps
    | with_reducible apply State.abortQueue_keeps
    | with_reducible apply State.dropSeqs_keeps
    | with_reducible apply State.freeCores_keeps
    | with_reducible apply State.tidyCores_keeps
    | with_reducible apply State.sendAborts_keeps
    | with_reducible apply State.clearBreaks_keeps
    | with_reducible apply State.releaseCps_keeps
    | with_reducible exact id
    | simp only [keeps_mk_iff]
    | with_reducible apply Keeps.upd
    | ((with_reducible apply Keeps.updMem) <;> first | with_reducible exact Mem.wf_same rfl rfl rfl rfl rfl rfl | with_reducible exact Mem.evict_keeps _ _ | with_reducible exact Mem.evicts_keep _ _ | with_reducible exact Mem.wf_cells _ _ | with_reducible exact Mem.wf_frames _ _ | exact fun h => Mem.wf_same rfl rfl rfl rfl rfl rfl (Mem.wf_frames _ _ h) | with_reducible exact Mem.wf_lines _ _ | with_reducible exact Mem.wf_blocks _ _ | with_reducible exact Mem.wf_fver _ _ | with_reducible exact Mem.wf_host _ _ | skip)
    | with_reducible apply Keeps.foldl
    | with_reducible apply Keeps.foldlFst
    | intro _ _ _
    | refine Keeps.ofFst (by with_reducible assumption) ?_
    | refine Keeps.ofSnd (by with_reducible assumption) ?_
    | dsimp only
    | split)

theorem State.quenchOwed_keeps {s₀ s : State} (h : Keeps s₀ s) (n : Nat) : Keeps s₀ (State.quenchOwed n s) := by
  induction n generalizing s with
  | zero => exact h
  | succ n ih =>
    unfold State.quenchOwed
    split
    · exact ih (State.quenchOne_keeps h _)
    · exact h

theorem State.settleOwed_keeps {s₀ s : State} (h : Keeps s₀ s) :
    Keeps s₀ (State.settleOwed s) := by
  unfold State.settleOwed
  repeat' (first
    | with_reducible assumption
    | with_reducible apply State.quenchOwed_keeps
    | with_reducible exact id
    | intro _ _ _
    | refine Keeps.ofFst (by with_reducible assumption) ?_
    | refine Keeps.ofSnd (by with_reducible assumption) ?_
    | dsimp only
    | split)

theorem State.quench_keeps {s₀ s : State} (h : Keeps s₀ s) (c : Nat) :
    Keeps s₀ (State.quench s c) := by
  unfold State.quench
  repeat' (first
    | with_reducible assumption
    | with_reducible apply State.quenchOne_keeps
    | with_reducible apply State.settleOwed_keeps
    | with_reducible exact id
    | intro _ _ _
    | refine Keeps.ofFst (by with_reducible assumption) ?_
    | refine Keeps.ofSnd (by with_reducible assumption) ?_
    | dsimp only
    | split)

theorem State.quenchAll_keeps {s₀ s : State} (h : Keeps s₀ s) :
    Keeps s₀ (State.quenchAll s) := by
  unfold State.quenchAll
  repeat' (first
    | with_reducible assumption
    | with_reducible apply State.quench_keeps
    | with_reducible exact id
    | with_reducible apply Keeps.foldl
    | with_reducible apply Keeps.foldlFst
    | intro _ _ _
    | refine Keeps.ofFst (by with_reducible assumption) ?_
    | refine Keeps.ofSnd (by with_reducible assumption) ?_
    | dsimp only
    | split)

theorem State.zeroSlots_keeps {s₀ s : State} (h : Keeps s₀ s) (c : Nat) :
    Keeps s₀ (State.zeroSlots s c) := by
  unfold State.zeroSlots
  repeat' (first
    | with_reducible assumption
    | with_reducible exact id
    | simp only [keeps_mk_iff]
    | with_reducible apply Keeps.upd
    | ((with_reducible apply Keeps.updMem) <;> first | with_reducible exact Mem.wf_same rfl rfl rfl rfl rfl rfl | with_reducible exact Mem.evict_keeps _ _ | with_reducible exact Mem.evicts_keep _ _ | with_reducible exact Mem.wf_cells _ _ | with_reducible exact Mem.wf_frames _ _ | exact fun h => Mem.wf_same rfl rfl rfl rfl rfl rfl (Mem.wf_frames _ _ h) | with_reducible exact Mem.wf_lines _ _ | with_reducible exact Mem.wf_blocks _ _ | with_reducible exact Mem.wf_fver _ _ | with_reducible exact Mem.wf_host _ _ | skip)
    | intro _ _ _
    | refine Keeps.ofFst (by with_reducible assumption) ?_
    | refine Keeps.ofSnd (by with_reducible assumption) ?_
    | dsimp only
    | split)

theorem State.faultRecord_keeps {s₀ s : State} (h : Keeps s₀ s) (c : Nat) (p : Parked) :
    Keeps s₀ (State.faultRecord s c p) := by
  unfold State.faultRecord
  repeat' (first
    | with_reducible assumption
    | with_reducible apply State.modCtx_keeps
    | with_reducible apply State.raise_keeps
    | with_reducible apply State.ringWrite_keeps
    | with_reducible apply State.quench_keeps
    | with_reducible exact id
    | simp only [keeps_mk_iff]
    | with_reducible apply Keeps.upd
    | intro _ _ _
    | refine Keeps.ofFst (by with_reducible assumption) ?_
    | refine Keeps.ofSnd (by with_reducible assumption) ?_
    | dsimp only
    | split)

theorem State.flushFaults_keeps {s₀ s : State} (h : Keeps s₀ s) (n c : Nat) : Keeps s₀ (State.flushFaults n s c) := by
  induction n generalizing s with
  | zero => exact h
  | succ n ih =>
    unfold State.flushFaults
    repeat' (first
      | with_reducible assumption
      | with_reducible apply ih
      | with_reducible apply State.modCtx_keeps
      | with_reducible apply State.faultRecord_keeps
      | dsimp only
      | split)

theorem State.flush_keeps {s₀ s : State} (h : Keeps s₀ s) (c : Nat) :
    Keeps s₀ (State.flush s c) := by
  unfold State.flush
  repeat' (first
    | with_reducible assumption
    | with_reducible apply State.flushFaults_keeps
    | with_reducible exact id
    | intro _ _ _
    | refine Keeps.ofFst (by with_reducible assumption) ?_
    | refine Keeps.ofSnd (by with_reducible assumption) ?_
    | dsimp only
    | split)

theorem State.fault_keeps {s₀ s : State} (h : Keeps s₀ s) (c : Nat) (queue : Nat) (tag : Nat) (source : Nat) (va : Nat) (reason : Nat) (write : Bool) (replayable : Bool) :
    Keeps s₀ (State.fault s c queue tag source va reason write replayable).1 := by
  unfold State.fault
  repeat' (first
    | with_reducible assumption
    | with_reducible apply State.modCtx_keeps
    | with_reducible apply State.draw_keeps
    | with_reducible apply State.perf_keeps
    | with_reducible apply State.flush_keeps
    | with_reducible exact id
    | simp only [keeps_mk_iff]
    | with_reducible apply Keeps.upd
    | intro _ _ _
    | refine Keeps.ofFst (by with_reducible assumption) ?_
    | refine Keeps.ofSnd (by with_reducible assumption) ?_
    | dsimp only
    | split)

theorem State.endSprigsOf_keeps {s₀ s : State} (h : Keeps s₀ s) (c : Nat) :
    Keeps s₀ (State.endSprigsOf s c) := by
  unfold State.endSprigsOf
  repeat' (first
    | with_reducible assumption
    | with_reducible apply State.endSprig_keeps
    | with_reducible apply State.settleOwed_keeps
    | with_reducible exact id
    | with_reducible apply Keeps.foldl
    | with_reducible apply Keeps.foldlFst
    | intro _ _ _
    | refine Keeps.ofFst (by with_reducible assumption) ?_
    | refine Keeps.ofSnd (by with_reducible assumption) ?_
    | dsimp only
    | split)

theorem State.failEntry_keeps {s₀ s : State} (h : Keeps s₀ s) (q : QRef) (tag : Nat) (source : Nat) (back : Back) (e : Acc) :
    Keeps s₀ (State.failEntry s q tag source back e) := by
  unfold State.failEntry
  repeat' (first
    | with_reducible assumption
    | with_reducible apply State.modQueue_keeps
    | with_reducible apply State.noteAcc_keeps
    | with_reducible apply State.back_keeps
    | with_reducible apply State.fault_keeps
    | with_reducible apply State.endSprigsOf_keeps
    | with_reducible exact id
    | simp only [keeps_mk_iff]
    | with_reducible apply Keeps.upd
    | intro _ _ _
    | refine Keeps.ofFst (by with_reducible assumption) ?_
    | refine Keeps.ofSnd (by with_reducible assumption) ?_
    | dsimp only
    | split)

theorem State.queueError_keeps {s₀ s : State} (h : Keeps s₀ s) (q : QRef) (reason : Nat) :
    Keeps s₀ (State.queueError s q reason) := by
  unfold State.queueError
  repeat' (first
    | with_reducible assumption
    | with_reducible apply State.modQueue_keeps
    | with_reducible apply State.raise_keeps
    | with_reducible exact id
    | simp only [keeps_mk_iff]
    | with_reducible apply Keeps.upd
    | intro _ _ _
    | refine Keeps.ofFst (by with_reducible assumption) ?_
    | refine Keeps.ofSnd (by with_reducible assumption) ?_
    | dsimp only
    | split)

theorem State.finishEntry_keeps {s₀ s : State} (h : Keeps s₀ s) (q : QRef) (st : Status) :
    Keeps s₀ (State.finishEntry s q st) := by
  unfold State.finishEntry
  repeat' (first
    | with_reducible assumption
    | with_reducible apply State.modQueue_keeps
    | with_reducible exact id
    | simp only [keeps_mk_iff]
    | with_reducible apply Keeps.upd
    | intro _ _ _
    | refine Keeps.ofFst (by with_reducible assumption) ?_
    | refine Keeps.ofSnd (by with_reducible assumption) ?_
    | dsimp only
    | split)

theorem State.moveLight_keeps {s₀ s : State} (h : Keeps s₀ s) (q : Nat) (u : Nat) :
    Keeps s₀ (State.moveLight s q u) := by
  unfold State.moveLight
  repeat' (first
    | with_reducible assumption
    | with_reducible apply State.setPort_keeps
    | with_reducible apply State.raise_keeps
    | with_reducible apply State.logRas_keeps
    | with_reducible apply State.back_keeps
    | with_reducible exact id
    | simp only [keeps_mk_iff]
    | with_reducible apply Keeps.upd
    | intro _ _ _
    | refine Keeps.ofFst (by with_reducible assumption) ?_
    | refine Keeps.ofSnd (by with_reducible assumption) ?_
    | dsimp only
    | split)

theorem State.pinLight_keeps {s₀ s : State} (h : Keeps s₀ s) :
    Keeps s₀ (State.pinLight s) := by
  unfold State.pinLight
  repeat' (first
    | with_reducible assumption
    | with_reducible apply State.setPort_keeps
    | with_reducible exact id
    | simp only [keeps_mk_iff]
    | with_reducible apply Keeps.upd
    | with_reducible apply Keeps.foldl
    | with_reducible apply Keeps.foldlFst
    | intro _ _ _
    | refine Keeps.ofFst (by with_reducible assumption) ?_
    | refine Keeps.ofSnd (by with_reducible assumption) ?_
    | dsimp only
    | split)

theorem State.shiftLight_keeps {s₀ s : State} (h : Keeps s₀ s) :
    Keeps s₀ (State.shiftLight s) := by
  unfold State.shiftLight
  repeat' (first
    | with_reducible assumption
    | with_reducible apply State.moveLight_keeps
    | with_reducible exact id
    | simp only [keeps_mk_iff]
    | with_reducible apply Keeps.upd
    | with_reducible apply Keeps.foldl
    | with_reducible apply Keeps.foldlFst
    | intro _ _ _
    | refine Keeps.ofFst (by with_reducible assumption) ?_
    | refine Keeps.ofSnd (by with_reducible assumption) ?_
    | dsimp only
    | split)

theorem State.countFec_keeps {s₀ s : State} (h : Keeps s₀ s) (q : Nat) :
    Keeps s₀ (State.countFec s q) := by
  unfold State.countFec
  repeat' (first
    | with_reducible assumption
    | with_reducible apply State.setPort_keeps
    | with_reducible apply State.draw_keeps
    | with_reducible exact id
    | simp only [keeps_mk_iff]
    | with_reducible apply Keeps.upd
    | with_reducible apply Keeps.foldl
    | with_reducible apply Keeps.foldlFst
    | intro _ _ _
    | refine Keeps.ofFst (by with_reducible assumption) ?_
    | refine Keeps.ofSnd (by with_reducible assumption) ?_
    | dsimp only
    | split)

theorem State.portDrop_keeps {s₀ s : State} (h : Keeps s₀ s) (q : Nat) :
    Keeps s₀ (State.portDrop s q) := by
  unfold State.portDrop
  repeat' (first
    | with_reducible assumption
    | with_reducible apply State.setPort_keeps
    | with_reducible apply State.raise_keeps
    | with_reducible apply State.logRas_keeps
    | with_reducible apply State.countFec_keeps
    | with_reducible exact id
    | simp only [keeps_mk_iff]
    | with_reducible apply Keeps.upd
    | ((with_reducible apply Keeps.updClk) <;> first | exact Nat.le_refl _ | exact Nat.le_add_right _ _ | skip)
    | intro _ _ _
    | refine Keeps.ofFst (by with_reducible assumption) ?_
    | refine Keeps.ofSnd (by with_reducible assumption) ?_
    | dsimp only
    | split)

theorem State.portDown_keeps {s₀ s : State} (h : Keeps s₀ s) (q : Nat) :
    Keeps s₀ (State.portDown s q) := by
  unfold State.portDown
  repeat' (first
    | with_reducible assumption
    | with_reducible apply State.shiftLight_keeps
    | with_reducible apply State.portDrop_keeps
    | with_reducible exact id
    | intro _ _ _
    | refine Keeps.ofFst (by with_reducible assumption) ?_
    | refine Keeps.ofSnd (by with_reducible assumption) ?_
    | dsimp only
    | split)

theorem State.portsDown_keeps {s₀ s : State} (h : Keeps s₀ s) :
    Keeps s₀ (State.portsDown s) := by
  unfold State.portsDown
  repeat' (first
    | with_reducible assumption
    | with_reducible apply State.shiftLight_keeps
    | with_reducible apply State.portDrop_keeps
    | with_reducible exact id
    | with_reducible apply Keeps.foldl
    | with_reducible apply Keeps.foldlFst
    | intro _ _ _
    | refine Keeps.ofFst (by with_reducible assumption) ?_
    | refine Keeps.ofSnd (by with_reducible assumption) ?_
    | dsimp only
    | split)

theorem State.darken_keeps {s₀ s : State} (h : Keeps s₀ s) (u : Nat) (l : Laser) :
    Keeps s₀ (State.darken s u l) := by
  unfold State.darken
  repeat' (first
    | with_reducible assumption
    | with_reducible apply State.setLaser_keeps
    | with_reducible apply State.moveLight_keeps
    | with_reducible apply State.portDown_keeps
    | with_reducible exact id
    | with_reducible apply Keeps.foldl
    | with_reducible apply Keeps.foldlFst
    | intro _ _ _
    | refine Keeps.ofFst (by with_reducible assumption) ?_
    | refine Keeps.ofSnd (by with_reducible assumption) ?_
    | dsimp only
    | split)

theorem State.enterPool_keeps {s₀ s : State} (h : Keeps s₀ s) :
    Keeps s₀ (State.enterPool s) := by
  unfold State.enterPool
  repeat' (first
    | with_reducible assumption
    | with_reducible apply State.setCore_keeps
    | with_reducible exact id
    | simp only [keeps_mk_iff]
    | with_reducible apply Keeps.upd
    | with_reducible apply Keeps.foldl
    | with_reducible apply Keeps.foldlFst
    | intro _ _ _
    | refine Keeps.ofFst (by with_reducible assumption) ?_
    | refine Keeps.ofSnd (by with_reducible assumption) ?_
    | dsimp only
    | split)

theorem State.transition_keeps {s₀ s : State} (h : Keeps s₀ s) :
    Keeps s₀ (State.transition s) := by
  unfold State.transition
  split
  · exact h
  · refine keeps_mk_iff.2 ((State.secret_keeps h).updSec ⟨fun k m => ?_, id, fun k m => ?_⟩)
    · rename_i e
      have := k (m.elim .inl (fun m => .inr (.inl (m.elim id nofun))))
      exact absurd (this.2.symm.trans e) nofun
    · rename_i e
      exact absurd ((k (m.elim (.inr ∘ .inl) (.inr ∘ .inr))).2.symm.trans e) nofun
  · exact keeps_mk_iff.2 (h.updSec ⟨fun _ _ => ⟨rfl, rfl⟩, id, fun _ _ => .inr rfl⟩)
  · exact keeps_mk_iff.2 (h.updSec ⟨fun k m => ⟨(k m).1, rfl⟩, id, fun _ _ => .inl rfl⟩)

theorem State.packageReset_keeps {s₀ s : State} (h : Keeps s₀ s) (cause : Nat) :
    Keeps s₀ (State.packageReset s cause) := by
  unfold State.packageReset
  refine keeps_mk_iff.2 ((State.transition_keeps h).updAll rfl rfl (Nat.le_refl _) (fun k => ?_) ⟨id, id, fun _ _ => .inl rfl⟩)
  rw [Mem.wf_iff] at k ⊢
  exact ⟨rfl, rfl, rfl, rfl, rfl, k.2.2.2.2.2⟩

theorem State.loseBuckets_keeps {s₀ s : State} (h : Keeps s₀ s) (c : Nat) (lostQ : Nat → Bool) :
    Keeps s₀ (State.loseBuckets s c lostQ) := by
  unfold State.loseBuckets
  repeat' (first
    | with_reducible assumption
    | with_reducible apply State.settle_keeps
    | with_reducible exact id
    | simp only [keeps_mk_iff]
    | with_reducible apply Keeps.upd
    | with_reducible apply Keeps.foldl
    | with_reducible apply Keeps.foldlFst
    | intro _ _ _
    | refine Keeps.ofFst (by with_reducible assumption) ?_
    | refine Keeps.ofSnd (by with_reducible assumption) ?_
    | dsimp only
    | split)

theorem State.cpStart_keeps {s₀ s : State} (h : Keeps s₀ s) (cause : Nat) :
    Keeps s₀ (State.cpStart s cause) := by
  unfold State.cpStart
  repeat' (first
    | with_reducible assumption
    | with_reducible apply State.charge_keeps
    | with_reducible apply State.push_keeps
    | with_reducible apply State.logRas_keeps
    | with_reducible apply State.cutSprig_keeps
    | with_reducible apply State.tidyCores_keeps
    | with_reducible apply State.releaseCps_keeps
    | with_reducible apply State.packageReset_keeps
    | with_reducible apply State.loseBuckets_keeps
    | with_reducible exact id
    | simp only [keeps_mk_iff]
    | with_reducible apply Keeps.upd
    | with_reducible apply Keeps.foldl
    | with_reducible apply Keeps.foldlFst
    | intro _ _ _
    | refine Keeps.ofFst (by with_reducible assumption) ?_
    | refine Keeps.ofSnd (by with_reducible assumption) ?_
    | dsimp only
    | split)

theorem State.cpDone_keeps {s₀ s : State} (h : Keeps s₀ s) :
    Keeps s₀ (State.cpDone s) := by
  unfold State.cpDone
  repeat' (first
    | with_reducible assumption
    | with_reducible apply State.railsBack_keeps
    | with_reducible apply State.raise_keeps
    | with_reducible apply State.push_keeps
    | with_reducible apply State.logRas_keeps
    | with_reducible apply State.enterPool_keeps
    | with_reducible exact id
    | simp only [keeps_mk_iff]
    | with_reducible apply Keeps.upd
    | intro _ _ _
    | refine Keeps.ofFst (by with_reducible assumption) ?_
    | refine Keeps.ofSnd (by with_reducible assumption) ?_
    | dsimp only
    | split)

theorem State.clearIrqs_keeps {s₀ s : State} (h : Keeps s₀ s) :
    Keeps s₀ (State.clearIrqs s) := by
  unfold State.clearIrqs
  repeat' (first
    | with_reducible assumption
    | with_reducible exact id
    | simp only [keeps_mk_iff]
    | with_reducible apply Keeps.upd
    | intro _ _ _
    | refine Keeps.ofFst (by with_reducible assumption) ?_
    | refine Keeps.ofSnd (by with_reducible assumption) ?_
    | dsimp only
    | split)

theorem State.hostReset_keeps {s₀ s : State} (h : Keeps s₀ s) :
    Keeps s₀ (State.hostReset s) := by
  unfold State.hostReset
  repeat' (first
    | with_reducible assumption
    | with_reducible apply State.quenchAll_keeps
    | with_reducible apply State.clearIrqs_keeps
    | with_reducible exact id
    | simp only [keeps_mk_iff]
    | with_reducible apply Keeps.upd
    | intro _ _ _
    | refine Keeps.ofFst (by with_reducible assumption) ?_
    | refine Keeps.ofSnd (by with_reducible assumption) ?_
    | dsimp only
    | split)

theorem State.endpointReset_keeps {s₀ s : State} (h : Keeps s₀ s) :
    Keeps s₀ (State.endpointReset s) := by
  unfold State.endpointReset
  repeat' (first
    | with_reducible assumption
    | with_reducible apply State.hostReset_keeps
    | with_reducible exact id
    | simp only [keeps_mk_iff]
    | with_reducible apply Keeps.upd
    | intro _ _ _
    | refine Keeps.ofFst (by with_reducible assumption) ?_
    | refine Keeps.ofSnd (by with_reducible assumption) ?_
    | dsimp only
    | split)

theorem State.loseTiles_keeps {s₀ s : State} (h : Keeps s₀ s) (p : Nat → Bool) :
    Keeps s₀ (State.loseTiles s p) := by
  unfold State.loseTiles
  repeat' (first
    | with_reducible assumption
    | with_reducible apply State.setQueue_keeps
    | with_reducible apply State.draw_keeps
    | with_reducible exact id
    | simp only [keeps_mk_iff]
    | with_reducible apply Keeps.upd
    | with_reducible apply Keeps.foldl
    | with_reducible apply Keeps.foldlFst
    | intro _ _ _
    | refine Keeps.ofFst (by with_reducible assumption) ?_
    | refine Keeps.ofSnd (by with_reducible assumption) ?_
    | dsimp only
    | split)

theorem State.engineStart_keeps {s₀ s : State} (h : Keeps s₀ s) (page : Nat) (reason : Nat) :
    Keeps s₀ (State.engineStart s page reason) := by
  unfold State.engineStart
  repeat' (first
    | with_reducible assumption
    | with_reducible apply State.setCore_keeps
    | with_reducible apply State.setPort_keeps
    | with_reducible apply State.setHdr_keeps
    | with_reducible apply State.charge_keeps
    | with_reducible apply State.logRas_keeps
    | with_reducible apply State.back_keeps
    | with_reducible apply State.cutSprig_keeps
    | with_reducible apply State.portDown_keeps
    | with_reducible apply State.loseTiles_keeps
    | with_reducible exact id
    | simp only [keeps_mk_iff]
    | with_reducible apply Keeps.upd
    | intro _ _ _
    | refine Keeps.ofFst (by with_reducible assumption) ?_
    | refine Keeps.ofSnd (by with_reducible assumption) ?_
    | dsimp only
    | split)

theorem State.engineEnd_keeps {s₀ s : State} (h : Keeps s₀ s) (page : Nat) :
    Keeps s₀ (State.engineEnd s page) := by
  unfold State.engineEnd
  repeat' (first
    | with_reducible assumption
    | with_reducible apply State.setCore_keeps
    | with_reducible apply State.setHdr_keeps
    | with_reducible apply State.logRas_keeps
    | with_reducible exact id
    | simp only [keeps_mk_iff]
    | with_reducible apply Keeps.upd
    | intro _ _ _
    | refine Keeps.ofFst (by with_reducible assumption) ?_
    | refine Keeps.ofSnd (by with_reducible assumption) ?_
    | dsimp only
    | split)

theorem State.tamperRoots_keeps {s₀ s : State} (h : Keeps s₀ s) (src : TamperSource) :
    Keeps s₀ (State.tamperRoots s src) := by
  unfold State.tamperRoots
  exact keeps_mk_iff.2 (h.updSec ⟨fun _ _ => ⟨rfl, rfl⟩, id, fun _ _ => .inl rfl⟩)

theorem State.tamperRest_keeps {s₀ s : State} (h : Keeps s₀ s) (hl : s.sec.latch = true) : Keeps s₀ s.tamperRest := by
  unfold State.tamperRest
  refine State.packageReset_keeps (State.portsDown_keeps (keeps_mk_iff.2 ?_)) _
  exact h.updAll rfl rfl (Nat.le_refl _) (Mem.wf_same rfl rfl rfl rfl rfl rfl)
    ⟨fun k _ => k (.inl hl), fun _ => rfl, fun _ _ => .inl rfl⟩

theorem State.hallmark_keeps {s₀ s : State} (h : Keeps s₀ s) (nonce : Bytes) (report : Bytes) (slot : Option Nat) :
    Keeps s₀ (State.hallmark s nonce report slot).2 := by
  unfold State.hallmark
  repeat' (first
    | with_reducible assumption
    | with_reducible apply State.draw_keeps
    | with_reducible exact id
    | intro _ _ _
    | refine Keeps.ofFst (by with_reducible assumption) ?_
    | refine Keeps.ofSnd (by with_reducible assumption) ?_
    | dsimp only
    | split)

theorem State.saveCore_keeps {s₀ s : State} (h : Keeps s₀ s) (k : Nat) :
    Keeps s₀ (State.saveCore s k) := by
  unfold State.saveCore
  repeat' (first
    | with_reducible assumption
    | with_reducible apply State.setCore_keeps
    | with_reducible apply State.charge_keeps
    | with_reducible apply State.saveWork_keeps
    | with_reducible apply State.endSprig_keeps
    | with_reducible apply State.settleOwed_keeps
    | with_reducible exact id
    | simp only [keeps_mk_iff]
    | with_reducible apply Keeps.upd
    | intro _ _ _
    | refine Keeps.ofFst (by with_reducible assumption) ?_
    | refine Keeps.ofSnd (by with_reducible assumption) ?_
    | dsimp only
    | split)

theorem State.giveCore_keeps {s₀ s : State} (h : Keeps s₀ s) (k : Nat) (c : Nat) :
    Keeps s₀ (State.giveCore s k c) := by
  unfold State.giveCore
  repeat' (first
    | with_reducible assumption
    | with_reducible apply State.setCore_keeps
    | with_reducible apply State.charge_keeps
    | with_reducible apply State.restoreWork_keeps
    | with_reducible apply State.settleOwed_keeps
    | with_reducible exact id
    | simp only [keeps_mk_iff]
    | with_reducible apply Keeps.upd
    | intro _ _ _
    | refine Keeps.ofFst (by with_reducible assumption) ?_
    | refine Keeps.ofSnd (by with_reducible assumption) ?_
    | dsimp only
    | split)

theorem State.giveUpTo_keeps {s₀ s : State} (h : Keeps s₀ s) (c : Nat) (n : Nat) :
    Keeps s₀ (State.giveUpTo s c n) := by
  unfold State.giveUpTo
  repeat' (first
    | with_reducible assumption
    | with_reducible apply State.giveCore_keeps
    | with_reducible exact id
    | with_reducible apply Keeps.foldl
    | with_reducible apply Keeps.foldlFst
    | intro _ _ _
    | refine Keeps.ofFst (by with_reducible assumption) ?_
    | refine Keeps.ofSnd (by with_reducible assumption) ?_
    | dsimp only
    | split)

theorem State.assign_keeps {s₀ s : State} (h : Keeps s₀ s) (targets : List (Nat × Nat)) :
    Keeps s₀ (State.assign s targets) := by
  unfold State.assign
  repeat' (first
    | with_reducible assumption
    | with_reducible apply State.saveCore_keeps
    | with_reducible apply State.giveUpTo_keeps
    | with_reducible exact id
    | with_reducible apply Keeps.foldl
    | with_reducible apply Keeps.foldlFst
    | intro _ _ _
    | refine Keeps.ofFst (by with_reducible assumption) ?_
    | refine Keeps.ofSnd (by with_reducible assumption) ?_
    | dsimp only
    | split)

theorem State.noteEpoch_keeps {s₀ s : State} (h : Keeps s₀ s) :
    Keeps s₀ (State.noteEpoch s) := by
  unfold State.noteEpoch
  repeat' (first
    | with_reducible assumption
    | with_reducible exact id
    | simp only [keeps_mk_iff]
    | with_reducible apply Keeps.upd
    | intro _ _ _
    | refine Keeps.ofFst (by with_reducible assumption) ?_
    | refine Keeps.ofSnd (by with_reducible assumption) ?_
    | dsimp only
    | split)

theorem State.noteShort_keeps {s₀ s : State} (h : Keeps s₀ s) (q : Nat) :
    Keeps s₀ (State.noteShort s q) := by
  unfold State.noteShort
  repeat' (first
    | with_reducible assumption
    | with_reducible apply State.raise_keeps
    | with_reducible apply State.noteEpoch_keeps
    | with_reducible exact id
    | simp only [keeps_mk_iff]
    | with_reducible apply Keeps.upd
    | intro _ _ _
    | refine Keeps.ofFst (by with_reducible assumption) ?_
    | refine Keeps.ofSnd (by with_reducible assumption) ?_
    | dsimp only
    | split)

theorem State.takeUp_keeps {s₀ s : State} (h : Keeps s₀ s) :
    Keeps s₀ (State.takeUp s) := by
  unfold State.takeUp
  repeat' (first
    | with_reducible assumption
    | with_reducible apply State.restoreWork_keeps
    | with_reducible apply State.settleOwed_keeps
    | with_reducible exact id
    | simp only [keeps_mk_iff]
    | with_reducible apply Keeps.upd
    | with_reducible apply Keeps.foldl
    | with_reducible apply Keeps.foldlFst
    | intro _ _ _
    | refine Keeps.ofFst (by with_reducible assumption) ?_
    | refine Keeps.ofSnd (by with_reducible assumption) ?_
    | dsimp only
    | split)

theorem State.enterQuantum_keeps {s₀ s : State} (h : Keeps s₀ s) :
    Keeps s₀ (State.enterQuantum s) := by
  unfold State.enterQuantum
  repeat' (first
    | with_reducible assumption
    | with_reducible apply State.setCore_keeps
    | with_reducible apply State.endSprig_keeps
    | with_reducible apply State.tidyCores_keeps
    | with_reducible apply State.settleOwed_keeps
    | with_reducible apply State.assign_keeps
    | with_reducible apply State.noteShort_keeps
    | with_reducible apply State.takeUp_keeps
    | with_reducible exact id
    | simp only [keeps_mk_iff]
    | with_reducible apply Keeps.upd
    | with_reducible apply Keeps.foldl
    | with_reducible apply Keeps.foldlFst
    | intro _ _ _
    | refine Keeps.ofFst (by with_reducible assumption) ?_
    | refine Keeps.ofSnd (by with_reducible assumption) ?_
    | dsimp only
    | split)

theorem State.newRound_keeps {s₀ s : State} (h : Keeps s₀ s) :
    Keeps s₀ (State.newRound s) := by
  unfold State.newRound
  repeat' (first
    | with_reducible assumption
    | with_reducible exact id
    | simp only [keeps_mk_iff]
    | with_reducible apply Keeps.upd
    | intro _ _ _
    | refine Keeps.ofFst (by with_reducible assumption) ?_
    | refine Keeps.ofSnd (by with_reducible assumption) ?_
    | dsimp only
    | split)

theorem State.regrid_keeps {s₀ s : State} (h : Keeps s₀ s) :
    Keeps s₀ (State.regrid s) := by
  unfold State.regrid
  repeat' (first
    | with_reducible assumption
    | with_reducible apply State.endSprig_keeps
    | with_reducible apply State.newRound_keeps
    | with_reducible exact id
    | simp only [keeps_mk_iff]
    | with_reducible apply Keeps.upd
    | with_reducible apply Keeps.foldl
    | with_reducible apply Keeps.foldlFst
    | intro _ _ _
    | refine Keeps.ofFst (by with_reducible assumption) ?_
    | refine Keeps.ofSnd (by with_reducible assumption) ?_
    | dsimp only
    | split)

theorem State.resumeQuanta_keeps {s₀ s : State} (h : Keeps s₀ s) :
    Keeps s₀ (State.resumeQuanta s) := by
  unfold State.resumeQuanta
  repeat' (first
    | with_reducible assumption
    | with_reducible apply State.enterQuantum_keeps
    | with_reducible apply State.regrid_keeps
    | with_reducible exact id
    | intro _ _ _
    | refine Keeps.ofFst (by with_reducible assumption) ?_
    | refine Keeps.ofSnd (by with_reducible assumption) ?_
    | dsimp only
    | split)

theorem State.rebalance_keeps {s₀ s : State} (h : Keeps s₀ s) (held : List (Nat × Nat)) :
    Keeps s₀ (State.rebalance s held) := by
  unfold State.rebalance
  repeat' (first
    | with_reducible assumption
    | with_reducible apply State.tidyCores_keeps
    | with_reducible apply State.assign_keeps
    | with_reducible apply State.noteShort_keeps
    | with_reducible exact id
    | with_reducible apply Keeps.foldl
    | with_reducible apply Keeps.foldlFst
    | intro _ _ _
    | refine Keeps.ofFst (by with_reducible assumption) ?_
    | refine Keeps.ofSnd (by with_reducible assumption) ?_
    | dsimp only
    | split)

theorem State.startTest_keeps {s₀ s : State} (h : Keeps s₀ s) (k : Nat) :
    Keeps s₀ (State.startTest s k) := by
  unfold State.startTest
  repeat' (first
    | with_reducible assumption
    | with_reducible apply State.setCore_keeps
    | with_reducible exact id
    | simp only [keeps_mk_iff]
    | with_reducible apply Keeps.upd
    | intro _ _ _
    | refine Keeps.ofFst (by with_reducible assumption) ?_
    | refine Keeps.ofSnd (by with_reducible assumption) ?_
    | dsimp only
    | split)

theorem State.askDrain_keeps {s₀ s : State} (h : Keeps s₀ s) (k : Nat) :
    Keeps s₀ (State.askDrain s k) := by
  unfold State.askDrain
  repeat' (first
    | with_reducible assumption
    | with_reducible apply State.setCore_keeps
    | with_reducible apply State.raise_keeps
    | with_reducible exact id
    | simp only [keeps_mk_iff]
    | with_reducible apply Keeps.upd
    | intro _ _ _
    | refine Keeps.ofFst (by with_reducible assumption) ?_
    | refine Keeps.ofSnd (by with_reducible assumption) ?_
    | dsimp only
    | split)

theorem State.returnCore_keeps {s₀ s : State} (h : Keeps s₀ s) (k : Nat) :
    Keeps s₀ (State.returnCore s k) := by
  unfold State.returnCore
  repeat' (first
    | with_reducible assumption
    | with_reducible apply State.setCore_keeps
    | with_reducible exact id
    | simp only [keeps_mk_iff]
    | with_reducible apply Keeps.upd
    | intro _ _ _
    | refine Keeps.ofFst (by with_reducible assumption) ?_
    | refine Keeps.ofSnd (by with_reducible assumption) ?_
    | dsimp only
    | split)

theorem State.sweepLanes_keeps {s₀ s : State} (h : Keeps s₀ s) :
    Keeps s₀ (State.sweepLanes s) := by
  unfold State.sweepLanes
  repeat' (first
    | with_reducible assumption
    | with_reducible apply State.setPort_keeps
    | with_reducible exact id
    | simp only [keeps_mk_iff]
    | with_reducible apply Keeps.upd
    | with_reducible apply Keeps.foldl
    | with_reducible apply Keeps.foldlFst
    | intro _ _ _
    | refine Keeps.ofFst (by with_reducible assumption) ?_
    | refine Keeps.ofSnd (by with_reducible assumption) ?_
    | dsimp only
    | split)

theorem State.sweepEnd_keeps {s₀ s : State} (h : Keeps s₀ s) :
    Keeps s₀ (State.sweepEnd s) := by
  unfold State.sweepEnd
  repeat' (first
    | with_reducible assumption
    | with_reducible exact id
    | simp only [keeps_mk_iff]
    | with_reducible apply Keeps.upd
    | intro _ _ _
    | refine Keeps.ofFst (by with_reducible assumption) ?_
    | refine Keeps.ofSnd (by with_reducible assumption) ?_
    | dsimp only
    | split)

theorem State.sweepFrom_keeps {s₀ s : State} (h : Keeps s₀ s) (i : Nat) :
    Keeps s₀ (State.sweepFrom s i) := by
  unfold State.sweepFrom
  repeat' (first
    | with_reducible assumption
    | with_reducible apply State.tidyCores_keeps
    | with_reducible apply State.rebalance_keeps
    | with_reducible apply State.startTest_keeps
    | with_reducible apply State.askDrain_keeps
    | with_reducible apply State.sweepLanes_keeps
    | with_reducible apply State.sweepEnd_keeps
    | with_reducible exact id
    | simp only [keeps_mk_iff]
    | with_reducible apply Keeps.upd
    | intro _ _ _
    | refine Keeps.ofFst (by with_reducible assumption) ?_
    | refine Keeps.ofSnd (by with_reducible assumption) ?_
    | dsimp only
    | split)

theorem State.sweepStart_keeps {s₀ s : State} (h : Keeps s₀ s) :
    Keeps s₀ (State.sweepStart s) := by
  unfold State.sweepStart
  repeat' (first
    | with_reducible assumption
    | with_reducible apply State.sweepFrom_keeps
    | with_reducible exact id
    | simp only [keeps_mk_iff]
    | with_reducible apply Keeps.upd
    | intro _ _ _
    | refine Keeps.ofFst (by with_reducible assumption) ?_
    | refine Keeps.ofSnd (by with_reducible assumption) ?_
    | dsimp only
    | split)

theorem State.drainRegion_keeps {s₀ s : State} (h : Keeps s₀ s) (r : Nat) (cause : Nat) :
    Keeps s₀ (State.drainRegion s r cause) := by
  unfold State.drainRegion
  repeat' (first
    | with_reducible assumption
    | with_reducible apply State.setCore_keeps
    | with_reducible apply State.setRegion_keeps
    | with_reducible apply State.raise_keeps
    | with_reducible apply State.logRas_keeps
    | with_reducible apply State.tidyCores_keeps
    | with_reducible apply State.saveCore_keeps
    | with_reducible apply State.rebalance_keeps
    | with_reducible apply State.sweepFrom_keeps
    | with_reducible exact id
    | simp only [keeps_mk_iff]
    | with_reducible apply Keeps.upd
    | with_reducible apply Keeps.foldl
    | with_reducible apply Keeps.foldlFst
    | intro _ _ _
    | refine Keeps.ofFst (by with_reducible assumption) ?_
    | refine Keeps.ofSnd (by with_reducible assumption) ?_
    | dsimp only
    | split)

theorem State.rejoinRegion_keeps {s₀ s : State} (h : Keeps s₀ s) (r : Nat) :
    Keeps s₀ (State.rejoinRegion s r) := by
  unfold State.rejoinRegion
  repeat' (first
    | with_reducible assumption
    | with_reducible apply State.setRegion_keeps
    | with_reducible apply State.logRas_keeps
    | with_reducible apply State.tidyCores_keeps
    | with_reducible apply State.returnCore_keeps
    | with_reducible exact id
    | simp only [keeps_mk_iff]
    | with_reducible apply Keeps.upd
    | with_reducible apply Keeps.foldl
    | with_reducible apply Keeps.foldlFst
    | intro _ _ _
    | refine Keeps.ofFst (by with_reducible assumption) ?_
    | refine Keeps.ofSnd (by with_reducible assumption) ?_
    | dsimp only
    | split)

theorem State.relimit_keeps {s₀ s : State} (h : Keeps s₀ s) (old : Nat) :
    Keeps s₀ (State.relimit s old) := by
  unfold State.relimit
  repeat' (first
    | with_reducible assumption
    | with_reducible apply State.raise_keeps
    | with_reducible apply State.logRas_keeps
    | with_reducible exact id
    | intro _ _ _
    | refine Keeps.ofFst (by with_reducible assumption) ?_
    | refine Keeps.ofSnd (by with_reducible assumption) ?_
    | dsimp only
    | split)

theorem State.tellBattery_keeps {s₀ s : State} (h : Keeps s₀ s) :
    Keeps s₀ (State.tellBattery s) := by
  unfold State.tellBattery
  repeat' (first
    | with_reducible assumption
    | with_reducible apply State.logRas_keeps
    | with_reducible exact id
    | simp only [keeps_mk_iff]
    | with_reducible apply Keeps.upd
    | ((with_reducible apply Keeps.updSec) <;> first | exact ⟨id, id, fun _ _ => .inl rfl⟩ | skip)
    | intro _ _ _
    | refine Keeps.ofFst (by with_reducible assumption) ?_
    | refine Keeps.ofSnd (by with_reducible assumption) ?_
    | dsimp only
    | split)

theorem State.failFresh_keeps {s₀ s : State} (h : Keeps s₀ s) (w : Wait) :
    Keeps s₀ (State.failFresh s w) := by
  unfold State.failFresh
  repeat' (first
    | with_reducible assumption
    | with_reducible apply State.modCtx_keeps
    | with_reducible apply State.setPort_keeps
    | with_reducible apply State.respond_keeps
    | with_reducible apply State.draw_keeps
    | with_reducible apply State.raise_keeps
    | with_reducible exact id
    | simp only [keeps_mk_iff]
    | with_reducible apply Keeps.upd
    | ((with_reducible apply Keeps.updMem) <;> first | with_reducible exact Mem.wf_same rfl rfl rfl rfl rfl rfl | with_reducible exact Mem.evict_keeps _ _ | with_reducible exact Mem.evicts_keep _ _ | with_reducible exact Mem.wf_cells _ _ | with_reducible exact Mem.wf_frames _ _ | exact fun h => Mem.wf_same rfl rfl rfl rfl rfl rfl (Mem.wf_frames _ _ h) | with_reducible exact Mem.wf_lines _ _ | with_reducible exact Mem.wf_blocks _ _ | with_reducible exact Mem.wf_fver _ _ | with_reducible exact Mem.wf_host _ _ | skip)
    | intro _ _ _
    | refine Keeps.ofFst (by with_reducible assumption) ?_
    | refine Keeps.ofSnd (by with_reducible assumption) ?_
    | dsimp only
    | split)

theorem State.noteThrottle_keeps {s₀ s : State} (h : Keeps s₀ s) :
    Keeps s₀ (State.noteThrottle s) := by
  unfold State.noteThrottle
  repeat' (first
    | with_reducible assumption
    | with_reducible apply State.noteEpoch_keeps
    | with_reducible exact id
    | simp only [keeps_mk_iff]
    | with_reducible apply Keeps.upd
    | intro _ _ _
    | refine Keeps.ofFst (by with_reducible assumption) ?_
    | refine Keeps.ofSnd (by with_reducible assumption) ?_
    | dsimp only
    | split)

theorem State.pullBack_keeps {s₀ s : State} (h : Keeps s₀ s) (kind : Nat) (o : Nat) (n : Nat) :
    Keeps s₀ (State.pullBack s kind o n) := by
  unfold State.pullBack
  repeat' (first
    | with_reducible assumption
    | with_reducible apply State.setRegion_keeps
    | with_reducible apply State.draw_keeps
    | with_reducible exact id
    | simp only [keeps_mk_iff]
    | with_reducible apply Keeps.upd
    | intro _ _ _
    | refine Keeps.ofFst (by with_reducible assumption) ?_
    | refine Keeps.ofSnd (by with_reducible assumption) ?_
    | dsimp only
    | split)

theorem State.keepRatio_keeps {s₀ s : State} (h : Keeps s₀ s) (r : Nat) :
    Keeps s₀ (State.keepRatio s r) := by
  unfold State.keepRatio
  repeat' (first
    | with_reducible assumption
    | with_reducible apply State.setRegion_keeps
    | with_reducible exact id
    | simp only [keeps_mk_iff]
    | with_reducible apply Keeps.upd
    | with_reducible apply Keeps.foldl
    | with_reducible apply Keeps.foldlFst
    | intro _ _ _
    | refine Keeps.ofFst (by with_reducible assumption) ?_
    | refine Keeps.ofSnd (by with_reducible assumption) ?_
    | dsimp only
    | split)

theorem State.lowerClock_keeps {s₀ s : State} (h : Keeps s₀ s) (r : Nat) (mhz : Nat) :
    Keeps s₀ (State.lowerClock s r mhz) := by
  unfold State.lowerClock
  repeat' (first
    | with_reducible assumption
    | with_reducible apply State.setRegion_keeps
    | with_reducible apply State.keepRatio_keeps
    | with_reducible exact id
    | simp only [keeps_mk_iff]
    | with_reducible apply Keeps.upd
    | with_reducible apply Keeps.foldl
    | with_reducible apply Keeps.foldlFst
    | intro _ _ _
    | refine Keeps.ofFst (by with_reducible assumption) ?_
    | refine Keeps.ofSnd (by with_reducible assumption) ?_
    | dsimp only
    | split)

end Sys2Proof.Machine
end

