-- ==== Sys2Proof/Laws/LinkKeep.lean ====
section
/-! SUPPORT. Every operation of Links, Flits keeps what no operation undoes. -/

namespace Sys2Proof.Machine

theorem State.leave_keeps {s₀ s : State} (h : Keeps s₀ s) (q : Nat) (p : Packet) :
    Keeps s₀ (State.leave s q p) := by
  unfold State.leave
  repeat' (first
    | with_reducible assumption
    | with_reducible apply State.modPort_keeps
    | with_reducible exact id
    | simp only [keeps_mk_iff]
    | with_reducible apply Keeps.upd
    | intro _ _ _
    | refine Keeps.ofFst (by with_reducible assumption) ?_
    | refine Keeps.ofSnd (by with_reducible assumption) ?_
    | dsimp only
    | split)

theorem State.dropBad_keeps {s₀ s : State} (h : Keeps s₀ s) (q : Nat) :
    Keeps s₀ (State.dropBad s q) := by
  unfold State.dropBad
  repeat' (first
    | with_reducible assumption
    | with_reducible apply State.modPort_keeps
    | with_reducible exact id
    | simp only [keeps_mk_iff]
    | with_reducible apply Keeps.upd
    | intro _ _ _
    | refine Keeps.ofFst (by with_reducible assumption) ?_
    | refine Keeps.ofSnd (by with_reducible assumption) ?_
    | dsimp only
    | split)

theorem State.admitPacket_keeps {s₀ s : State} (h : Keeps s₀ s) (q : Nat) (p : Packet) :
    Keeps s₀ (State.admitPacket s q p).1 := by
  unfold State.admitPacket
  repeat' (first
    | with_reducible assumption
    | with_reducible apply State.setPort_keeps
    | with_reducible apply State.raise_keeps
    | with_reducible apply State.leave_keeps
    | with_reducible exact id
    | simp only [keeps_mk_iff]
    | with_reducible apply Keeps.upd
    | intro _ _ _
    | refine Keeps.ofFst (by with_reducible assumption) ?_
    | refine Keeps.ofSnd (by with_reducible assumption) ?_
    | dsimp only
    | split)

theorem State.announceLanes_keeps {s₀ s : State} (h : Keeps s₀ s) (q : Nat) :
    Keeps s₀ (State.announceLanes s q) := by
  unfold State.announceLanes
  repeat' (first
    | with_reducible assumption
    | with_reducible apply State.setPort_keeps
    | with_reducible apply State.draw_keeps
    | with_reducible apply State.enqueue_keeps
    | with_reducible exact id
    | simp only [keeps_mk_iff]
    | with_reducible apply Keeps.upd
    | with_reducible apply Keeps.foldl
    | with_reducible apply Keeps.foldlFst
    | intro _ _ _
    | refine Keeps.ofFst (by with_reducible assumption) ?_
    | refine Keeps.ofSnd (by with_reducible assumption) ?_
    | dsimp only
    | split)

theorem State.laneGone_keeps {s₀ s : State} (h : Keeps s₀ s) (q : Nat) :
    Keeps s₀ (State.laneGone s q) := by
  unfold State.laneGone
  repeat' (first
    | with_reducible assumption
    | with_reducible apply State.portDown_keeps
    | with_reducible apply State.announceLanes_keeps
    | with_reducible exact id
    | intro _ _ _
    | refine Keeps.ofFst (by with_reducible assumption) ?_
    | refine Keeps.ofSnd (by with_reducible assumption) ?_
    | dsimp only
    | split)

theorem State.failLanes_keeps {s₀ s : State} (h : Keeps s₀ s) (q : Nat) (ls : List Nat) :
    Keeps s₀ (State.failLanes s q ls) := by
  unfold State.failLanes
  repeat' (first
    | with_reducible assumption
    | with_reducible apply State.setPort_keeps
    | with_reducible apply State.raise_keeps
    | with_reducible apply State.logRas_keeps
    | with_reducible apply State.laneGone_keeps
    | with_reducible exact id
    | simp only [keeps_mk_iff]
    | with_reducible apply Keeps.upd
    | with_reducible apply Keeps.foldl
    | with_reducible apply Keeps.foldlFst
    | intro _ _ _
    | refine Keeps.ofFst (by with_reducible assumption) ?_
    | refine Keeps.ofSnd (by with_reducible assumption) ?_
    | dsimp only
    | split)

theorem State.laneFails_keeps {s₀ s : State} (h : Keeps s₀ s) (q : Nat) (l : Nat) :
    Keeps s₀ (State.laneFails s q l) := by
  unfold State.laneFails
  repeat' (first
    | with_reducible assumption
    | with_reducible apply State.failLanes_keeps
    | with_reducible exact id
    | intro _ _ _
    | refine Keeps.ofFst (by with_reducible assumption) ?_
    | refine Keeps.ofSnd (by with_reducible assumption) ?_
    | dsimp only
    | split)

theorem State.bringupFail_keeps {s₀ s : State} (h : Keeps s₀ s) (q : Nat) :
    Keeps s₀ (State.bringupFail s q) := by
  unfold State.bringupFail
  repeat' (first
    | with_reducible assumption
    | with_reducible apply State.setPort_keeps
    | with_reducible apply State.raise_keeps
    | with_reducible apply State.countFec_keeps
    | with_reducible exact id
    | simp only [keeps_mk_iff]
    | with_reducible apply Keeps.upd
    | intro _ _ _
    | refine Keeps.ofFst (by with_reducible assumption) ?_
    | refine Keeps.ofSnd (by with_reducible assumption) ?_
    | dsimp only
    | split)

theorem State.startBringup_keeps {s₀ s : State} (h : Keeps s₀ s) (q : Nat) :
    Keeps s₀ (State.startBringup s q) := by
  unfold State.startBringup
  repeat' (first
    | with_reducible assumption
    | with_reducible apply State.setPort_keeps
    | with_reducible exact id
    | simp only [keeps_mk_iff]
    | with_reducible apply Keeps.upd
    | intro _ _ _
    | refine Keeps.ofFst (by with_reducible assumption) ?_
    | refine Keeps.ofSnd (by with_reducible assumption) ?_
    | dsimp only
    | split)

theorem State.sendSession_keeps {s₀ s : State} (h : Keeps s₀ s) (q : Nat) (sub : Nat) (off : Nat) (d : Bytes) :
    Keeps s₀ (State.sendSession s q sub off d) := by
  unfold State.sendSession
  repeat' (first
    | with_reducible assumption
    | with_reducible apply State.enqueue_keeps
    | with_reducible exact id
    | intro _ _ _
    | refine Keeps.ofFst (by with_reducible assumption) ?_
    | refine Keeps.ofSnd (by with_reducible assumption) ?_
    | dsimp only
    | split)

theorem State.replay_keeps {s₀ s : State} (h : Keeps s₀ s) (q : Nat) :
    Keeps s₀ (State.replay s q) := by
  unfold State.replay
  repeat' (first
    | with_reducible assumption
    | with_reducible apply State.setPort_keeps
    | with_reducible apply State.putFlit_keeps
    | with_reducible exact id
    | simp only [keeps_mk_iff]
    | with_reducible apply Keeps.upd
    | with_reducible apply Keeps.foldl
    | with_reducible apply Keeps.foldlFst
    | intro _ _ _
    | refine Keeps.ofFst (by with_reducible assumption) ?_
    | refine Keeps.ofSnd (by with_reducible assumption) ?_
    | dsimp only
    | split)

theorem State.resumeTraffic_keeps {s₀ s : State} (h : Keeps s₀ s) (q : Nat) (lanes : Nat) :
    Keeps s₀ (State.resumeTraffic s q lanes) := by
  unfold State.resumeTraffic
  repeat' (first
    | with_reducible assumption
    | with_reducible apply State.setPort_keeps
    | with_reducible apply State.back_keeps
    | with_reducible apply State.shiftLight_keeps
    | with_reducible apply State.failLanes_keeps
    | with_reducible apply State.replay_keeps
    | with_reducible exact id
    | simp only [keeps_mk_iff]
    | with_reducible apply Keeps.upd
    | intro _ _ _
    | refine Keeps.ofFst (by with_reducible assumption) ?_
    | refine Keeps.ofSnd (by with_reducible assumption) ?_
    | dsimp only
    | split)

theorem State.startSession_keeps {s₀ s : State} (h : Keeps s₀ s) (q : Nat) :
    Keeps s₀ (State.startSession s q) := by
  unfold State.startSession
  repeat' (first
    | with_reducible assumption
    | with_reducible apply State.setPort_keeps
    | with_reducible apply State.secret_keeps
    | with_reducible apply State.waitFresh_keeps
    | with_reducible apply State.sendSession_keeps
    | with_reducible exact id
    | simp only [keeps_mk_iff]
    | with_reducible apply Keeps.upd
    | intro _ _ _
    | refine Keeps.ofFst (by with_reducible assumption) ?_
    | refine Keeps.ofSnd (by with_reducible assumption) ?_
    | dsimp only
    | split)

theorem State.sendChain_keeps {s₀ s : State} (h : Keeps s₀ s) (q : Nat) :
    Keeps s₀ (State.sendChain s q) := by
  unfold State.sendChain
  repeat' (first
    | with_reducible assumption
    | with_reducible apply State.sendSession_keeps
    | with_reducible exact id
    | with_reducible apply Keeps.foldl
    | with_reducible apply Keeps.foldlFst
    | intro _ _ _
    | refine Keeps.ofFst (by with_reducible assumption) ?_
    | refine Keeps.ofSnd (by with_reducible assumption) ?_
    | dsimp only
    | split)

theorem State.askTime_keeps {s₀ s : State} (h : Keeps s₀ s) (q : Nat) :
    Keeps s₀ (State.askTime s q) := by
  unfold State.askTime
  repeat' (first
    | with_reducible assumption
    | with_reducible apply State.modPort_keeps
    | with_reducible apply State.enqueue_keeps
    | with_reducible exact id
    | simp only [keeps_mk_iff]
    | with_reducible apply Keeps.upd
    | intro _ _ _
    | refine Keeps.ofFst (by with_reducible assumption) ?_
    | refine Keeps.ofSnd (by with_reducible assumption) ?_
    | dsimp only
    | split)

theorem State.portUp_keeps {s₀ s : State} (h : Keeps s₀ s) (q : Nat) :
    Keeps s₀ (State.portUp s q) := by
  unfold State.portUp
  repeat' (first
    | with_reducible assumption
    | with_reducible apply State.setPort_keeps
    | with_reducible apply State.resend_keeps
    | with_reducible exact id
    | simp only [keeps_mk_iff]
    | with_reducible apply Keeps.upd
    | with_reducible apply Keeps.foldl
    | with_reducible apply Keeps.foldlFst
    | intro _ _ _
    | refine Keeps.ofFst (by with_reducible assumption) ?_
    | refine Keeps.ofSnd (by with_reducible assumption) ?_
    | dsimp only
    | split)

theorem State.establish_keeps {s₀ s : State} (h : Keeps s₀ s) (q : Nat) :
    Keeps s₀ (State.establish s q) := by
  unfold State.establish
  repeat' (first
    | with_reducible assumption
    | with_reducible apply State.setPort_keeps
    | with_reducible apply State.raise_keeps
    | with_reducible apply State.sendSession_keeps
    | with_reducible apply State.askTime_keeps
    | with_reducible exact id
    | simp only [keeps_mk_iff]
    | with_reducible apply Keeps.upd
    | intro _ _ _
    | refine Keeps.ofFst (by with_reducible assumption) ?_
    | refine Keeps.ofSnd (by with_reducible assumption) ?_
    | dsimp only
    | split)

theorem State.startRekey_keeps {s₀ s : State} (h : Keeps s₀ s) (q : Nat) :
    Keeps s₀ (State.startRekey s q) := by
  unfold State.startRekey
  repeat' (first
    | with_reducible assumption
    | with_reducible apply State.setPort_keeps
    | with_reducible apply State.secret_keeps
    | with_reducible apply State.waitFresh_keeps
    | with_reducible apply State.sendSession_keeps
    | with_reducible exact id
    | simp only [keeps_mk_iff]
    | with_reducible apply Keeps.upd
    | intro _ _ _
    | refine Keeps.ofFst (by with_reducible assumption) ?_
    | refine Keeps.ofSnd (by with_reducible assumption) ?_
    | dsimp only
    | split)

theorem State.joinsNone_keeps {s₀ s : State} (h : Keeps s₀ s) :
    Keeps s₀ (State.joinsNone s) := by
  unfold State.joinsNone
  repeat' (first
    | with_reducible assumption
    | with_reducible exact id
    | simp only [keeps_mk_iff]
    | with_reducible apply Keeps.upd
    | intro _ _ _
    | refine Keeps.ofFst (by with_reducible assumption) ?_
    | refine Keeps.ofSnd (by with_reducible assumption) ?_
    | dsimp only
    | split)

theorem State.restartPort_keeps {s₀ s : State} (h : Keeps s₀ s) (q : Nat) :
    Keeps s₀ (State.restartPort s q) := by
  unfold State.restartPort
  repeat' (first
    | with_reducible assumption
    | with_reducible apply State.setPort_keeps
    | with_reducible apply State.portDown_keeps
    | with_reducible exact id
    | simp only [keeps_mk_iff]
    | with_reducible apply Keeps.upd
    | intro _ _ _
    | refine Keeps.ofFst (by with_reducible assumption) ?_
    | refine Keeps.ofSnd (by with_reducible assumption) ?_
    | dsimp only
    | split)

theorem State.askRecal_keeps {s₀ s : State} (h : Keeps s₀ s) (q : Nat) (l : Nat) :
    Keeps s₀ (State.askRecal s q l) := by
  unfold State.askRecal
  repeat' (first
    | with_reducible assumption
    | with_reducible apply State.modPort_keeps
    | with_reducible exact id
    | simp only [keeps_mk_iff]
    | with_reducible apply Keeps.upd
    | intro _ _ _
    | refine Keeps.ofFst (by with_reducible assumption) ?_
    | refine Keeps.ofSnd (by with_reducible assumption) ?_
    | dsimp only
    | split)

theorem State.followParent_keeps {s₀ s : State} (h : Keeps s₀ s) (off : Int) :
    Keeps s₀ (State.followParent s off) := by
  unfold State.followParent
  repeat' (first
    | with_reducible assumption
    | with_reducible apply State.draw_keeps
    | with_reducible exact id
    | simp only [keeps_mk_iff]
    | with_reducible apply Keeps.upd
    | ((with_reducible apply Keeps.updClk) <;> first | exact Nat.le_refl _ | exact Nat.le_add_right _ _ | skip)
    | intro _ _ _
    | refine Keeps.ofFst (by with_reducible assumption) ?_
    | refine Keeps.ofSnd (by with_reducible assumption) ?_
    | dsimp only
    | split)

theorem State.putNext_keeps {s₀ s : State} (h : Keeps s₀ s) (q : Nat) :
    Keeps s₀ (State.putNext s q) := by
  unfold State.putNext
  repeat' (first
    | with_reducible assumption
    | with_reducible apply State.setPort_keeps
    | with_reducible apply State.putFlit_keeps
    | with_reducible exact id
    | simp only [keeps_mk_iff]
    | with_reducible apply Keeps.upd
    | intro _ _ _
    | refine Keeps.ofFst (by with_reducible assumption) ?_
    | refine Keeps.ofSnd (by with_reducible assumption) ?_
    | dsimp only
    | split)

theorem State.forceRekey_keeps {s₀ s : State} (h : Keeps s₀ s) (q : Nat) :
    Keeps s₀ (State.forceRekey s q) := by
  unfold State.forceRekey
  repeat' (first
    | with_reducible assumption
    | with_reducible apply State.modPort_keeps
    | with_reducible apply State.startRekey_keeps
    | with_reducible exact id
    | simp only [keeps_mk_iff]
    | with_reducible apply Keeps.upd
    | intro _ _ _
    | refine Keeps.ofFst (by with_reducible assumption) ?_
    | refine Keeps.ofSnd (by with_reducible assumption) ?_
    | dsimp only
    | split)

theorem State.sendFlit_keeps {s₀ s : State} (h : Keeps s₀ s) (q : Nat) :
    Keeps s₀ (State.sendFlit s q) := by
  unfold State.sendFlit
  repeat' (first
    | with_reducible assumption
    | with_reducible apply State.setPort_keeps
    | with_reducible apply State.portDown_keeps
    | with_reducible apply State.putNext_keeps
    | with_reducible apply State.forceRekey_keeps
    | with_reducible exact id
    | intro _ _ _
    | refine Keeps.ofFst (by with_reducible assumption) ?_
    | refine Keeps.ofSnd (by with_reducible assumption) ?_
    | dsimp only
    | split)

theorem State.takeFlit_keeps {s₀ s : State} (h : Keeps s₀ s) (q : Nat) (flit : Bytes) :
    Keeps s₀ (State.takeFlit s q flit) := by
  unfold State.takeFlit
  repeat' (first
    | with_reducible assumption
    | with_reducible apply State.modPort_keeps
    | with_reducible apply State.portDown_keeps
    | with_reducible apply State.replay_keeps
    | with_reducible exact id
    | intro _ _ _
    | refine Keeps.ofFst (by with_reducible assumption) ?_
    | refine Keeps.ofSnd (by with_reducible assumption) ?_
    | dsimp only
    | split)

end Sys2Proof.Machine
end

