-- ==== Sys2Proof/Laws/QueueKeep.lean ====
section
/-! SUPPORT. Every operation of Admission, Run, Lists, Compute, Products, Rows, Routing, Steps keeps what no operation undoes. -/

namespace Sys2Proof.Machine

theorem State.start_keeps {s₀ s : State} (h : Keeps s₀ s) (q : QRef) :
    Keeps s₀ (State.start s q) := by
  unfold State.start
  repeat' (first
    | with_reducible assumption
    | with_reducible apply State.modQueue_keeps
    | with_reducible exact id
    | simp only [keeps_mk_iff]
    | with_reducible apply Keeps.upd
    | intro _ _ _
    | refine Keeps.ofFst (by with_reducible assumption) ?_
    | refine Keeps.ofSnd (by with_reducible assumption) ?_
    | dsimp only
    | split)

theorem State.meetScale_keeps {s₀ s : State} (h : Keeps s₀ s) (c : Nat) (d : Desc) :
    Keeps s₀ (State.meetScale s c d) := by
  unfold State.meetScale
  repeat' (first
    | with_reducible assumption
    | with_reducible apply State.meet_keeps
    | with_reducible exact id
    | simp only [keeps_mk_iff]
    | with_reducible apply Keeps.upd
    | with_reducible apply Keeps.foldl
    | with_reducible apply Keeps.foldlFst
    | intro _ _ _
    | refine Keeps.ofFst (by with_reducible assumption) ?_
    | refine Keeps.ofSnd (by with_reducible assumption) ?_
    | dsimp only
    | split)

theorem State.touch_keeps {s₀ s : State} (h : Keeps s₀ s) (q : QRef) (e : Entry) :
    Keeps s₀ (State.touch s q e) := by
  unfold State.touch
  repeat' (first
    | with_reducible assumption
    | with_reducible apply State.touchPiece_keeps
    | with_reducible apply State.meetScale_keeps
    | with_reducible exact id
    | with_reducible apply Keeps.foldl
    | with_reducible apply Keeps.foldlFst
    | intro _ _ _
    | refine Keeps.ofFst (by with_reducible assumption) ?_
    | refine Keeps.ofSnd (by with_reducible assumption) ?_
    | dsimp only
    | split)

theorem State.grow_keeps {s₀ s : State} (h : Keeps s₀ s) (q : QRef) (e : Entry) :
    Keeps s₀ (State.grow s q e) := by
  unfold State.grow
  repeat' (first
    | with_reducible assumption
    | with_reducible exact id
    | simp only [keeps_mk_iff]
    | with_reducible apply Keeps.upd
    | ((with_reducible apply Keeps.updMem) <;> first | with_reducible exact Mem.wf_same rfl rfl rfl rfl rfl rfl | with_reducible exact Mem.evict_keeps _ _ | with_reducible exact Mem.evicts_keep _ _ | with_reducible exact Mem.wf_cells _ _ | with_reducible exact Mem.wf_frames _ _ | exact fun h => Mem.wf_same rfl rfl rfl rfl rfl rfl (Mem.wf_frames _ _ h) | with_reducible exact Mem.wf_lines _ _ | with_reducible exact Mem.wf_blocks _ _ | with_reducible exact Mem.wf_fver _ _ | with_reducible exact Mem.wf_host _ _ | skip)
    | with_reducible apply Keeps.foldl
    | with_reducible apply Keeps.foldlFst
    | intro _ _ _
    | refine Keeps.ofFst (by with_reducible assumption) ?_
    | refine Keeps.ofSnd (by with_reducible assumption) ?_
    | dsimp only
    | split)

theorem readObjects_keeps {s₀ s : State} (h : Keeps s₀ s) (c n k : Nat) : Keeps s₀ (readObjects c n s k).1 := by
  induction n generalizing s k with
  | zero => exact h
  | succ n ih =>
    unfold readObjects
    split
    · rename_i e
      exact Keeps.ofFst e (State.objectTake_keeps h _ _)
    · rename_i e
      have h₁ := Keeps.ofFst e (State.objectTake_keeps h _ _)
      split
      · exact h₁
      · split
        · rename_i e₁
          exact Keeps.ofFst e₁ (ih h₁ _)
        · rename_i e₁
          exact Keeps.ofFst e₁ (ih h₁ _)

theorem State.objectsOf_keeps {s₀ s : State} (h : Keeps s₀ s) (q : QRef) (t : List AdmList) :
    Keeps s₀ (State.objectsOf s q t).1 := by
  unfold State.objectsOf
  split
  · rename_i e
    exact Keeps.ofFst e (readObjects_keeps h _ _ _)
  · rename_i e
    exact Keeps.ofFst e (readObjects_keeps h _ _ _)

theorem State.track_keeps {s₀ s : State} (h : Keeps s₀ s) (c : Nat) (id : Nat) :
    Keeps s₀ (State.track s c id) := by
  unfold State.track
  repeat' (first
    | with_reducible assumption
    | with_reducible exact id
    | simp only [keeps_mk_iff]
    | with_reducible apply Keeps.upd
    | ((with_reducible apply Keeps.updMem) <;> first | with_reducible exact Mem.wf_same rfl rfl rfl rfl rfl rfl | with_reducible exact Mem.evict_keeps _ _ | with_reducible exact Mem.evicts_keep _ _ | with_reducible exact Mem.wf_cells _ _ | with_reducible exact Mem.wf_frames _ _ | exact fun h => Mem.wf_same rfl rfl rfl rfl rfl rfl (Mem.wf_frames _ _ h) | with_reducible exact Mem.wf_lines _ _ | with_reducible exact Mem.wf_blocks _ _ | with_reducible exact Mem.wf_fver _ _ | with_reducible exact Mem.wf_host _ _ | skip)
    | intro _ _ _
    | refine Keeps.ofFst (by with_reducible assumption) ?_
    | refine Keeps.ofSnd (by with_reducible assumption) ?_
    | dsimp only
    | split)

theorem State.wantSlot_keeps {s₀ s : State} (h : Keeps s₀ s) (c : Nat) (prefetch : Bool) :
    Keeps s₀ (State.wantSlot s c prefetch) := by
  unfold State.wantSlot
  repeat' (first
    | with_reducible assumption
    | with_reducible apply State.startMoves_keeps
    | with_reducible apply State.wantNear_keeps
    | with_reducible exact id
    | simp only [keeps_mk_iff]
    | with_reducible apply Keeps.upd
    | with_reducible apply Keeps.foldl
    | with_reducible apply Keeps.foldlFst
    | intro _ _ _
    | refine Keeps.ofFst (by with_reducible assumption) ?_
    | refine Keeps.ofSnd (by with_reducible assumption) ?_
    | dsimp only
    | split)

theorem State.idleSeqs_keeps {s₀ s : State} (h : Keeps s₀ s) (c : Nat) :
    Keeps s₀ (State.idleSeqs s c) := by
  unfold State.idleSeqs
  repeat' (first
    | with_reducible assumption
    | with_reducible exact id
    | simp only [keeps_mk_iff]
    | with_reducible apply Keeps.upd
    | ((with_reducible apply Keeps.updMem) <;> first | with_reducible exact Mem.wf_same rfl rfl rfl rfl rfl rfl | with_reducible exact Mem.evict_keeps _ _ | with_reducible exact Mem.evicts_keep _ _ | with_reducible exact Mem.wf_cells _ _ | with_reducible exact Mem.wf_frames _ _ | exact fun h => Mem.wf_same rfl rfl rfl rfl rfl rfl (Mem.wf_frames _ _ h) | with_reducible exact Mem.wf_lines _ _ | with_reducible exact Mem.wf_blocks _ _ | with_reducible exact Mem.wf_fver _ _ | with_reducible exact Mem.wf_host _ _ | skip)
    | intro _ _ _
    | refine Keeps.ofFst (by with_reducible assumption) ?_
    | refine Keeps.ofSnd (by with_reducible assumption) ?_
    | dsimp only
    | split)

theorem State.meetTree_keeps {s₀ s : State} (h : Keeps s₀ s) (c : Nat) (t : List AdmList) :
    Keeps s₀ (State.meetTree s c t) := by
  unfold State.meetTree
  repeat' (first
    | with_reducible assumption
    | with_reducible apply State.meet_keeps
    | with_reducible exact id
    | simp only [keeps_mk_iff]
    | with_reducible apply Keeps.upd
    | with_reducible apply Keeps.foldl
    | with_reducible apply Keeps.foldlFst
    | intro _ _ _
    | refine Keeps.ofFst (by with_reducible assumption) ?_
    | refine Keeps.ofSnd (by with_reducible assumption) ?_
    | dsimp only
    | split)

theorem State.startTree_keeps {s₀ s : State} (h : Keeps s₀ s) (q : QRef) (addr : Nat) :
    Keeps s₀ (State.startTree s q addr) := by
  unfold State.startTree
  repeat' (first
    | with_reducible assumption
    | with_reducible apply State.modCtx_keeps
    | with_reducible apply State.modQueue_keeps
    | with_reducible apply State.meet_keeps
    | with_reducible apply State.addRef_keeps
    | with_reducible apply State.objectsOf_keeps
    | with_reducible apply State.track_keeps
    | with_reducible apply State.wantSlot_keeps
    | with_reducible exact id
    | simp only [keeps_mk_iff]
    | with_reducible apply Keeps.upd
    | with_reducible apply Keeps.foldl
    | with_reducible apply Keeps.foldlFst
    | intro _ _ _
    | refine Keeps.ofFst (by with_reducible assumption) ?_
    | refine Keeps.ofSnd (by with_reducible assumption) ?_
    | dsimp only
    | split)

theorem State.endTree_keeps {s₀ s : State} (h : Keeps s₀ s) (q : QRef) :
    Keeps s₀ (State.endTree s q) := by
  unfold State.endTree
  repeat' (first
    | with_reducible assumption
    | with_reducible apply State.modCtx_keeps
    | with_reducible apply State.modQueue_keeps
    | with_reducible apply State.dropRefs_keeps
    | with_reducible apply State.idleSeqs_keeps
    | with_reducible exact id
    | simp only [keeps_mk_iff]
    | with_reducible apply Keeps.upd
    | intro _ _ _
    | refine Keeps.ofFst (by with_reducible assumption) ?_
    | refine Keeps.ofSnd (by with_reducible assumption) ?_
    | dsimp only
    | split)

theorem State.clearPeriod_keeps {s₀ s : State} (h : Keeps s₀ s) (c : Nat) :
    Keeps s₀ (State.clearPeriod s c) := by
  unfold State.clearPeriod
  repeat' (first
    | with_reducible assumption
    | with_reducible apply State.unback_keeps
    | with_reducible exact id
    | simp only [keeps_mk_iff]
    | with_reducible apply Keeps.upd
    | with_reducible apply Keeps.foldl
    | with_reducible apply Keeps.foldlFst
    | intro _ _ _
    | refine Keeps.ofFst (by with_reducible assumption) ?_
    | refine Keeps.ofSnd (by with_reducible assumption) ?_
    | dsimp only
    | split)

theorem State.closePeriod_keeps {s₀ s : State} (h : Keeps s₀ s) (c : Nat) :
    Keeps s₀ (State.closePeriod s c) := by
  unfold State.closePeriod
  repeat' (first
    | with_reducible assumption
    | with_reducible apply State.modCtx_keeps
    | with_reducible apply State.clearPeriod_keeps
    | with_reducible exact id
    | simp only [keeps_mk_iff]
    | with_reducible apply Keeps.upd
    | intro _ _ _
    | refine Keeps.ofFst (by with_reducible assumption) ?_
    | refine Keeps.ofSnd (by with_reducible assumption) ?_
    | dsimp only
    | split)

theorem State.releaseWork_keeps {s₀ s : State} (h : Keeps s₀ s) (q : QRef) (fused : Bool) :
    Keeps s₀ (State.releaseWork s q fused) := by
  unfold State.releaseWork
  repeat' (first
    | with_reducible assumption
    | with_reducible exact id
    | simp only [keeps_mk_iff]
    | with_reducible apply Keeps.upd
    | intro _ _ _
    | refine Keeps.ofFst (by with_reducible assumption) ?_
    | refine Keeps.ofSnd (by with_reducible assumption) ?_
    | dsimp only
    | split)

theorem State.advance_keeps {s₀ s : State} (h : Keeps s₀ s) (q : QRef) (e : Entry) (st : Status) :
    Keeps s₀ (State.advance s q e st) := by
  unfold State.advance
  repeat' (first
    | with_reducible assumption
    | with_reducible apply State.modCtx_keeps
    | with_reducible apply State.setQueue_keeps
    | with_reducible apply State.modQueue_keeps
    | with_reducible apply State.emit_keeps
    | with_reducible apply State.perf_keeps
    | with_reducible apply State.grow_keeps
    | with_reducible apply State.wantSlot_keeps
    | with_reducible apply State.endTree_keeps
    | with_reducible apply State.releaseWork_keeps
    | with_reducible exact id
    | simp only [keeps_mk_iff]
    | with_reducible apply Keeps.upd
    | intro _ _ _
    | refine Keeps.ofFst (by with_reducible assumption) ?_
    | refine Keeps.ofSnd (by with_reducible assumption) ?_
    | dsimp only
    | split)

theorem State.noteStop_keeps {s₀ s : State} (h : Keeps s₀ s) (q : QRef) (e : Entry) (a : Acc) :
    Keeps s₀ (State.noteStop s q e a) := by
  unfold State.noteStop
  repeat' (first
    | with_reducible assumption
    | with_reducible apply State.noteAcc_keeps
    | with_reducible apply State.fault_keeps
    | with_reducible exact id
    | simp only [keeps_mk_iff]
    | with_reducible apply Keeps.upd
    | intro _ _ _
    | refine Keeps.ofFst (by with_reducible assumption) ?_
    | refine Keeps.ofSnd (by with_reducible assumption) ?_
    | dsimp only
    | split)

theorem State.complete_keeps {s₀ s : State} (h : Keeps s₀ s) (q : QRef) :
    Keeps s₀ (State.complete s q) := by
  unfold State.complete
  repeat' (first
    | with_reducible assumption
    | with_reducible apply State.signalFence_keeps
    | with_reducible apply State.scrubFrames_keeps
    | with_reducible apply State.fault_keeps
    | with_reducible apply State.failEntry_keeps
    | with_reducible apply State.closePeriod_keeps
    | with_reducible apply State.advance_keeps
    | with_reducible apply State.noteStop_keeps
    | with_reducible exact id
    | simp only [keeps_mk_iff]
    | with_reducible apply Keeps.upd
    | intro _ _ _
    | refine Keeps.ofFst (by with_reducible assumption) ?_
    | refine Keeps.ofSnd (by with_reducible assumption) ?_
    | dsimp only
    | split)

theorem State.wake_keeps {s₀ s : State} (h : Keeps s₀ s) (q : QRef) :
    Keeps s₀ (State.wake s q) := by
  unfold State.wake
  repeat' (first
    | with_reducible assumption
    | with_reducible apply State.setQueue_keeps
    | with_reducible apply State.meet_keeps
    | with_reducible apply State.failEntry_keeps
    | with_reducible exact id
    | simp only [keeps_mk_iff]
    | with_reducible apply Keeps.upd
    | intro _ _ _
    | refine Keeps.ofFst (by with_reducible assumption) ?_
    | refine Keeps.ofSnd (by with_reducible assumption) ?_
    | dsimp only
    | split)

theorem State.startRetire_keeps {s₀ s : State} (h : Keeps s₀ s) (q : QRef) (e : Entry) :
    Keeps s₀ (State.startRetire s q e) := by
  unfold State.startRetire
  repeat' (first
    | with_reducible assumption
    | with_reducible apply State.modQueue_keeps
    | with_reducible apply State.retireEdit_keeps
    | with_reducible apply State.finishEntry_keeps
    | with_reducible exact id
    | simp only [keeps_mk_iff]
    | with_reducible apply Keeps.upd
    | intro _ _ _
    | refine Keeps.ofFst (by with_reducible assumption) ?_
    | refine Keeps.ofSnd (by with_reducible assumption) ?_
    | dsimp only
    | split)

theorem State.load_keeps {s₀ s : State} (h : Keeps s₀ s) (q : QRef) (e : Entry) (k : Nat) (i : Nat) :
    Keeps s₀ (State.load s q e k i) := by
  unfold State.load
  repeat' (first
    | with_reducible assumption
    | with_reducible apply State.setCore_keeps
    | with_reducible apply State.draw_keeps
    | with_reducible apply State.takeBack_keeps
    | with_reducible exact id
    | simp only [keeps_mk_iff]
    | with_reducible apply Keeps.upd
    | intro _ _ _
    | refine Keeps.ofFst (by with_reducible assumption) ?_
    | refine Keeps.ofSnd (by with_reducible assumption) ?_
    | dsimp only
    | split)

theorem State.occupy_keeps {s₀ s : State} (h : Keeps s₀ s) (q : QRef) (e : Entry) :
    Keeps s₀ (State.occupy s q e) := by
  unfold State.occupy
  repeat' (first
    | with_reducible assumption
    | with_reducible apply State.modQueue_keeps
    | with_reducible apply State.load_keeps
    | with_reducible exact id
    | simp only [keeps_mk_iff]
    | with_reducible apply Keeps.upd
    | with_reducible apply Keeps.foldl
    | with_reducible apply Keeps.foldlFst
    | intro _ _ _
    | refine Keeps.ofFst (by with_reducible assumption) ?_
    | refine Keeps.ofSnd (by with_reducible assumption) ?_
    | dsimp only
    | split)

theorem State.parkWork_keeps {s₀ s : State} (h : Keeps s₀ s) (q : QRef) :
    Keeps s₀ (State.parkWork s q) := by
  unfold State.parkWork
  repeat' (first
    | with_reducible assumption
    | with_reducible apply State.modCtx_keeps
    | with_reducible apply State.setCore_keeps
    | with_reducible apply State.modQueue_keeps
    | with_reducible apply State.draw_keeps
    | with_reducible apply State.vwrite_keeps
    | with_reducible exact id
    | simp only [keeps_mk_iff]
    | with_reducible apply Keeps.upd
    | with_reducible apply Keeps.foldl
    | with_reducible apply Keeps.foldlFst
    | intro _ _ _
    | refine Keeps.ofFst (by with_reducible assumption) ?_
    | refine Keeps.ofSnd (by with_reducible assumption) ?_
    | dsimp only
    | split)

theorem State.tileWork_keeps {s₀ s : State} (h : Keeps s₀ s) (q : QRef) (y : Queue) (e : Entry) (mine : Nat) (passes : Nat) (k : Nat) :
    Keeps s₀ (State.tileWork s q y e mine passes k) := by
  unfold State.tileWork
  repeat' (first
    | with_reducible assumption
    | with_reducible apply State.setCore_keeps
    | with_reducible apply State.draw_keeps
    | with_reducible exact id
    | simp only [keeps_mk_iff]
    | with_reducible apply Keeps.upd
    | intro _ _ _
    | refine Keeps.ofFst (by with_reducible assumption) ?_
    | refine Keeps.ofSnd (by with_reducible assumption) ?_
    | dsimp only
    | split)

theorem State.tilesRun_keeps {s₀ s : State} (h : Keeps s₀ s) (q : QRef) (e : Entry) :
    Keeps s₀ (State.tilesRun s q e) := by
  unfold State.tilesRun
  repeat' (first
    | with_reducible assumption
    | with_reducible apply State.modCtx_keeps
    | with_reducible apply State.draw_keeps
    | with_reducible apply State.tileWork_keeps
    | with_reducible exact id
    | with_reducible apply Keeps.foldl
    | with_reducible apply Keeps.foldlFst
    | intro _ _ _
    | refine Keeps.ofFst (by with_reducible assumption) ?_
    | refine Keeps.ofSnd (by with_reducible assumption) ?_
    | dsimp only
    | split)

theorem State.assayDiverge_keeps {s₀ s : State} (h : Keeps s₀ s) (q : QRef) (e : Entry) (n : Nat) (cls : Nat) (core : Nat) (r : Nat) :
    Keeps s₀ (State.assayDiverge s q e n cls core r) := by
  unfold State.assayDiverge
  repeat' (first
    | with_reducible assumption
    | with_reducible apply State.modCtx_keeps
    | with_reducible apply State.raise_keeps
    | with_reducible apply State.logRas_keeps
    | with_reducible exact id
    | simp only [keeps_mk_iff]
    | with_reducible apply Keeps.upd
    | intro _ _ _
    | refine Keeps.ofFst (by with_reducible assumption) ?_
    | refine Keeps.ofSnd (by with_reducible assumption) ?_
    | dsimp only
    | split)

theorem State.assayTile_keeps {s₀ s : State} (h : Keeps s₀ s) (q : QRef) (e : Entry) (n : Nat) (cls : Nat) (core : Nat) (els : Nat) :
    Keeps s₀ (State.assayTile s q e n cls core els) := by
  unfold State.assayTile
  repeat' (first
    | with_reducible assumption
    | with_reducible apply State.assayDiverge_keeps
    | with_reducible exact id
    | simp only [keeps_mk_iff]
    | with_reducible apply Keeps.upd
    | with_reducible apply Keeps.foldl
    | with_reducible apply Keeps.foldlFst
    | intro _ _ _
    | refine Keeps.ofFst (by with_reducible assumption) ?_
    | refine Keeps.ofSnd (by with_reducible assumption) ?_
    | dsimp only
    | split)

theorem State.assay_keeps {s₀ s : State} (h : Keeps s₀ s) (q : QRef) (e : Entry) (n : Nat) :
    Keeps s₀ (State.assay s q e n) := by
  unfold State.assay
  repeat' (first
    | with_reducible assumption
    | with_reducible apply State.assayTile_keeps
    | with_reducible exact id
    | simp only [keeps_mk_iff]
    | with_reducible apply Keeps.upd
    | with_reducible apply Keeps.foldl
    | with_reducible apply Keeps.foldlFst
    | intro _ _ _
    | refine Keeps.ofFst (by with_reducible assumption) ?_
    | refine Keeps.ofSnd (by with_reducible assumption) ?_
    | dsimp only
    | split)

theorem State.computed_keeps {s₀ s : State} (h : Keeps s₀ s) (q : QRef) (e : Entry) (r : Done) :
    Keeps s₀ (State.computed s q e r) := by
  unfold State.computed
  repeat' (first
    | with_reducible assumption
    | with_reducible apply State.modCtx_keeps
    | with_reducible apply State.finishEntry_keeps
    | with_reducible apply State.tilesRun_keeps
    | with_reducible apply State.assay_keeps
    | with_reducible exact id
    | simp only [keeps_mk_iff]
    | with_reducible apply Keeps.upd
    | with_reducible apply Keeps.foldl
    | with_reducible apply Keeps.foldlFst
    | intro _ _ _
    | refine Keeps.ofFst (by with_reducible assumption) ?_
    | refine Keeps.ofSnd (by with_reducible assumption) ?_
    | dsimp only
    | split)

theorem State.computeFault_keeps {s₀ s : State} (h : Keeps s₀ s) (q : QRef) (e : Entry) (source : Nat) (a : Acc) :
    Keeps s₀ (State.computeFault s q e source a) := by
  unfold State.computeFault
  repeat' (first
    | with_reducible assumption
    | with_reducible apply State.fault_keeps
    | with_reducible apply State.failEntry_keeps
    | with_reducible apply State.parkWork_keeps
    | with_reducible exact id
    | simp only [keeps_mk_iff]
    | with_reducible apply Keeps.upd
    | intro _ _ _
    | refine Keeps.ofFst (by with_reducible assumption) ?_
    | refine Keeps.ofSnd (by with_reducible assumption) ?_
    | dsimp only
    | split)

theorem State.compute_keeps {s₀ s : State} (h : Keeps s₀ s) (q : QRef) (e : Entry) (f : Except Acc Done) :
    Keeps s₀ (State.compute s q e f) := by
  unfold State.compute
  repeat' (first
    | with_reducible assumption
    | with_reducible apply State.modQueue_keeps
    | with_reducible apply State.applyEff_keeps
    | with_reducible apply State.occupy_keeps
    | with_reducible apply State.computed_keeps
    | with_reducible apply State.computeFault_keeps
    | with_reducible exact id
    | simp only [keeps_mk_iff]
    | with_reducible apply Keeps.upd
    | intro _ _ _
    | refine Keeps.ofFst (by with_reducible assumption) ?_
    | refine Keeps.ofSnd (by with_reducible assumption) ?_
    | dsimp only
    | split)

theorem State.stepClosed_keeps {s₀ s : State} (h : Keeps s₀ s) (c : Nat) (y : Queue) :
    Keeps s₀ (State.stepClosed s c y) := by
  unfold State.stepClosed
  repeat' (first
    | with_reducible assumption
    | with_reducible apply State.modCtx_keeps
    | with_reducible exact id
    | simp only [keeps_mk_iff]
    | with_reducible apply Keeps.upd
    | intro _ _ _
    | refine Keeps.ofFst (by with_reducible assumption) ?_
    | refine Keeps.ofSnd (by with_reducible assumption) ?_
    | dsimp only
    | split)

end Sys2Proof.Machine
end

