-- ==== Sys2Proof/Laws/ExchangeKeep.lean ====
section
/-! SUPPORT. Every operation of Collect, Exchange, Services, Completion, Charters keeps what no operation undoes. -/

namespace Sys2Proof.Machine

theorem State.startBucket_keeps {s₀ s : State} (h : Keeps s₀ s) (c : Nat) (tag : Nat) :
    Keeps s₀ (State.startBucket s c tag) := by
  unfold State.startBucket
  repeat' (first
    | with_reducible assumption
    | with_reducible exact id
    | simp only [keeps_mk_iff]
    | with_reducible apply Keeps.upd
    | intro _ _ _
    | refine Keeps.ofFst (by with_reducible assumption) ?_
    | refine Keeps.ofSnd (by with_reducible assumption) ?_
    | dsimp only
    | split)

theorem State.disown_keeps {s₀ s : State} (h : Keeps s₀ s) (q : QRef) (tag : Nat) :
    Keeps s₀ (State.disown s q tag) := by
  unfold State.disown
  repeat' (first
    | with_reducible assumption
    | with_reducible exact id
    | simp only [keeps_mk_iff]
    | with_reducible apply Keeps.upd
    | intro _ _ _
    | refine Keeps.ofFst (by with_reducible assumption) ?_
    | refine Keeps.ofSnd (by with_reducible assumption) ?_
    | dsimp only
    | split)

theorem State.issueBucket_keeps {s₀ s : State} (h : Keeps s₀ s) (q : QRef) (e : Entry) (d0 : Desc) (d1 : Desc) (step : Nat) (index : Nat) (j : Nat) :
    Keeps s₀ (State.issueBucket s q e d0 d1 step index j) := by
  unfold State.issueBucket
  repeat' (first
    | with_reducible assumption
    | with_reducible apply State.account_keeps
    | with_reducible apply State.disown_keeps
    | with_reducible exact id
    | simp only [keeps_mk_iff]
    | with_reducible apply Keeps.upd
    | intro _ _ _
    | refine Keeps.ofFst (by with_reducible assumption) ?_
    | refine Keeps.ofSnd (by with_reducible assumption) ?_
    | dsimp only
    | split)

theorem State.sumEntry_keeps {s₀ s : State} (h : Keeps s₀ s) (q : QRef) (e : Entry) :
    Keeps s₀ (State.sumEntry s q e) := by
  unfold State.sumEntry
  repeat' (first
    | with_reducible assumption
    | with_reducible apply State.modCtx_keeps
    | with_reducible apply State.modQueue_keeps
    | with_reducible apply State.finishEntry_keeps
    | with_reducible apply State.startBucket_keeps
    | with_reducible apply State.issueBucket_keeps
    | with_reducible exact id
    | simp only [keeps_mk_iff]
    | with_reducible apply Keeps.upd
    | with_reducible apply Keeps.foldl
    | with_reducible apply Keeps.foldlFst
    | intro _ _ _
    | refine Keeps.ofFst (by with_reducible assumption) ?_
    | refine Keeps.ofSnd (by with_reducible assumption) ?_
    | dsimp only
    | split)

theorem State.tryCollective_keeps {s₀ s : State} (h : Keeps s₀ s) (q : QRef) :
    Keeps s₀ (State.tryCollective s q) := by
  unfold State.tryCollective
  repeat' (first
    | with_reducible assumption
    | with_reducible apply State.vwrites_keeps
    | with_reducible apply State.failEntry_keeps
    | with_reducible apply State.finishEntry_keeps
    | with_reducible exact id
    | simp only [keeps_mk_iff]
    | with_reducible apply Keeps.upd
    | intro _ _ _
    | refine Keeps.ofFst (by with_reducible assumption) ?_
    | refine Keeps.ofSnd (by with_reducible assumption) ?_
    | dsimp only
    | split)

theorem State.abandonOld_keeps {s₀ s : State} (h : Keeps s₀ s) (c : Nat) (step : Nat) :
    Keeps s₀ (State.abandonOld s c step) := by
  unfold State.abandonOld
  repeat' (first
    | with_reducible assumption
    | with_reducible apply State.modCtx_keeps
    | with_reducible apply State.settle_keeps
    | with_reducible exact id
    | simp only [keeps_mk_iff]
    | with_reducible apply Keeps.upd
    | with_reducible apply Keeps.foldl
    | with_reducible apply Keeps.foldlFst
    | intro _ _ _
    | refine Keeps.ofFst (by with_reducible assumption) ?_
    | refine Keeps.ofSnd (by with_reducible assumption) ?_
    | dsimp only
    | split)

theorem State.remember_keeps {s₀ s : State} (h : Keeps s₀ s) (c : Nat) (p : Packet) :
    Keeps s₀ (State.remember s c p) := by
  unfold State.remember
  repeat' (first
    | with_reducible assumption
    | with_reducible exact id
    | simp only [keeps_mk_iff]
    | with_reducible apply Keeps.upd
    | intro _ _ _
    | refine Keeps.ofFst (by with_reducible assumption) ?_
    | refine Keeps.ofSnd (by with_reducible assumption) ?_
    | dsimp only
    | split)

theorem State.itemDone_keeps {s₀ s : State} (h : Keeps s₀ s) (c : Nat) (p : Packet) :
    Keeps s₀ (State.itemDone s c p) := by
  unfold State.itemDone
  repeat' (first
    | with_reducible assumption
    | with_reducible apply State.closeSeen_keeps
    | with_reducible exact id
    | intro _ _ _
    | refine Keeps.ofFst (by with_reducible assumption) ?_
    | refine Keeps.ofSnd (by with_reducible assumption) ?_
    | dsimp only
    | split)

theorem State.jobPacket_keeps {s₀ s : State} (h : Keeps s₀ s) (q : Nat) (p : Packet) :
    Keeps s₀ (State.jobPacket s q p).1 := by
  unfold State.jobPacket
  repeat' (first
    | with_reducible assumption
    | with_reducible apply State.modCtx_keeps
    | with_reducible apply State.modPort_keeps
    | with_reducible apply State.dropBad_keeps
    | with_reducible apply State.admitPacket_keeps
    | with_reducible apply State.remember_keeps
    | with_reducible exact id
    | simp only [keeps_mk_iff]
    | with_reducible apply Keeps.upd
    | intro _ _ _
    | refine Keeps.ofFst (by with_reducible assumption) ?_
    | refine Keeps.ofSnd (by with_reducible assumption) ?_
    | dsimp only
    | split)

theorem State.fixFmt_keeps {s₀ s : State} (h : Keeps s₀ s) (b : Bucket) :
    Keeps s₀ (State.fixFmt s b).1 := by
  unfold State.fixFmt
  repeat' (first
    | with_reducible assumption
    | with_reducible apply State.draw_keeps
    | with_reducible exact id
    | simp only [keeps_mk_iff]
    | with_reducible apply Keeps.upd
    | intro _ _ _
    | refine Keeps.ofFst (by with_reducible assumption) ?_
    | refine Keeps.ofSnd (by with_reducible assumption) ?_
    | dsimp only
    | split)

theorem State.bucketFor_keeps {s₀ s : State} (h : Keeps s₀ s) (c : Nat) (tag : Nat) :
    Keeps s₀ (State.bucketFor s c tag).1 := by
  unfold State.bucketFor
  repeat' (first
    | with_reducible assumption
    | with_reducible apply State.setBucket_keeps
    | with_reducible apply State.openBucket_keeps
    | with_reducible apply State.fixFmt_keeps
    | with_reducible exact id
    | simp only [keeps_mk_iff]
    | with_reducible apply Keeps.upd
    | intro _ _ _
    | refine Keeps.ofFst (by with_reducible assumption) ?_
    | refine Keeps.ofSnd (by with_reducible assumption) ?_
    | dsimp only
    | split)

theorem State.lateDiscard_keeps {s₀ s : State} (h : Keeps s₀ s) :
    Keeps s₀ (State.lateDiscard s) := by
  unfold State.lateDiscard
  repeat' (first
    | with_reducible assumption
    | with_reducible exact id
    | simp only [keeps_mk_iff]
    | with_reducible apply Keeps.upd
    | intro _ _ _
    | refine Keeps.ofFst (by with_reducible assumption) ?_
    | refine Keeps.ofSnd (by with_reducible assumption) ?_
    | dsimp only
    | split)

theorem State.redReady_keeps {s₀ s : State} (h : Keeps s₀ s) (c : Nat) (p : Packet) :
    Keeps s₀ (State.redReady s c p) := by
  unfold State.redReady
  repeat' (first
    | with_reducible assumption
    | with_reducible apply State.setBucket_keeps
    | with_reducible apply State.settle_keeps
    | with_reducible apply State.itemDone_keeps
    | with_reducible apply State.bucketFor_keeps
    | with_reducible apply State.lateDiscard_keeps
    | with_reducible exact id
    | simp only [keeps_mk_iff]
    | with_reducible apply Keeps.upd
    | intro _ _ _
    | refine Keeps.ofFst (by with_reducible assumption) ?_
    | refine Keeps.ofSnd (by with_reducible assumption) ?_
    | dsimp only
    | split)

theorem State.redPull_keeps {s₀ s : State} (h : Keeps s₀ s) (c : Nat) (p : Packet) :
    Keeps s₀ (State.redPull s c p) := by
  unfold State.redPull
  repeat' (first
    | with_reducible assumption
    | with_reducible apply State.tryStream_keeps
    | with_reducible apply State.itemDone_keeps
    | with_reducible exact id
    | simp only [keeps_mk_iff]
    | with_reducible apply Keeps.upd
    | intro _ _ _
    | refine Keeps.ofFst (by with_reducible assumption) ?_
    | refine Keeps.ofSnd (by with_reducible assumption) ?_
    | dsimp only
    | split)

theorem State.redData_keeps {s₀ s : State} (h : Keeps s₀ s) (c : Nat) (p : Packet) :
    Keeps s₀ (State.redData s c p) := by
  unfold State.redData
  repeat' (first
    | with_reducible assumption
    | with_reducible apply State.settle_keeps
    | with_reducible apply State.itemDone_keeps
    | with_reducible exact id
    | simp only [keeps_mk_iff]
    | with_reducible apply Keeps.upd
    | intro _ _ _
    | refine Keeps.ofFst (by with_reducible assumption) ?_
    | refine Keeps.ofSnd (by with_reducible assumption) ?_
    | dsimp only
    | split)

theorem State.tryResult_keeps {s₀ s : State} (h : Keeps s₀ s) (b : Bucket) :
    Keeps s₀ (State.tryResult s b) := by
  unfold State.tryResult
  repeat' (first
    | with_reducible assumption
    | with_reducible apply State.setBucket_keeps
    | with_reducible apply State.broadcast_keeps
    | with_reducible apply State.closeBucket_keeps
    | with_reducible exact id
    | intro _ _ _
    | refine Keeps.ofFst (by with_reducible assumption) ?_
    | refine Keeps.ofSnd (by with_reducible assumption) ?_
    | dsimp only
    | split)

theorem State.redResult_keeps {s₀ s : State} (h : Keeps s₀ s) (c : Nat) (p : Packet) :
    Keeps s₀ (State.redResult s c p) := by
  unfold State.redResult
  repeat' (first
    | with_reducible assumption
    | with_reducible apply State.setBucket_keeps
    | with_reducible apply State.itemDone_keeps
    | with_reducible apply State.bucketFor_keeps
    | with_reducible apply State.tryResult_keeps
    | with_reducible exact id
    | simp only [keeps_mk_iff]
    | with_reducible apply Keeps.upd
    | intro _ _ _
    | refine Keeps.ofFst (by with_reducible assumption) ?_
    | refine Keeps.ofSnd (by with_reducible assumption) ?_
    | dsimp only
    | split)

theorem State.redRedo_keeps {s₀ s : State} (h : Keeps s₀ s) (c : Nat) (p : Packet) :
    Keeps s₀ (State.redRedo s c p) := by
  unfold State.redRedo
  repeat' (first
    | with_reducible assumption
    | with_reducible apply State.sendStream_keeps
    | with_reducible apply State.setBucket_keeps
    | with_reducible apply State.forgetData_keeps
    | with_reducible apply State.itemDone_keeps
    | with_reducible exact id
    | simp only [keeps_mk_iff]
    | with_reducible apply Keeps.upd
    | with_reducible apply Keeps.foldl
    | with_reducible apply Keeps.foldlFst
    | intro _ _ _
    | refine Keeps.ofFst (by with_reducible assumption) ?_
    | refine Keeps.ofSnd (by with_reducible assumption) ?_
    | dsimp only
    | split)

theorem State.redPacket_keeps {s₀ s : State} (h : Keeps s₀ s) (c : Nat) (p : Packet) :
    Keeps s₀ (State.redPacket s c p) := by
  unfold State.redPacket
  repeat' (first
    | with_reducible assumption
    | with_reducible apply State.redReady_keeps
    | with_reducible apply State.redPull_keeps
    | with_reducible apply State.redData_keeps
    | with_reducible apply State.redResult_keeps
    | with_reducible apply State.redRedo_keeps
    | with_reducible exact id
    | intro _ _ _
    | refine Keeps.ofFst (by with_reducible assumption) ?_
    | refine Keeps.ofSnd (by with_reducible assumption) ?_
    | dsimp only
    | split)

theorem State.redFiltered_keeps {s₀ s : State} (h : Keeps s₀ s) (c : Nat) (p : Packet) :
    Keeps s₀ (State.redFiltered s c p) := by
  unfold State.redFiltered
  repeat' (first
    | with_reducible assumption
    | with_reducible apply State.redPacket_keeps
    | with_reducible exact id
    | simp only [keeps_mk_iff]
    | with_reducible apply Keeps.upd
    | intro _ _ _
    | refine Keeps.ofFst (by with_reducible assumption) ?_
    | refine Keeps.ofSnd (by with_reducible assumption) ?_
    | dsimp only
    | split)

theorem State.releaseHeld_keeps {s₀ s : State} (h : Keeps s₀ s) (c : Nat) :
    Keeps s₀ (State.releaseHeld s c) := by
  unfold State.releaseHeld
  repeat' (first
    | with_reducible assumption
    | with_reducible apply State.redFiltered_keeps
    | with_reducible exact id
    | simp only [keeps_mk_iff]
    | with_reducible apply Keeps.upd
    | with_reducible apply Keeps.foldl
    | with_reducible apply Keeps.foldlFst
    | intro _ _ _
    | refine Keeps.ofFst (by with_reducible assumption) ?_
    | refine Keeps.ofSnd (by with_reducible assumption) ?_
    | dsimp only
    | split)

theorem State.tryReshard_keeps {s₀ s : State} (h : Keeps s₀ s) (q : QRef) :
    Keeps s₀ (State.tryReshard s q) := by
  unfold State.tryReshard
  repeat' (first
    | with_reducible assumption
    | with_reducible apply State.modCtx_keeps
    | with_reducible apply State.finishEntry_keeps
    | with_reducible apply State.abandonOld_keeps
    | with_reducible apply State.releaseHeld_keeps
    | with_reducible exact id
    | simp only [keeps_mk_iff]
    | with_reducible apply Keeps.upd
    | intro _ _ _
    | refine Keeps.ofFst (by with_reducible assumption) ?_
    | refine Keeps.ofSnd (by with_reducible assumption) ?_
    | dsimp only
    | split)

theorem State.startReshard_keeps {s₀ s : State} (h : Keeps s₀ s) (q : QRef) (e : Entry) :
    Keeps s₀ (State.startReshard s q e) := by
  unfold State.startReshard
  repeat' (first
    | with_reducible assumption
    | with_reducible apply State.modQueue_keeps
    | with_reducible apply State.abandonOld_keeps
    | with_reducible apply State.tryReshard_keeps
    | with_reducible exact id
    | simp only [keeps_mk_iff]
    | with_reducible apply Keeps.upd
    | intro _ _ _
    | refine Keeps.ofFst (by with_reducible assumption) ?_
    | refine Keeps.ofSnd (by with_reducible assumption) ?_
    | dsimp only
    | split)

theorem State.wakeSums_keeps {s₀ s : State} (h : Keeps s₀ s) (c : Nat) :
    Keeps s₀ (State.wakeSums s c) := by
  unfold State.wakeSums
  repeat' (first
    | with_reducible assumption
    | with_reducible apply State.tryCollective_keeps
    | with_reducible apply State.tryReshard_keeps
    | with_reducible exact id
    | with_reducible apply Keeps.foldl
    | with_reducible apply Keeps.foldlFst
    | intro _ _ _
    | refine Keeps.ofFst (by with_reducible assumption) ?_
    | refine Keeps.ofSnd (by with_reducible assumption) ?_
    | dsimp only
    | split)

theorem State.contribute_keeps {s₀ s : State} (h : Keeps s₀ s) (b : Bucket) (own : Bytes) :
    Keeps s₀ (State.contribute s b own) := by
  unfold State.contribute
  repeat' (first
    | with_reducible assumption
    | with_reducible apply State.modCtx_keeps
    | with_reducible apply State.settle_keeps
    | with_reducible exact id
    | simp only [keeps_mk_iff]
    | with_reducible apply Keeps.upd
    | intro _ _ _
    | refine Keeps.ofFst (by with_reducible assumption) ?_
    | refine Keeps.ofSnd (by with_reducible assumption) ?_
    | dsimp only
    | split)

theorem State.sendMsg_keeps {s₀ s : State} (h : Keeps s₀ s) (c : Nat) (m : Nat) (mid : Nat) (d : Bytes) :
    Keeps s₀ (State.sendMsg s c m mid d) := by
  unfold State.sendMsg
  repeat' (first
    | with_reducible assumption
    | with_reducible apply State.modCtx_keeps
    | with_reducible apply State.sendStream_keeps
    | with_reducible exact id
    | simp only [keeps_mk_iff]
    | with_reducible apply Keeps.upd
    | intro _ _ _
    | refine Keeps.ofFst (by with_reducible assumption) ?_
    | refine Keeps.ofSnd (by with_reducible assumption) ?_
    | dsimp only
    | split)

theorem State.tryExchange_keeps {s₀ s : State} (h : Keeps s₀ s) (q : QRef) :
    Keeps s₀ (State.tryExchange s q) := by
  unfold State.tryExchange
  repeat' (first
    | with_reducible assumption
    | with_reducible apply State.modCtx_keeps
    | with_reducible apply State.draw_keeps
    | with_reducible apply State.vwrites_keeps
    | with_reducible apply State.closeSeen_keeps
    | with_reducible apply State.failEntry_keeps
    | with_reducible apply State.finishEntry_keeps
    | with_reducible exact id
    | simp only [keeps_mk_iff]
    | with_reducible apply Keeps.upd
    | with_reducible apply Keeps.foldl
    | with_reducible apply Keeps.foldlFst
    | intro _ _ _
    | refine Keeps.ofFst (by with_reducible assumption) ?_
    | refine Keeps.ofSnd (by with_reducible assumption) ?_
    | dsimp only
    | split)

theorem State.keepCounts_keeps {s₀ s : State} (h : Keeps s₀ s) (c : Nat) (y : Queue) (e : Entry) (counts : List Nat) :
    Keeps s₀ (State.keepCounts s c y e counts) := by
  unfold State.keepCounts
  repeat' (first
    | with_reducible assumption
    | with_reducible apply State.modCtx_keeps
    | with_reducible exact id
    | simp only [keeps_mk_iff]
    | with_reducible apply Keeps.upd
    | intro _ _ _
    | refine Keeps.ofFst (by with_reducible assumption) ?_
    | refine Keeps.ofSnd (by with_reducible assumption) ?_
    | dsimp only
    | split)

theorem State.startExchange_keeps {s₀ s : State} (h : Keeps s₀ s) (q : QRef) (e : Entry) :
    Keeps s₀ (State.startExchange s q e) := by
  unfold State.startExchange
  repeat' (first
    | with_reducible assumption
    | with_reducible apply State.modQueue_keeps
    | with_reducible apply State.failEntry_keeps
    | with_reducible apply State.finishEntry_keeps
    | with_reducible apply State.sendMsg_keeps
    | with_reducible apply State.tryExchange_keeps
    | with_reducible apply State.keepCounts_keeps
    | with_reducible exact id
    | simp only [keeps_mk_iff]
    | with_reducible apply Keeps.upd
    | with_reducible apply Keeps.foldl
    | with_reducible apply Keeps.foldlFst
    | intro _ _ _
    | refine Keeps.ofFst (by with_reducible assumption) ?_
    | refine Keeps.ofSnd (by with_reducible assumption) ?_
    | dsimp only
    | split)

theorem State.someOf_keeps {s₀ s : State} (h : Keeps s₀ s) (c : Nat) (d : Desc) (ws : List (Nat × Bytes)) :
    Keeps s₀ (State.someOf s c d ws).1 := by
  unfold State.someOf
  repeat' (first
    | with_reducible assumption
    | with_reducible apply State.draw_keeps
    | with_reducible exact id
    | with_reducible apply Keeps.foldl
    | with_reducible apply Keeps.foldlFst
    | intro _ _ _
    | refine Keeps.ofFst (by with_reducible assumption) ?_
    | refine Keeps.ofSnd (by with_reducible assumption) ?_
    | dsimp only
    | split)

theorem State.tryGather_keeps {s₀ s : State} (h : Keeps s₀ s) (q : QRef) :
    Keeps s₀ (State.tryGather s q) := by
  unfold State.tryGather
  repeat' (first
    | with_reducible assumption
    | with_reducible apply State.modCtx_keeps
    | with_reducible apply State.vwrites_keeps
    | with_reducible apply State.failEntry_keeps
    | with_reducible apply State.finishEntry_keeps
    | with_reducible apply State.someOf_keeps
    | with_reducible exact id
    | simp only [keeps_mk_iff]
    | with_reducible apply Keeps.upd
    | with_reducible apply Keeps.foldl
    | with_reducible apply Keeps.foldlFst
    | intro _ _ _
    | refine Keeps.ofFst (by with_reducible assumption) ?_
    | refine Keeps.ofSnd (by with_reducible assumption) ?_
    | dsimp only
    | split)

theorem State.startGather_keeps {s₀ s : State} (h : Keeps s₀ s) (q : QRef) (e : Entry) :
    Keeps s₀ (State.startGather s q e) := by
  unfold State.startGather
  repeat' (first
    | with_reducible assumption
    | with_reducible apply State.modQueue_keeps
    | with_reducible apply State.sendFor_keeps
    | with_reducible apply State.failEntry_keeps
    | with_reducible apply State.finishEntry_keeps
    | with_reducible apply State.tryGather_keeps
    | with_reducible exact id
    | simp only [keeps_mk_iff]
    | with_reducible apply Keeps.upd
    | with_reducible apply Keeps.foldl
    | with_reducible apply Keeps.foldlFst
    | intro _ _ _
    | refine Keeps.ofFst (by with_reducible assumption) ?_
    | refine Keeps.ofSnd (by with_reducible assumption) ?_
    | dsimp only
    | split)

theorem State.parkGather_keeps {s₀ s : State} (h : Keeps s₀ s) (c : Nat) (g : HeldGather) (a : Acc) :
    Keeps s₀ (State.parkGather s c g a) := by
  unfold State.parkGather
  repeat' (first
    | with_reducible assumption
    | with_reducible apply State.modCtx_keeps
    | with_reducible apply State.noteAcc_keeps
    | with_reducible apply State.fault_keeps
    | with_reducible exact id
    | simp only [keeps_mk_iff]
    | with_reducible apply Keeps.upd
    | intro _ _ _
    | refine Keeps.ofFst (by with_reducible assumption) ?_
    | refine Keeps.ofSnd (by with_reducible assumption) ?_
    | dsimp only
    | split)

theorem State.serveGather_keeps {s₀ s : State} (h : Keeps s₀ s) (c : Nat) (g : HeldGather) :
    Keeps s₀ (State.serveGather s c g) := by
  unfold State.serveGather
  repeat' (first
    | with_reducible assumption
    | with_reducible apply State.modCtx_keeps
    | with_reducible apply State.meet_keeps
    | with_reducible apply State.start_keeps
    | with_reducible apply State.sendMsg_keeps
    | with_reducible apply State.parkGather_keeps
    | with_reducible exact id
    | simp only [keeps_mk_iff]
    | with_reducible apply Keeps.upd
    | with_reducible apply Keeps.foldl
    | with_reducible apply Keeps.foldlFst
    | intro _ _ _
    | refine Keeps.ofFst (by with_reducible assumption) ?_
    | refine Keeps.ofSnd (by with_reducible assumption) ?_
    | dsimp only
    | split)

theorem State.tryRecv_keeps {s₀ s : State} (h : Keeps s₀ s) (q : QRef) :
    Keeps s₀ (State.tryRecv s q) := by
  unfold State.tryRecv
  repeat' (first
    | with_reducible assumption
    | with_reducible apply State.modCtx_keeps
    | with_reducible apply State.vwrites_keeps
    | with_reducible apply State.failEntry_keeps
    | with_reducible apply State.finishEntry_keeps
    | with_reducible exact id
    | simp only [keeps_mk_iff]
    | with_reducible apply Keeps.upd
    | intro _ _ _
    | refine Keeps.ofFst (by with_reducible assumption) ?_
    | refine Keeps.ofSnd (by with_reducible assumption) ?_
    | dsimp only
    | split)

theorem State.wakeData_keeps {s₀ s : State} (h : Keeps s₀ s) (c : Nat) :
    Keeps s₀ (State.wakeData s c) := by
  unfold State.wakeData
  repeat' (first
    | with_reducible assumption
    | with_reducible apply State.wakeSums_keeps
    | with_reducible apply State.tryExchange_keeps
    | with_reducible apply State.tryGather_keeps
    | with_reducible apply State.tryRecv_keeps
    | with_reducible exact id
    | with_reducible apply Keeps.foldl
    | with_reducible apply Keeps.foldlFst
    | intro _ _ _
    | refine Keeps.ofFst (by with_reducible assumption) ?_
    | refine Keeps.ofSnd (by with_reducible assumption) ?_
    | dsimp only
    | split)

theorem State.dropView_keeps {s₀ s : State} (h : Keeps s₀ s) (c : Nat) (d : Desc) :
    Keeps s₀ (State.dropView s c d).1 := by
  unfold State.dropView
  repeat' (first
    | with_reducible assumption
    | with_reducible apply State.unback_keeps
    | with_reducible apply State.vwrites_keeps
    | with_reducible exact id
    | simp only [keeps_mk_iff]
    | with_reducible apply Keeps.upd
    | with_reducible apply Keeps.foldl
    | with_reducible apply Keeps.foldlFst
    | intro _ _ _
    | refine Keeps.ofFst (by with_reducible assumption) ?_
    | refine Keeps.ofSnd (by with_reducible assumption) ?_
    | dsimp only
    | split)

theorem State.lostPeer_keeps {s₀ s : State} (h : Keeps s₀ s) (c : Nat) (m : Nat) :
    Keeps s₀ (State.lostPeer s c m) := by
  unfold State.lostPeer
  repeat' (first
    | with_reducible assumption
    | with_reducible apply State.modCtx_keeps
    | with_reducible apply State.dropRank_keeps
    | with_reducible apply State.finishEntry_keeps
    | with_reducible apply State.wakeData_keeps
    | with_reducible exact id
    | simp only [keeps_mk_iff]
    | with_reducible apply Keeps.upd
    | with_reducible apply Keeps.foldl
    | with_reducible apply Keeps.foldlFst
    | intro _ _ _
    | refine Keeps.ofFst (by with_reducible assumption) ?_
    | refine Keeps.ofSnd (by with_reducible assumption) ?_
    | dsimp only
    | split)

theorem State.shutOut_keeps {s₀ s : State} (h : Keeps s₀ s) (c : Nat) (m : Nat) :
    Keeps s₀ (State.shutOut s c m) := by
  unfold State.shutOut
  repeat' (first
    | with_reducible assumption
    | with_reducible apply State.lostPeer_keeps
    | with_reducible exact id
    | simp only [keeps_mk_iff]
    | with_reducible apply Keeps.upd
    | intro _ _ _
    | refine Keeps.ofFst (by with_reducible assumption) ?_
    | refine Keeps.ofSnd (by with_reducible assumption) ?_
    | dsimp only
    | split)

theorem State.letGo_keeps {s₀ s : State} (h : Keeps s₀ s) (q : Nat) (job : Nat) :
    Keeps s₀ (State.letGo s q job) := by
  unfold State.letGo
  repeat' (first
    | with_reducible assumption
    | with_reducible apply State.setPort_keeps
    | with_reducible apply State.resend_keeps
    | with_reducible exact id
    | simp only [keeps_mk_iff]
    | with_reducible apply Keeps.upd
    | with_reducible apply Keeps.foldl
    | with_reducible apply Keeps.foldlFst
    | intro _ _ _
    | refine Keeps.ofFst (by with_reducible assumption) ?_
    | refine Keeps.ofSnd (by with_reducible assumption) ?_
    | dsimp only
    | split)

theorem State.noteRoutes_keeps {s₀ s : State} (h : Keeps s₀ s) (old : State) :
    Keeps s₀ (State.noteRoutes s old) := by
  unfold State.noteRoutes
  repeat' (first
    | with_reducible assumption
    | with_reducible apply State.lostPeer_keeps
    | with_reducible exact id
    | with_reducible apply Keeps.foldl
    | with_reducible apply Keeps.foldlFst
    | intro _ _ _
    | refine Keeps.ofFst (by with_reducible assumption) ?_
    | refine Keeps.ofSnd (by with_reducible assumption) ?_
    | dsimp only
    | split)

theorem State.halt_keeps {s₀ s : State} (h : Keeps s₀ s) (q : QRef) (e : Entry) (source : Nat) (h : Halt) :
    Keeps s₀ (State.halt s q e source h) := by
  unfold State.halt
  repeat' (first
    | with_reducible assumption
    | with_reducible apply State.askHost_keeps
    | with_reducible apply State.failEntry_keeps
    | with_reducible exact id
    | simp only [keeps_mk_iff]
    | with_reducible apply Keeps.upd
    | intro _ _ _
    | refine Keeps.ofFst (by with_reducible assumption) ?_
    | refine Keeps.ofSnd (by with_reducible assumption) ?_
    | dsimp only
    | split)

theorem State.takeUnits_keeps {s₀ s : State} (h : Keeps s₀ s) (c : Nat) (base : Nat) (n : Nat) (done : List (Nat × Nat)) :
    Keeps s₀ (State.takeUnits s c base n done).1 := by
  unfold State.takeUnits
  repeat' (first
    | with_reducible assumption
    | with_reducible apply State.takeUnit_keeps
    | with_reducible exact id
    | simp only [keeps_mk_iff]
    | with_reducible apply Keeps.upd
    | with_reducible apply Keeps.foldl
    | with_reducible apply Keeps.foldlFst
    | intro _ _ _
    | refine Keeps.ofFst (by with_reducible assumption) ?_
    | refine Keeps.ofSnd (by with_reducible assumption) ?_
    | dsimp only
    | split)

theorem State.copyRead_keeps {s₀ s : State} (h : Keeps s₀ s) (c : Nat) (d : Desc) (done : List (Nat × Nat)) :
    Keeps s₀ (State.copyRead s c d done).1 := by
  unfold State.copyRead
  repeat' (first
    | with_reducible assumption
    | with_reducible apply State.fault_keeps
    | with_reducible apply State.takeUnits_keeps
    | with_reducible exact id
    | intro _ _ _
    | refine Keeps.ofFst (by with_reducible assumption) ?_
    | refine Keeps.ofSnd (by with_reducible assumption) ?_
    | dsimp only
    | split)

theorem State.unitWrites_keeps {s₀ s : State} (h : Keeps s₀ s) (c : Nat) (base : Nat) (d : Bytes) :
    Keeps s₀ (State.unitWrites s c base d).1 := by
  unfold State.unitWrites
  repeat' (first
    | with_reducible assumption
    | with_reducible apply State.makeUnit_keeps
    | with_reducible exact id
    | with_reducible apply Keeps.foldl
    | with_reducible apply Keeps.foldlFst
    | intro _ _ _
    | refine Keeps.ofFst (by with_reducible assumption) ?_
    | refine Keeps.ofSnd (by with_reducible assumption) ?_
    | dsimp only
    | split)

theorem State.copy_keeps {s₀ s : State} (h : Keeps s₀ s) (q : QRef) (e : Entry) :
    Keeps s₀ (State.copy s q e) := by
  unfold State.copy
  dsimp only
  split
  · exact State.failEntry_keeps h _ _ _ _ _
  · split
    · rename_i e₁
      exact State.finishEntry_keeps (Keeps.ofFst e₁ (State.copyRead_keeps h _ _ _)) _ _
    · rename_i e₁
      exact State.halt_keeps (Keeps.ofFst e₁ (State.copyRead_keeps h _ _ _)) _ _ _ _
    · rename_i s₁ d e₁
      have h₁ := Keeps.ofFst e₁ (State.copyRead_keeps h _ _ _)
      have hw : Keeps s₀ (if s.bounceData q.slot ((s.queue q).d 1) then s₁.unitWrites q.slot ((s.queue q).d 1).base d
          else (s₁, writesAt ((s.queue q).d 1).stream d)).1 := by
        split
        · exact State.unitWrites_keeps h₁ _ _ _
        · exact h₁
      split
      · rename_i e₂
        exact State.failEntry_keeps (Keeps.ofFst e₂ (State.vwrites_keeps hw _ _ _)) _ _ _ _ _
      · rename_i e₂
        exact State.finishEntry_keeps (Keeps.ofFst e₂ (State.vwrites_keeps hw _ _ _)) _ _

theorem State.ingest_keeps {s₀ s : State} (h : Keeps s₀ s) (c : Nat) (d : Desc) (done : List (Nat × Nat)) (n va : Nat)
    (as : List Nat) : Keeps s₀ (s.ingest c d done n va as).1 := by
  induction n generalizing s va as with
  | zero => exact h
  | succ n ih =>
    unfold State.ingest
    split
    · exact h
    · split
      · rename_i e
        exact Keeps.ofFst e (State.vwrites_keeps h _ _ _)
      · rename_i e
        exact ih (Keeps.ofFst e (State.vwrites_keeps h _ _ _)) _ _

theorem State.restoreStream_keeps {s₀ s : State} (h : Keeps s₀ s) (c : Nat) (d : Desc) (key : Bytes) (id : Nat)
    (done : List (Nat × Nat)) (n : Nat) (first : Bool) (as : List Nat) (r : RestoreAt) :
    Keeps s₀ (s.restoreStream c d key id done n first as r).1 := by
  induction n generalizing s first as r with
  | zero => exact h
  | succ n ih =>
    unfold State.restoreStream
    dsimp only
    split
    · exact h
    · split
      · exact h
      · generalize (if first = true then List.drop 128 _ else _) = body
        split
        · exact h
        · split
          · rename_i e
            exact Keeps.ofFst e (State.vwrites_keeps h _ _ _)
          · rename_i e
            exact ih (Keeps.ofFst e (State.vwrites_keeps h _ _ _)) _ _ _

theorem State.restoreAll_keeps {s₀ s : State} (h : Keeps s₀ s) (c : Nat) (key : Bytes) (id : Nat) (done : List (Nat × Nat))
    (ds : List Desc) (r : RestoreAt) : Keeps s₀ (s.restoreAll c key id done ds r).1 := by
  induction ds generalizing s r with
  | nil => exact h
  | cons d ds ih =>
    unfold State.restoreAll
    split
    · rename_i e
      exact Keeps.ofFst e (State.restoreStream_keeps h _ _ _ _ _ _ _ _ _)
    · rename_i e
      exact ih (Keeps.ofFst e (State.restoreStream_keeps h _ _ _ _ _ _ _ _ _)) _

theorem State.settleTile_keeps {s₀ s : State} (h : Keeps s₀ s) (c : Nat) (y : Queue) (e : Entry) (new : Option Eff) (d : Desc) (t : Nat) :
    Keeps s₀ (State.settleTile s c y e new d t) := by
  unfold State.settleTile
  repeat' (first
    | with_reducible assumption
    | with_reducible apply State.draw_keeps
    | with_reducible apply State.vwrites_keeps
    | with_reducible exact id
    | simp only [keeps_mk_iff]
    | with_reducible apply Keeps.upd
    | intro _ _ _
    | refine Keeps.ofFst (by with_reducible assumption) ?_
    | refine Keeps.ofSnd (by with_reducible assumption) ?_
    | dsimp only
    | split)

theorem State.unsettle_keeps {s₀ s : State} (h : Keeps s₀ s) (q : QRef) (e : Entry) (st : Status) :
    Keeps s₀ (State.unsettle s q e st) := by
  unfold State.unsettle
  repeat' (first
    | with_reducible assumption
    | with_reducible apply State.modQueue_keeps
    | with_reducible apply State.settleTile_keeps
    | with_reducible exact id
    | simp only [keeps_mk_iff]
    | with_reducible apply Keeps.upd
    | with_reducible apply Keeps.foldl
    | with_reducible apply Keeps.foldlFst
    | intro _ _ _
    | refine Keeps.ofFst (by with_reducible assumption) ?_
    | refine Keeps.ofSnd (by with_reducible assumption) ?_
    | dsimp only
    | split)

theorem State.completeEntry_keeps {s₀ s : State} (h : Keeps s₀ s) (q : QRef) :
    Keeps s₀ (State.completeEntry s q) := by
  unfold State.completeEntry
  repeat' (first
    | with_reducible assumption
    | with_reducible apply State.complete_keeps
    | with_reducible apply State.unsettle_keeps
    | with_reducible exact id
    | simp only [keeps_mk_iff]
    | with_reducible apply Keeps.upd
    | intro _ _ _
    | refine Keeps.ofFst (by with_reducible assumption) ?_
    | refine Keeps.ofSnd (by with_reducible assumption) ?_
    | dsimp only
    | split)

theorem State.takeSlot_keeps {s₀ s : State} (h : Keeps s₀ s) :
    Keeps s₀ (State.takeSlot s).2 := by
  unfold State.takeSlot
  repeat' (first
    | with_reducible assumption
    | with_reducible apply State.secret_keeps
    | with_reducible exact id
    | simp only [keeps_mk_iff]
    | with_reducible apply Keeps.upd
    | ((with_reducible apply Keeps.updMem) <;> first | with_reducible exact Mem.wf_same rfl rfl rfl rfl rfl rfl | with_reducible exact Mem.evict_keeps _ _ | with_reducible exact Mem.evicts_keep _ _ | with_reducible exact Mem.wf_cells _ _ | with_reducible exact Mem.wf_frames _ _ | exact fun h => Mem.wf_same rfl rfl rfl rfl rfl rfl (Mem.wf_frames _ _ h) | with_reducible exact Mem.wf_lines _ _ | with_reducible exact Mem.wf_blocks _ _ | with_reducible exact Mem.wf_fver _ _ | with_reducible exact Mem.wf_host _ _ | skip)
    | intro _ _ _
    | refine Keeps.ofFst (by with_reducible assumption) ?_
    | refine Keeps.ofSnd (by with_reducible assumption) ?_
    | dsimp only
    | split)

theorem State.assignSlots_keeps {s₀ s : State} (h : Keeps s₀ s) (rs : List KeyRange) :
    Keeps s₀ (State.assignSlots s rs).2 := by
  unfold State.assignSlots
  generalize rs.zip (List.range 8) = l
  have go : ∀ (a : List KeyRange × State), Keeps s₀ a.2 → Keeps s₀ (l.foldl (fun (a : List KeyRange × State) p =>
      if p.2 = 0 ∨ p.1.length ≠ 0 then
        let t := a.2.takeSlot
        (a.1 ++ [{ p.1 with slot := t.1 }], t.2)
      else (a.1 ++ [p.1], a.2)) a).2 := by
    induction l with
    | nil => exact fun a ha => ha
    | cons p l ih =>
      intro a ha
      refine ih _ ?_
      dsimp only
      split
      · exact State.takeSlot_keeps ha
      · exact ha
  exact go _ h

theorem State.withReloads_keeps {s₀ s : State} (h : Keeps s₀ s) :
    Keeps s₀ (State.withReloads s) := by
  unfold State.withReloads
  repeat' (first
    | with_reducible assumption
    | with_reducible exact id
    | simp only [keeps_mk_iff]
    | with_reducible apply Keeps.upd
    | intro _ _ _
    | refine Keeps.ofFst (by with_reducible assumption) ?_
    | refine Keeps.ofSnd (by with_reducible assumption) ?_
    | dsimp only
    | split)

theorem State.matchCharters_keeps {s₀ s : State} (h : Keeps s₀ s) (c : Nat) :
    Keeps s₀ (State.matchCharters s c) := by
  unfold State.matchCharters
  repeat' (first
    | with_reducible assumption
    | with_reducible apply State.sayDigest_keeps
    | with_reducible apply State.shutOut_keeps
    | with_reducible exact id
    | simp only [keeps_mk_iff]
    | with_reducible apply Keeps.upd
    | with_reducible apply Keeps.foldl
    | with_reducible apply Keeps.foldlFst
    | intro _ _ _
    | refine Keeps.ofFst (by with_reducible assumption) ?_
    | refine Keeps.ofSnd (by with_reducible assumption) ?_
    | dsimp only
    | split)

theorem State.createCtx_keeps {s₀ s : State} (h : Keeps s₀ s) (c : Nat) :
    Keeps s₀ (State.createCtx s c) := by
  unfold State.createCtx
  repeat' (first
    | with_reducible assumption
    | with_reducible apply State.modCtx_keeps
    | with_reducible apply State.waitFresh_keeps
    | with_reducible apply State.assignSlots_keeps
    | with_reducible apply State.matchCharters_keeps
    | with_reducible exact id
    | simp only [keeps_mk_iff]
    | with_reducible apply Keeps.upd
    | intro _ _ _
    | refine Keeps.ofFst (by with_reducible assumption) ?_
    | refine Keeps.ofSnd (by with_reducible assumption) ?_
    | dsimp only
    | split)

end Sys2Proof.Machine
end

