-- ==== Sys2Proof/Laws/ControlKeep.lean ====
section
/-! SUPPORT. Every operation of Slots, Schedule, Placement, Recovery, Probe keeps what no operation undoes. -/

namespace Sys2Proof.Machine

theorem State.unbind_keeps {s₀ s : State} (h : Keeps s₀ s) (c : Nat) :
    Keeps s₀ (State.unbind s c) := by
  unfold State.unbind
  repeat' (first
    | with_reducible assumption
    | with_reducible apply State.modCtx_keeps
    | with_reducible exact id
    | simp only [keeps_mk_iff]
    | with_reducible apply Keeps.upd
    | intro _ _ _
    | refine Keeps.ofFst (by with_reducible assumption) ?_
    | refine Keeps.ofSnd (by with_reducible assumption) ?_
    | dsimp only
    | split)

theorem State.bind_keeps {s₀ s : State} (h : Keeps s₀ s) (c : Nat) (n : Nat) :
    Keeps s₀ (State.bind s c n) := by
  unfold State.bind
  repeat' (first
    | with_reducible assumption
    | with_reducible apply State.modCtx_keeps
    | with_reducible exact id
    | simp only [keeps_mk_iff]
    | with_reducible apply Keeps.upd
    | intro _ _ _
    | refine Keeps.ofFst (by with_reducible assumption) ?_
    | refine Keeps.ofSnd (by with_reducible assumption) ?_
    | dsimp only
    | split)

theorem State.ctlCreate_keeps {s₀ s : State} (h : Keeps s₀ s) (fn : Nat) (c : Nat) :
    Keeps s₀ (State.ctlCreate s fn c) := by
  unfold State.ctlCreate
  repeat' (first
    | with_reducible assumption
    | with_reducible apply State.createCtx_keeps
    | with_reducible exact id
    | simp only [keeps_mk_iff]
    | with_reducible apply Keeps.upd
    | intro _ _ _
    | refine Keeps.ofFst (by with_reducible assumption) ?_
    | refine Keeps.ofSnd (by with_reducible assumption) ?_
    | dsimp only
    | split)

theorem State.ctlQuench_keeps {s₀ s : State} (h : Keeps s₀ s) (fn : Nat) (c : Nat) :
    Keeps s₀ (State.ctlQuench s fn c) := by
  unfold State.ctlQuench
  repeat' (first
    | with_reducible assumption
    | with_reducible apply State.quench_keeps
    | with_reducible exact id
    | intro _ _ _
    | refine Keeps.ofFst (by with_reducible assumption) ?_
    | refine Keeps.ofSnd (by with_reducible assumption) ?_
    | dsimp only
    | split)

theorem State.quenched_keeps {s₀ s : State} (h : Keeps s₀ s) (c : Nat) :
    Keeps s₀ (State.quenched s c) := by
  unfold State.quenched
  repeat' (first
    | with_reducible assumption
    | with_reducible apply State.modCtx_keeps
    | with_reducible apply State.raise_keeps
    | with_reducible apply State.freeCores_keeps
    | with_reducible apply State.tidyCores_keeps
    | with_reducible apply State.zeroSlots_keeps
    | with_reducible apply State.unbind_keeps
    | with_reducible exact id
    | simp only [keeps_mk_iff]
    | with_reducible apply Keeps.upd
    | intro _ _ _
    | refine Keeps.ofFst (by with_reducible assumption) ?_
    | refine Keeps.ofSnd (by with_reducible assumption) ?_
    | dsimp only
    | split)

theorem State.releaseSlot_keeps {s₀ s : State} (h : Keeps s₀ s) (c : Nat) :
    Keeps s₀ (State.releaseSlot s c) := by
  unfold State.releaseSlot
  repeat' (first
    | with_reducible assumption
    | with_reducible apply State.modCtx_keeps
    | with_reducible apply State.dropPins_keeps
    | with_reducible apply State.sayDigest_keeps
    | with_reducible apply State.dropSeqs_keeps
    | with_reducible exact id
    | simp only [keeps_mk_iff]
    | with_reducible apply Keeps.upd
    | ((with_reducible apply Keeps.updMem) <;> first | with_reducible exact Mem.wf_same rfl rfl rfl rfl rfl rfl | with_reducible exact Mem.evict_keeps _ _ | with_reducible exact Mem.evicts_keep _ _ | with_reducible exact Mem.wf_cells _ _ | with_reducible exact Mem.wf_frames _ _ | exact fun h => Mem.wf_same rfl rfl rfl rfl rfl rfl (Mem.wf_frames _ _ h) | with_reducible exact Mem.wf_lines _ _ | with_reducible exact Mem.wf_blocks _ _ | with_reducible exact Mem.wf_fver _ _ | with_reducible exact Mem.wf_host _ _ | skip)
    | with_reducible apply Keeps.foldl
    | with_reducible apply Keeps.foldlFst
    | intro _ _ _
    | refine Keeps.ofFst (by with_reducible assumption) ?_
    | refine Keeps.ofSnd (by with_reducible assumption) ?_
    | dsimp only
    | split)

theorem State.ctlRelease_keeps {s₀ s : State} (h : Keeps s₀ s) (fn : Nat) (c : Nat) :
    Keeps s₀ (State.ctlRelease s fn c) := by
  unfold State.ctlRelease
  repeat' (first
    | with_reducible assumption
    | with_reducible apply State.releaseSlot_keeps
    | with_reducible exact id
    | intro _ _ _
    | refine Keeps.ofFst (by with_reducible assumption) ?_
    | refine Keeps.ofSnd (by with_reducible assumption) ?_
    | dsimp only
    | split)

theorem State.ctlDrain_keeps {s₀ s : State} (h : Keeps s₀ s) (fn : Nat) (c : Nat) :
    Keeps s₀ (State.ctlDrain s fn c) := by
  unfold State.ctlDrain
  repeat' (first
    | with_reducible assumption
    | with_reducible apply State.modCtx_keeps
    | with_reducible exact id
    | simp only [keeps_mk_iff]
    | with_reducible apply Keeps.upd
    | intro _ _ _
    | refine Keeps.ofFst (by with_reducible assumption) ?_
    | refine Keeps.ofSnd (by with_reducible assumption) ?_
    | dsimp only
    | split)

theorem State.writeQcfg_keeps {s₀ s : State} (h : Keeps s₀ s) (c : Nat) (v : Nat) :
    Keeps s₀ (State.writeQcfg s c v) := by
  unfold State.writeQcfg
  repeat' (first
    | with_reducible assumption
    | with_reducible apply State.modCtx_keeps
    | with_reducible apply State.setQueue_keeps
    | with_reducible exact id
    | simp only [keeps_mk_iff]
    | with_reducible apply Keeps.upd
    | intro _ _ _
    | refine Keeps.ofFst (by with_reducible assumption) ?_
    | refine Keeps.ofSnd (by with_reducible assumption) ?_
    | dsimp only
    | split)

theorem State.writeHostMode_keeps {s₀ s : State} (h : Keeps s₀ s) (c : Nat) (v : Nat) :
    Keeps s₀ (State.writeHostMode s c v) := by
  unfold State.writeHostMode
  repeat' (first
    | with_reducible assumption
    | with_reducible apply State.modCtx_keeps
    | with_reducible exact id
    | simp only [keeps_mk_iff]
    | with_reducible apply Keeps.upd
    | intro _ _ _
    | refine Keeps.ofFst (by with_reducible assumption) ?_
    | refine Keeps.ofSnd (by with_reducible assumption) ?_
    | dsimp only
    | split)

theorem State.failParked_keeps {s₀ s : State} (h : Keeps s₀ s) (q : QRef) (b : Back) (st : Status) :
    Keeps s₀ (State.failParked s q b st) := by
  unfold State.failParked
  repeat' (first
    | with_reducible assumption
    | with_reducible apply State.setQueue_keeps
    | with_reducible apply State.queueError_keeps
    | with_reducible apply State.loseBuckets_keeps
    | with_reducible apply State.closePeriod_keeps
    | with_reducible apply State.advance_keeps
    | with_reducible apply State.wakeSums_keeps
    | with_reducible exact id
    | simp only [keeps_mk_iff]
    | with_reducible apply Keeps.upd
    | intro _ _ _
    | refine Keeps.ofFst (by with_reducible assumption) ?_
    | refine Keeps.ofSnd (by with_reducible assumption) ?_
    | dsimp only
    | split)

theorem State.answer_keeps {s₀ s : State} (h : Keeps s₀ s) (c : Nat) (p : Parked) (fail : Bool) :
    Keeps s₀ (State.answer s c p fail) := by
  unfold State.answer
  repeat' (first
    | with_reducible assumption
    | with_reducible apply State.modCtx_keeps
    | with_reducible apply State.modQueue_keeps
    | with_reducible apply State.back_keeps
    | with_reducible apply State.failParked_keeps
    | with_reducible exact id
    | simp only [keeps_mk_iff]
    | with_reducible apply Keeps.upd
    | with_reducible apply Keeps.foldl
    | with_reducible apply Keeps.foldlFst
    | intro _ _ _
    | refine Keeps.ofFst (by with_reducible assumption) ?_
    | refine Keeps.ofSnd (by with_reducible assumption) ?_
    | dsimp only
    | split)

theorem State.writeResume_keeps {s₀ s : State} (h : Keeps s₀ s) (c : Nat) (v : Nat) :
    Keeps s₀ (State.writeResume s c v) := by
  unfold State.writeResume
  repeat' (first
    | with_reducible assumption
    | with_reducible apply State.flush_keeps
    | with_reducible apply State.wakeData_keeps
    | with_reducible apply State.answer_keeps
    | with_reducible exact id
    | with_reducible apply Keeps.foldl
    | with_reducible apply Keeps.foldlFst
    | intro _ _ _
    | refine Keeps.ofFst (by with_reducible assumption) ?_
    | refine Keeps.ofSnd (by with_reducible assumption) ?_
    | dsimp only
    | split)

theorem State.writeFaultCons_keeps {s₀ s : State} (h : Keeps s₀ s) (c : Nat) (v : Nat) :
    Keeps s₀ (State.writeFaultCons s c v) := by
  unfold State.writeFaultCons
  repeat' (first
    | with_reducible assumption
    | with_reducible apply State.modCtx_keeps
    | with_reducible apply State.flush_keeps
    | with_reducible exact id
    | simp only [keeps_mk_iff]
    | with_reducible apply Keeps.upd
    | intro _ _ _
    | refine Keeps.ofFst (by with_reducible assumption) ?_
    | refine Keeps.ofSnd (by with_reducible assumption) ?_
    | dsimp only
    | split)

theorem State.writeInval_keeps {s₀ s : State} (h : Keeps s₀ s) (c : Nat) (v : Nat) :
    Keeps s₀ (State.writeInval s c v) := by
  unfold State.writeInval
  repeat' (first
    | with_reducible assumption
    | with_reducible apply State.modCtx_keeps
    | with_reducible exact id
    | simp only [keeps_mk_iff]
    | with_reducible apply Keeps.upd
    | intro _ _ _
    | refine Keeps.ofFst (by with_reducible assumption) ?_
    | refine Keeps.ofSnd (by with_reducible assumption) ?_
    | dsimp only
    | split)

theorem State.writeScrub_keeps {s₀ s : State} (h : Keeps s₀ s) (v : Nat) :
    Keeps s₀ (State.writeScrub s v) := by
  unfold State.writeScrub
  repeat' (first
    | with_reducible assumption
    | with_reducible exact id
    | simp only [keeps_mk_iff]
    | with_reducible apply Keeps.upd
    | ((with_reducible apply Keeps.updMem) <;> first | with_reducible exact Mem.wf_same rfl rfl rfl rfl rfl rfl | with_reducible exact Mem.evict_keeps _ _ | with_reducible exact Mem.evicts_keep _ _ | with_reducible exact Mem.wf_cells _ _ | with_reducible exact Mem.wf_frames _ _ | exact fun h => Mem.wf_same rfl rfl rfl rfl rfl rfl (Mem.wf_frames _ _ h) | with_reducible exact Mem.wf_lines _ _ | with_reducible exact Mem.wf_blocks _ _ | with_reducible exact Mem.wf_fver _ _ | with_reducible exact Mem.wf_host _ _ | skip)
    | intro _ _ _
    | refine Keeps.ofFst (by with_reducible assumption) ?_
    | refine Keeps.ofSnd (by with_reducible assumption) ?_
    | dsimp only
    | split)

theorem State.windowFails_keeps {s₀ s : State} (h : Keeps s₀ s) (fn : Nat) (err : Bool) :
    Keeps s₀ (State.windowFails s fn err) := by
  unfold State.windowFails
  repeat' (first
    | with_reducible assumption
    | with_reducible apply State.modCtx_keeps
    | with_reducible exact id
    | simp only [keeps_mk_iff]
    | with_reducible apply Keeps.upd
    | intro _ _ _
    | refine Keeps.ofFst (by with_reducible assumption) ?_
    | refine Keeps.ofSnd (by with_reducible assumption) ?_
    | dsimp only
    | split)

theorem State.windowTouch_keeps {s₀ s : State} (h : Keeps s₀ s) (fn : Nat) (off : Nat) (n : Nat) :
    Keeps s₀ (State.windowTouch s fn off n) := by
  unfold State.windowTouch
  repeat' (first
    | with_reducible assumption
    | with_reducible apply State.touchPiece_keeps
    | with_reducible exact id
    | simp only [keeps_mk_iff]
    | with_reducible apply Keeps.upd
    | intro _ _ _
    | refine Keeps.ofFst (by with_reducible assumption) ?_
    | refine Keeps.ofSnd (by with_reducible assumption) ?_
    | dsimp only
    | split)

theorem State.windowRead_keeps {s₀ s : State} (h : Keeps s₀ s) (fn : Nat) (off : Nat) (len : Nat) :
    Keeps s₀ (State.windowRead s fn off len) := by
  unfold State.windowRead
  repeat' (first
    | with_reducible assumption
    | with_reducible apply State.emit_keeps
    | with_reducible apply State.noteAcc_keeps
    | with_reducible apply State.noteLines_keeps
    | with_reducible apply State.windowFails_keeps
    | with_reducible apply State.windowTouch_keeps
    | with_reducible exact id
    | simp only [keeps_mk_iff]
    | with_reducible apply Keeps.upd
    | with_reducible apply Keeps.foldl
    | with_reducible apply Keeps.foldlFst
    | intro _ _ _
    | refine Keeps.ofFst (by with_reducible assumption) ?_
    | refine Keeps.ofSnd (by with_reducible assumption) ?_
    | dsimp only
    | split)

theorem State.windowStore_keeps {s₀ s : State} (h : Keeps s₀ s) (fn : Nat) (off : Nat) (data : Bytes) (p : Nat × Nat) :
    Keeps s₀ (State.windowStore s fn off data p) := by
  unfold State.windowStore
  repeat' (first
    | with_reducible assumption
    | with_reducible apply State.noteAcc_keeps
    | with_reducible apply State.physWrite_keeps
    | with_reducible apply State.noteLines_keeps
    | with_reducible apply State.windowFails_keeps
    | with_reducible apply State.windowTouch_keeps
    | with_reducible exact id
    | simp only [keeps_mk_iff]
    | with_reducible apply Keeps.upd
    | intro _ _ _
    | refine Keeps.ofFst (by with_reducible assumption) ?_
    | refine Keeps.ofSnd (by with_reducible assumption) ?_
    | dsimp only
    | split)

theorem State.windowGo_keeps {s₀ s : State} (h : Keeps s₀ s) (r : WinReq) :
    Keeps s₀ (State.windowGo s r) := by
  unfold State.windowGo
  repeat' (first
    | with_reducible assumption
    | with_reducible apply State.windowRead_keeps
    | with_reducible apply State.windowStore_keeps
    | with_reducible exact id
    | simp only [keeps_mk_iff]
    | with_reducible apply Keeps.upd
    | with_reducible apply Keeps.foldl
    | with_reducible apply Keeps.foldlFst
    | intro _ _ _
    | refine Keeps.ofFst (by with_reducible assumption) ?_
    | refine Keeps.ofSnd (by with_reducible assumption) ?_
    | dsimp only
    | split)

theorem State.windowReq_keeps {s₀ s : State} (h : Keeps s₀ s) (r : WinReq) :
    Keeps s₀ (State.windowReq s r) := by
  unfold State.windowReq
  repeat' (first
    | with_reducible assumption
    | with_reducible apply State.windowGo_keeps
    | with_reducible exact id
    | simp only [keeps_mk_iff]
    | with_reducible apply Keeps.upd
    | intro _ _ _
    | refine Keeps.ofFst (by with_reducible assumption) ?_
    | refine Keeps.ofSnd (by with_reducible assumption) ?_
    | dsimp only
    | split)

theorem State.windowResume_keeps {s₀ s : State} (h : Keeps s₀ s) :
    Keeps s₀ (State.windowResume s) := by
  unfold State.windowResume
  repeat' (first
    | with_reducible assumption
    | with_reducible apply State.windowReq_keeps
    | with_reducible exact id
    | simp only [keeps_mk_iff]
    | with_reducible apply Keeps.upd
    | with_reducible apply Keeps.foldl
    | with_reducible apply Keeps.foldlFst
    | intro _ _ _
    | refine Keeps.ofFst (by with_reducible assumption) ?_
    | refine Keeps.ofSnd (by with_reducible assumption) ?_
    | dsimp only
    | split)

theorem State.setTdi_keeps {s₀ s : State} (h : Keeps s₀ s) (c : Nat) (v : Nat) :
    Keeps s₀ (State.setTdi s c v) := by
  unfold State.setTdi
  repeat' (first
    | with_reducible assumption
    | with_reducible apply State.raise_keeps
    | with_reducible apply State.quench_keeps
    | with_reducible exact id
    | simp only [keeps_mk_iff]
    | with_reducible apply Keeps.upd
    | intro _ _ _
    | refine Keeps.ofFst (by with_reducible assumption) ?_
    | refine Keeps.ofSnd (by with_reducible assumption) ?_
    | dsimp only
    | split)

theorem State.askHallmark_keeps {s₀ s : State} (h : Keeps s₀ s) (call : Option Call) (r : HallmarkRequest) :
    Keeps s₀ (State.askHallmark s call r) := by
  unfold State.askHallmark
  repeat' (first
    | with_reducible assumption
    | with_reducible apply State.emit_keeps
    | with_reducible apply State.reply_keeps
    | with_reducible apply State.owe_keeps
    | with_reducible apply State.hallmark_keeps
    | with_reducible exact id
    | simp only [keeps_mk_iff]
    | with_reducible apply Keeps.upd
    | intro _ _ _
    | refine Keeps.ofFst (by with_reducible assumption) ?_
    | refine Keeps.ofSnd (by with_reducible assumption) ?_
    | dsimp only
    | split)

theorem State.answerHeld_keeps {s₀ s : State} (h : Keeps s₀ s) :
    Keeps s₀ (State.answerHeld s) := by
  unfold State.answerHeld
  repeat' (first
    | with_reducible assumption
    | with_reducible apply State.askHallmark_keeps
    | with_reducible exact id
    | simp only [keeps_mk_iff]
    | with_reducible apply Keeps.upd
    | with_reducible apply Keeps.foldl
    | with_reducible apply Keeps.foldlFst
    | intro _ _ _
    | refine Keeps.ofFst (by with_reducible assumption) ?_
    | refine Keeps.ofSnd (by with_reducible assumption) ?_
    | dsimp only
    | split)

theorem State.nextQuantum_keeps {s₀ s : State} (h : Keeps s₀ s) :
    Keeps s₀ (State.nextQuantum s) := by
  unfold State.nextQuantum
  repeat' (first
    | with_reducible assumption
    | with_reducible apply State.charge_keeps
    | with_reducible apply State.endSprig_keeps
    | with_reducible apply State.settleOwed_keeps
    | with_reducible apply State.enterQuantum_keeps
    | with_reducible apply State.newRound_keeps
    | with_reducible exact id
    | simp only [keeps_mk_iff]
    | with_reducible apply Keeps.upd
    | with_reducible apply Keeps.foldl
    | with_reducible apply Keeps.foldlFst
    | intro _ _ _
    | refine Keeps.ofFst (by with_reducible assumption) ?_
    | refine Keeps.ofSnd (by with_reducible assumption) ?_
    | dsimp only
    | split)

theorem State.yieldCore_keeps {s₀ s : State} (h : Keeps s₀ s) (k : Nat) :
    Keeps s₀ (State.yieldCore s k) := by
  unfold State.yieldCore
  repeat' (first
    | with_reducible assumption
    | with_reducible apply State.setCore_keeps
    | with_reducible apply State.saveWork_keeps
    | with_reducible apply State.endSprig_keeps
    | with_reducible apply State.settleOwed_keeps
    | with_reducible exact id
    | simp only [keeps_mk_iff]
    | with_reducible apply Keeps.upd
    | intro _ _ _
    | refine Keeps.ofFst (by with_reducible assumption) ?_
    | refine Keeps.ofSnd (by with_reducible assumption) ?_
    | dsimp only
    | split)

theorem State.topUp_keeps {s₀ s : State} (h : Keeps s₀ s) (c : Nat) :
    Keeps s₀ (State.topUp s c) := by
  unfold State.topUp
  repeat' (first
    | with_reducible assumption
    | with_reducible apply State.giveUpTo_keeps
    | with_reducible exact id
    | intro _ _ _
    | refine Keeps.ofFst (by with_reducible assumption) ?_
    | refine Keeps.ofSnd (by with_reducible assumption) ?_
    | dsimp only
    | split)

theorem State.beginSprig_keeps {s₀ s : State} (h : Keeps s₀ s) (k : Nat) (d : Nat) (c : Nat) :
    Keeps s₀ (State.beginSprig s k d c) := by
  unfold State.beginSprig
  repeat' (first
    | with_reducible assumption
    | with_reducible apply State.setCore_keeps
    | with_reducible apply State.saveWork_keeps
    | with_reducible apply State.restoreWork_keeps
    | with_reducible apply State.settleOwed_keeps
    | with_reducible exact id
    | simp only [keeps_mk_iff]
    | with_reducible apply Keeps.upd
    | intro _ _ _
    | refine Keeps.ofFst (by with_reducible assumption) ?_
    | refine Keeps.ofSnd (by with_reducible assumption) ?_
    | dsimp only
    | split)

theorem State.dropContributions_keeps {s₀ s : State} (h : Keeps s₀ s) (c : Nat) :
    Keeps s₀ (State.dropContributions s c) := by
  unfold State.dropContributions
  repeat' (first
    | with_reducible assumption
    | with_reducible apply State.modCtx_keeps
    | with_reducible apply State.absentOwn_keeps
    | with_reducible exact id
    | simp only [keeps_mk_iff]
    | with_reducible apply Keeps.upd
    | intro _ _ _
    | refine Keeps.ofFst (by with_reducible assumption) ?_
    | refine Keeps.ofSnd (by with_reducible assumption) ?_
    | dsimp only
    | split)

theorem State.overrun_keeps {s₀ s : State} (h : Keeps s₀ s) (c : Nat) :
    Keeps s₀ (State.overrun s c) := by
  unfold State.overrun
  repeat' (first
    | with_reducible assumption
    | with_reducible apply State.modCtx_keeps
    | with_reducible apply State.setWl_keeps
    | with_reducible apply State.raise_keeps
    | with_reducible apply State.freeCores_keeps
    | with_reducible apply State.tidyCores_keeps
    | with_reducible apply State.giveUpTo_keeps
    | with_reducible apply State.dropContributions_keeps
    | with_reducible exact id
    | simp only [keeps_mk_iff]
    | with_reducible apply Keeps.upd
    | with_reducible apply Keeps.foldl
    | with_reducible apply Keeps.foldlFst
    | intro _ _ _
    | refine Keeps.ofFst (by with_reducible assumption) ?_
    | refine Keeps.ofSnd (by with_reducible assumption) ?_
    | dsimp only
    | split)

theorem State.writeReload_keeps {s₀ s : State} (h : Keeps s₀ s) (v : Nat) :
    Keeps s₀ (State.writeReload s v) := by
  unfold State.writeReload
  repeat' (first
    | with_reducible assumption
    | with_reducible apply State.modCtx_keeps
    | with_reducible apply State.raise_keeps
    | with_reducible exact id
    | simp only [keeps_mk_iff]
    | with_reducible apply Keeps.upd
    | intro _ _ _
    | refine Keeps.ofFst (by with_reducible assumption) ?_
    | refine Keeps.ofSnd (by with_reducible assumption) ?_
    | dsimp only
    | split)

theorem State.placeWaiting_keeps {s₀ s : State} (h : Keeps s₀ s) :
    Keeps s₀ (State.placeWaiting s) := by
  unfold State.placeWaiting
  repeat' (first
    | with_reducible assumption
    | with_reducible apply State.startMoves_keeps
    | with_reducible apply State.honourPins_keeps
    | with_reducible apply State.wantSlot_keeps
    | with_reducible exact id
    | with_reducible apply Keeps.foldl
    | with_reducible apply Keeps.foldlFst
    | intro _ _ _
    | refine Keeps.ofFst (by with_reducible assumption) ?_
    | refine Keeps.ofSnd (by with_reducible assumption) ?_
    | dsimp only
    | split)

theorem State.writeStallMax_keeps {s₀ s : State} (h : Keeps s₀ s) (v : Nat) :
    Keeps s₀ (State.writeStallMax s v) := by
  unfold State.writeStallMax
  repeat' (first
    | with_reducible assumption
    | with_reducible exact id
    | simp only [keeps_mk_iff]
    | with_reducible apply Keeps.upd
    | ((with_reducible apply Keeps.updMem) <;> first | with_reducible exact Mem.wf_same rfl rfl rfl rfl rfl rfl | with_reducible exact Mem.evict_keeps _ _ | with_reducible exact Mem.evicts_keep _ _ | with_reducible exact Mem.wf_cells _ _ | with_reducible exact Mem.wf_frames _ _ | exact fun h => Mem.wf_same rfl rfl rfl rfl rfl rfl (Mem.wf_frames _ _ h) | with_reducible exact Mem.wf_lines _ _ | with_reducible exact Mem.wf_blocks _ _ | with_reducible exact Mem.wf_fver _ _ | with_reducible exact Mem.wf_host _ _ | skip)
    | intro _ _ _
    | refine Keeps.ofFst (by with_reducible assumption) ?_
    | refine Keeps.ofSnd (by with_reducible assumption) ?_
    | dsimp only
    | split)

theorem State.writeAnnealReq_keeps {s₀ s : State} (h : Keeps s₀ s) (v : Nat) :
    Keeps s₀ (State.writeAnnealReq s v) := by
  unfold State.writeAnnealReq
  repeat' (first
    | with_reducible assumption
    | with_reducible apply State.queueAnneal_keeps
    | with_reducible exact id
    | simp only [keeps_mk_iff]
    | with_reducible apply Keeps.upd
    | ((with_reducible apply Keeps.updMem) <;> first | with_reducible exact Mem.wf_same rfl rfl rfl rfl rfl rfl | with_reducible exact Mem.evict_keeps _ _ | with_reducible exact Mem.evicts_keep _ _ | with_reducible exact Mem.wf_cells _ _ | with_reducible exact Mem.wf_frames _ _ | exact fun h => Mem.wf_same rfl rfl rfl rfl rfl rfl (Mem.wf_frames _ _ h) | with_reducible exact Mem.wf_lines _ _ | with_reducible exact Mem.wf_blocks _ _ | with_reducible exact Mem.wf_fver _ _ | with_reducible exact Mem.wf_host _ _ | skip)
    | intro _ _ _
    | refine Keeps.ofFst (by with_reducible assumption) ?_
    | refine Keeps.ofSnd (by with_reducible assumption) ?_
    | dsimp only
    | split)

theorem State.annealLines_keeps {s₀ s : State} (h : Keeps s₀ s) (old : Nat) (new : Nat) (replay : Bool) (f : Nat) (i : Nat) :
    Keeps s₀ (State.annealLines s old new replay f i) := by
  unfold State.annealLines
  repeat' (first
    | with_reducible assumption
    | with_reducible apply State.setLine_keeps
    | with_reducible apply State.setBlock_keeps
    | with_reducible apply State.bumpFver_keeps
    | with_reducible apply State.failStructure_keeps
    | with_reducible apply State.poison_keeps
    | with_reducible apply State.replay_keeps
    | with_reducible exact id
    | simp only [keeps_mk_iff]
    | with_reducible apply Keeps.upd
    | ((with_reducible apply Keeps.updMem) <;> first | with_reducible exact Mem.wf_same rfl rfl rfl rfl rfl rfl | with_reducible exact Mem.evict_keeps _ _ | with_reducible exact Mem.evicts_keep _ _ | with_reducible exact Mem.wf_cells _ _ | with_reducible exact Mem.wf_frames _ _ | exact fun h => Mem.wf_same rfl rfl rfl rfl rfl rfl (Mem.wf_frames _ _ h) | with_reducible exact Mem.wf_lines _ _ | with_reducible exact Mem.wf_blocks _ _ | with_reducible exact Mem.wf_fver _ _ | with_reducible exact Mem.wf_host _ _ | skip)
    | with_reducible apply Keeps.foldl
    | with_reducible apply Keeps.foldlFst
    | intro _ _ _
    | refine Keeps.ofFst (by with_reducible assumption) ?_
    | refine Keeps.ofSnd (by with_reducible assumption) ?_
    | dsimp only
    | split)

theorem State.sweepPast_keeps {s₀ s : State} (h : Keeps s₀ s) (core : Nat) (i : Nat) :
    Keeps s₀ (State.sweepPast s core i) := by
  unfold State.sweepPast
  repeat' (first
    | with_reducible assumption
    | with_reducible apply State.sweepFrom_keeps
    | with_reducible exact id
    | intro _ _ _
    | refine Keeps.ofFst (by with_reducible assumption) ?_
    | refine Keeps.ofSnd (by with_reducible assumption) ?_
    | dsimp only
    | split)

theorem State.setDrain_keeps {s₀ s : State} (h : Keeps s₀ s) (c : Nat) (on : Bool) :
    Keeps s₀ (State.setDrain s c on) := by
  unfold State.setDrain
  repeat' (first
    | with_reducible assumption
    | with_reducible apply State.setCore_keeps
    | with_reducible apply State.rebalance_keeps
    | with_reducible apply State.askDrain_keeps
    | with_reducible apply State.returnCore_keeps
    | with_reducible exact id
    | simp only [keeps_mk_iff]
    | with_reducible apply Keeps.upd
    | intro _ _ _
    | refine Keeps.ofFst (by with_reducible assumption) ?_
    | refine Keeps.ofSnd (by with_reducible assumption) ?_
    | dsimp only
    | split)

theorem State.writeCoreCtrl_keeps {s₀ s : State} (h : Keeps s₀ s) (c : Nat) (v : Nat) :
    Keeps s₀ (State.writeCoreCtrl s c v) := by
  unfold State.writeCoreCtrl
  repeat' (first
    | with_reducible assumption
    | with_reducible apply State.startTest_keeps
    | with_reducible apply State.setDrain_keeps
    | with_reducible exact id
    | intro _ _ _
    | refine Keeps.ofFst (by with_reducible assumption) ?_
    | refine Keeps.ofSnd (by with_reducible assumption) ?_
    | dsimp only
    | split)

theorem State.clearFtq_keeps {s₀ s : State} (h : Keeps s₀ s) (c : Nat) :
    Keeps s₀ (State.clearFtq s c) := by
  unfold State.clearFtq
  repeat' (first
    | with_reducible assumption
    | with_reducible apply State.setCore_keeps
    | with_reducible exact id
    | simp only [keeps_mk_iff]
    | with_reducible apply Keeps.upd
    | intro _ _ _
    | refine Keeps.ofFst (by with_reducible assumption) ?_
    | refine Keeps.ofSnd (by with_reducible assumption) ?_
    | dsimp only
    | split)

theorem State.writeSelftest_keeps {s₀ s : State} (h : Keeps s₀ s) (v : Nat) :
    Keeps s₀ (State.writeSelftest s v) := by
  unfold State.writeSelftest
  repeat' (first
    | with_reducible assumption
    | with_reducible apply State.sweepStart_keeps
    | with_reducible exact id
    | simp only [keeps_mk_iff]
    | with_reducible apply Keeps.upd
    | intro _ _ _
    | refine Keeps.ofFst (by with_reducible assumption) ?_
    | refine Keeps.ofSnd (by with_reducible assumption) ?_
    | dsimp only
    | split)

theorem State.sweepAfterReset_keeps {s₀ s : State} (h : Keeps s₀ s) (page : Nat) :
    Keeps s₀ (State.sweepAfterReset s page) := by
  unfold State.sweepAfterReset
  repeat' (first
    | with_reducible assumption
    | with_reducible apply State.tidyCores_keeps
    | with_reducible apply State.rebalance_keeps
    | with_reducible apply State.sweepPast_keeps
    | with_reducible exact id
    | simp only [keeps_mk_iff]
    | with_reducible apply Keeps.upd
    | intro _ _ _
    | refine Keeps.ofFst (by with_reducible assumption) ?_
    | refine Keeps.ofSnd (by with_reducible assumption) ?_
    | dsimp only
    | split)

theorem State.resume_keeps {s₀ s : State} (h : Keeps s₀ s) :
    Keeps s₀ (State.resume s) := by
  unfold State.resume
  repeat' (first
    | with_reducible assumption
    | with_reducible apply State.resumeQuanta_keeps
    | with_reducible exact id
    | intro _ _ _
    | refine Keeps.ofFst (by with_reducible assumption) ?_
    | refine Keeps.ofSnd (by with_reducible assumption) ?_
    | dsimp only
    | split)

theorem State.writeResetCtrl_keeps {s₀ s : State} (h : Keeps s₀ s) (v : Nat) :
    Keeps s₀ (State.writeResetCtrl s v) := by
  unfold State.writeResetCtrl
  repeat' (first
    | with_reducible assumption
    | with_reducible apply State.cpStart_keeps
    | with_reducible exact id
    | intro _ _ _
    | refine Keeps.ofFst (by with_reducible assumption) ?_
    | refine Keeps.ofSnd (by with_reducible assumption) ?_
    | dsimp only
    | split)

theorem State.loseServices_keeps {s₀ s : State} (h : Keeps s₀ s) (n : Nat) :
    Keeps s₀ (State.loseServices s n) := by
  unfold State.loseServices
  repeat' (first
    | with_reducible assumption
    | with_reducible apply State.finishEntry_keeps
    | with_reducible exact id
    | with_reducible apply Keeps.foldl
    | with_reducible apply Keeps.foldlFst
    | intro _ _ _
    | refine Keeps.ofFst (by with_reducible assumption) ?_
    | refine Keeps.ofSnd (by with_reducible assumption) ?_
    | dsimp only
    | split)

theorem State.attach_keeps {s₀ s : State} (h : Keeps s₀ s) :
    Keeps s₀ (State.attach s) := by
  unfold State.attach
  repeat' (first
    | with_reducible assumption
    | with_reducible exact id
    | simp only [keeps_mk_iff]
    | with_reducible apply Keeps.upd
    | ((with_reducible apply Keeps.updSec) <;> first | exact ⟨id, id, fun _ _ => .inl rfl⟩ | skip)
    | intro _ _ _
    | refine Keeps.ofFst (by with_reducible assumption) ?_
    | refine Keeps.ofSnd (by with_reducible assumption) ?_
    | dsimp only
    | split)

theorem State.cpStop_keeps {s₀ s : State} (h : Keeps s₀ s) (n : Nat) (pc : Nat) :
    Keeps s₀ (State.cpStop s n pc) := by
  unfold State.cpStop
  repeat' (first
    | with_reducible assumption
    | with_reducible apply State.setCp_keeps
    | with_reducible apply State.raise_keeps
    | with_reducible apply State.halt_keeps
    | with_reducible exact id
    | simp only [keeps_mk_iff]
    | with_reducible apply Keeps.upd
    | intro _ _ _
    | refine Keeps.ofFst (by with_reducible assumption) ?_
    | refine Keeps.ofSnd (by with_reducible assumption) ?_
    | dsimp only
    | split)

theorem State.cpGo_keeps {s₀ s : State} (h : Keeps s₀ s) (n : Nat) :
    Keeps s₀ (State.cpGo s n) := by
  unfold State.cpGo
  repeat' (first
    | with_reducible assumption
    | with_reducible apply State.setCp_keeps
    | with_reducible apply State.halt_keeps
    | with_reducible exact id
    | simp only [keeps_mk_iff]
    | with_reducible apply Keeps.upd
    | intro _ _ _
    | refine Keeps.ofFst (by with_reducible assumption) ?_
    | refine Keeps.ofSnd (by with_reducible assumption) ?_
    | dsimp only
    | split)

theorem State.cpStepOne_keeps {s₀ s : State} (h : Keeps s₀ s) (n : Nat) :
    Keeps s₀ (State.cpStepOne s n) := by
  unfold State.cpStepOne
  repeat' (first
    | with_reducible assumption
    | with_reducible apply State.setCp_keeps
    | with_reducible apply State.draw_keeps
    | with_reducible apply State.halt_keeps
    | with_reducible apply State.cpStop_keeps
    | with_reducible exact id
    | simp only [keeps_mk_iff]
    | with_reducible apply Keeps.upd
    | intro _ _ _
    | refine Keeps.ofFst (by with_reducible assumption) ?_
    | refine Keeps.ofSnd (by with_reducible assumption) ?_
    | dsimp only
    | split)

theorem State.writeCpCtrl_keeps {s₀ s : State} (h : Keeps s₀ s) (v : Nat) :
    Keeps s₀ (State.writeCpCtrl s v) := by
  unfold State.writeCpCtrl
  repeat' (first
    | with_reducible assumption
    | with_reducible apply State.draw_keeps
    | with_reducible apply State.halt_keeps
    | with_reducible apply State.cpStop_keeps
    | with_reducible apply State.cpGo_keeps
    | with_reducible apply State.cpStepOne_keeps
    | with_reducible exact id
    | simp only [keeps_mk_iff]
    | with_reducible apply Keeps.upd
    | intro _ _ _
    | refine Keeps.ofFst (by with_reducible assumption) ?_
    | refine Keeps.ofSnd (by with_reducible assumption) ?_
    | dsimp only
    | split)

theorem State.writeCpBp_keeps {s₀ s : State} (h : Keeps s₀ s) (i : Nat) (v : Nat) :
    Keeps s₀ (State.writeCpBp s i v) := by
  unfold State.writeCpBp
  repeat' (first
    | with_reducible assumption
    | with_reducible apply State.setCp_keeps
    | with_reducible exact id
    | simp only [keeps_mk_iff]
    | with_reducible apply Keeps.upd
    | intro _ _ _
    | refine Keeps.ofFst (by with_reducible assumption) ?_
    | refine Keeps.ofSnd (by with_reducible assumption) ?_
    | dsimp only
    | split)

theorem State.wlResume_keeps {s₀ s : State} (h : Keeps s₀ s) (n : Nat) :
    Keeps s₀ (State.wlResume s n) := by
  unfold State.wlResume
  repeat' (first
    | with_reducible assumption
    | with_reducible apply State.setQueue_keeps
    | with_reducible apply State.setWl_keeps
    | with_reducible apply State.start_keeps
    | with_reducible exact id
    | simp only [keeps_mk_iff]
    | with_reducible apply Keeps.upd
    | intro _ _ _
    | refine Keeps.ofFst (by with_reducible assumption) ?_
    | refine Keeps.ofSnd (by with_reducible assumption) ?_
    | dsimp only
    | split)

theorem State.writeWlBp_keeps {s₀ s : State} (h : Keeps s₀ s) (n : Nat) (v : Nat) :
    Keeps s₀ (State.writeWlBp s n v) := by
  unfold State.writeWlBp
  repeat' (first
    | with_reducible assumption
    | with_reducible apply State.setWl_keeps
    | with_reducible apply State.wlResume_keeps
    | with_reducible exact id
    | simp only [keeps_mk_iff]
    | with_reducible apply Keeps.upd
    | intro _ _ _
    | refine Keeps.ofFst (by with_reducible assumption) ?_
    | refine Keeps.ofSnd (by with_reducible assumption) ?_
    | dsimp only
    | split)

theorem State.writeWlTag_keeps {s₀ s : State} (h : Keeps s₀ s) (n : Nat) (v : Nat) :
    Keeps s₀ (State.writeWlTag s n v) := by
  unfold State.writeWlTag
  repeat' (first
    | with_reducible assumption
    | with_reducible apply State.setWl_keeps
    | with_reducible exact id
    | simp only [keeps_mk_iff]
    | with_reducible apply Keeps.upd
    | intro _ _ _
    | refine Keeps.ofFst (by with_reducible assumption) ?_
    | refine Keeps.ofSnd (by with_reducible assumption) ?_
    | dsimp only
    | split)

theorem State.viewRead_keeps {s₀ s : State} (h : Keeps s₀ s) :
    Keeps s₀ (State.viewRead s) := by
  unfold State.viewRead
  repeat' (first
    | with_reducible assumption
    | with_reducible apply State.view_keeps
    | with_reducible apply State.poison_keeps
    | with_reducible apply State.replay_keeps
    | with_reducible exact id
    | simp only [keeps_mk_iff]
    | with_reducible apply Keeps.upd
    | intro _ _ _
    | refine Keeps.ofFst (by with_reducible assumption) ?_
    | refine Keeps.ofSnd (by with_reducible assumption) ?_
    | dsimp only
    | split)

theorem State.viewWrite_keeps {s₀ s : State} (h : Keeps s₀ s) :
    Keeps s₀ (State.viewWrite s) := by
  unfold State.viewWrite
  repeat' (first
    | with_reducible assumption
    | with_reducible apply State.setLine_keeps
    | with_reducible apply State.poison_keeps
    | with_reducible apply State.holdWrite_keeps
    | with_reducible apply State.replay_keeps
    | with_reducible exact id
    | simp only [keeps_mk_iff]
    | with_reducible apply Keeps.upd
    | intro _ _ _
    | refine Keeps.ofFst (by with_reducible assumption) ?_
    | refine Keeps.ofSnd (by with_reducible assumption) ?_
    | dsimp only
    | split)

theorem State.writeFvCtrl_keeps {s₀ s : State} (h : Keeps s₀ s) (v : Nat) :
    Keeps s₀ (State.writeFvCtrl s v) := by
  unfold State.writeFvCtrl
  repeat' (first
    | with_reducible assumption
    | with_reducible apply State.viewRead_keeps
    | with_reducible apply State.viewWrite_keeps
    | with_reducible exact id
    | simp only [keeps_mk_iff]
    | with_reducible apply Keeps.upd
    | intro _ _ _
    | refine Keeps.ofFst (by with_reducible assumption) ?_
    | refine Keeps.ofSnd (by with_reducible assumption) ?_
    | dsimp only
    | split)

theorem State.writeFvData_keeps {s₀ s : State} (h : Keeps s₀ s) (n : Nat) (v : Nat) :
    Keeps s₀ (State.writeFvData s n v) := by
  unfold State.writeFvData
  repeat' (first
    | with_reducible assumption
    | with_reducible exact id
    | simp only [keeps_mk_iff]
    | with_reducible apply Keeps.upd
    | intro _ _ _
    | refine Keeps.ofFst (by with_reducible assumption) ?_
    | refine Keeps.ofSnd (by with_reducible assumption) ?_
    | dsimp only
    | split)

theorem State.applyForce_keeps {s₀ s : State} (h : Keeps s₀ s) :
    Keeps s₀ (State.applyForce s) := by
  unfold State.applyForce
  repeat' (first
    | with_reducible assumption
    | with_reducible apply State.setRegion_keeps
    | with_reducible exact id
    | simp only [keeps_mk_iff]
    | with_reducible apply Keeps.upd
    | intro _ _ _
    | refine Keeps.ofFst (by with_reducible assumption) ?_
    | refine Keeps.ofSnd (by with_reducible assumption) ?_
    | dsimp only
    | split)

theorem State.writePtArm_keeps {s₀ s : State} (h : Keeps s₀ s) (v : Nat) :
    Keeps s₀ (State.writePtArm s v) := by
  unfold State.writePtArm
  repeat' (first
    | with_reducible assumption
    | with_reducible apply State.attach_keeps
    | with_reducible apply State.applyForce_keeps
    | with_reducible exact id
    | simp only [keeps_mk_iff]
    | with_reducible apply Keeps.upd
    | intro _ _ _
    | refine Keeps.ofFst (by with_reducible assumption) ?_
    | refine Keeps.ofSnd (by with_reducible assumption) ?_
    | dsimp only
    | split)

theorem State.writePtPort_keeps {s₀ s : State} (h : Keeps s₀ s) (v : Nat) :
    Keeps s₀ (State.writePtPort s v) := by
  unfold State.writePtPort
  repeat' (first
    | with_reducible assumption
    | with_reducible exact id
    | simp only [keeps_mk_iff]
    | with_reducible apply Keeps.upd
    | intro _ _ _
    | refine Keeps.ofFst (by with_reducible assumption) ?_
    | refine Keeps.ofSnd (by with_reducible assumption) ?_
    | dsimp only
    | split)

theorem State.writePtMem_keeps {s₀ s : State} (h : Keeps s₀ s) (v : Nat) :
    Keeps s₀ (State.writePtMem s v) := by
  unfold State.writePtMem
  repeat' (first
    | with_reducible assumption
    | with_reducible exact id
    | simp only [keeps_mk_iff]
    | with_reducible apply Keeps.upd
    | intro _ _ _
    | refine Keeps.ofFst (by with_reducible assumption) ?_
    | refine Keeps.ofSnd (by with_reducible assumption) ?_
    | dsimp only
    | split)

theorem State.writePtShrink_keeps {s₀ s : State} (h : Keeps s₀ s) (v : Nat) :
    Keeps s₀ (State.writePtShrink s v) := by
  unfold State.writePtShrink
  repeat' (first
    | with_reducible assumption
    | with_reducible exact id
    | simp only [keeps_mk_iff]
    | with_reducible apply Keeps.upd
    | intro _ _ _
    | refine Keeps.ofFst (by with_reducible assumption) ?_
    | refine Keeps.ofSnd (by with_reducible assumption) ?_
    | dsimp only
    | split)

theorem State.writePtVec_keeps {s₀ s : State} (h : Keeps s₀ s) (v : Nat) :
    Keeps s₀ (State.writePtVec s v) := by
  unfold State.writePtVec
  repeat' (first
    | with_reducible assumption
    | with_reducible exact id
    | simp only [keeps_mk_iff]
    | with_reducible apply Keeps.upd
    | intro _ _ _
    | refine Keeps.ofFst (by with_reducible assumption) ?_
    | refine Keeps.ofSnd (by with_reducible assumption) ?_
    | dsimp only
    | split)

theorem State.writePtClock_keeps {s₀ s : State} (h : Keeps s₀ s) (v : Nat) :
    Keeps s₀ (State.writePtClock s v) := by
  unfold State.writePtClock
  repeat' (first
    | with_reducible assumption
    | with_reducible apply State.applyForce_keeps
    | with_reducible exact id
    | simp only [keeps_mk_iff]
    | with_reducible apply Keeps.upd
    | intro _ _ _
    | refine Keeps.ofFst (by with_reducible assumption) ?_
    | refine Keeps.ofSnd (by with_reducible assumption) ?_
    | dsimp only
    | split)

theorem State.writePcCfg_keeps {s₀ s : State} (h : Keeps s₀ s) (v : Nat) :
    Keeps s₀ (State.writePcCfg s v) := by
  unfold State.writePcCfg
  repeat' (first
    | with_reducible assumption
    | with_reducible exact id
    | simp only [keeps_mk_iff]
    | with_reducible apply Keeps.upd
    | intro _ _ _
    | refine Keeps.ofFst (by with_reducible assumption) ?_
    | refine Keeps.ofSnd (by with_reducible assumption) ?_
    | dsimp only
    | split)

theorem State.writePcTag_keeps {s₀ s : State} (h : Keeps s₀ s) (v : Nat) :
    Keeps s₀ (State.writePcTag s v) := by
  unfold State.writePcTag
  repeat' (first
    | with_reducible assumption
    | with_reducible exact id
    | simp only [keeps_mk_iff]
    | with_reducible apply Keeps.upd
    | intro _ _ _
    | refine Keeps.ofFst (by with_reducible assumption) ?_
    | refine Keeps.ofSnd (by with_reducible assumption) ?_
    | dsimp only
    | split)

theorem State.writePcCtrl_keeps {s₀ s : State} (h : Keeps s₀ s) (v : Nat) :
    Keeps s₀ (State.writePcCtrl s v) := by
  unfold State.writePcCtrl
  repeat' (first
    | with_reducible assumption
    | with_reducible exact id
    | simp only [keeps_mk_iff]
    | with_reducible apply Keeps.upd
    | intro _ _ _
    | refine Keeps.ofFst (by with_reducible assumption) ?_
    | refine Keeps.ofSnd (by with_reducible assumption) ?_
    | dsimp only
    | split)

end Sys2Proof.Machine
end

