-- ==== Sys2Proof/Laws/PageKeep.lean ====
section
/-! SUPPORT. Every operation of Pages, Registers, Oliastor, DebugPort keeps what no operation undoes. -/

namespace Sys2Proof.Machine

theorem State.observe_keeps {s₀ s : State} (h : Keeps s₀ s) (i : Nat) (off : Nat) :
    Keeps s₀ (State.observe s i off) := by
  unfold State.observe
  repeat' (first
    | with_reducible assumption
    | with_reducible apply State.setCore_keeps
    | with_reducible apply State.setPort_keeps
    | with_reducible apply State.modHdr_keeps
    | with_reducible apply State.setRail_keeps
    | with_reducible apply State.draw_keeps
    | with_reducible apply State.perf_keeps
    | with_reducible exact id
    | simp only [keeps_mk_iff]
    | with_reducible apply Keeps.upd
    | intro _ _ _
    | refine Keeps.ofFst (by with_reducible assumption) ?_
    | refine Keeps.ofSnd (by with_reducible assumption) ?_
    | dsimp only
    | split)

theorem State.readReg_keeps {s₀ s : State} (h : Keeps s₀ s) (i : Nat) (off : Nat) :
    Keeps s₀ (State.readReg s i off).2 := by
  unfold State.readReg
  repeat' (first
    | with_reducible assumption
    | with_reducible apply State.draw_keeps
    | with_reducible apply State.observe_keeps
    | with_reducible exact id
    | simp only [keeps_mk_iff]
    | with_reducible apply Keeps.upd
    | intro _ _ _
    | refine Keeps.ofFst (by with_reducible assumption) ?_
    | refine Keeps.ofSnd (by with_reducible assumption) ?_
    | dsimp only
    | split)

theorem State.hostRead_keeps {s₀ s : State} (h : Keeps s₀ s) (fn : Nat) (i : Nat) (off : Nat) :
    Keeps s₀ (State.hostRead s fn i off).2 := by
  unfold State.hostRead
  repeat' (first
    | with_reducible assumption
    | with_reducible apply State.access_keeps
    | with_reducible apply State.readReg_keeps
    | with_reducible exact id
    | simp only [keeps_mk_iff]
    | with_reducible apply Keeps.upd
    | intro _ _ _
    | refine Keeps.ofFst (by with_reducible assumption) ?_
    | refine Keeps.ofSnd (by with_reducible assumption) ?_
    | dsimp only
    | split)

theorem State.writeBlkCtrl_keeps {s₀ s : State} (h : Keeps s₀ s) (i : Nat) (v : Nat) :
    Keeps s₀ (State.writeBlkCtrl s i v) := by
  unfold State.writeBlkCtrl
  repeat' (first
    | with_reducible assumption
    | with_reducible apply State.engineStart_keeps
    | with_reducible apply State.setDrain_keeps
    | with_reducible apply State.sweepAfterReset_keeps
    | with_reducible exact id
    | simp only [keeps_mk_iff]
    | with_reducible apply Keeps.upd
    | intro _ _ _
    | refine Keeps.ofFst (by with_reducible assumption) ?_
    | refine Keeps.ofSnd (by with_reducible assumption) ?_
    | dsimp only
    | split)

theorem State.clearErr_keeps {s₀ s : State} (h : Keeps s₀ s) (i : Nat) (v : Nat) :
    Keeps s₀ (State.clearErr s i v) := by
  unfold State.clearErr
  repeat' (first
    | with_reducible assumption
    | with_reducible apply State.modHdr_keeps
    | with_reducible exact id
    | simp only [keeps_mk_iff]
    | with_reducible apply Keeps.upd
    | intro _ _ _
    | refine Keeps.ofFst (by with_reducible assumption) ?_
    | refine Keeps.ofSnd (by with_reducible assumption) ?_
    | dsimp only
    | split)

theorem State.writeHdr_keeps {s₀ s : State} (h : Keeps s₀ s) (i : Nat) (off : Nat) (v : Nat) :
    Keeps s₀ (State.writeHdr s i off v) := by
  unfold State.writeHdr
  repeat' (first
    | with_reducible assumption
    | with_reducible apply State.modHdr_keeps
    | with_reducible apply State.raise_keeps
    | with_reducible apply State.setEn_keeps
    | with_reducible apply State.clearStat_keeps
    | with_reducible apply State.writeBlkCtrl_keeps
    | with_reducible apply State.clearErr_keeps
    | with_reducible exact id
    | simp only [keeps_mk_iff]
    | with_reducible apply Keeps.upd
    | intro _ _ _
    | refine Keeps.ofFst (by with_reducible assumption) ?_
    | refine Keeps.ofSnd (by with_reducible assumption) ?_
    | dsimp only
    | split)

theorem State.stageLo_keeps {s₀ s : State} (h : Keeps s₀ s) (fn : Nat) (i : Nat) (off : Nat) (v : Nat) :
    Keeps s₀ (State.stageLo s fn i off v) := by
  unfold State.stageLo
  repeat' (first
    | with_reducible assumption
    | with_reducible exact id
    | simp only [keeps_mk_iff]
    | with_reducible apply Keeps.upd
    | intro _ _ _
    | refine Keeps.ofFst (by with_reducible assumption) ?_
    | refine Keeps.ofSnd (by with_reducible assumption) ?_
    | dsimp only
    | split)

theorem State.takeLo_keeps {s₀ s : State} (h : Keeps s₀ s) (fn : Nat) (i : Nat) (off : Nat) (cur : Nat) (v : Nat) :
    Keeps s₀ (State.takeLo s fn i off cur v).2 := by
  unfold State.takeLo
  repeat' (first
    | with_reducible assumption
    | with_reducible exact id
    | simp only [keeps_mk_iff]
    | with_reducible apply Keeps.upd
    | intro _ _ _
    | refine Keeps.ofFst (by with_reducible assumption) ?_
    | refine Keeps.ofSnd (by with_reducible assumption) ?_
    | dsimp only
    | split)

theorem State.writeCore_keeps {s₀ s : State} (h : Keeps s₀ s) (c : Nat) (off : Nat) (v : Nat) :
    Keeps s₀ (State.writeCore s c off v) := by
  unfold State.writeCore
  repeat' (first
    | with_reducible assumption
    | with_reducible apply State.writeCoreCtrl_keeps
    | with_reducible apply State.clearFtq_keeps
    | with_reducible exact id
    | simp only [keeps_mk_iff]
    | with_reducible apply Keeps.upd
    | intro _ _ _
    | refine Keeps.ofFst (by with_reducible assumption) ?_
    | refine Keeps.ofSnd (by with_reducible assumption) ?_
    | dsimp only
    | split)

theorem State.writeMc_keeps {s₀ s : State} (h : Keeps s₀ s) (k : Nat) (off : Nat) (v : Nat) :
    Keeps s₀ (State.writeMc s k off v) := by
  unfold State.writeMc
  repeat' (first
    | with_reducible assumption
    | with_reducible apply State.setMc_keeps
    | with_reducible exact id
    | simp only [keeps_mk_iff]
    | with_reducible apply Keeps.upd
    | intro _ _ _
    | refine Keeps.ofFst (by with_reducible assumption) ?_
    | refine Keeps.ofSnd (by with_reducible assumption) ?_
    | dsimp only
    | split)

theorem State.writePlace_keeps {s₀ s : State} (h : Keeps s₀ s) (off : Nat) (v : Nat) :
    Keeps s₀ (State.writePlace s off v) := by
  unfold State.writePlace
  repeat' (first
    | with_reducible assumption
    | with_reducible apply State.honourPins_keeps
    | with_reducible apply State.grantSeqs_keeps
    | with_reducible apply State.writeStallMax_keeps
    | with_reducible exact id
    | simp only [keeps_mk_iff]
    | with_reducible apply Keeps.upd
    | ((with_reducible apply Keeps.updMem) <;> first | with_reducible exact Mem.wf_same rfl rfl rfl rfl rfl rfl | with_reducible exact Mem.evict_keeps _ _ | with_reducible exact Mem.evicts_keep _ _ | with_reducible exact Mem.wf_cells _ _ | with_reducible exact Mem.wf_frames _ _ | exact fun h => Mem.wf_same rfl rfl rfl rfl rfl rfl (Mem.wf_frames _ _ h) | with_reducible exact Mem.wf_lines _ _ | with_reducible exact Mem.wf_blocks _ _ | with_reducible exact Mem.wf_fver _ _ | with_reducible exact Mem.wf_host _ _ | skip)
    | intro _ _ _
    | refine Keeps.ofFst (by with_reducible assumption) ?_
    | refine Keeps.ofSnd (by with_reducible assumption) ?_
    | dsimp only
    | split)

theorem State.writeMmu_keeps {s₀ s : State} (h : Keeps s₀ s) (off : Nat) (v : Nat) :
    Keeps s₀ (State.writeMmu s off v) := by
  unfold State.writeMmu
  repeat' (first
    | with_reducible assumption
    | with_reducible apply State.writeScrub_keeps
    | with_reducible exact id
    | simp only [keeps_mk_iff]
    | with_reducible apply Keeps.upd
    | ((with_reducible apply Keeps.updMem) <;> first | with_reducible exact Mem.wf_same rfl rfl rfl rfl rfl rfl | with_reducible exact Mem.evict_keeps _ _ | with_reducible exact Mem.evicts_keep _ _ | with_reducible exact Mem.wf_cells _ _ | with_reducible exact Mem.wf_frames _ _ | exact fun h => Mem.wf_same rfl rfl rfl rfl rfl rfl (Mem.wf_frames _ _ h) | with_reducible exact Mem.wf_lines _ _ | with_reducible exact Mem.wf_blocks _ _ | with_reducible exact Mem.wf_fver _ _ | with_reducible exact Mem.wf_host _ _ | skip)
    | intro _ _ _
    | refine Keeps.ofFst (by with_reducible assumption) ?_
    | refine Keeps.ofSnd (by with_reducible assumption) ?_
    | dsimp only
    | split)

theorem State.writeCtxCtrl_keeps {s₀ s : State} (h : Keeps s₀ s) (fn : Nat) (c : Nat) (v : Nat) :
    Keeps s₀ (State.writeCtxCtrl s fn c v) := by
  unfold State.writeCtxCtrl
  repeat' (first
    | with_reducible assumption
    | with_reducible apply State.ctlCreate_keeps
    | with_reducible apply State.ctlQuench_keeps
    | with_reducible apply State.ctlRelease_keeps
    | with_reducible apply State.ctlDrain_keeps
    | with_reducible exact id
    | intro _ _ _
    | refine Keeps.ofFst (by with_reducible assumption) ?_
    | refine Keeps.ofSnd (by with_reducible assumption) ?_
    | dsimp only
    | split)

theorem State.writeQbase_keeps {s₀ s : State} (h : Keeps s₀ s) (c : Nat) (v : Nat) :
    Keeps s₀ (State.writeQbase s c v) := by
  unfold State.writeQbase
  repeat' (first
    | with_reducible assumption
    | with_reducible apply State.setQueue_keeps
    | with_reducible exact id
    | simp only [keeps_mk_iff]
    | with_reducible apply Keeps.upd
    | intro _ _ _
    | refine Keeps.ofFst (by with_reducible assumption) ?_
    | refine Keeps.ofSnd (by with_reducible assumption) ?_
    | dsimp only
    | split)

theorem State.writeCtx_keeps {s₀ s : State} (h : Keeps s₀ s) (fn : Nat) (c : Nat) (off : Nat) (v : Nat) :
    Keeps s₀ (State.writeCtx s fn c off v) := by
  unfold State.writeCtx
  repeat' (first
    | with_reducible assumption
    | with_reducible apply State.modCtx_keeps
    | with_reducible apply State.writeQcfg_keeps
    | with_reducible apply State.writeHostMode_keeps
    | with_reducible apply State.writeResume_keeps
    | with_reducible apply State.writeFaultCons_keeps
    | with_reducible apply State.writeInval_keeps
    | with_reducible apply State.stageLo_keeps
    | with_reducible apply State.takeLo_keeps
    | with_reducible apply State.writeQbase_keeps
    | with_reducible exact id
    | simp only [keeps_mk_iff]
    | with_reducible apply Keeps.upd
    | intro _ _ _
    | refine Keeps.ofFst (by with_reducible assumption) ?_
    | refine Keeps.ofSnd (by with_reducible assumption) ?_
    | dsimp only
    | split)

theorem State.setLaneOff_keeps {s₀ s : State} (h : Keeps s₀ s) (q : Nat) (m : Nat) :
    Keeps s₀ (State.setLaneOff s q m) := by
  unfold State.setLaneOff
  repeat' (first
    | with_reducible assumption
    | with_reducible apply State.setPort_keeps
    | with_reducible apply State.announceLanes_keeps
    | with_reducible exact id
    | simp only [keeps_mk_iff]
    | with_reducible apply Keeps.upd
    | with_reducible apply Keeps.foldl
    | with_reducible apply Keeps.foldlFst
    | intro _ _ _
    | refine Keeps.ofFst (by with_reducible assumption) ?_
    | refine Keeps.ofSnd (by with_reducible assumption) ?_
    | dsimp only
    | split)

theorem State.requestRecal_keeps {s₀ s : State} (h : Keeps s₀ s) (q : Nat) :
    Keeps s₀ (State.requestRecal s q) := by
  unfold State.requestRecal
  repeat' (first
    | with_reducible assumption
    | with_reducible apply State.setPort_keeps
    | with_reducible apply State.askRecal_keeps
    | with_reducible exact id
    | simp only [keeps_mk_iff]
    | with_reducible apply Keeps.upd
    | intro _ _ _
    | refine Keeps.ofFst (by with_reducible assumption) ?_
    | refine Keeps.ofSnd (by with_reducible assumption) ?_
    | dsimp only
    | split)

theorem State.enablePort_keeps {s₀ s : State} (h : Keeps s₀ s) (q : Nat) (on : Bool) :
    Keeps s₀ (State.enablePort s q on) := by
  unfold State.enablePort
  repeat' (first
    | with_reducible assumption
    | with_reducible apply State.modPort_keeps
    | with_reducible apply State.portDown_keeps
    | with_reducible exact id
    | simp only [keeps_mk_iff]
    | with_reducible apply Keeps.upd
    | intro _ _ _
    | refine Keeps.ofFst (by with_reducible assumption) ?_
    | refine Keeps.ofSnd (by with_reducible assumption) ?_
    | dsimp only
    | split)

theorem State.writePortCtrl_keeps {s₀ s : State} (h : Keeps s₀ s) (q : Nat) (v : Nat) :
    Keeps s₀ (State.writePortCtrl s q v) := by
  unfold State.writePortCtrl
  repeat' (first
    | with_reducible assumption
    | with_reducible apply State.modPort_keeps
    | with_reducible apply State.setLaneOff_keeps
    | with_reducible apply State.requestRecal_keeps
    | with_reducible apply State.enablePort_keeps
    | with_reducible exact id
    | simp only [keeps_mk_iff]
    | with_reducible apply Keeps.upd
    | intro _ _ _
    | refine Keeps.ofFst (by with_reducible assumption) ?_
    | refine Keeps.ofSnd (by with_reducible assumption) ?_
    | dsimp only
    | split)

theorem State.writePort_keeps {s₀ s : State} (h : Keeps s₀ s) (q : Nat) (off : Nat) (v : Nat) :
    Keeps s₀ (State.writePort s q off v) := by
  unfold State.writePort
  repeat' (first
    | with_reducible assumption
    | with_reducible apply State.modPort_keeps
    | with_reducible apply State.writePortCtrl_keeps
    | with_reducible exact id
    | simp only [keeps_mk_iff]
    | with_reducible apply Keeps.upd
    | intro _ _ _
    | refine Keeps.ofFst (by with_reducible assumption) ?_
    | refine Keeps.ofSnd (by with_reducible assumption) ?_
    | dsimp only
    | split)

theorem State.writeHostif_keeps {s₀ s : State} (h : Keeps s₀ s) (off : Nat) (v : Nat) :
    Keeps s₀ (State.writeHostif s off v) := by
  unfold State.writeHostif
  repeat' (first
    | with_reducible assumption
    | with_reducible exact id
    | simp only [keeps_mk_iff]
    | with_reducible apply Keeps.upd
    | intro _ _ _
    | refine Keeps.ofFst (by with_reducible assumption) ?_
    | refine Keeps.ofSnd (by with_reducible assumption) ?_
    | dsimp only
    | split)

theorem State.writeMemcrypt_keeps {s₀ s : State} (h : Keeps s₀ s) (off : Nat) (v : Nat) :
    Keeps s₀ (State.writeMemcrypt s off v) := by
  unfold State.writeMemcrypt
  repeat' (first
    | with_reducible assumption
    | with_reducible apply State.writeAnnealReq_keeps
    | with_reducible exact id
    | simp only [keeps_mk_iff]
    | with_reducible apply Keeps.upd
    | ((with_reducible apply Keeps.updMem) <;> first | with_reducible exact Mem.wf_same rfl rfl rfl rfl rfl rfl | with_reducible exact Mem.evict_keeps _ _ | with_reducible exact Mem.evicts_keep _ _ | with_reducible exact Mem.wf_cells _ _ | with_reducible exact Mem.wf_frames _ _ | exact fun h => Mem.wf_same rfl rfl rfl rfl rfl rfl (Mem.wf_frames _ _ h) | with_reducible exact Mem.wf_lines _ _ | with_reducible exact Mem.wf_blocks _ _ | with_reducible exact Mem.wf_fver _ _ | with_reducible exact Mem.wf_host _ _ | skip)
    | intro _ _ _
    | refine Keeps.ofFst (by with_reducible assumption) ?_
    | refine Keeps.ofSnd (by with_reducible assumption) ?_
    | dsimp only
    | split)

theorem State.writeStrictLimit_keeps {s₀ s : State} (h : Keeps s₀ s) (v : Nat) :
    Keeps s₀ (State.writeStrictLimit s v) := by
  unfold State.writeStrictLimit
  repeat' (first
    | with_reducible assumption
    | with_reducible apply State.withReloads_keeps
    | with_reducible exact id
    | simp only [keeps_mk_iff]
    | with_reducible apply Keeps.upd
    | intro _ _ _
    | refine Keeps.ofFst (by with_reducible assumption) ?_
    | refine Keeps.ofSnd (by with_reducible assumption) ?_
    | dsimp only
    | split)

theorem State.writeSched_keeps {s₀ s : State} (h : Keeps s₀ s) (off : Nat) (v : Nat) :
    Keeps s₀ (State.writeSched s off v) := by
  unfold State.writeSched
  repeat' (first
    | with_reducible assumption
    | with_reducible apply State.regrid_keeps
    | with_reducible apply State.writeReload_keeps
    | with_reducible apply State.writeStrictLimit_keeps
    | with_reducible exact id
    | simp only [keeps_mk_iff]
    | with_reducible apply Keeps.upd
    | intro _ _ _
    | refine Keeps.ofFst (by with_reducible assumption) ?_
    | refine Keeps.ofSnd (by with_reducible assumption) ?_
    | dsimp only
    | split)

theorem State.writeAssayCtrl_keeps {s₀ s : State} (h : Keeps s₀ s) (v : Nat) :
    Keeps s₀ (State.writeAssayCtrl s v) := by
  unfold State.writeAssayCtrl
  repeat' (first
    | with_reducible assumption
    | with_reducible exact id
    | simp only [keeps_mk_iff]
    | with_reducible apply Keeps.upd
    | intro _ _ _
    | refine Keeps.ofFst (by with_reducible assumption) ?_
    | refine Keeps.ofSnd (by with_reducible assumption) ?_
    | dsimp only
    | split)

theorem State.writeNumeric_keeps {s₀ s : State} (h : Keeps s₀ s) (off : Nat) (v : Nat) :
    Keeps s₀ (State.writeNumeric s off v) := by
  unfold State.writeNumeric
  repeat' (first
    | with_reducible assumption
    | with_reducible apply State.writeAssayCtrl_keeps
    | with_reducible exact id
    | simp only [keeps_mk_iff]
    | with_reducible apply Keeps.upd
    | intro _ _ _
    | refine Keeps.ofFst (by with_reducible assumption) ?_
    | refine Keeps.ofSnd (by with_reducible assumption) ?_
    | dsimp only
    | split)

theorem State.writeRas_keeps {s₀ s : State} (h : Keeps s₀ s) (off : Nat) (v : Nat) :
    Keeps s₀ (State.writeRas s off v) := by
  unfold State.writeRas
  repeat' (first
    | with_reducible assumption
    | with_reducible apply State.writeSelftest_keeps
    | with_reducible apply State.writeResetCtrl_keeps
    | with_reducible exact id
    | simp only [keeps_mk_iff]
    | with_reducible apply Keeps.upd
    | intro _ _ _
    | refine Keeps.ofFst (by with_reducible assumption) ?_
    | refine Keeps.ofSnd (by with_reducible assumption) ?_
    | dsimp only
    | split)

theorem State.writePowerLimit_keeps {s₀ s : State} (h : Keeps s₀ s) (v : Nat) :
    Keeps s₀ (State.writePowerLimit s v) := by
  unfold State.writePowerLimit
  repeat' (first
    | with_reducible assumption
    | with_reducible apply State.relimit_keeps
    | with_reducible exact id
    | simp only [keeps_mk_iff]
    | with_reducible apply Keeps.upd
    | intro _ _ _
    | refine Keeps.ofFst (by with_reducible assumption) ?_
    | refine Keeps.ofSnd (by with_reducible assumption) ?_
    | dsimp only
    | split)

theorem State.writePwr_keeps {s₀ s : State} (h : Keeps s₀ s) (off : Nat) (v : Nat) :
    Keeps s₀ (State.writePwr s off v) := by
  unfold State.writePwr
  repeat' (first
    | with_reducible assumption
    | with_reducible apply State.writePowerLimit_keeps
    | with_reducible exact id
    | simp only [keeps_mk_iff]
    | with_reducible apply Keeps.upd
    | intro _ _ _
    | refine Keeps.ofFst (by with_reducible assumption) ?_
    | refine Keeps.ofSnd (by with_reducible assumption) ?_
    | dsimp only
    | split)

theorem State.writePerf_keeps {s₀ s : State} (h : Keeps s₀ s) (off : Nat) (v : Nat) :
    Keeps s₀ (State.writePerf s off v) := by
  unfold State.writePerf
  repeat' (first
    | with_reducible assumption
    | with_reducible apply State.writePcCfg_keeps
    | with_reducible apply State.writePcTag_keeps
    | with_reducible apply State.writePcCtrl_keeps
    | with_reducible exact id
    | simp only [keeps_mk_iff]
    | with_reducible apply Keeps.upd
    | intro _ _ _
    | refine Keeps.ofFst (by with_reducible assumption) ?_
    | refine Keeps.ofSnd (by with_reducible assumption) ?_
    | dsimp only
    | split)

theorem State.writePerturb_keeps {s₀ s : State} (h : Keeps s₀ s) (off : Nat) (v : Nat) :
    Keeps s₀ (State.writePerturb s off v) := by
  unfold State.writePerturb
  repeat' (first
    | with_reducible assumption
    | with_reducible apply State.writePtArm_keeps
    | with_reducible apply State.writePtPort_keeps
    | with_reducible apply State.writePtMem_keeps
    | with_reducible apply State.writePtShrink_keeps
    | with_reducible apply State.writePtVec_keeps
    | with_reducible apply State.writePtClock_keeps
    | with_reducible exact id
    | simp only [keeps_mk_iff]
    | with_reducible apply Keeps.upd
    | intro _ _ _
    | refine Keeps.ofFst (by with_reducible assumption) ?_
    | refine Keeps.ofSnd (by with_reducible assumption) ?_
    | dsimp only
    | split)

theorem State.writeDebug_keeps {s₀ s : State} (h : Keeps s₀ s) (fn : Nat) (off : Nat) (v : Nat) :
    Keeps s₀ (State.writeDebug s fn off v) := by
  unfold State.writeDebug
  repeat' (first
    | with_reducible assumption
    | with_reducible apply State.writeCpCtrl_keeps
    | with_reducible apply State.writeCpBp_keeps
    | with_reducible apply State.writeWlBp_keeps
    | with_reducible apply State.writeWlTag_keeps
    | with_reducible apply State.writeFvCtrl_keeps
    | with_reducible apply State.writeFvData_keeps
    | with_reducible apply State.stageLo_keeps
    | with_reducible apply State.takeLo_keeps
    | with_reducible exact id
    | simp only [keeps_mk_iff]
    | with_reducible apply Keeps.upd
    | intro _ _ _
    | refine Keeps.ofFst (by with_reducible assumption) ?_
    | refine Keeps.ofSnd (by with_reducible assumption) ?_
    | dsimp only
    | split)

theorem State.applyWrite_keeps {s₀ s : State} (h : Keeps s₀ s) (fn : Nat) (i : Nat) (off : Nat) (v : Nat) :
    Keeps s₀ (State.applyWrite s fn i off v) := by
  unfold State.applyWrite
  repeat' (first
    | with_reducible assumption
    | with_reducible apply State.perf_keeps
    | with_reducible apply State.place_keeps
    | with_reducible apply State.writeHdr_keeps
    | with_reducible apply State.writeCore_keeps
    | with_reducible apply State.writeMc_keeps
    | with_reducible apply State.writePlace_keeps
    | with_reducible apply State.writeMmu_keeps
    | with_reducible apply State.writeCtxCtrl_keeps
    | with_reducible apply State.writeCtx_keeps
    | with_reducible apply State.writePort_keeps
    | with_reducible apply State.writeHostif_keeps
    | with_reducible apply State.writeMemcrypt_keeps
    | with_reducible apply State.writeSched_keeps
    | with_reducible apply State.writeNumeric_keeps
    | with_reducible apply State.writeRas_keeps
    | with_reducible apply State.writePwr_keeps
    | with_reducible apply State.writePerf_keeps
    | with_reducible apply State.writePerturb_keeps
    | with_reducible apply State.writeDebug_keeps
    | with_reducible exact id
    | simp only [keeps_mk_iff]
    | with_reducible apply Keeps.upd
    | intro _ _ _
    | refine Keeps.ofFst (by with_reducible assumption) ?_
    | refine Keeps.ofSnd (by with_reducible assumption) ?_
    | dsimp only
    | split)

theorem State.regWrite_keeps {s₀ s : State} (h : Keeps s₀ s) (fn : Nat) (i : Nat) (off : Nat) (v : Nat) :
    Keeps s₀ (State.regWrite s fn i off v) := by
  unfold State.regWrite
  repeat' (first
    | with_reducible assumption
    | with_reducible apply State.access_keeps
    | with_reducible apply State.applyWrite_keeps
    | with_reducible exact id
    | intro _ _ _
    | refine Keeps.ofFst (by with_reducible assumption) ?_
    | refine Keeps.ofSnd (by with_reducible assumption) ?_
    | dsimp only
    | split)

theorem State.serve_keeps {s₀ s : State} {f : State → State} (h : Keeps s₀ s) (m : Call) (a : Allowed)
    (hf : ∀ x, Keeps s₀ x → Keeps s₀ (f x)) : Keeps s₀ (s.serve m a f) := by
  unfold State.serve
  split
  · exact h
  · split
    · exact hf _ h
    · exact State.respond_keeps h _ _

theorem State.readPageFrom_keeps {s₀ s : State} (h : Keeps s₀ s) (i n off : Nat) : Keeps s₀ (s.readPageFrom i n off).2 := by
  induction n generalizing s off with
  | zero => exact h
  | succ n ih => exact ih (State.readReg_keeps h _ _) _

theorem State.mgmtReg_keeps {s₀ s : State} (h : Keeps s₀ s) (k : Nat) (off : Nat) :
    Keeps s₀ (State.mgmtReg s k off).2 := by
  unfold State.mgmtReg
  repeat' (first
    | with_reducible assumption
    | with_reducible apply State.draw_keeps
    | with_reducible exact id
    | intro _ _ _
    | refine Keeps.ofFst (by with_reducible assumption) ?_
    | refine Keeps.ofSnd (by with_reducible assumption) ?_
    | dsimp only
    | split)

theorem State.mgmtPageFrom_keeps {s₀ s : State} (h : Keeps s₀ s) (k n off : Nat) :
    Keeps s₀ (s.mgmtPageFrom k n off).2 := by
  induction n generalizing s off with
  | zero => exact h
  | succ n ih => exact ih (State.mgmtReg_keeps h _ _) _

theorem State.endActivation_keeps {s₀ s : State} (h : Keeps s₀ s) :
    Keeps s₀ (State.endActivation s) := by
  unfold State.endActivation
  repeat' (first
    | with_reducible assumption
    | with_reducible apply State.closeConns_keeps
    | with_reducible apply State.createCtx_keeps
    | with_reducible apply State.answerHeld_keeps
    | with_reducible apply State.resume_keeps
    | with_reducible exact id
    | simp only [keeps_mk_iff]
    | with_reducible apply Keeps.upd
    | with_reducible apply Keeps.foldl
    | with_reducible apply Keeps.foldlFst
    | intro _ _ _
    | refine Keeps.ofFst (by with_reducible assumption) ?_
    | refine Keeps.ofSnd (by with_reducible assumption) ?_
    | dsimp only
    | split)

theorem State.retireNow_keeps {s₀ s : State} (h : Keeps s₀ s) :
    Keeps s₀ (State.retireNow s) := by
  unfold State.retireNow
  exact keeps_mk_iff.2 (h.updAll rfl rfl (Nat.le_refl _) (Mem.wf_same rfl rfl rfl rfl rfl rfl)
    ⟨fun _ _ => ⟨rfl, rfl⟩, id, fun _ _ => .inr rfl⟩)

theorem serviceUp_open {s : State} (h : s.serviceUp = true) :
    s.sec.fuse = false ∧ s.sec.lifecycle ≠ .retired ∧ s.sec.root ≠ none := by
  simp [State.serviceUp, State.live, State.dead] at h
  refine ⟨h.1.1.2.1, h.1.1.2.2, fun e => ?_⟩
  rw [e] at h
  exact absurd h.2 nofun

theorem State.deploy_keeps {s₀ s : State} (h : Keeps s₀ s) (hu : s.serviceUp = true) (m : Call) (anchor : Nat) :
    Keeps s₀ (s.deploy m anchor) := by
  obtain ⟨hf, hr, hn⟩ := serviceUp_open hu
  unfold State.deploy
  dsimp only
  split
  · exact State.waitFresh_keeps (State.owe_keeps h _) _
  · refine State.closeConns_keeps (State.respond_keeps (keeps_mk_iff.2 ((State.secret_keeps h).updSec ?_)) _ _) _
    refine ⟨fun k m => ?_, id, fun _ m => m.elim (fun m => absurd (hf.symm.trans m) nofun) (fun m => absurd m hr)⟩
    rcases m with m | m | m
    · exact absurd (k (.inl m)).1 hn
    · exact absurd (hf.symm.trans m) nofun
    · exact absurd m nofun

theorem State.setLifecycle_keeps {s₀ s : State} (h : Keeps s₀ s) (hu : s.serviceUp = true) (m : Call) (c : Conn)
    (dest : Lifecycle) (anchor : Nat) : Keeps s₀ (s.setLifecycle m c dest anchor) := by
  obtain ⟨hf, hr, hn⟩ := serviceUp_open hu
  unfold State.setLifecycle
  dsimp only
  repeat' (first
    | with_reducible apply State.respond_keeps
    | with_reducible assumption
    | exact State.deploy_keeps h hu _ _
    | exact State.retireNow_keeps h
    | split)
  refine keeps_mk_iff.2 (h.updSec ⟨fun k m => ?_, id, fun _ _ => .inl rfl⟩)
  rcases m with m | m | m
  · exact absurd (k (.inl m)).1 hn
  · exact absurd (hf.symm.trans m) nofun
  · exact absurd m hr

theorem State.notice_keeps {s₀ s : State} (h : Keeps s₀ s) (kind : NoticeKind) (c : Nat) (m : Nat) :
    Keeps s₀ (State.notice s kind c m) := by
  unfold State.notice
  repeat' (first
    | with_reducible assumption
    | with_reducible apply State.resettle_keeps
    | with_reducible apply State.lostPeer_keeps
    | with_reducible exact id
    | simp only [keeps_mk_iff]
    | with_reducible apply Keeps.upd
    | intro _ _ _
    | refine Keeps.ofFst (by with_reducible assumption) ?_
    | refine Keeps.ofSnd (by with_reducible assumption) ?_
    | dsimp only
    | split)

theorem State.noDrive_keeps {s₀ s : State} (h : Keeps s₀ s) :
    Keeps s₀ (State.noDrive s) := by
  unfold State.noDrive
  repeat' (first
    | with_reducible assumption
    | with_reducible exact id
    | simp only [keeps_mk_iff]
    | with_reducible apply Keeps.upd
    | intro _ _ _
    | refine Keeps.ofFst (by with_reducible assumption) ?_
    | refine Keeps.ofSnd (by with_reducible assumption) ?_
    | dsimp only
    | split)

theorem State.sample_keeps {s₀ s : State} (h : Keeps s₀ s) (bits : Nat) :
    Keeps s₀ (State.sample s bits) := by
  unfold State.sample
  repeat' (first
    | with_reducible assumption
    | with_reducible apply State.emit_keeps
    | with_reducible apply State.draw_keeps
    | with_reducible exact id
    | simp only [keeps_mk_iff]
    | with_reducible apply Keeps.upd
    | intro _ _ _
    | refine Keeps.ofFst (by with_reducible assumption) ?_
    | refine Keeps.ofSnd (by with_reducible assumption) ?_
    | dsimp only
    | split)

theorem State.scan_keeps {s₀ s : State} {f : State → (Nat × Nat × Nat) × State} (h : Keeps s₀ s)
    (hf : ∀ x, Keeps s₀ x → Keeps s₀ (f x).2) : Keeps s₀ (s.scan f) := by
  unfold State.scan
  repeat' (first
    | with_reducible assumption
    | with_reducible apply hf
    | with_reducible apply State.emit_keeps
    | with_reducible apply State.noDrive_keeps
    | simp only [keeps_mk_iff]
    | with_reducible apply Keeps.upd
    | dsimp only
    | split)

theorem State.cpWord_keeps {s₀ s : State} (h : Keeps s₀ s) (n : Nat) (a : Nat) :
    Keeps s₀ (State.cpWord s n a).2 := by
  unfold State.cpWord
  repeat' (first
    | with_reducible assumption
    | with_reducible apply State.setCp_keeps
    | with_reducible apply State.draw_keeps
    | with_reducible apply State.halt_keeps
    | with_reducible exact id
    | simp only [keeps_mk_iff]
    | with_reducible apply Keeps.upd
    | intro _ _ _
    | refine Keeps.ofFst (by with_reducible assumption) ?_
    | refine Keeps.ofSnd (by with_reducible assumption) ?_
    | dsimp only
    | split)

theorem State.coreWord_keeps {s₀ s : State} (h : Keeps s₀ s) (c : Nat) :
    Keeps s₀ (State.coreWord s c).2 := by
  unfold State.coreWord
  repeat' (first
    | with_reducible assumption
    | with_reducible apply State.draw_keeps
    | with_reducible exact id
    | intro _ _ _
    | refine Keeps.ofFst (by with_reducible assumption) ?_
    | refine Keeps.ofSnd (by with_reducible assumption) ?_
    | dsimp only
    | split)

theorem State.dalReadAt_keeps {s₀ s : State} (h : Keeps s₀ s) (addr : Nat) :
    Keeps s₀ (State.dalReadAt s addr).2 := by
  unfold State.dalReadAt
  repeat' (first
    | with_reducible assumption
    | with_reducible apply State.hostRead_keeps
    | with_reducible apply State.mgmtReg_keeps
    | with_reducible apply State.cpWord_keeps
    | with_reducible apply State.coreWord_keeps
    | with_reducible exact id
    | simp only [keeps_mk_iff]
    | with_reducible apply Keeps.upd
    | intro _ _ _
    | refine Keeps.ofFst (by with_reducible assumption) ?_
    | refine Keeps.ofSnd (by with_reducible assumption) ?_
    | dsimp only
    | split)

theorem State.dalWriteAt_keeps {s₀ s : State} (h : Keeps s₀ s) (addr : Nat) (data : Nat) :
    Keeps s₀ (State.dalWriteAt s addr data).2 := by
  unfold State.dalWriteAt
  repeat' (first
    | with_reducible assumption
    | with_reducible apply State.setCp_keeps
    | with_reducible apply State.regWrite_keeps
    | with_reducible exact id
    | simp only [keeps_mk_iff]
    | with_reducible apply Keeps.upd
    | intro _ _ _
    | refine Keeps.ofFst (by with_reducible assumption) ?_
    | refine Keeps.ofSnd (by with_reducible assumption) ?_
    | dsimp only
    | split)

theorem State.provision_keeps {s₀ s : State} (h : Keeps s₀ s) :
    Keeps s₀ (State.provision s).2 := by
  unfold State.provision
  split
  · exact h
  · rename_i e
    simp at e
    split
    · exact State.waitFresh_keeps h _
    · refine keeps_mk_iff.2 ((State.secret_keeps h).updSec ⟨fun _ m => ?_, id, fun _ m => ?_⟩)
      · rcases m with m | m | m
        · exact absurd (e.2.symm.trans m) nofun
        · exact absurd (e.1.2.symm.trans m) nofun
        · exact absurd m nofun
      · rcases m with m | m
        · exact absurd (e.1.2.symm.trans m) nofun
        · exact absurd (e.1.1.symm.trans m) nofun

theorem State.retireModule_keeps {s₀ s : State} (h : Keeps s₀ s) :
    Keeps s₀ (State.retireModule s).2 := by
  unfold State.retireModule
  split
  · exact h
  · rename_i hr
    split
    · exact State.retireNow_keeps h
    · rename_i e
      simp at e
      split
      · refine keeps_mk_iff.2 (h.updSec ⟨fun _ m => ?_, id, fun _ _ => .inl rfl⟩)
        rcases m with m | m | m
        · exact absurd (e.1.1.2.symm.trans m) nofun
        · exact absurd (e.1.1.1.symm.trans m) nofun
        · exact absurd m hr
      · exact h

end Sys2Proof.Machine
end

