-- ==== Sys2Proof/Laws/SlotKeep.lean ====
section
/-! SUPPORT. What a quench does to other fields leaves the state and the generation of a slot. -/

namespace Sys2Proof.Machine

/-- The state and the generation of slot `k` are the same. -/
structure SlotKept (k : Nat) (s t : State) : Prop where
  state : (t.ctx k).state = (s.ctx k).state
  gen   : (t.ctx k).gen = (s.ctx k).gen

/-- `SlotKept`, said of the table of contexts. -/
structure SlotParts (k : Nat) (s : State) (m : SMap Ctx) : Prop where
  state : (tget {} m k).state = (s.ctx k).state
  gen   : (tget {} m k).gen = (s.ctx k).gen

theorem SlotKept.refl (k : Nat) (s : State) : SlotKept k s s := ⟨rfl, rfl⟩

theorem slot_mk_iff {k : Nat} {s : State} {ident clk boot pins pcie sec fw mgmt ras pwr lasers ports fab buckets mem mcs ctxs
    cores sched hdrs num test dbg epoch free out pending} :
    SlotKept k s ⟨ident, clk, boot, pins, pcie, sec, fw, mgmt, ras, pwr, lasers, ports, fab, buckets, mem, mcs, ctxs, cores,
      sched, hdrs, num, test, dbg, epoch, free, out, pending⟩ ↔ SlotParts k s ctxs :=
  ⟨fun h => ⟨h.1, h.2⟩, fun h => ⟨h.1, h.2⟩⟩

theorem SlotKept.upd {k : Nat} {s x : State} (h : SlotKept k s x) : SlotParts k s x.ctxs := ⟨h.1, h.2⟩

theorem SlotKept.foldl {α : Type} {k : Nat} {s x : State} {f : State → α → State} {l : List α}
    (hf : ∀ y a, SlotKept k s y → SlotKept k s (f y a)) (h : SlotKept k s x) : SlotKept k s (l.foldl f x) := by
  induction l generalizing x with
  | nil => exact h
  | cons a l ih => exact ih (hf x a h)

theorem SlotKept.foldlFst {α β : Type} {k : Nat} {s : State} {x : State × β} {f : State × β → α → State × β} {l : List α}
    (hf : ∀ (y : State × β) a, SlotKept k s y.1 → SlotKept k s (f y a).1) (h : SlotKept k s x.1) :
    SlotKept k s (l.foldl f x).1 := by
  induction l generalizing x with
  | nil => exact h
  | cons a l ih => exact ih (hf x a h)

theorem SlotKept.ofFst {β : Type} {k : Nat} {s x : State} {y : β} {a : State × β} (e : a = (x, y)) (h : SlotKept k s a.1) :
    SlotKept k s x := by
  subst e
  exact h

theorem SlotKept.ofSnd {β : Type} {k : Nat} {s x : State} {y : β} {a : β × State} (e : a = (y, x)) (h : SlotKept k s a.2) :
    SlotKept k s x := by
  subst e
  exact h

theorem SlotKept.untilStop {α : Type} {k : Nat} {s x : State} {f : State → α → State × Option Acc} {l : List α}
    (hf : ∀ y a, SlotKept k s y → SlotKept k s (f y a).1) (h : SlotKept k s x) :
    SlotKept k s (Sys2Proof.Machine.untilStop f l x).1 := by
  unfold Sys2Proof.Machine.untilStop
  refine SlotKept.foldlFst (fun y a hy => ?_) h
  split
  · exact hy
  · exact hf _ _ hy

theorem State.setCtx_slot {k : Nat} {s₀ s : State} (h : SlotKept k s₀ s) (c : Nat) {x : Ctx}
    (hs : x.state = (s.ctx c).state) (hg : x.gen = (s.ctx c).gen) : SlotKept k s₀ (s.setCtx c x) := by
  by_cases e : k = c
  · subst e
    exact ⟨by rw [ctx_setCtx_same]; exact hs.trans h.1, by rw [ctx_setCtx_same]; exact hg.trans h.2⟩
  · exact ⟨by rw [ctx_setCtx_other _ _ _ _ e]; exact h.1, by rw [ctx_setCtx_other _ _ _ _ e]; exact h.2⟩

theorem Ctx.book_slot (x : Ctx) (n : Nat) (f : Stats → Stats) : (x.book n f).state = x.state ∧ (x.book n f).gen = x.gen := by
  unfold Ctx.book
  split <;> exact ⟨rfl, rfl⟩

theorem State.modCtx_slot {k : Nat} {s₀ s : State} (h : SlotKept k s₀ s) (c : Nat) {f : Ctx → Ctx}
    (hf : ∀ x, (f x).state = x.state ∧ (f x).gen = x.gen) : SlotKept k s₀ (s.modCtx c f) :=
  State.setCtx_slot h c (hf _).1 (hf _).2

theorem State.setCore_slot {n₀ : Nat} {s₀ s : State} (h : SlotKept n₀ s₀ s) (c : Nat) (x : Core) :
    SlotKept n₀ s₀ (State.setCore s c x) := by
  unfold State.setCore
  repeat' (first
    | with_reducible assumption
    | with_reducible exact id
    | simp only [slot_mk_iff]
    | with_reducible apply SlotKept.upd
    | exact fun _ => ⟨rfl, rfl⟩
    | exact fun _ => ⟨trivial, trivial⟩
    | exact fun _ => Ctx.book_slot _ _ _
    | intro _ _ _
    | refine SlotKept.ofFst (by with_reducible assumption) ?_
    | refine SlotKept.ofSnd (by with_reducible assumption) ?_
    | dsimp only
    | split)

theorem State.setPort_slot {n₀ : Nat} {s₀ s : State} (h : SlotKept n₀ s₀ s) (p : Nat) (x : Port) :
    SlotKept n₀ s₀ (State.setPort s p x) := by
  unfold State.setPort
  repeat' (first
    | with_reducible assumption
    | with_reducible exact id
    | simp only [slot_mk_iff]
    | with_reducible apply SlotKept.upd
    | exact fun _ => ⟨rfl, rfl⟩
    | exact fun _ => ⟨trivial, trivial⟩
    | exact fun _ => Ctx.book_slot _ _ _
    | intro _ _ _
    | refine SlotKept.ofFst (by with_reducible assumption) ?_
    | refine SlotKept.ofSnd (by with_reducible assumption) ?_
    | dsimp only
    | split)

theorem State.modPort_slot {n₀ : Nat} {s₀ s : State} (h : SlotKept n₀ s₀ s) (p : Nat) (f : Port → Port) :
    SlotKept n₀ s₀ (State.modPort s p f) := by
  unfold State.modPort
  repeat' (first
    | with_reducible assumption
    | with_reducible apply State.setPort_slot
    | with_reducible exact id
    | exact fun _ => ⟨rfl, rfl⟩
    | exact fun _ => ⟨trivial, trivial⟩
    | exact fun _ => Ctx.book_slot _ _ _
    | intro _ _ _
    | refine SlotKept.ofFst (by with_reducible assumption) ?_
    | refine SlotKept.ofSnd (by with_reducible assumption) ?_
    | dsimp only
    | split)

theorem State.setHdr_slot {n₀ : Nat} {s₀ s : State} (h : SlotKept n₀ s₀ s) (p : Nat) (x : Hdr) :
    SlotKept n₀ s₀ (State.setHdr s p x) := by
  unfold State.setHdr
  repeat' (first
    | with_reducible assumption
    | with_reducible exact id
    | simp only [slot_mk_iff]
    | with_reducible apply SlotKept.upd
    | exact fun _ => ⟨rfl, rfl⟩
    | exact fun _ => ⟨trivial, trivial⟩
    | exact fun _ => Ctx.book_slot _ _ _
    | intro _ _ _
    | refine SlotKept.ofFst (by with_reducible assumption) ?_
    | refine SlotKept.ofSnd (by with_reducible assumption) ?_
    | dsimp only
    | split)

theorem State.modHdr_slot {n₀ : Nat} {s₀ s : State} (h : SlotKept n₀ s₀ s) (p : Nat) (f : Hdr → Hdr) :
    SlotKept n₀ s₀ (State.modHdr s p f) := by
  unfold State.modHdr
  repeat' (first
    | with_reducible assumption
    | with_reducible apply State.setHdr_slot
    | with_reducible exact id
    | exact fun _ => ⟨rfl, rfl⟩
    | exact fun _ => ⟨trivial, trivial⟩
    | exact fun _ => Ctx.book_slot _ _ _
    | intro _ _ _
    | refine SlotKept.ofFst (by with_reducible assumption) ?_
    | refine SlotKept.ofSnd (by with_reducible assumption) ?_
    | dsimp only
    | split)

theorem State.setMc_slot {n₀ : Nat} {s₀ s : State} (h : SlotKept n₀ s₀ s) (i : Nat) (x : Mc) :
    SlotKept n₀ s₀ (State.setMc s i x) := by
  unfold State.setMc
  repeat' (first
    | with_reducible assumption
    | with_reducible exact id
    | simp only [slot_mk_iff]
    | with_reducible apply SlotKept.upd
    | exact fun _ => ⟨rfl, rfl⟩
    | exact fun _ => ⟨trivial, trivial⟩
    | exact fun _ => Ctx.book_slot _ _ _
    | intro _ _ _
    | refine SlotKept.ofFst (by with_reducible assumption) ?_
    | refine SlotKept.ofSnd (by with_reducible assumption) ?_
    | dsimp only
    | split)

theorem State.setQueue_slot {n₀ : Nat} {s₀ s : State} (h : SlotKept n₀ s₀ s) (q : QRef) (y : Queue) :
    SlotKept n₀ s₀ (State.setQueue s q y) := by
  unfold State.setQueue
  repeat' (first
    | with_reducible assumption
    | with_reducible apply State.modCtx_slot
    | with_reducible exact id
    | exact fun _ => ⟨rfl, rfl⟩
    | exact fun _ => ⟨trivial, trivial⟩
    | exact fun _ => Ctx.book_slot _ _ _
    | intro _ _ _
    | refine SlotKept.ofFst (by with_reducible assumption) ?_
    | refine SlotKept.ofSnd (by with_reducible assumption) ?_
    | dsimp only
    | split)

theorem State.modQueue_slot {n₀ : Nat} {s₀ s : State} (h : SlotKept n₀ s₀ s) (q : QRef) (f : Queue → Queue) :
    SlotKept n₀ s₀ (State.modQueue s q f) := by
  unfold State.modQueue
  repeat' (first
    | with_reducible assumption
    | with_reducible apply State.setQueue_slot
    | with_reducible exact id
    | exact fun _ => ⟨rfl, rfl⟩
    | exact fun _ => ⟨trivial, trivial⟩
    | exact fun _ => Ctx.book_slot _ _ _
    | intro _ _ _
    | refine SlotKept.ofFst (by with_reducible assumption) ?_
    | refine SlotKept.ofSnd (by with_reducible assumption) ?_
    | dsimp only
    | split)

theorem State.setWl_slot {n₀ : Nat} {s₀ s : State} (h : SlotKept n₀ s₀ s) (n : Nat) (x : WlBp) :
    SlotKept n₀ s₀ (State.setWl s n x) := by
  unfold State.setWl
  repeat' (first
    | with_reducible assumption
    | with_reducible exact id
    | simp only [slot_mk_iff]
    | with_reducible apply SlotKept.upd
    | exact fun _ => ⟨rfl, rfl⟩
    | exact fun _ => ⟨trivial, trivial⟩
    | exact fun _ => Ctx.book_slot _ _ _
    | intro _ _ _
    | refine SlotKept.ofFst (by with_reducible assumption) ?_
    | refine SlotKept.ofSnd (by with_reducible assumption) ?_
    | dsimp only
    | split)

theorem State.emit_slot {n₀ : Nat} {s₀ s : State} (h : SlotKept n₀ s₀ s) (o : Out) :
    SlotKept n₀ s₀ (State.emit s o) := by
  unfold State.emit
  repeat' (first
    | with_reducible assumption
    | with_reducible exact id
    | simp only [slot_mk_iff]
    | with_reducible apply SlotKept.upd
    | exact fun _ => ⟨rfl, rfl⟩
    | exact fun _ => ⟨trivial, trivial⟩
    | exact fun _ => Ctx.book_slot _ _ _
    | intro _ _ _
    | refine SlotKept.ofFst (by with_reducible assumption) ?_
    | refine SlotKept.ofSnd (by with_reducible assumption) ?_
    | dsimp only
    | split)

theorem State.draw_slot {n₀ : Nat} {s₀ s : State} (h : SlotKept n₀ s₀ s) :
    SlotKept n₀ s₀ (State.draw s).2 := by
  unfold State.draw
  repeat' (first
    | with_reducible assumption
    | with_reducible exact id
    | simp only [slot_mk_iff]
    | with_reducible apply SlotKept.upd
    | exact fun _ => ⟨rfl, rfl⟩
    | exact fun _ => ⟨trivial, trivial⟩
    | exact fun _ => Ctx.book_slot _ _ _
    | intro _ _ _
    | refine SlotKept.ofFst (by with_reducible assumption) ?_
    | refine SlotKept.ofSnd (by with_reducible assumption) ?_
    | dsimp only
    | split)

theorem State.charge_slot {n₀ : Nat} {s₀ s : State} (h : SlotKept n₀ s₀ s) :
    SlotKept n₀ s₀ (State.charge s) := by
  unfold State.charge
  repeat' (first
    | with_reducible assumption
    | with_reducible apply State.modCtx_slot
    | with_reducible exact id
    | simp only [slot_mk_iff]
    | with_reducible apply SlotKept.upd
    | with_reducible apply SlotKept.foldl
    | with_reducible apply SlotKept.foldlFst
    | exact fun _ => ⟨rfl, rfl⟩
    | exact fun _ => ⟨trivial, trivial⟩
    | exact fun _ => Ctx.book_slot _ _ _
    | intro _ _ _
    | refine SlotKept.ofFst (by with_reducible assumption) ?_
    | refine SlotKept.ofSnd (by with_reducible assumption) ?_
    | dsimp only
    | split)

theorem State.slotVector_slot {n₀ : Nat} {s₀ s : State} (h : SlotKept n₀ s₀ s) (c : Nat) (v : Nat) :
    SlotKept n₀ s₀ (State.slotVector s c v) := by
  unfold State.slotVector
  repeat' (first
    | with_reducible assumption
    | with_reducible apply State.emit_slot
    | with_reducible exact id
    | exact fun _ => ⟨rfl, rfl⟩
    | exact fun _ => ⟨trivial, trivial⟩
    | exact fun _ => Ctx.book_slot _ _ _
    | intro _ _ _
    | refine SlotKept.ofFst (by with_reducible assumption) ?_
    | refine SlotKept.ofSnd (by with_reducible assumption) ?_
    | dsimp only
    | split)

theorem State.sendRise_slot {n₀ : Nat} {s₀ s : State} (h : SlotKept n₀ s₀ s) (i : Nat) (old : Nat) (new : Nat) :
    SlotKept n₀ s₀ (State.sendRise s i old new) := by
  unfold State.sendRise
  repeat' (first
    | with_reducible assumption
    | with_reducible apply State.emit_slot
    | with_reducible apply State.slotVector_slot
    | with_reducible exact id
    | simp only [slot_mk_iff]
    | with_reducible apply SlotKept.upd
    | with_reducible apply SlotKept.foldl
    | with_reducible apply SlotKept.foldlFst
    | exact fun _ => ⟨rfl, rfl⟩
    | exact fun _ => ⟨trivial, trivial⟩
    | exact fun _ => Ctx.book_slot _ _ _
    | intro _ _ _
    | refine SlotKept.ofFst (by with_reducible assumption) ?_
    | refine SlotKept.ofSnd (by with_reducible assumption) ?_
    | dsimp only
    | split)

theorem State.raise_slot {n₀ : Nat} {s₀ s : State} (h : SlotKept n₀ s₀ s) (i : Nat) (bits : Nat) :
    SlotKept n₀ s₀ (State.raise s i bits) := by
  unfold State.raise
  repeat' (first
    | with_reducible assumption
    | with_reducible apply State.modHdr_slot
    | with_reducible apply State.sendRise_slot
    | with_reducible exact id
    | simp only [slot_mk_iff]
    | with_reducible apply SlotKept.upd
    | exact fun _ => ⟨rfl, rfl⟩
    | exact fun _ => ⟨trivial, trivial⟩
    | exact fun _ => Ctx.book_slot _ _ _
    | intro _ _ _
    | refine SlotKept.ofFst (by with_reducible assumption) ?_
    | refine SlotKept.ofSnd (by with_reducible assumption) ?_
    | dsimp only
    | split)

theorem State.push_slot {n₀ : Nat} {s₀ s : State} (h : SlotKept n₀ s₀ s) (kind : Nat) (value : Nat) :
    SlotKept n₀ s₀ (State.push s kind value) := by
  unfold State.push
  repeat' (first
    | with_reducible assumption
    | with_reducible apply State.emit_slot
    | with_reducible exact id
    | with_reducible apply SlotKept.foldl
    | with_reducible apply SlotKept.foldlFst
    | exact fun _ => ⟨rfl, rfl⟩
    | exact fun _ => ⟨trivial, trivial⟩
    | exact fun _ => Ctx.book_slot _ _ _
    | intro _ _ _
    | refine SlotKept.ofFst (by with_reducible assumption) ?_
    | refine SlotKept.ofSnd (by with_reducible assumption) ?_
    | dsimp only
    | split)

theorem State.latchErr_slot {n₀ : Nat} {s₀ s : State} (h : SlotKept n₀ s₀ s) (i : Nat) (cls : Nat) (code : Nat) (ctx : Option (Nat × Nat)) (info : Nat) :
    SlotKept n₀ s₀ (State.latchErr s i cls code ctx info) := by
  unfold State.latchErr
  repeat' (first
    | with_reducible assumption
    | with_reducible apply State.modHdr_slot
    | with_reducible exact id
    | simp only [slot_mk_iff]
    | with_reducible apply SlotKept.upd
    | exact fun _ => ⟨rfl, rfl⟩
    | exact fun _ => ⟨trivial, trivial⟩
    | exact fun _ => Ctx.book_slot _ _ _
    | intro _ _ _
    | refine SlotKept.ofFst (by with_reducible assumption) ?_
    | refine SlotKept.ofSnd (by with_reducible assumption) ?_
    | dsimp only
    | split)

theorem State.logRas_slot {n₀ : Nat} {s₀ s : State} (h : SlotKept n₀ s₀ s) (page : Nat) (cls : Nat) (code : Nat) (ctx : Option Nat) (info : Nat) :
    SlotKept n₀ s₀ (State.logRas s page cls code ctx info) := by
  unfold State.logRas
  repeat' (first
    | with_reducible assumption
    | with_reducible apply State.raise_slot
    | with_reducible apply State.push_slot
    | with_reducible apply State.latchErr_slot
    | with_reducible exact id
    | simp only [slot_mk_iff]
    | with_reducible apply SlotKept.upd
    | exact fun _ => ⟨rfl, rfl⟩
    | exact fun _ => ⟨trivial, trivial⟩
    | exact fun _ => Ctx.book_slot _ _ _
    | intro _ _ _
    | refine SlotKept.ofFst (by with_reducible assumption) ?_
    | refine SlotKept.ofSnd (by with_reducible assumption) ?_
    | dsimp only
    | split)

theorem State.perf_slot {n₀ : Nat} {s₀ s : State} (h : SlotKept n₀ s₀ s) (ev : Nat) (slot : Nat) (op : Nat) (tag : Nat) (n : Nat) :
    SlotKept n₀ s₀ (State.perf s ev slot op tag n) := by
  unfold State.perf
  repeat' (first
    | with_reducible assumption
    | with_reducible apply State.raise_slot
    | with_reducible exact id
    | simp only [slot_mk_iff]
    | with_reducible apply SlotKept.upd
    | with_reducible apply SlotKept.foldl
    | with_reducible apply SlotKept.foldlFst
    | exact fun _ => ⟨rfl, rfl⟩
    | exact fun _ => ⟨trivial, trivial⟩
    | exact fun _ => Ctx.book_slot _ _ _
    | intro _ _ _
    | refine SlotKept.ofFst (by with_reducible assumption) ?_
    | refine SlotKept.ofSnd (by with_reducible assumption) ?_
    | dsimp only
    | split)

theorem State.setLine_slot {n₀ : Nat} {s₀ s : State} (h : SlotKept n₀ s₀ s) (ln : Nat) (l : Line) :
    SlotKept n₀ s₀ (State.setLine s ln l) := by
  unfold State.setLine
  repeat' (first
    | with_reducible assumption
    | with_reducible exact id
    | simp only [slot_mk_iff]
    | with_reducible apply SlotKept.upd
    | exact fun _ => ⟨rfl, rfl⟩
    | exact fun _ => ⟨trivial, trivial⟩
    | exact fun _ => Ctx.book_slot _ _ _
    | intro _ _ _
    | refine SlotKept.ofFst (by with_reducible assumption) ?_
    | refine SlotKept.ofSnd (by with_reducible assumption) ?_
    | dsimp only
    | split)

theorem State.bring_slot {n₀ : Nat} {s₀ s : State} (h : SlotKept n₀ s₀ s) (c : Cstr) (dirty : Bool) :
    SlotKept n₀ s₀ (State.bring s c dirty) := by
  unfold State.bring
  repeat' (first
    | with_reducible assumption
    | with_reducible apply State.draw_slot
    | with_reducible exact id
    | simp only [slot_mk_iff]
    | with_reducible apply SlotKept.upd
    | exact fun _ => ⟨rfl, rfl⟩
    | exact fun _ => ⟨trivial, trivial⟩
    | exact fun _ => Ctx.book_slot _ _ _
    | intro _ _ _
    | refine SlotKept.ofFst (by with_reducible assumption) ?_
    | refine SlotKept.ofSnd (by with_reducible assumption) ?_
    | dsimp only
    | split)

theorem State.fill_slot {n₀ : Nat} {s₀ s : State} (h : SlotKept n₀ s₀ s) (replay : Bool) (write : Bool) (ln : Nat) :
    SlotKept n₀ s₀ (State.fill s replay write ln) := by
  unfold State.fill
  repeat' (first
    | with_reducible assumption
    | with_reducible apply State.bring_slot
    | with_reducible exact id
    | with_reducible apply SlotKept.foldl
    | with_reducible apply SlotKept.foldlFst
    | exact fun _ => ⟨rfl, rfl⟩
    | exact fun _ => ⟨trivial, trivial⟩
    | exact fun _ => Ctx.book_slot _ _ _
    | intro _ _ _
    | refine SlotKept.ofFst (by with_reducible assumption) ?_
    | refine SlotKept.ofSnd (by with_reducible assumption) ?_
    | dsimp only
    | split)

theorem State.fillAt_slot {n₀ : Nat} {s₀ s : State} (h : SlotKept n₀ s₀ s) (replay : Bool) (write : Bool) (fa : Nat) (n : Nat) :
    SlotKept n₀ s₀ (State.fillAt s replay write fa n) := by
  unfold State.fillAt
  repeat' (first
    | with_reducible assumption
    | with_reducible apply State.fill_slot
    | with_reducible exact id
    | with_reducible apply SlotKept.foldl
    | with_reducible apply SlotKept.foldlFst
    | exact fun _ => ⟨rfl, rfl⟩
    | exact fun _ => ⟨trivial, trivial⟩
    | exact fun _ => Ctx.book_slot _ _ _
    | intro _ _ _
    | refine SlotKept.ofFst (by with_reducible assumption) ?_
    | refine SlotKept.ofSnd (by with_reducible assumption) ?_
    | dsimp only
    | split)

theorem State.setByte_slot {n₀ : Nat} {s₀ s : State} (h : SlotKept n₀ s₀ s) (fa : Nat) (b : Byte) :
    SlotKept n₀ s₀ (State.setByte s fa b) := by
  unfold State.setByte
  repeat' (first
    | with_reducible assumption
    | with_reducible exact id
    | simp only [slot_mk_iff]
    | with_reducible apply SlotKept.upd
    | exact fun _ => ⟨rfl, rfl⟩
    | exact fun _ => ⟨trivial, trivial⟩
    | exact fun _ => Ctx.book_slot _ _ _
    | intro _ _ _
    | refine SlotKept.ofFst (by with_reducible assumption) ?_
    | refine SlotKept.ofSnd (by with_reducible assumption) ?_
    | dsimp only
    | split)

theorem State.setBytes_slot {k : Nat} {s₀ s : State} (h : SlotKept k s₀ s) (fa : Nat) (d : Bytes) :
    SlotKept k s₀ (s.setBytes fa d) := by
  induction d generalizing s fa with
  | nil => exact h
  | cons b d ih => exact ih (slot_mk_iff.2 h.upd) (fa + 1)

theorem State.queueAnneal_slot {n₀ : Nat} {s₀ s : State} (h : SlotKept n₀ s₀ s) (c : Nat) (r : Nat) :
    SlotKept n₀ s₀ (State.queueAnneal s c r) := by
  unfold State.queueAnneal
  repeat' (first
    | with_reducible assumption
    | with_reducible exact id
    | simp only [slot_mk_iff]
    | with_reducible apply SlotKept.upd
    | exact fun _ => ⟨rfl, rfl⟩
    | exact fun _ => ⟨trivial, trivial⟩
    | exact fun _ => Ctx.book_slot _ _ _
    | intro _ _ _
    | refine SlotKept.ofFst (by with_reducible assumption) ?_
    | refine SlotKept.ofSnd (by with_reducible assumption) ?_
    | dsimp only
    | split)

theorem State.annealKey_slot {n₀ : Nat} {s₀ s : State} (h : SlotKept n₀ s₀ s) (key : Nat) :
    SlotKept n₀ s₀ (State.annealKey s key) := by
  unfold State.annealKey
  repeat' (first
    | with_reducible assumption
    | with_reducible apply State.queueAnneal_slot
    | with_reducible exact id
    | with_reducible apply SlotKept.foldl
    | with_reducible apply SlotKept.foldlFst
    | exact fun _ => ⟨rfl, rfl⟩
    | exact fun _ => ⟨trivial, trivial⟩
    | exact fun _ => Ctx.book_slot _ _ _
    | intro _ _ _
    | refine SlotKept.ofFst (by with_reducible assumption) ?_
    | refine SlotKept.ofSnd (by with_reducible assumption) ?_
    | dsimp only
    | split)

theorem State.setBlock_slot {n₀ : Nat} {s₀ s : State} (h : SlotKept n₀ s₀ s) (b : Nat) (x : Block) :
    SlotKept n₀ s₀ (State.setBlock s b x) := by
  unfold State.setBlock
  repeat' (first
    | with_reducible assumption
    | with_reducible exact id
    | simp only [slot_mk_iff]
    | with_reducible apply SlotKept.upd
    | exact fun _ => ⟨rfl, rfl⟩
    | exact fun _ => ⟨trivial, trivial⟩
    | exact fun _ => Ctx.book_slot _ _ _
    | intro _ _ _
    | refine SlotKept.ofFst (by with_reducible assumption) ?_
    | refine SlotKept.ofSnd (by with_reducible assumption) ?_
    | dsimp only
    | split)

theorem State.bumpFver_slot {n₀ : Nat} {s₀ s : State} (h : SlotKept n₀ s₀ s) (f : Nat) (n : Nat) :
    SlotKept n₀ s₀ (State.bumpFver s f n) := by
  unfold State.bumpFver
  repeat' (first
    | with_reducible assumption
    | with_reducible exact id
    | simp only [slot_mk_iff]
    | with_reducible apply SlotKept.upd
    | exact fun _ => ⟨rfl, rfl⟩
    | exact fun _ => ⟨trivial, trivial⟩
    | exact fun _ => Ctx.book_slot _ _ _
    | intro _ _ _
    | refine SlotKept.ofFst (by with_reducible assumption) ?_
    | refine SlotKept.ofSnd (by with_reducible assumption) ?_
    | dsimp only
    | split)

theorem State.poisonFailing_slot {n₀ : Nat} {s₀ s : State} (h : SlotKept n₀ s₀ s) (b : Nat) (key : Nat) :
    SlotKept n₀ s₀ (State.poisonFailing s b key) := by
  unfold State.poisonFailing
  repeat' (first
    | with_reducible assumption
    | with_reducible apply State.setLine_slot
    | with_reducible exact id
    | simp only [slot_mk_iff]
    | with_reducible apply SlotKept.upd
    | with_reducible apply SlotKept.foldl
    | with_reducible apply SlotKept.foldlFst
    | exact fun _ => ⟨rfl, rfl⟩
    | exact fun _ => ⟨trivial, trivial⟩
    | exact fun _ => Ctx.book_slot _ _ _
    | intro _ _ _
    | refine SlotKept.ofFst (by with_reducible assumption) ?_
    | refine SlotKept.ofSnd (by with_reducible assumption) ?_
    | dsimp only
    | split)

theorem State.reencrypt_slot {n₀ : Nat} {s₀ s : State} (h : SlotKept n₀ s₀ s) (b : Nat) (key : Nat) :
    SlotKept n₀ s₀ (State.reencrypt s b key) := by
  unfold State.reencrypt
  repeat' (first
    | with_reducible assumption
    | with_reducible apply State.raise_slot
    | with_reducible apply State.logRas_slot
    | with_reducible apply State.annealKey_slot
    | with_reducible apply State.setBlock_slot
    | with_reducible apply State.poisonFailing_slot
    | with_reducible exact id
    | simp only [slot_mk_iff]
    | with_reducible apply SlotKept.upd
    | exact fun _ => ⟨rfl, rfl⟩
    | exact fun _ => ⟨trivial, trivial⟩
    | exact fun _ => Ctx.book_slot _ _ _
    | intro _ _ _
    | refine SlotKept.ofFst (by with_reducible assumption) ?_
    | refine SlotKept.ofSnd (by with_reducible assumption) ?_
    | dsimp only
    | split)

theorem State.initBlock_slot {n₀ : Nat} {s₀ s : State} (h : SlotKept n₀ s₀ s) (b : Nat) (key : Nat) :
    SlotKept n₀ s₀ (State.initBlock s b key) := by
  unfold State.initBlock
  repeat' (first
    | with_reducible assumption
    | with_reducible apply State.setBlock_slot
    | with_reducible apply State.reencrypt_slot
    | with_reducible exact id
    | exact fun _ => ⟨rfl, rfl⟩
    | exact fun _ => ⟨trivial, trivial⟩
    | exact fun _ => Ctx.book_slot _ _ _
    | intro _ _ _
    | refine SlotKept.ofFst (by with_reducible assumption) ?_
    | refine SlotKept.ofSnd (by with_reducible assumption) ?_
    | dsimp only
    | split)

theorem State.countWrite_slot {n₀ : Nat} {s₀ s : State} (h : SlotKept n₀ s₀ s) (ln : Nat) (key : Nat) :
    SlotKept n₀ s₀ (State.countWrite s ln key) := by
  unfold State.countWrite
  repeat' (first
    | with_reducible assumption
    | with_reducible apply State.setBlock_slot
    | with_reducible apply State.bumpFver_slot
    | with_reducible apply State.reencrypt_slot
    | with_reducible exact id
    | simp only [slot_mk_iff]
    | with_reducible apply SlotKept.upd
    | exact fun _ => ⟨rfl, rfl⟩
    | exact fun _ => ⟨trivial, trivial⟩
    | exact fun _ => Ctx.book_slot _ _ _
    | intro _ _ _
    | refine SlotKept.ofFst (by with_reducible assumption) ?_
    | refine SlotKept.ofSnd (by with_reducible assumption) ?_
    | dsimp only
    | split)

theorem State.lineWrite_slot {n₀ : Nat} {s₀ s : State} (h : SlotKept n₀ s₀ s) (key : Nat) (replay : Bool) (fa : Nat) (d : Bytes) :
    SlotKept n₀ s₀ (State.lineWrite s key replay fa d).1 := by
  unfold State.lineWrite
  repeat' (first
    | with_reducible assumption
    | with_reducible apply State.setLine_slot
    | with_reducible apply State.setBytes_slot
    | with_reducible apply State.countWrite_slot
    | with_reducible exact id
    | simp only [slot_mk_iff]
    | with_reducible apply SlotKept.upd
    | exact fun _ => ⟨rfl, rfl⟩
    | exact fun _ => ⟨trivial, trivial⟩
    | exact fun _ => Ctx.book_slot _ _ _
    | intro _ _ _
    | refine SlotKept.ofFst (by with_reducible assumption) ?_
    | refine SlotKept.ofSnd (by with_reducible assumption) ?_
    | dsimp only
    | split)

theorem State.putHeld_slot {n₀ : Nat} {s₀ s : State} (h : SlotKept n₀ s₀ s) (w : HeldWrite) :
    SlotKept n₀ s₀ (State.putHeld s w).1 := by
  unfold State.putHeld
  repeat' (first
    | with_reducible assumption
    | with_reducible apply State.setLine_slot
    | with_reducible apply State.lineWrite_slot
    | with_reducible exact id
    | simp only [slot_mk_iff]
    | with_reducible apply SlotKept.upd
    | exact fun _ => ⟨rfl, rfl⟩
    | exact fun _ => ⟨trivial, trivial⟩
    | exact fun _ => Ctx.book_slot _ _ _
    | intro _ _ _
    | refine SlotKept.ofFst (by with_reducible assumption) ?_
    | refine SlotKept.ofSnd (by with_reducible assumption) ?_
    | dsimp only
    | split)

theorem State.heldWrites_slot {n₀ : Nat} {s₀ s : State} (h : SlotKept n₀ s₀ s) (m : Migration) :
    SlotKept n₀ s₀ (State.heldWrites s m) := by
  unfold State.heldWrites
  repeat' (first
    | with_reducible assumption
    | with_reducible apply State.putHeld_slot
    | with_reducible exact id
    | with_reducible apply SlotKept.foldl
    | with_reducible apply SlotKept.foldlFst
    | exact fun _ => ⟨rfl, rfl⟩
    | exact fun _ => ⟨trivial, trivial⟩
    | exact fun _ => Ctx.book_slot _ _ _
    | intro _ _ _
    | refine SlotKept.ofFst (by with_reducible assumption) ?_
    | refine SlotKept.ofSnd (by with_reducible assumption) ?_
    | dsimp only
    | split)

theorem State.view_slot {n₀ : Nat} {s₀ s : State} (h : SlotKept n₀ s₀ s) (f : Nat) :
    SlotKept n₀ s₀ (State.view s f) := by
  unfold State.view
  repeat' (first
    | with_reducible assumption
    | with_reducible apply State.heldWrites_slot
    | with_reducible exact id
    | simp only [slot_mk_iff]
    | with_reducible apply SlotKept.upd
    | exact fun _ => ⟨rfl, rfl⟩
    | exact fun _ => ⟨trivial, trivial⟩
    | exact fun _ => Ctx.book_slot _ _ _
    | intro _ _ _
    | refine SlotKept.ofFst (by with_reducible assumption) ?_
    | refine SlotKept.ofSnd (by with_reducible assumption) ?_
    | dsimp only
    | split)

theorem State.poison_slot {n₀ : Nat} {s₀ s : State} (h : SlotKept n₀ s₀ s) (ln : Nat) :
    SlotKept n₀ s₀ (State.poison s ln) := by
  unfold State.poison
  repeat' (first
    | with_reducible assumption
    | with_reducible apply State.setLine_slot
    | with_reducible exact id
    | simp only [slot_mk_iff]
    | with_reducible apply SlotKept.upd
    | exact fun _ => ⟨rfl, rfl⟩
    | exact fun _ => ⟨trivial, trivial⟩
    | exact fun _ => Ctx.book_slot _ _ _
    | intro _ _ _
    | refine SlotKept.ofFst (by with_reducible assumption) ?_
    | refine SlotKept.ofSnd (by with_reducible assumption) ?_
    | dsimp only
    | split)

theorem State.place_slot {n₀ : Nat} {s₀ s : State} (h : SlotKept n₀ s₀ s) (f : Nat) (b : Backing) :
    SlotKept n₀ s₀ (State.place s f b) := by
  unfold State.place
  repeat' (first
    | with_reducible assumption
    | with_reducible apply State.setMc_slot
    | with_reducible apply State.draw_slot
    | with_reducible exact id
    | simp only [slot_mk_iff]
    | with_reducible apply SlotKept.upd
    | exact fun _ => ⟨rfl, rfl⟩
    | exact fun _ => ⟨trivial, trivial⟩
    | exact fun _ => Ctx.book_slot _ _ _
    | intro _ _ _
    | refine SlotKept.ofFst (by with_reducible assumption) ?_
    | refine SlotKept.ofSnd (by with_reducible assumption) ?_
    | dsimp only
    | split)

theorem State.startMoves_slot {n₀ : Nat} {s₀ s : State} (h : SlotKept n₀ s₀ s) :
    SlotKept n₀ s₀ (State.startMoves s) := by
  unfold State.startMoves
  repeat' (first
    | with_reducible assumption
    | with_reducible apply State.draw_slot
    | with_reducible exact id
    | simp only [slot_mk_iff]
    | with_reducible apply SlotKept.upd
    | with_reducible apply SlotKept.foldl
    | with_reducible apply SlotKept.foldlFst
    | exact fun _ => ⟨rfl, rfl⟩
    | exact fun _ => ⟨trivial, trivial⟩
    | exact fun _ => Ctx.book_slot _ _ _
    | intro _ _ _
    | refine SlotKept.ofFst (by with_reducible assumption) ?_
    | refine SlotKept.ofSnd (by with_reducible assumption) ?_
    | dsimp only
    | split)

theorem State.retireLocation_slot {n₀ : Nat} {s₀ s : State} (h : SlotKept n₀ s₀ s) (mcx : Nat) (pg : Nat) (frame : Option Nat) :
    SlotKept n₀ s₀ (State.retireLocation s mcx pg frame) := by
  unfold State.retireLocation
  repeat' (first
    | with_reducible assumption
    | with_reducible apply State.raise_slot
    | with_reducible apply State.logRas_slot
    | with_reducible apply State.startMoves_slot
    | with_reducible exact id
    | simp only [slot_mk_iff]
    | with_reducible apply SlotKept.upd
    | exact fun _ => ⟨rfl, rfl⟩
    | exact fun _ => ⟨trivial, trivial⟩
    | exact fun _ => Ctx.book_slot _ _ _
    | intro _ _ _
    | refine SlotKept.ofFst (by with_reducible assumption) ?_
    | refine SlotKept.ofSnd (by with_reducible assumption) ?_
    | dsimp only
    | split)

theorem State.correctedAt_slot {n₀ : Nat} {s₀ s : State} (h : SlotKept n₀ s₀ s) (mcx : Nat) (pg : Nat) (frame : Option Nat) :
    SlotKept n₀ s₀ (State.correctedAt s mcx pg frame) := by
  unfold State.correctedAt
  repeat' (first
    | with_reducible assumption
    | with_reducible apply State.setMc_slot
    | with_reducible apply State.draw_slot
    | with_reducible apply State.logRas_slot
    | with_reducible apply State.retireLocation_slot
    | with_reducible exact id
    | simp only [slot_mk_iff]
    | with_reducible apply SlotKept.upd
    | exact fun _ => ⟨rfl, rfl⟩
    | exact fun _ => ⟨trivial, trivial⟩
    | exact fun _ => Ctx.book_slot _ _ _
    | intro _ _ _
    | refine SlotKept.ofFst (by with_reducible assumption) ?_
    | refine SlotKept.ofSnd (by with_reducible assumption) ?_
    | dsimp only
    | split)

theorem State.uncorrectableAt_slot {n₀ : Nat} {s₀ s : State} (h : SlotKept n₀ s₀ s) (ctx : Option (Option Nat)) (ln : Nat) :
    SlotKept n₀ s₀ (State.uncorrectableAt s ctx ln) := by
  unfold State.uncorrectableAt
  repeat' (first
    | with_reducible assumption
    | with_reducible apply State.setMc_slot
    | with_reducible apply State.raise_slot
    | with_reducible apply State.logRas_slot
    | with_reducible apply State.poison_slot
    | with_reducible apply State.retireLocation_slot
    | with_reducible exact id
    | simp only [slot_mk_iff]
    | with_reducible apply SlotKept.upd
    | exact fun _ => ⟨rfl, rfl⟩
    | exact fun _ => ⟨trivial, trivial⟩
    | exact fun _ => Ctx.book_slot _ _ _
    | intro _ _ _
    | refine SlotKept.ofFst (by with_reducible assumption) ?_
    | refine SlotKept.ofSnd (by with_reducible assumption) ?_
    | dsimp only
    | split)

theorem State.corrections_slot {n₀ : Nat} {s₀ s : State} (h : SlotKept n₀ s₀ s) (fa : Nat) (n : Nat) :
    SlotKept n₀ s₀ (State.corrections s fa n) := by
  unfold State.corrections
  repeat' (first
    | with_reducible assumption
    | with_reducible apply State.correctedAt_slot
    | with_reducible exact id
    | simp only [slot_mk_iff]
    | with_reducible apply SlotKept.upd
    | with_reducible apply SlotKept.foldl
    | with_reducible apply SlotKept.foldlFst
    | exact fun _ => ⟨rfl, rfl⟩
    | exact fun _ => ⟨trivial, trivial⟩
    | exact fun _ => Ctx.book_slot _ _ _
    | intro _ _ _
    | refine SlotKept.ofFst (by with_reducible assumption) ?_
    | refine SlotKept.ofSnd (by with_reducible assumption) ?_
    | dsimp only
    | split)

theorem State.noteHold_slot {n₀ : Nat} {s₀ s : State} (h : SlotKept n₀ s₀ s) (m : Migration) :
    SlotKept n₀ s₀ (State.noteHold s m) := by
  unfold State.noteHold
  repeat' (first
    | with_reducible assumption
    | with_reducible apply State.perf_slot
    | with_reducible exact id
    | simp only [slot_mk_iff]
    | with_reducible apply SlotKept.upd
    | with_reducible apply SlotKept.foldl
    | with_reducible apply SlotKept.foldlFst
    | exact fun _ => ⟨rfl, rfl⟩
    | exact fun _ => ⟨trivial, trivial⟩
    | exact fun _ => Ctx.book_slot _ _ _
    | intro _ _ _
    | refine SlotKept.ofFst (by with_reducible assumption) ?_
    | refine SlotKept.ofSnd (by with_reducible assumption) ?_
    | dsimp only
    | split)

theorem State.copyErrors_slot {n₀ : Nat} {s₀ s : State} (h : SlotKept n₀ s₀ s) (f : Nat) :
    SlotKept n₀ s₀ (State.copyErrors s f) := by
  unfold State.copyErrors
  repeat' (first
    | with_reducible assumption
    | with_reducible apply State.uncorrectableAt_slot
    | with_reducible exact id
    | with_reducible apply SlotKept.foldl
    | with_reducible apply SlotKept.foldlFst
    | exact fun _ => ⟨rfl, rfl⟩
    | exact fun _ => ⟨trivial, trivial⟩
    | exact fun _ => Ctx.book_slot _ _ _
    | intro _ _ _
    | refine SlotKept.ofFst (by with_reducible assumption) ?_
    | refine SlotKept.ofSnd (by with_reducible assumption) ?_
    | dsimp only
    | split)

theorem State.dropLines_slot {n₀ : Nat} {s₀ s : State} (h : SlotKept n₀ s₀ s) (f : Nat) :
    SlotKept n₀ s₀ (State.dropLines s f) := by
  unfold State.dropLines
  repeat' (first
    | with_reducible assumption
    | with_reducible exact id
    | simp only [slot_mk_iff]
    | with_reducible apply SlotKept.upd
    | with_reducible apply SlotKept.foldl
    | with_reducible apply SlotKept.foldlFst
    | exact fun _ => ⟨rfl, rfl⟩
    | exact fun _ => ⟨trivial, trivial⟩
    | exact fun _ => Ctx.book_slot _ _ _
    | intro _ _ _
    | refine SlotKept.ofFst (by with_reducible assumption) ?_
    | refine SlotKept.ofSnd (by with_reducible assumption) ?_
    | dsimp only
    | split)

theorem State.endMigration_slot {n₀ : Nat} {s₀ s : State} (h : SlotKept n₀ s₀ s) (m : Migration) :
    SlotKept n₀ s₀ (State.endMigration s m) := by
  unfold State.endMigration
  repeat' (first
    | with_reducible assumption
    | with_reducible apply State.heldWrites_slot
    | with_reducible apply State.startMoves_slot
    | with_reducible apply State.noteHold_slot
    | with_reducible exact id
    | simp only [slot_mk_iff]
    | with_reducible apply SlotKept.upd
    | exact fun _ => ⟨rfl, rfl⟩
    | exact fun _ => ⟨trivial, trivial⟩
    | exact fun _ => Ctx.book_slot _ _ _
    | intro _ _ _
    | refine SlotKept.ofFst (by with_reducible assumption) ?_
    | refine SlotKept.ofSnd (by with_reducible assumption) ?_
    | dsimp only
    | split)

theorem State.cancelMigration_slot {n₀ : Nat} {s₀ s : State} (h : SlotKept n₀ s₀ s) (m : Migration) :
    SlotKept n₀ s₀ (State.cancelMigration s m) := by
  unfold State.cancelMigration
  repeat' (first
    | with_reducible assumption
    | with_reducible apply State.endMigration_slot
    | with_reducible exact id
    | simp only [slot_mk_iff]
    | with_reducible apply SlotKept.upd
    | exact fun _ => ⟨rfl, rfl⟩
    | exact fun _ => ⟨trivial, trivial⟩
    | exact fun _ => Ctx.book_slot _ _ _
    | intro _ _ _
    | refine SlotKept.ofFst (by with_reducible assumption) ?_
    | refine SlotKept.ofSnd (by with_reducible assumption) ?_
    | dsimp only
    | split)

theorem State.switchTo_slot {n₀ : Nat} {s₀ s : State} (h : SlotKept n₀ s₀ s) (m : Migration) :
    SlotKept n₀ s₀ (State.switchTo s m) := by
  unfold State.switchTo
  repeat' (first
    | with_reducible assumption
    | with_reducible apply State.place_slot
    | with_reducible apply State.copyErrors_slot
    | with_reducible apply State.dropLines_slot
    | with_reducible apply State.endMigration_slot
    | with_reducible exact id
    | simp only [slot_mk_iff]
    | with_reducible apply SlotKept.upd
    | exact fun _ => ⟨rfl, rfl⟩
    | exact fun _ => ⟨trivial, trivial⟩
    | exact fun _ => Ctx.book_slot _ _ _
    | intro _ _ _
    | refine SlotKept.ofFst (by with_reducible assumption) ?_
    | refine SlotKept.ofSnd (by with_reducible assumption) ?_
    | dsimp only
    | split)

theorem State.makeRoom_slot {n₀ : Nat} {s₀ s : State} (h : SlotKept n₀ s₀ s) (tier : Nat) :
    SlotKept n₀ s₀ (State.makeRoom s tier) := by
  unfold State.makeRoom
  repeat' (first
    | with_reducible assumption
    | with_reducible apply State.draw_slot
    | with_reducible apply State.switchTo_slot
    | with_reducible exact id
    | simp only [slot_mk_iff]
    | with_reducible apply SlotKept.upd
    | exact fun _ => ⟨rfl, rfl⟩
    | exact fun _ => ⟨trivial, trivial⟩
    | exact fun _ => Ctx.book_slot _ _ _
    | intro _ _ _
    | refine SlotKept.ofFst (by with_reducible assumption) ?_
    | refine SlotKept.ofSnd (by with_reducible assumption) ?_
    | dsimp only
    | split)

theorem State.toTier_slot {n₀ : Nat} {s₀ s : State} (h : SlotKept n₀ s₀ s) (f : Nat) (tier : Nat) :
    SlotKept n₀ s₀ (State.toTier s f tier) := by
  unfold State.toTier
  repeat' (first
    | with_reducible assumption
    | with_reducible apply State.draw_slot
    | with_reducible apply State.cancelMigration_slot
    | with_reducible apply State.switchTo_slot
    | with_reducible apply State.makeRoom_slot
    | with_reducible exact id
    | simp only [slot_mk_iff]
    | with_reducible apply SlotKept.upd
    | exact fun _ => ⟨rfl, rfl⟩
    | exact fun _ => ⟨trivial, trivial⟩
    | exact fun _ => Ctx.book_slot _ _ _
    | intro _ _ _
    | refine SlotKept.ofFst (by with_reducible assumption) ?_
    | refine SlotKept.ofSnd (by with_reducible assumption) ?_
    | dsimp only
    | split)

theorem State.notePin_slot {n₀ : Nat} {s₀ s : State} (h : SlotKept n₀ s₀ s) (c : Nat) (va : Nat) (f : Nat) (pin : Nat) :
    SlotKept n₀ s₀ (State.notePin s c va f pin) := by
  unfold State.notePin
  repeat' (first
    | with_reducible assumption
    | with_reducible apply State.raise_slot
    | with_reducible apply State.toTier_slot
    | with_reducible exact id
    | simp only [slot_mk_iff]
    | with_reducible apply SlotKept.upd
    | exact fun _ => ⟨rfl, rfl⟩
    | exact fun _ => ⟨trivial, trivial⟩
    | exact fun _ => Ctx.book_slot _ _ _
    | intro _ _ _
    | refine SlotKept.ofFst (by with_reducible assumption) ?_
    | refine SlotKept.ofSnd (by with_reducible assumption) ?_
    | dsimp only
    | split)

theorem State.honourPins_slot {n₀ : Nat} {s₀ s : State} (h : SlotKept n₀ s₀ s) :
    SlotKept n₀ s₀ (State.honourPins s) := by
  unfold State.honourPins
  repeat' (first
    | with_reducible assumption
    | with_reducible apply State.toTier_slot
    | with_reducible exact id
    | simp only [slot_mk_iff]
    | with_reducible apply SlotKept.upd
    | with_reducible apply SlotKept.foldl
    | with_reducible apply SlotKept.foldlFst
    | exact fun _ => ⟨rfl, rfl⟩
    | exact fun _ => ⟨trivial, trivial⟩
    | exact fun _ => Ctx.book_slot _ _ _
    | intro _ _ _
    | refine SlotKept.ofFst (by with_reducible assumption) ?_
    | refine SlotKept.ofSnd (by with_reducible assumption) ?_
    | dsimp only
    | split)

theorem State.dropPins_slot {n₀ : Nat} {s₀ s : State} (h : SlotKept n₀ s₀ s) (gone : Pin → Bool) :
    SlotKept n₀ s₀ (State.dropPins s gone) := by
  unfold State.dropPins
  repeat' (first
    | with_reducible assumption
    | with_reducible apply State.honourPins_slot
    | with_reducible exact id
    | simp only [slot_mk_iff]
    | with_reducible apply SlotKept.upd
    | exact fun _ => ⟨rfl, rfl⟩
    | exact fun _ => ⟨trivial, trivial⟩
    | exact fun _ => Ctx.book_slot _ _ _
    | intro _ _ _
    | refine SlotKept.ofFst (by with_reducible assumption) ?_
    | refine SlotKept.ofSnd (by with_reducible assumption) ?_
    | dsimp only
    | split)

theorem State.back_slot {n₀ : Nat} {s₀ s : State} (h : SlotKept n₀ s₀ s) (f : Nat) (key : Nat) (replay : Bool) :
    SlotKept n₀ s₀ (State.back s f key replay) := by
  unfold State.back
  repeat' (first
    | with_reducible assumption
    | with_reducible apply State.draw_slot
    | with_reducible apply State.bumpFver_slot
    | with_reducible apply State.initBlock_slot
    | with_reducible apply State.place_slot
    | with_reducible apply State.makeRoom_slot
    | with_reducible exact id
    | simp only [slot_mk_iff]
    | with_reducible apply SlotKept.upd
    | with_reducible apply SlotKept.foldl
    | with_reducible apply SlotKept.foldlFst
    | exact fun _ => ⟨rfl, rfl⟩
    | exact fun _ => ⟨trivial, trivial⟩
    | exact fun _ => Ctx.book_slot _ _ _
    | intro _ _ _
    | refine SlotKept.ofFst (by with_reducible assumption) ?_
    | refine SlotKept.ofSnd (by with_reducible assumption) ?_
    | dsimp only
    | split)

theorem State.cancelMove_slot {n₀ : Nat} {s₀ s : State} (h : SlotKept n₀ s₀ s) (f : Nat) :
    SlotKept n₀ s₀ (State.cancelMove s f) := by
  unfold State.cancelMove
  repeat' (first
    | with_reducible assumption
    | with_reducible apply State.cancelMigration_slot
    | with_reducible exact id
    | simp only [slot_mk_iff]
    | with_reducible apply SlotKept.upd
    | exact fun _ => ⟨rfl, rfl⟩
    | exact fun _ => ⟨trivial, trivial⟩
    | exact fun _ => Ctx.book_slot _ _ _
    | intro _ _ _
    | refine SlotKept.ofFst (by with_reducible assumption) ?_
    | refine SlotKept.ofSnd (by with_reducible assumption) ?_
    | dsimp only
    | split)

theorem State.dropCounts_slot {n₀ : Nat} {s₀ s : State} (h : SlotKept n₀ s₀ s) (f : Nat) :
    SlotKept n₀ s₀ (State.dropCounts s f) := by
  unfold State.dropCounts
  repeat' (first
    | with_reducible assumption
    | with_reducible apply State.setMc_slot
    | with_reducible exact id
    | simp only [slot_mk_iff]
    | with_reducible apply SlotKept.upd
    | exact fun _ => ⟨rfl, rfl⟩
    | exact fun _ => ⟨trivial, trivial⟩
    | exact fun _ => Ctx.book_slot _ _ _
    | intro _ _ _
    | refine SlotKept.ofFst (by with_reducible assumption) ?_
    | refine SlotKept.ofSnd (by with_reducible assumption) ?_
    | dsimp only
    | split)

theorem State.unback_slot {n₀ : Nat} {s₀ s : State} (h : SlotKept n₀ s₀ s) (f : Nat) :
    SlotKept n₀ s₀ (State.unback s f) := by
  unfold State.unback
  repeat' (first
    | with_reducible assumption
    | with_reducible apply State.dropPins_slot
    | with_reducible apply State.cancelMove_slot
    | with_reducible apply State.dropCounts_slot
    | with_reducible exact id
    | simp only [slot_mk_iff]
    | with_reducible apply SlotKept.upd
    | exact fun _ => ⟨rfl, rfl⟩
    | exact fun _ => ⟨trivial, trivial⟩
    | exact fun _ => Ctx.book_slot _ _ _
    | intro _ _ _
    | refine SlotKept.ofFst (by with_reducible assumption) ?_
    | refine SlotKept.ofSnd (by with_reducible assumption) ?_
    | dsimp only
    | split)

theorem State.holdWrite_slot {n₀ : Nat} {s₀ s : State} (h : SlotKept n₀ s₀ s) (w : HeldWrite) :
    SlotKept n₀ s₀ (State.holdWrite s w).1 := by
  unfold State.holdWrite
  repeat' (first
    | with_reducible assumption
    | with_reducible apply State.putHeld_slot
    | with_reducible apply State.view_slot
    | with_reducible exact id
    | simp only [slot_mk_iff]
    | with_reducible apply SlotKept.upd
    | exact fun _ => ⟨rfl, rfl⟩
    | exact fun _ => ⟨trivial, trivial⟩
    | exact fun _ => Ctx.book_slot _ _ _
    | intro _ _ _
    | refine SlotKept.ofFst (by with_reducible assumption) ?_
    | refine SlotKept.ofSnd (by with_reducible assumption) ?_
    | dsimp only
    | split)

theorem State.physPiece_slot {n₀ : Nat} {s₀ s : State} (h : SlotKept n₀ s₀ s) (key : Nat) (replay : Bool) (fa : Nat) (d : Bytes) :
    SlotKept n₀ s₀ (State.physPiece s key replay fa d).1 := by
  unfold State.physPiece
  repeat' (first
    | with_reducible assumption
    | with_reducible apply State.lineWrite_slot
    | with_reducible apply State.back_slot
    | with_reducible apply State.holdWrite_slot
    | with_reducible exact id
    | exact fun _ => ⟨rfl, rfl⟩
    | exact fun _ => ⟨trivial, trivial⟩
    | exact fun _ => Ctx.book_slot _ _ _
    | intro _ _ _
    | refine SlotKept.ofFst (by with_reducible assumption) ?_
    | refine SlotKept.ofSnd (by with_reducible assumption) ?_
    | dsimp only
    | split)

theorem State.physWrite_slot {n₀ : Nat} {s₀ s : State} (h : SlotKept n₀ s₀ s) (key : Nat) (replay : Bool) (fa : Nat) (d : Bytes) :
    SlotKept n₀ s₀ (State.physWrite s key replay fa d).1 := by
  unfold State.physWrite
  repeat' (first
    | with_reducible assumption
    | with_reducible apply State.physPiece_slot
    | with_reducible exact id
    | with_reducible apply SlotKept.untilStop
    | exact fun _ => ⟨rfl, rfl⟩
    | exact fun _ => ⟨trivial, trivial⟩
    | exact fun _ => Ctx.book_slot _ _ _
    | intro _ _ _
    | refine SlotKept.ofFst (by with_reducible assumption) ?_
    | refine SlotKept.ofSnd (by with_reducible assumption) ?_
    | dsimp only
    | split)

theorem State.noteClass_slot {n₀ : Nat} {s₀ s : State} (h : SlotKept n₀ s₀ s) (f : Nat) (pte : Nat) (desc : Option Nat) :
    SlotKept n₀ s₀ (State.noteClass s f pte desc) := by
  unfold State.noteClass
  repeat' (first
    | with_reducible assumption
    | with_reducible exact id
    | simp only [slot_mk_iff]
    | with_reducible apply SlotKept.upd
    | exact fun _ => ⟨rfl, rfl⟩
    | exact fun _ => ⟨trivial, trivial⟩
    | exact fun _ => Ctx.book_slot _ _ _
    | intro _ _ _
    | refine SlotKept.ofFst (by with_reducible assumption) ?_
    | refine SlotKept.ofSnd (by with_reducible assumption) ?_
    | dsimp only
    | split)

theorem State.noteLines_slot {n₀ : Nat} {s₀ s : State} (h : SlotKept n₀ s₀ s) (replay : Bool) (write : Bool) (fa : Nat) (n : Nat) :
    SlotKept n₀ s₀ (State.noteLines s replay write fa n) := by
  unfold State.noteLines
  repeat' (first
    | with_reducible assumption
    | with_reducible apply State.fillAt_slot
    | with_reducible apply State.corrections_slot
    | with_reducible exact id
    | simp only [slot_mk_iff]
    | with_reducible apply SlotKept.upd
    | exact fun _ => ⟨rfl, rfl⟩
    | exact fun _ => ⟨trivial, trivial⟩
    | exact fun _ => Ctx.book_slot _ _ _
    | intro _ _ _
    | refine SlotKept.ofFst (by with_reducible assumption) ?_
    | refine SlotKept.ofSnd (by with_reducible assumption) ?_
    | dsimp only
    | split)

theorem State.setHostBytes_slot {k : Nat} {s₀ s : State} (h : SlotKept k s₀ s) (a : Nat) (d : Bytes) :
    SlotKept k s₀ (s.setHostBytes a d) := by
  induction d generalizing s a with
  | nil => exact h
  | cons b d ih => exact ih (slot_mk_iff.2 h.upd) (a + 1)

theorem State.storePiece_slot {n₀ : Nat} {s₀ s : State} (h : SlotKept n₀ s₀ s) (c : Nat) (va : Nat) (d : Bytes) (p : Nat × Nat × Xlat) :
    SlotKept n₀ s₀ (State.storePiece s c va d p).1 := by
  unfold State.storePiece
  repeat' (first
    | with_reducible assumption
    | with_reducible apply State.modCtx_slot
    | with_reducible apply State.emit_slot
    | with_reducible apply State.notePin_slot
    | with_reducible apply State.physWrite_slot
    | with_reducible apply State.noteClass_slot
    | with_reducible apply State.noteLines_slot
    | with_reducible apply State.setHostBytes_slot
    | with_reducible exact id
    | with_reducible apply SlotKept.foldl
    | with_reducible apply SlotKept.foldlFst
    | exact fun _ => ⟨rfl, rfl⟩
    | exact fun _ => ⟨trivial, trivial⟩
    | exact fun _ => Ctx.book_slot _ _ _
    | intro _ _ _
    | refine SlotKept.ofFst (by with_reducible assumption) ?_
    | refine SlotKept.ofSnd (by with_reducible assumption) ?_
    | dsimp only
    | split)

theorem State.vwriteAt_slot {n₀ : Nat} {s₀ s : State} (h : SlotKept n₀ s₀ s) (s0 : State) (c : Nat) (va : Nat) (d : Bytes) (u : HostUse) :
    SlotKept n₀ s₀ (State.vwriteAt s s0 c va d u).1 := by
  unfold State.vwriteAt
  repeat' (first
    | with_reducible assumption
    | with_reducible apply State.storePiece_slot
    | with_reducible exact id
    | simp only [slot_mk_iff]
    | with_reducible apply SlotKept.upd
    | with_reducible apply SlotKept.untilStop
    | exact fun _ => ⟨rfl, rfl⟩
    | exact fun _ => ⟨trivial, trivial⟩
    | exact fun _ => Ctx.book_slot _ _ _
    | intro _ _ _
    | refine SlotKept.ofFst (by with_reducible assumption) ?_
    | refine SlotKept.ofSnd (by with_reducible assumption) ?_
    | dsimp only
    | split)

theorem State.vwrite_slot {n₀ : Nat} {s₀ s : State} (h : SlotKept n₀ s₀ s) (c : Nat) (va : Nat) (d : Bytes) (u : HostUse) :
    SlotKept n₀ s₀ (State.vwrite s c va d u).1 := by
  unfold State.vwrite
  repeat' (first
    | with_reducible assumption
    | with_reducible apply State.vwriteAt_slot
    | with_reducible exact id
    | exact fun _ => ⟨rfl, rfl⟩
    | exact fun _ => ⟨trivial, trivial⟩
    | exact fun _ => Ctx.book_slot _ _ _
    | intro _ _ _
    | refine SlotKept.ofFst (by with_reducible assumption) ?_
    | refine SlotKept.ofSnd (by with_reducible assumption) ?_
    | dsimp only
    | split)

theorem State.touchPiece_slot {n₀ : Nat} {s₀ s : State} (h : SlotKept n₀ s₀ s) (c : Nat) (desc : Option Nat) (written : Bool) (p : Nat × Nat) :
    SlotKept n₀ s₀ (State.touchPiece s c desc written p) := by
  unfold State.touchPiece
  repeat' (first
    | with_reducible assumption
    | with_reducible apply State.modCtx_slot
    | with_reducible apply State.notePin_slot
    | with_reducible apply State.noteClass_slot
    | with_reducible apply State.noteLines_slot
    | with_reducible exact id
    | simp only [slot_mk_iff]
    | with_reducible apply SlotKept.upd
    | exact fun _ => ⟨rfl, rfl⟩
    | exact fun _ => ⟨trivial, trivial⟩
    | exact fun _ => Ctx.book_slot _ _ _
    | intro _ _ _
    | refine SlotKept.ofFst (by with_reducible assumption) ?_
    | refine SlotKept.ofSnd (by with_reducible assumption) ?_
    | dsimp only
    | split)

theorem State.meet_slot {n₀ : Nat} {s₀ s : State} (h : SlotKept n₀ s₀ s) (c : Nat) (va : Nat) (n : Nat) :
    SlotKept n₀ s₀ (State.meet s c va n) := by
  unfold State.meet
  repeat' (first
    | with_reducible assumption
    | with_reducible apply State.touchPiece_slot
    | with_reducible exact id
    | with_reducible apply SlotKept.foldl
    | with_reducible apply SlotKept.foldlFst
    | exact fun _ => ⟨rfl, rfl⟩
    | exact fun _ => ⟨trivial, trivial⟩
    | exact fun _ => Ctx.book_slot _ _ _
    | intro _ _ _
    | refine SlotKept.ofFst (by with_reducible assumption) ?_
    | refine SlotKept.ofSnd (by with_reducible assumption) ?_
    | dsimp only
    | split)

theorem State.enqueue_slot {n₀ : Nat} {s₀ s : State} (h : SlotKept n₀ s₀ s) (q : Nat) (p : Packet) :
    SlotKept n₀ s₀ (State.enqueue s q p) := by
  unfold State.enqueue
  repeat' (first
    | with_reducible assumption
    | with_reducible apply State.modPort_slot
    | with_reducible apply State.emit_slot
    | with_reducible exact id
    | simp only [slot_mk_iff]
    | with_reducible apply SlotKept.upd
    | exact fun _ => ⟨rfl, rfl⟩
    | exact fun _ => ⟨trivial, trivial⟩
    | exact fun _ => Ctx.book_slot _ _ _
    | intro _ _ _
    | refine SlotKept.ofFst (by with_reducible assumption) ?_
    | refine SlotKept.ofSnd (by with_reducible assumption) ?_
    | dsimp only
    | split)

theorem State.sayDigest_slot {n₀ : Nat} {s₀ s : State} (h : SlotKept n₀ s₀ s) (q : Nat) (job : Nat) (digest : Nat) :
    SlotKept n₀ s₀ (State.sayDigest s q job digest) := by
  unfold State.sayDigest
  repeat' (first
    | with_reducible assumption
    | with_reducible apply State.setPort_slot
    | with_reducible apply State.enqueue_slot
    | with_reducible exact id
    | simp only [slot_mk_iff]
    | with_reducible apply SlotKept.upd
    | exact fun _ => ⟨rfl, rfl⟩
    | exact fun _ => ⟨trivial, trivial⟩
    | exact fun _ => Ctx.book_slot _ _ _
    | intro _ _ _
    | refine SlotKept.ofFst (by with_reducible assumption) ?_
    | refine SlotKept.ofSnd (by with_reducible assumption) ?_
    | dsimp only
    | split)

theorem State.sendOn_slot {n₀ : Nat} {s₀ s : State} (h : SlotKept n₀ s₀ s) (c : Nat) (p : Packet) :
    SlotKept n₀ s₀ (State.sendOn s c p) := by
  unfold State.sendOn
  repeat' (first
    | with_reducible assumption
    | with_reducible apply State.modPort_slot
    | with_reducible apply State.enqueue_slot
    | with_reducible apply State.sayDigest_slot
    | with_reducible exact id
    | simp only [slot_mk_iff]
    | with_reducible apply SlotKept.upd
    | exact fun _ => ⟨rfl, rfl⟩
    | exact fun _ => ⟨trivial, trivial⟩
    | exact fun _ => Ctx.book_slot _ _ _
    | intro _ _ _
    | refine SlotKept.ofFst (by with_reducible assumption) ?_
    | refine SlotKept.ofSnd (by with_reducible assumption) ?_
    | dsimp only
    | split)

theorem State.sendFor_slot {n₀ : Nat} {s₀ s : State} (h : SlotKept n₀ s₀ s) (c : Nat) (p : Packet) :
    SlotKept n₀ s₀ (State.sendFor s c p) := by
  unfold State.sendFor
  repeat' (first
    | with_reducible assumption
    | with_reducible apply State.modCtx_slot
    | with_reducible apply State.sendOn_slot
    | with_reducible exact id
    | simp only [slot_mk_iff]
    | with_reducible apply SlotKept.upd
    | exact fun _ => ⟨rfl, rfl⟩
    | exact fun _ => ⟨trivial, trivial⟩
    | exact fun _ => Ctx.book_slot _ _ _
    | intro _ _ _
    | refine SlotKept.ofFst (by with_reducible assumption) ?_
    | refine SlotKept.ofSnd (by with_reducible assumption) ?_
    | dsimp only
    | split)

theorem State.sendPart_slot {n₀ : Nat} {s₀ s : State} (h : SlotKept n₀ s₀ s) (c : Nat) (p : Packet) (off : Nat) (fin : Nat) (d : Bytes) :
    SlotKept n₀ s₀ (State.sendPart s c p off fin d) := by
  unfold State.sendPart
  repeat' (first
    | with_reducible assumption
    | with_reducible apply State.sendFor_slot
    | with_reducible exact id
    | simp only [slot_mk_iff]
    | with_reducible apply SlotKept.upd
    | with_reducible apply SlotKept.foldl
    | with_reducible apply SlotKept.foldlFst
    | exact fun _ => ⟨rfl, rfl⟩
    | exact fun _ => ⟨trivial, trivial⟩
    | exact fun _ => Ctx.book_slot _ _ _
    | intro _ _ _
    | refine SlotKept.ofFst (by with_reducible assumption) ?_
    | refine SlotKept.ofSnd (by with_reducible assumption) ?_
    | dsimp only
    | split)

theorem State.sendStream_slot {n₀ : Nat} {s₀ s : State} (h : SlotKept n₀ s₀ s) (c : Nat) (p : Packet) (off : Nat) (d : Bytes) :
    SlotKept n₀ s₀ (State.sendStream s c p off d) := by
  unfold State.sendStream
  repeat' (first
    | with_reducible assumption
    | with_reducible apply State.sendPart_slot
    | with_reducible exact id
    | exact fun _ => ⟨rfl, rfl⟩
    | exact fun _ => ⟨trivial, trivial⟩
    | exact fun _ => Ctx.book_slot _ _ _
    | intro _ _ _
    | refine SlotKept.ofFst (by with_reducible assumption) ?_
    | refine SlotKept.ofSnd (by with_reducible assumption) ?_
    | dsimp only
    | split)

theorem State.setBucket_slot {n₀ : Nat} {s₀ s : State} (h : SlotKept n₀ s₀ s) (b : Bucket) :
    SlotKept n₀ s₀ (State.setBucket s b) := by
  unfold State.setBucket
  repeat' (first
    | with_reducible assumption
    | with_reducible exact id
    | simp only [slot_mk_iff]
    | with_reducible apply SlotKept.upd
    | exact fun _ => ⟨rfl, rfl⟩
    | exact fun _ => ⟨trivial, trivial⟩
    | exact fun _ => Ctx.book_slot _ _ _
    | intro _ _ _
    | refine SlotKept.ofFst (by with_reducible assumption) ?_
    | refine SlotKept.ofSnd (by with_reducible assumption) ?_
    | dsimp only
    | split)

theorem State.broadcast_slot {n₀ : Nat} {s₀ s : State} (h : SlotKept n₀ s₀ s) (b : Bucket) :
    SlotKept n₀ s₀ (State.broadcast s b) := by
  unfold State.broadcast
  repeat' (first
    | with_reducible assumption
    | with_reducible apply State.place_slot
    | with_reducible apply State.sendFor_slot
    | with_reducible apply State.sendStream_slot
    | with_reducible exact id
    | simp only [slot_mk_iff]
    | with_reducible apply SlotKept.upd
    | with_reducible apply SlotKept.foldl
    | with_reducible apply SlotKept.foldlFst
    | exact fun _ => ⟨rfl, rfl⟩
    | exact fun _ => ⟨trivial, trivial⟩
    | exact fun _ => Ctx.book_slot _ _ _
    | intro _ _ _
    | refine SlotKept.ofFst (by with_reducible assumption) ?_
    | refine SlotKept.ofSnd (by with_reducible assumption) ?_
    | dsimp only
    | split)

theorem State.closeSeen_slot {n₀ : Nat} {s₀ s : State} (h : SlotKept n₀ s₀ s) (key : List Nat) :
    SlotKept n₀ s₀ (State.closeSeen s key) := by
  unfold State.closeSeen
  repeat' (first
    | with_reducible assumption
    | with_reducible exact id
    | simp only [slot_mk_iff]
    | with_reducible apply SlotKept.upd
    | exact fun _ => ⟨rfl, rfl⟩
    | exact fun _ => ⟨trivial, trivial⟩
    | exact fun _ => Ctx.book_slot _ _ _
    | intro _ _ _
    | refine SlotKept.ofFst (by with_reducible assumption) ?_
    | refine SlotKept.ofSnd (by with_reducible assumption) ?_
    | dsimp only
    | split)

theorem State.closeItems_slot {n₀ : Nat} {s₀ s : State} (h : SlotKept n₀ s₀ s) (b : Bucket) :
    SlotKept n₀ s₀ (State.closeItems s b) := by
  unfold State.closeItems
  repeat' (first
    | with_reducible assumption
    | with_reducible apply State.closeSeen_slot
    | with_reducible exact id
    | with_reducible apply SlotKept.foldl
    | with_reducible apply SlotKept.foldlFst
    | exact fun _ => ⟨rfl, rfl⟩
    | exact fun _ => ⟨trivial, trivial⟩
    | exact fun _ => Ctx.book_slot _ _ _
    | intro _ _ _
    | refine SlotKept.ofFst (by with_reducible assumption) ?_
    | refine SlotKept.ofSnd (by with_reducible assumption) ?_
    | dsimp only
    | split)

theorem State.account_slot {n₀ : Nat} {s₀ s : State} (h : SlotKept n₀ s₀ s) (b : Bucket) :
    SlotKept n₀ s₀ (State.account s b) := by
  unfold State.account
  repeat' (first
    | with_reducible assumption
    | with_reducible apply State.modCtx_slot
    | with_reducible exact id
    | simp only [slot_mk_iff]
    | with_reducible apply SlotKept.upd
    | exact fun _ => ⟨rfl, rfl⟩
    | exact fun _ => ⟨trivial, trivial⟩
    | exact fun _ => Ctx.book_slot _ _ _
    | intro _ _ _
    | refine SlotKept.ofFst (by with_reducible assumption) ?_
    | refine SlotKept.ofSnd (by with_reducible assumption) ?_
    | dsimp only
    | split)

theorem State.closeBucket_slot {n₀ : Nat} {s₀ s : State} (h : SlotKept n₀ s₀ s) (b : Bucket) :
    SlotKept n₀ s₀ (State.closeBucket s b) := by
  unfold State.closeBucket
  repeat' (first
    | with_reducible assumption
    | with_reducible apply State.modCtx_slot
    | with_reducible apply State.raise_slot
    | with_reducible apply State.setBucket_slot
    | with_reducible apply State.closeItems_slot
    | with_reducible apply State.account_slot
    | with_reducible exact id
    | simp only [slot_mk_iff]
    | with_reducible apply SlotKept.upd
    | exact fun _ => ⟨rfl, rfl⟩
    | exact fun _ => ⟨trivial, trivial⟩
    | exact fun _ => Ctx.book_slot _ _ _
    | intro _ _ _
    | refine SlotKept.ofFst (by with_reducible assumption) ?_
    | refine SlotKept.ofSnd (by with_reducible assumption) ?_
    | dsimp only
    | split)

theorem State.forgetData_slot {n₀ : Nat} {s₀ s : State} (h : SlotKept n₀ s₀ s) (b : Bucket) :
    SlotKept n₀ s₀ (State.forgetData s b) := by
  unfold State.forgetData
  repeat' (first
    | with_reducible assumption
    | with_reducible exact id
    | simp only [slot_mk_iff]
    | with_reducible apply SlotKept.upd
    | exact fun _ => ⟨rfl, rfl⟩
    | exact fun _ => ⟨trivial, trivial⟩
    | exact fun _ => Ctx.book_slot _ _ _
    | intro _ _ _
    | refine SlotKept.ofFst (by with_reducible assumption) ?_
    | refine SlotKept.ofSnd (by with_reducible assumption) ?_
    | dsimp only
    | split)

theorem State.sendResult_slot {n₀ : Nat} {s₀ s : State} (h : SlotKept n₀ s₀ s) (b : Bucket) :
    SlotKept n₀ s₀ (State.sendResult s b) := by
  unfold State.sendResult
  repeat' (first
    | with_reducible assumption
    | with_reducible apply State.broadcast_slot
    | with_reducible apply State.closeBucket_slot
    | with_reducible exact id
    | simp only [slot_mk_iff]
    | with_reducible apply SlotKept.upd
    | exact fun _ => ⟨rfl, rfl⟩
    | exact fun _ => ⟨trivial, trivial⟩
    | exact fun _ => Ctx.book_slot _ _ _
    | intro _ _ _
    | refine SlotKept.ofFst (by with_reducible assumption) ?_
    | refine SlotKept.ofSnd (by with_reducible assumption) ?_
    | dsimp only
    | split)

theorem State.finishRoot_slot {n₀ : Nat} {s₀ s : State} (h : SlotKept n₀ s₀ s) (b : Bucket) :
    SlotKept n₀ s₀ (State.finishRoot s b) := by
  unfold State.finishRoot
  repeat' (first
    | with_reducible assumption
    | with_reducible apply State.sendStream_slot
    | with_reducible apply State.setBucket_slot
    | with_reducible apply State.forgetData_slot
    | with_reducible apply State.sendResult_slot
    | with_reducible exact id
    | with_reducible apply SlotKept.foldl
    | with_reducible apply SlotKept.foldlFst
    | exact fun _ => ⟨rfl, rfl⟩
    | exact fun _ => ⟨trivial, trivial⟩
    | exact fun _ => Ctx.book_slot _ _ _
    | intro _ _ _
    | refine SlotKept.ofFst (by with_reducible assumption) ?_
    | refine SlotKept.ofSnd (by with_reducible assumption) ?_
    | dsimp only
    | split)

theorem State.sendBlocks_slot {n₀ : Nat} {s₀ s : State} (h : SlotKept n₀ s₀ s) (b : Bucket) (level : Nat) (dst : Nat) (start : Nat) (fin : Nat) (ks : List Nat) (d : Bytes) :
    SlotKept n₀ s₀ (State.sendBlocks s b level dst start fin ks d) := by
  unfold State.sendBlocks
  repeat' (first
    | with_reducible assumption
    | with_reducible apply State.sendPart_slot
    | with_reducible exact id
    | with_reducible apply SlotKept.foldl
    | with_reducible apply SlotKept.foldlFst
    | exact fun _ => ⟨rfl, rfl⟩
    | exact fun _ => ⟨trivial, trivial⟩
    | exact fun _ => Ctx.book_slot _ _ _
    | intro _ _ _
    | refine SlotKept.ofFst (by with_reducible assumption) ?_
    | refine SlotKept.ofSnd (by with_reducible assumption) ?_
    | dsimp only
    | split)

theorem State.tryStream_slot {n₀ : Nat} {s₀ s : State} (h : SlotKept n₀ s₀ s) (b : Bucket) :
    SlotKept n₀ s₀ (State.tryStream s b) := by
  unfold State.tryStream
  repeat' (first
    | with_reducible assumption
    | with_reducible apply State.setBucket_slot
    | with_reducible apply State.sendBlocks_slot
    | with_reducible exact id
    | simp only [slot_mk_iff]
    | with_reducible apply SlotKept.upd
    | exact fun _ => ⟨rfl, rfl⟩
    | exact fun _ => ⟨trivial, trivial⟩
    | exact fun _ => Ctx.book_slot _ _ _
    | intro _ _ _
    | refine SlotKept.ofFst (by with_reducible assumption) ?_
    | refine SlotKept.ofSnd (by with_reducible assumption) ?_
    | dsimp only
    | split)

theorem State.sendReady_slot {n₀ : Nat} {s₀ s : State} (h : SlotKept n₀ s₀ s) (b : Bucket) (level : Nat) (q : Nat) :
    SlotKept n₀ s₀ (State.sendReady s b level q) := by
  unfold State.sendReady
  repeat' (first
    | with_reducible assumption
    | with_reducible apply State.sendStream_slot
    | with_reducible apply State.setBucket_slot
    | with_reducible exact id
    | simp only [slot_mk_iff]
    | with_reducible apply SlotKept.upd
    | exact fun _ => ⟨rfl, rfl⟩
    | exact fun _ => ⟨trivial, trivial⟩
    | exact fun _ => Ctx.book_slot _ _ _
    | intro _ _ _
    | refine SlotKept.ofFst (by with_reducible assumption) ?_
    | refine SlotKept.ofSnd (by with_reducible assumption) ?_
    | dsimp only
    | split)

theorem State.settle_slot {n₀ : Nat} {s₀ s : State} (h : SlotKept n₀ s₀ s) (b : Bucket) :
    SlotKept n₀ s₀ (State.settle s b) := by
  unfold State.settle
  repeat' (first
    | with_reducible assumption
    | with_reducible apply State.setBucket_slot
    | with_reducible apply State.finishRoot_slot
    | with_reducible apply State.tryStream_slot
    | with_reducible apply State.sendReady_slot
    | with_reducible exact id
    | simp only [slot_mk_iff]
    | with_reducible apply SlotKept.upd
    | exact fun _ => ⟨rfl, rfl⟩
    | exact fun _ => ⟨trivial, trivial⟩
    | exact fun _ => Ctx.book_slot _ _ _
    | intro _ _ _
    | refine SlotKept.ofFst (by with_reducible assumption) ?_
    | refine SlotKept.ofSnd (by with_reducible assumption) ?_
    | dsimp only
    | split)

theorem State.absentOwn_slot {n₀ : Nat} {s₀ s : State} (h : SlotKept n₀ s₀ s) (c : Nat) :
    SlotKept n₀ s₀ (State.absentOwn s c) := by
  unfold State.absentOwn
  repeat' (first
    | with_reducible assumption
    | with_reducible apply State.settle_slot
    | with_reducible exact id
    | simp only [slot_mk_iff]
    | with_reducible apply SlotKept.upd
    | with_reducible apply SlotKept.foldl
    | with_reducible apply SlotKept.foldlFst
    | exact fun _ => ⟨rfl, rfl⟩
    | exact fun _ => ⟨trivial, trivial⟩
    | exact fun _ => Ctx.book_slot _ _ _
    | intro _ _ _
    | refine SlotKept.ofFst (by with_reducible assumption) ?_
    | refine SlotKept.ofSnd (by with_reducible assumption) ?_
    | dsimp only
    | split)

theorem State.pumpReads_slot {n₀ : Nat} {s₀ s : State} (h : SlotKept n₀ s₀ s) :
    SlotKept n₀ s₀ (State.pumpReads s) := by
  unfold State.pumpReads
  repeat' (first
    | with_reducible assumption
    | with_reducible apply State.emit_slot
    | with_reducible exact id
    | simp only [slot_mk_iff]
    | with_reducible apply SlotKept.upd
    | with_reducible apply SlotKept.foldl
    | with_reducible apply SlotKept.foldlFst
    | exact fun _ => ⟨rfl, rfl⟩
    | exact fun _ => ⟨trivial, trivial⟩
    | exact fun _ => Ctx.book_slot _ _ _
    | intro _ _ _
    | refine SlotKept.ofFst (by with_reducible assumption) ?_
    | refine SlotKept.ofSnd (by with_reducible assumption) ?_
    | dsimp only
    | split)

theorem State.hostAdd_slot {n₀ : Nat} {s₀ s : State} (h : SlotKept n₀ s₀ s) (c : Nat) (va : Nat) (addr : Nat) (operand : Nat) (base : Nat) (len : Nat) :
    SlotKept n₀ s₀ (State.hostAdd s c va addr operand base len) := by
  unfold State.hostAdd
  repeat' (first
    | with_reducible assumption
    | with_reducible apply State.pumpReads_slot
    | with_reducible exact id
    | simp only [slot_mk_iff]
    | with_reducible apply SlotKept.upd
    | exact fun _ => ⟨rfl, rfl⟩
    | exact fun _ => ⟨trivial, trivial⟩
    | exact fun _ => Ctx.book_slot _ _ _
    | intro _ _ _
    | refine SlotKept.ofFst (by with_reducible assumption) ?_
    | refine SlotKept.ofSnd (by with_reducible assumption) ?_
    | dsimp only
    | split)

theorem State.setXfer_slot {n₀ : Nat} {s₀ s : State} (h : SlotKept n₀ s₀ s) (sn : Nat) (v : Option Nat × Nat) :
    SlotKept n₀ s₀ (State.setXfer s sn v) := by
  unfold State.setXfer
  repeat' (first
    | with_reducible assumption
    | with_reducible exact id
    | simp only [slot_mk_iff]
    | with_reducible apply SlotKept.upd
    | exact fun _ => ⟨rfl, rfl⟩
    | exact fun _ => ⟨trivial, trivial⟩
    | exact fun _ => Ctx.book_slot _ _ _
    | intro _ _ _
    | refine SlotKept.ofFst (by with_reducible assumption) ?_
    | refine SlotKept.ofSnd (by with_reducible assumption) ?_
    | dsimp only
    | split)

theorem State.makeUnit_slot {n₀ : Nat} {s₀ s : State} (h : SlotKept n₀ s₀ s) (c : Nat) (d : Bytes) :
    SlotKept n₀ s₀ (State.makeUnit s c d).1 := by
  unfold State.makeUnit
  repeat' (first
    | with_reducible assumption
    | with_reducible apply State.setXfer_slot
    | with_reducible exact id
    | exact fun _ => ⟨rfl, rfl⟩
    | exact fun _ => ⟨trivial, trivial⟩
    | exact fun _ => Ctx.book_slot _ _ _
    | intro _ _ _
    | refine SlotKept.ofFst (by with_reducible assumption) ?_
    | refine SlotKept.ofSnd (by with_reducible assumption) ?_
    | dsimp only
    | split)

theorem State.fenceVector_slot {n₀ : Nat} {s₀ s : State} (h : SlotKept n₀ s₀ s) (c : Nat) (v : Nat) :
    SlotKept n₀ s₀ (State.fenceVector s c v) := by
  unfold State.fenceVector
  repeat' (first
    | with_reducible assumption
    | with_reducible apply State.slotVector_slot
    | with_reducible exact id
    | exact fun _ => ⟨rfl, rfl⟩
    | exact fun _ => ⟨trivial, trivial⟩
    | exact fun _ => Ctx.book_slot _ _ _
    | intro _ _ _
    | refine SlotKept.ofFst (by with_reducible assumption) ?_
    | refine SlotKept.ofSnd (by with_reducible assumption) ?_
    | dsimp only
    | split)

theorem State.notifyImporters_slot {n₀ : Nat} {s₀ s : State} (h : SlotKept n₀ s₀ s) (c : Nat) (h : Nat) :
    SlotKept n₀ s₀ (State.notifyImporters s c h) := by
  unfold State.notifyImporters
  repeat' (first
    | with_reducible assumption
    | with_reducible apply State.meet_slot
    | with_reducible apply State.fenceVector_slot
    | with_reducible exact id
    | simp only [slot_mk_iff]
    | with_reducible apply SlotKept.upd
    | with_reducible apply SlotKept.foldl
    | with_reducible apply SlotKept.foldlFst
    | exact fun _ => ⟨rfl, rfl⟩
    | exact fun _ => ⟨trivial, trivial⟩
    | exact fun _ => Ctx.book_slot _ _ _
    | intro _ _ _
    | refine SlotKept.ofFst (by with_reducible assumption) ?_
    | refine SlotKept.ofSnd (by with_reducible assumption) ?_
    | dsimp only
    | split)

theorem State.signalFence_slot {n₀ : Nat} {s₀ s : State} (h : SlotKept n₀ s₀ s) (c : Nat) (h : Nat) (v : Nat) (st : Status) :
    SlotKept n₀ s₀ (State.signalFence s c h v st).1 := by
  unfold State.signalFence
  repeat' (first
    | with_reducible assumption
    | with_reducible apply State.vwrite_slot
    | with_reducible apply State.meet_slot
    | with_reducible apply State.fenceVector_slot
    | with_reducible apply State.notifyImporters_slot
    | with_reducible exact id
    | simp only [slot_mk_iff]
    | with_reducible apply SlotKept.upd
    | exact fun _ => ⟨rfl, rfl⟩
    | exact fun _ => ⟨trivial, trivial⟩
    | exact fun _ => Ctx.book_slot _ _ _
    | intro _ _ _
    | refine SlotKept.ofFst (by with_reducible assumption) ?_
    | refine SlotKept.ofSnd (by with_reducible assumption) ?_
    | dsimp only
    | split)

theorem State.abandonExports_slot {n₀ : Nat} {s₀ s : State} (h : SlotKept n₀ s₀ s) (c : Nat) :
    SlotKept n₀ s₀ (State.abandonExports s c) := by
  unfold State.abandonExports
  repeat' (first
    | with_reducible assumption
    | with_reducible apply State.vwrite_slot
    | with_reducible apply State.fenceVector_slot
    | with_reducible apply State.notifyImporters_slot
    | with_reducible exact id
    | simp only [slot_mk_iff]
    | with_reducible apply SlotKept.upd
    | with_reducible apply SlotKept.foldl
    | with_reducible apply SlotKept.foldlFst
    | exact fun _ => ⟨rfl, rfl⟩
    | exact fun _ => ⟨trivial, trivial⟩
    | exact fun _ => Ctx.book_slot _ _ _
    | intro _ _ _
    | refine SlotKept.ofFst (by with_reducible assumption) ?_
    | refine SlotKept.ofSnd (by with_reducible assumption) ?_
    | dsimp only
    | split)

theorem State.signalAll_slot {n₀ : Nat} {s₀ s : State} (h : SlotKept n₀ s₀ s) (c : Nat) (st : Status) (es : List Entry) :
    SlotKept n₀ s₀ (State.signalAll s c st es) := by
  unfold State.signalAll
  repeat' (first
    | with_reducible assumption
    | with_reducible apply State.signalFence_slot
    | with_reducible exact id
    | with_reducible apply SlotKept.foldl
    | with_reducible apply SlotKept.foldlFst
    | exact fun _ => ⟨rfl, rfl⟩
    | exact fun _ => ⟨trivial, trivial⟩
    | exact fun _ => Ctx.book_slot _ _ _
    | intro _ _ _
    | refine SlotKept.ofFst (by with_reducible assumption) ?_
    | refine SlotKept.ofSnd (by with_reducible assumption) ?_
    | dsimp only
    | split)

theorem State.retireEdit_slot {n₀ : Nat} {s₀ s : State} (h : SlotKept n₀ s₀ s) (c : Nat) (a : Nat) (n : Nat) :
    SlotKept n₀ s₀ (State.retireEdit s c a n).1 := by
  unfold State.retireEdit
  repeat' (first
    | with_reducible assumption
    | with_reducible apply State.dropPins_slot
    | with_reducible apply State.physWrite_slot
    | with_reducible exact id
    | with_reducible apply SlotKept.foldl
    | with_reducible apply SlotKept.foldlFst
    | exact fun _ => ⟨rfl, rfl⟩
    | exact fun _ => ⟨trivial, trivial⟩
    | exact fun _ => Ctx.book_slot _ _ _
    | intro _ _ _
    | refine SlotKept.ofFst (by with_reducible assumption) ?_
    | refine SlotKept.ofSnd (by with_reducible assumption) ?_
    | dsimp only
    | split)

theorem State.scrubFrames_slot {n₀ : Nat} {s₀ s : State} (h : SlotKept n₀ s₀ s) (fs : List Nat) :
    SlotKept n₀ s₀ (State.scrubFrames s fs) := by
  unfold State.scrubFrames
  repeat' (first
    | with_reducible assumption
    | with_reducible apply State.unback_slot
    | with_reducible exact id
    | with_reducible apply SlotKept.foldl
    | with_reducible apply SlotKept.foldlFst
    | exact fun _ => ⟨rfl, rfl⟩
    | exact fun _ => ⟨trivial, trivial⟩
    | exact fun _ => Ctx.book_slot _ _ _
    | intro _ _ _
    | refine SlotKept.ofFst (by with_reducible assumption) ?_
    | refine SlotKept.ofSnd (by with_reducible assumption) ?_
    | dsimp only
    | split)

theorem State.retire_slot {n₀ : Nat} {s₀ s : State} (h : SlotKept n₀ s₀ s) (c : Nat) (a : Nat) (n : Nat) :
    SlotKept n₀ s₀ (State.retire s c a n).1 := by
  unfold State.retire
  repeat' (first
    | with_reducible assumption
    | with_reducible apply State.retireEdit_slot
    | with_reducible apply State.scrubFrames_slot
    | with_reducible exact id
    | simp only [slot_mk_iff]
    | with_reducible apply SlotKept.upd
    | exact fun _ => ⟨rfl, rfl⟩
    | exact fun _ => ⟨trivial, trivial⟩
    | exact fun _ => Ctx.book_slot _ _ _
    | intro _ _ _
    | refine SlotKept.ofFst (by with_reducible assumption) ?_
    | refine SlotKept.ofSnd (by with_reducible assumption) ?_
    | dsimp only
    | split)

theorem State.addRef_slot {n₀ : Nat} {s₀ s : State} (h : SlotKept n₀ s₀ s) (c : Nat) (o : ObjRef) (up : Bool) :
    SlotKept n₀ s₀ (State.addRef s c o up) := by
  unfold State.addRef
  repeat' (first
    | with_reducible assumption
    | with_reducible apply State.vwrite_slot
    | with_reducible apply State.meet_slot
    | with_reducible apply State.hostAdd_slot
    | with_reducible apply State.makeUnit_slot
    | with_reducible apply State.retire_slot
    | with_reducible exact id
    | simp only [slot_mk_iff]
    | with_reducible apply SlotKept.upd
    | exact fun _ => ⟨rfl, rfl⟩
    | exact fun _ => ⟨trivial, trivial⟩
    | exact fun _ => Ctx.book_slot _ _ _
    | intro _ _ _
    | refine SlotKept.ofFst (by with_reducible assumption) ?_
    | refine SlotKept.ofSnd (by with_reducible assumption) ?_
    | dsimp only
    | split)

theorem State.dropRefs_slot {n₀ : Nat} {s₀ s : State} (h : SlotKept n₀ s₀ s) (q : QRef) :
    SlotKept n₀ s₀ (State.dropRefs s q) := by
  unfold State.dropRefs
  repeat' (first
    | with_reducible assumption
    | with_reducible apply State.modCtx_slot
    | with_reducible apply State.addRef_slot
    | with_reducible exact id
    | simp only [slot_mk_iff]
    | with_reducible apply SlotKept.upd
    | with_reducible apply SlotKept.foldl
    | with_reducible apply SlotKept.foldlFst
    | exact fun _ => ⟨rfl, rfl⟩
    | exact fun _ => ⟨trivial, trivial⟩
    | exact fun _ => Ctx.book_slot _ _ _
    | intro _ _ _
    | refine SlotKept.ofFst (by with_reducible assumption) ?_
    | refine SlotKept.ofSnd (by with_reducible assumption) ?_
    | dsimp only
    | split)

theorem State.abortQueue_slot {n₀ : Nat} {s₀ s : State} (h : SlotKept n₀ s₀ s) (q : QRef) :
    SlotKept n₀ s₀ (State.abortQueue s q) := by
  unfold State.abortQueue
  repeat' (first
    | with_reducible assumption
    | with_reducible apply State.modCtx_slot
    | with_reducible apply State.modQueue_slot
    | with_reducible apply State.emit_slot
    | with_reducible apply State.signalAll_slot
    | with_reducible apply State.dropRefs_slot
    | with_reducible exact id
    | simp only [slot_mk_iff]
    | with_reducible apply SlotKept.upd
    | with_reducible apply SlotKept.foldl
    | with_reducible apply SlotKept.foldlFst
    | exact fun _ => ⟨rfl, rfl⟩
    | exact fun _ => ⟨trivial, trivial⟩
    | exact fun _ => Ctx.book_slot _ _ _
    | intro _ _ _
    | refine SlotKept.ofFst (by with_reducible assumption) ?_
    | refine SlotKept.ofSnd (by with_reducible assumption) ?_
    | dsimp only
    | split)

theorem State.grantSeqs_slot {n₀ : Nat} {s₀ s : State} (h : SlotKept n₀ s₀ s) :
    SlotKept n₀ s₀ (State.grantSeqs s) := by
  unfold State.grantSeqs
  repeat' (first
    | with_reducible assumption
    | with_reducible exact id
    | simp only [slot_mk_iff]
    | with_reducible apply SlotKept.upd
    | with_reducible apply SlotKept.foldl
    | with_reducible apply SlotKept.foldlFst
    | exact fun _ => ⟨rfl, rfl⟩
    | exact fun _ => ⟨trivial, trivial⟩
    | exact fun _ => Ctx.book_slot _ _ _
    | intro _ _ _
    | refine SlotKept.ofFst (by with_reducible assumption) ?_
    | refine SlotKept.ofSnd (by with_reducible assumption) ?_
    | dsimp only
    | split)

theorem State.dropSeqs_slot {n₀ : Nat} {s₀ s : State} (h : SlotKept n₀ s₀ s) (gone : Seq → Bool) :
    SlotKept n₀ s₀ (State.dropSeqs s gone) := by
  unfold State.dropSeqs
  repeat' (first
    | with_reducible assumption
    | with_reducible apply State.grantSeqs_slot
    | with_reducible exact id
    | simp only [slot_mk_iff]
    | with_reducible apply SlotKept.upd
    | exact fun _ => ⟨rfl, rfl⟩
    | exact fun _ => ⟨trivial, trivial⟩
    | exact fun _ => Ctx.book_slot _ _ _
    | intro _ _ _
    | refine SlotKept.ofFst (by with_reducible assumption) ?_
    | refine SlotKept.ofSnd (by with_reducible assumption) ?_
    | dsimp only
    | split)

theorem State.saveWork_slot {n₀ : Nat} {s₀ s : State} (h : SlotKept n₀ s₀ s) (k : Nat) (c : Nat) :
    SlotKept n₀ s₀ (State.saveWork s k c) := by
  unfold State.saveWork
  repeat' (first
    | with_reducible assumption
    | with_reducible apply State.modCtx_slot
    | with_reducible apply State.setCore_slot
    | with_reducible apply State.draw_slot
    | with_reducible apply State.vwrite_slot
    | with_reducible exact id
    | simp only [slot_mk_iff]
    | with_reducible apply SlotKept.upd
    | exact fun _ => ⟨rfl, rfl⟩
    | exact fun _ => ⟨trivial, trivial⟩
    | exact fun _ => Ctx.book_slot _ _ _
    | intro _ _ _
    | refine SlotKept.ofFst (by with_reducible assumption) ?_
    | refine SlotKept.ofSnd (by with_reducible assumption) ?_
    | dsimp only
    | split)

theorem State.readSave_slot {n₀ : Nat} {s₀ s : State} (h : SlotKept n₀ s₀ s) (k : Nat) (c : Nat) (va : Nat) (y : Core) :
    SlotKept n₀ s₀ (State.readSave s k c va y) := by
  unfold State.readSave
  repeat' (first
    | with_reducible assumption
    | with_reducible apply State.modCtx_slot
    | with_reducible apply State.setCore_slot
    | with_reducible apply State.meet_slot
    | with_reducible exact id
    | simp only [slot_mk_iff]
    | with_reducible apply SlotKept.upd
    | exact fun _ => ⟨rfl, rfl⟩
    | exact fun _ => ⟨trivial, trivial⟩
    | exact fun _ => Ctx.book_slot _ _ _
    | intro _ _ _
    | refine SlotKept.ofFst (by with_reducible assumption) ?_
    | refine SlotKept.ofSnd (by with_reducible assumption) ?_
    | dsimp only
    | split)

theorem State.takeBack_slot {n₀ : Nat} {s₀ s : State} (h : SlotKept n₀ s₀ s) (k : Nat) (c : Nat) (x : Saved) :
    SlotKept n₀ s₀ (State.takeBack s k c x) := by
  unfold State.takeBack
  repeat' (first
    | with_reducible assumption
    | with_reducible apply State.draw_slot
    | with_reducible apply State.readSave_slot
    | with_reducible exact id
    | exact fun _ => ⟨rfl, rfl⟩
    | exact fun _ => ⟨trivial, trivial⟩
    | exact fun _ => Ctx.book_slot _ _ _
    | intro _ _ _
    | refine SlotKept.ofFst (by with_reducible assumption) ?_
    | refine SlotKept.ofSnd (by with_reducible assumption) ?_
    | dsimp only
    | split)

theorem State.restoreWork_slot {n₀ : Nat} {s₀ s : State} (h : SlotKept n₀ s₀ s) (k : Nat) (c : Nat) :
    SlotKept n₀ s₀ (State.restoreWork s k c) := by
  unfold State.restoreWork
  repeat' (first
    | with_reducible assumption
    | with_reducible apply State.modCtx_slot
    | with_reducible apply State.setCore_slot
    | with_reducible apply State.takeBack_slot
    | with_reducible exact id
    | simp only [slot_mk_iff]
    | with_reducible apply SlotKept.upd
    | exact fun _ => ⟨rfl, rfl⟩
    | exact fun _ => ⟨trivial, trivial⟩
    | exact fun _ => Ctx.book_slot _ _ _
    | intro _ _ _
    | refine SlotKept.ofFst (by with_reducible assumption) ?_
    | refine SlotKept.ofSnd (by with_reducible assumption) ?_
    | dsimp only
    | split)

theorem State.endSprig_slot {n₀ : Nat} {s₀ s : State} (h : SlotKept n₀ s₀ s) (k : Nat) :
    SlotKept n₀ s₀ (State.endSprig s k) := by
  unfold State.endSprig
  repeat' (first
    | with_reducible assumption
    | with_reducible apply State.modCtx_slot
    | with_reducible apply State.setCore_slot
    | with_reducible apply State.saveWork_slot
    | with_reducible apply State.restoreWork_slot
    | with_reducible exact id
    | simp only [slot_mk_iff]
    | with_reducible apply SlotKept.upd
    | exact fun _ => ⟨rfl, rfl⟩
    | exact fun _ => ⟨trivial, trivial⟩
    | exact fun _ => Ctx.book_slot _ _ _
    | intro _ _ _
    | refine SlotKept.ofFst (by with_reducible assumption) ?_
    | refine SlotKept.ofSnd (by with_reducible assumption) ?_
    | dsimp only
    | split)

theorem State.cutSprig_slot {n₀ : Nat} {s₀ s : State} (h : SlotKept n₀ s₀ s) (k : Nat) (c : Nat) :
    SlotKept n₀ s₀ (State.cutSprig s k c) := by
  unfold State.cutSprig
  repeat' (first
    | with_reducible assumption
    | with_reducible apply State.modCtx_slot
    | with_reducible apply State.setCore_slot
    | with_reducible exact id
    | simp only [slot_mk_iff]
    | with_reducible apply SlotKept.upd
    | exact fun _ => ⟨rfl, rfl⟩
    | exact fun _ => ⟨trivial, trivial⟩
    | exact fun _ => Ctx.book_slot _ _ _
    | intro _ _ _
    | refine SlotKept.ofFst (by with_reducible assumption) ?_
    | refine SlotKept.ofSnd (by with_reducible assumption) ?_
    | dsimp only
    | split)

theorem State.freeCore_slot {n₀ : Nat} {s₀ s : State} (h : SlotKept n₀ s₀ s) (k : Nat) :
    SlotKept n₀ s₀ (State.freeCore s k) := by
  unfold State.freeCore
  repeat' (first
    | with_reducible assumption
    | with_reducible apply State.setCore_slot
    | with_reducible apply State.raise_slot
    | with_reducible exact id
    | simp only [slot_mk_iff]
    | with_reducible apply SlotKept.upd
    | exact fun _ => ⟨rfl, rfl⟩
    | exact fun _ => ⟨trivial, trivial⟩
    | exact fun _ => Ctx.book_slot _ _ _
    | intro _ _ _
    | refine SlotKept.ofFst (by with_reducible assumption) ?_
    | refine SlotKept.ofSnd (by with_reducible assumption) ?_
    | dsimp only
    | split)

theorem State.freeCores_slot {n₀ : Nat} {s₀ s : State} (h : SlotKept n₀ s₀ s) (c : Nat) :
    SlotKept n₀ s₀ (State.freeCores s c) := by
  unfold State.freeCores
  repeat' (first
    | with_reducible assumption
    | with_reducible apply State.charge_slot
    | with_reducible apply State.restoreWork_slot
    | with_reducible apply State.endSprig_slot
    | with_reducible apply State.cutSprig_slot
    | with_reducible apply State.freeCore_slot
    | with_reducible exact id
    | simp only [slot_mk_iff]
    | with_reducible apply SlotKept.upd
    | with_reducible apply SlotKept.foldl
    | with_reducible apply SlotKept.foldlFst
    | exact fun _ => ⟨rfl, rfl⟩
    | exact fun _ => ⟨trivial, trivial⟩
    | exact fun _ => Ctx.book_slot _ _ _
    | intro _ _ _
    | refine SlotKept.ofFst (by with_reducible assumption) ?_
    | refine SlotKept.ofSnd (by with_reducible assumption) ?_
    | dsimp only
    | split)

theorem State.tidyCores_slot {n₀ : Nat} {s₀ s : State} (h : SlotKept n₀ s₀ s) :
    SlotKept n₀ s₀ (State.tidyCores s) := by
  unfold State.tidyCores
  repeat' (first
    | with_reducible assumption
    | with_reducible exact id
    | simp only [slot_mk_iff]
    | with_reducible apply SlotKept.upd
    | exact fun _ => ⟨rfl, rfl⟩
    | exact fun _ => ⟨trivial, trivial⟩
    | exact fun _ => Ctx.book_slot _ _ _
    | intro _ _ _
    | refine SlotKept.ofFst (by with_reducible assumption) ?_
    | refine SlotKept.ofSnd (by with_reducible assumption) ?_
    | dsimp only
    | split)

theorem State.sendAborts_slot {n₀ : Nat} {s₀ s : State} (h : SlotKept n₀ s₀ s) (c : Nat) :
    SlotKept n₀ s₀ (State.sendAborts s c) := by
  unfold State.sendAborts
  repeat' (first
    | with_reducible assumption
    | with_reducible apply State.draw_slot
    | with_reducible apply State.sendFor_slot
    | with_reducible exact id
    | with_reducible apply SlotKept.foldl
    | with_reducible apply SlotKept.foldlFst
    | exact fun _ => ⟨rfl, rfl⟩
    | exact fun _ => ⟨trivial, trivial⟩
    | exact fun _ => Ctx.book_slot _ _ _
    | intro _ _ _
    | refine SlotKept.ofFst (by with_reducible assumption) ?_
    | refine SlotKept.ofSnd (by with_reducible assumption) ?_
    | dsimp only
    | split)

theorem State.clearBreaks_slot {n₀ : Nat} {s₀ s : State} (h : SlotKept n₀ s₀ s) (c : Nat) :
    SlotKept n₀ s₀ (State.clearBreaks s c) := by
  unfold State.clearBreaks
  repeat' (first
    | with_reducible assumption
    | with_reducible apply State.setWl_slot
    | with_reducible exact id
    | simp only [slot_mk_iff]
    | with_reducible apply SlotKept.upd
    | with_reducible apply SlotKept.foldl
    | with_reducible apply SlotKept.foldlFst
    | exact fun _ => ⟨rfl, rfl⟩
    | exact fun _ => ⟨trivial, trivial⟩
    | exact fun _ => Ctx.book_slot _ _ _
    | intro _ _ _
    | refine SlotKept.ofFst (by with_reducible assumption) ?_
    | refine SlotKept.ofSnd (by with_reducible assumption) ?_
    | dsimp only
    | split)

theorem State.releaseCps_slot {n₀ : Nat} {s₀ s : State} (h : SlotKept n₀ s₀ s) :
    SlotKept n₀ s₀ (State.releaseCps s) := by
  unfold State.releaseCps
  repeat' (first
    | with_reducible assumption
    | with_reducible exact id
    | simp only [slot_mk_iff]
    | with_reducible apply SlotKept.upd
    | exact fun _ => ⟨rfl, rfl⟩
    | exact fun _ => ⟨trivial, trivial⟩
    | exact fun _ => Ctx.book_slot _ _ _
    | intro _ _ _
    | refine SlotKept.ofFst (by with_reducible assumption) ?_
    | refine SlotKept.ofSnd (by with_reducible assumption) ?_
    | dsimp only
    | split)

end Sys2Proof.Machine
end

