-- ==== Sys2Proof/Tests/Slice0.lean ====
section
/-! SUPPORT. The model's own tests: examples of the spec, ill-formed operands, and for every statement with hypotheses a
state and operands that meet them. -/

set_option Elab.async false

namespace Sys2Proof.Tests

open Sys2Proof.Machine

/-! ## States the witnesses start from -/

/-- No input power. -/
def off : State := { boot := .off }

/-- A running module with its host link up. -/
def up : State := { boot := .running, pins := { perstN := true }, pcie := { linkUp := true } }

/-- With SR-IOV on and 64 virtual functions. -/
def vfs : State := { up with pcie := { linkUp := true, crs := false, sriov := true, numVfs := 64 } }

/-- Port 31 in a given state. -/
def portAt (s : State) (p : Port) : State := { s with ports := [(31, p)] }

/-- Port 31 up with a session. -/
def linkUp : State := portAt up { st := 3, mask := 255, link := { established := true } }

/-- A TRAIN payload: training revision 1, module 0 to module 5, every lane. -/
def trainPayload : Bytes := [1, 0, 5, 0, 255] ++ List.replicate 11 0

/-- Port 31 in session, with a peer's HELLO of zeros, and the PROOF that answers it. -/
def proofUp : State := portAt up { st := 2, link := { helloSent := true, peerHello := some (List.replicate 146 0) } }

def proofPayload : Bytes :=
  List.replicate 5 0 ++ [2] ++ List.replicate 0x52 0 ++ sha384 (List.replicate 146 0) ++ List.replicate 0x100 0

/-- A flit of zeros with its check field. -/
def emptyFlit : Bytes := List.replicate 634 0 ++ toLE 8 (crc64 (List.replicate 634 0))

/-! The check field of a sealed flit. -/

theorem crcBits_lt (n c : Nat) (h : c < 2 ^ 64) : crcBits n c < 2 ^ 64 := by
  induction n generalizing c with
  | zero => exact h
  | succ n ih =>
    apply ih
    split
    · exact Nat.xor_lt_two_pow (Nat.mod_lt _ (by decide)) (by decide)
    · omega

theorem crc64_lt (d : Bytes) : crc64 d < 2 ^ 64 := by
  have h (c : Nat) (hc : c < 2 ^ 64) : d.foldl (fun c b => crcBits 8 (c ^^^ (b.toNat <<< 56))) c < 2 ^ 64 := by
    induction d generalizing c with
    | nil => exact hc
    | cons b d ih =>
      have hb : b.toNat <<< 56 < 2 ^ 64 := by
        rw [Nat.shiftLeft_eq]
        have := b.isLt
        omega
      rw [List.foldl_cons]
      apply ih
      apply crcBits_lt
      exact Nat.xor_lt_two_pow hc hb
  exact Nat.xor_lt_two_pow (h _ (by decide)) (by decide)

theorem leNat_toLE8 (n : Nat) (h : n < 2 ^ 64) : leNat (toLE 8 n) = n := by
  simp only [toLE, leNat, BitVec.toNat_ofNat]
  omega

theorem fld_close (b : Bytes) (hb : b.length = 634) : fld (b ++ toLE 8 (crc64 b)) 634 8 = crc64 ((b ++ toLE 8 (crc64 b)).take 634) := by
  rw [← hb, List.take_left]
  rw [fld, bslice, List.drop_left]
  have : (toLE 8 (crc64 b)).length = 8 := rfl
  simp only [List.length_append, this, Nat.add_sub_cancel_left, Nat.sub_self, List.replicate_zero, List.append_nil]
  rw [List.take_of_length_le (by omega)]
  exact leNat_toLE8 _ (crc64_lt _)
theorem emptyFlit_intact : flitIntact emptyFlit = true := by
  have h : fld emptyFlit 634 8 = crc64 (emptyFlit.take 634) := fld_close (List.replicate 634 0) (by decide +kernel)
  have n : emptyFlit.length = 642 := by decide +kernel
  unfold flitIntact
  rw [decide_eq_true h, decide_eq_true n]
  rfl

/-- A port that DOMAIN_JOIN has named. -/
def joining : State := portAt up { st := 3, mask := 255, link := { established := true, join := true } }

/-- Slot 63 holds job 7. -/
def jobUp : State := { linkUp with ctxs := [(63, { state := 1, record := some { job := 7 } })] }

/-- Page tables at 0x10000 to 0x14000 of device memory map pages 1 and 2 of the virtual space to frames 2 and 3; a list of
LIST_HEAD and LIST_END, with one descriptor of zeros at 0x10000, stands at virtual address 0x18000. -/
def tableBytes : SMap Byte :=
  [(0x10000, 0x01), (0x10001, 0x10), (0x10002, 0x01), (0x11000, 0x01), (0x11001, 0x20), (0x11002, 0x01),
   (0x12000, 0x01), (0x12001, 0x30), (0x12002, 0x01), (0x13000, 0x01), (0x13001, 0x40), (0x13002, 0x01),
   (0x14008, 0x07), (0x1400A, 0x02), (0x14010, 0x07), (0x14012, 0x03)]

def entryBytes (op count : Byte) (imm : Bytes) : Bytes :=
  [op, 0, count, 0] ++ List.replicate 12 0xFF ++ imm ++ List.replicate (16 - imm.length) 0 ++ List.replicate 4 0xFF ++ List.replicate 28 0

def listBytes : Bytes :=
  entryBytes 1 1 [0, 3, 0, 0, 2, 0, 0, 0, 0, 0, 1, 0, 0, 0, 0, 0] ++ entryBytes 2 0 []

/-- The bytes of a string that are not 0, from an address on. -/
def cellsAt (a : Nat) (bs : Bytes) : SMap Byte :=
  (((List.range bs.length).zip bs).filter (fun p => p.2 ≠ 0)).map (fun p => (a + p.1, p.2))

/-- The tables are kept under key 5, the two pages under key 9, which key slot 3 holds. -/
def demoMem : Mem :=
  { cells := tableBytes ++ cellsAt 0x28000 listBytes
    frames := [(1, some { tier := 0, stack := 0, key := 5, replay := false }),
               (2, some { tier := 0, stack := 0, key := 9, replay := false }),
               (3, some { tier := 0, stack := 0, key := 9, replay := false })]
    tableKey := 5
    keySlots := [(3, 9)] }

/-- A context in slot 0: range 0 in key slot 3, this module the only member of group 0, fences at 0x2C000. -/
def demoCtx (q : Queue) : Ctx :=
  { state := 1, record := some { ptRoot := 0x10000, logRing := 0x20000, scaleTable := 0x28000, fenceTable := 0x2C000, fenceCount := 4 }
    ranges := [{ slot := 3 }], queues := [(0, q)], groups := [[0]] }

def q0 : QRef := ⟨0, 0⟩

def withQueue (q : Queue) : State := { up with mem := demoMem, ctxs := [(0, demoCtx q)] }

/-- The context of slot 0 changed. -/
def withCtx (s : State) (f : Ctx → Ctx) : State := s.modCtx 0 f

/-- Queue 0 changed. -/
def withQ (s : State) (f : Queue → Queue) : State := s.modQueue q0 f

def listOf (e : Entry) (ds : List Desc) : AdmList := { addr := 0x100, entries := [e], descs := ds, micro := [] }

/-- A queue at an entry of a called list, in a given frame of it. -/
def atFrame (f : Frame) (e : Entry) (ds : List Desc) : State :=
  withQueue { enable := true, phase := .ready, stack := [f], tree := [listOf e ds] }

def atEntry (e : Entry) (ds : List Desc) : State := atFrame { addr := 0x100 } e ds

/-- A queue whose current ring entry is given. -/
def atRing (e : Entry) : State := withQueue { enable := true, phase := .ready, cur := some e }

/-- A contiguous tensor of format B16. -/
def d16 (base : Nat) (dims : List Nat) : Desc :=
  { base, fmt := 1, rank := dims.length, dims
    strides := (dims.foldl (fun (a : List Int × Int) (n : Nat) => (a.1 ++ [a.2], a.2 * (n : Int))) ([], 1)).1 }

def desc1 : List Nat := [0, 0xFFFF, 0xFFFF, 0xFFFF, 0xFFFF, 0xFFFF]

def desc2 : List Nat := [0, 1, 0xFFFF, 0xFFFF, 0xFFFF, 0xFFFF]

/-! What an operation answers, from a decidable fact about it. -/

theorem ok_pair {α β : Type} (p : α × Option β) (h : p.2.isNone = true) : ∃ v, p = (v, none) := by
  obtain ⟨a, _ | b⟩ := p
  · exact ⟨a, rfl⟩
  · cases h

theorem ok_pair' {α β : Type} (p : α × Option β) (h : p.2.isNone = true) : p = (p.1, none) := by
  obtain ⟨a, _ | b⟩ := p
  · rfl
  · cases h

theorem ok_some {α : Type} (x : Option α) (h : x.isSome = true) : ∃ v, x = some v := Option.isSome_iff_exists.mp h

theorem ok_val {ε α : Type} (x : Except ε α) (h : x.isOk = true) : ∃ v, x = .ok v := by
  cases x with
  | ok v => exact ⟨v, rfl⟩
  | error e => cases h

theorem ok_read {α ε β : Type} (p : α × Except ε β) (b : β) (h : p.2 = .ok b) : ∃ v, p = (v, .ok b) :=
  ⟨p.1, Prod.ext rfl h⟩

theorem ok_ret {α ε β : Type} (p : α × Except ε β) (h : p.2.isOk = true) : ∃ v b, p = (v, .ok b) := by
  obtain ⟨b, hb⟩ := ok_val p.2 h
  exact ⟨p.1, b, Prod.ext rfl hb⟩

theorem bad_ret {α ε β : Type} (p : α × Except ε β) (h : p.2.isOk = false) : ∃ v e, p = (v, .error e) := by
  obtain ⟨a, e | b⟩ := p
  · exact ⟨a, e, rfl⟩
  · cases h

theorem ok_two {ε α β : Type} (x : Except ε (α × β)) (h : x.isOk = true) : ∃ a b, x = .ok (a, b) := by
  obtain ⟨v, h⟩ := ok_val x h
  exact ⟨v.1, v.2, h⟩

theorem ok_is {ε α : Type} [DecidableEq α] (x : Except ε α) (v : α) (h : x.toOption = some v) : x = .ok v := by
  cases x with
  | ok w => exact congrArg Except.ok (Option.some.inj h)
  | error e => cases h

theorem ok_val1 {ε α γ δ : Type} (x : Except ε α) (f : α → γ × Option δ)
    (h : x.toOption.any (fun r => (f r).2.isNone) = true) : ∃ v, x = .ok v ∧ ∃ w, f v = (w, none) := by
  cases x with
  | ok v => exact ⟨v, rfl, ok_pair _ (by simpa [Except.toOption] using h)⟩
  | error e => cases h

theorem ok_val2 {ε α β γ δ : Type} (x : Except ε (α × β)) (f : α → β → γ × Option δ)
    (h : x.toOption.any (fun r => (f r.1 r.2).2.isNone) = true) : ∃ v d, x = .ok (v, d) ∧ ∃ w, f v d = (w, none) := by
  obtain ⟨v, h1, h2⟩ := ok_val1 x (fun r => f r.1 r.2) h
  exact ⟨v.1, v.2, h1, h2⟩

theorem ok_fst {α ε β γ δ : Type} (p : α × Except ε β) (f : α → β → γ × Option δ)
    (h : p.2.toOption.any (fun r => (f p.1 r).2.isNone) = true) : ∃ v b, p = (v, .ok b) ∧ ∃ w, f v b = (w, none) := by
  obtain ⟨b, h1, h2⟩ := ok_val1 p.2 (f p.1) h
  exact ⟨p.1, b, Prod.ext rfl h1, h2⟩

/-- The list at 0x18000 as admission reads it, and a queue whose trees fill the room. -/
def aTree : AdmList :=
  { addr := 0x18000, entries := [entryOf (entryBytes 1 1 [0, 3, 0, 0, 2, 0, 0, 0, 0, 0, 1, 0, 0, 0, 0, 0]), entryOf (entryBytes 2 0 [])]
    descs := [descOf false (zeros 128)], micro := [] }

def bigQueue : Queue :=
  { stack := [{ addr := 0x100 }], tree := List.replicate 512 { addr := 0x100, entries := [], descs := List.replicate 1024 {}, micro := [] } }

/-- The state with a domain secret. -/
def withRoot (s : State) : State := { s with sec := { s.sec with domain := some 5 } }

/-- A release rule for range 0, and a charter with it alone. -/
def aRule : CharterRule := { tensorId := 0, range := 0, form := 0, recipient := 0, releaseKey := 0, limit := 1 }

def aCharter : Charter :=
  { owners := 1, job := 0, flags := 0, logRelease := 0, digest := 0, ownerKeys := [], keys := [], digests := [], rules := [aRule]
    touchmarks := [] }

def withBuckets (s : State) (bs : List Bucket) : State := { s with buckets := bs }

def withReads (s : State) (rs : List HostRead) : State := { s with pcie := { s.pcie with reads := rs } }

/-- Slot 63 alone in use. -/
def slot63 (x : Ctx) : State := { up with ctxs := [(63, x)] }

/-- A live activation under way. -/
def withAct (s : State) : State := { s with fw := { s.fw with act := some 0 } }

/-- Core 79 in a given state. -/
def coreAt (s : State) (x : Core) : State := { s with cores := [(79, x)] }

/-- A sealed anneal sweep of slot 0. -/
def annealing (a : Anneal) : State := { withQueue {} with mem := { demoMem with anneals := [a] } }

/-- Every bank of the security firmware invalid. -/
def bootBad : State := { fw := { sec := { a := { valid := false } } } }

/-- Connections 1 of an administrator and 2 of the fabric role; a RAS record in the log. -/
def admin : State :=
  { up with mgmt := { conns := [{ id := 1, role := .admin, anchor := 0 }, { id := 2, role := .fabric, anchor := 0 }] }
            ras := { log := [{ time := 0, seq := 4, page := 0, cls := 0, code := 0, ctx := none, routed := false, info := 0 }] } }

def stagedAdmin : State := { admin with fw := { mgmt := { staged := true } } }

/-- The device time locked to a parent. -/
def lockedAdmin : State := { admin with clk := { locked := true } }

/-- A request of a connection. -/
def call (n : Nat) : Call := { conn := n }

theorem serves_all : Claims.Serves (admin.tick 5) (call 1) .all := ⟨_, rfl, by decide +kernel⟩

theorem serves_admin : Claims.Serves (admin.tick 5) (call 1) .admin := ⟨_, rfl, by decide +kernel⟩

theorem serves_fabric : Claims.Serves (admin.tick 5) (call 2) .fabric := ⟨_, rfl, by decide +kernel⟩

/-- An open debug session. -/
def dbgUp : State := { up with dbg := { session := true } }

/-- A breakpoint that the current entry of queue 0 meets. -/
def wlHit : State := { atEntry { op := 0x10, tag := 77 } [] with dbg := { wl := [(3, { enable := true, tag := 77 })] } }

/-- Slot 63 donates, slot 62 holds an entry that may run as a sprig. -/
def sprigging : State :=
  { up with ctxs := [(62, { state := 1, queues := [(0, { enable := true, sprig := true, phase := .ready, cur := some { op := 0x10 } })] }),
                     (63, { state := 1, sched := { flags := 1 }, queues := [(0, { enable := true, tail := 1 })] })] }

/-- A pair from its second half. -/
theorem eq_pair {α β : Type} (p : α × β) (x : β) (h : p.2 = x) : p = (p.1, x) := Prod.ext rfl h

theorem eq_some {α β : Type} (p : α × Option β) (h : p.2.isSome = true) : p = (p.1, some (p.2.get h)) :=
  Prod.ext rfl (Option.some_get h).symm

theorem ok_get {ε α : Type} (x : Except ε α) (f : α → Prop) [DecidablePred f] (h : x.toOption.any (fun v => decide (f v)) = true) :
    ∃ v, x = .ok v ∧ f v := by
  cases x with
  | ok v => exact ⟨v, rfl, by simpa [Except.toOption] using h⟩
  | error e => cases h

/-- Slot 63 holds job 7 of modules 0 and 5; its bucket of tag 0 awaits module 5. -/
def aBucket : Bucket := { job := 7, tag := 0, slot := 63, fmt := 1, elems := 8, inputs := [{ level := 0, rep := 1 }] }

def redUp : State :=
  { linkUp with ctxs := [(63, { state := 1, record := some { job := 7 }, groups := [[0, 5]] })], buckets := [aBucket] }

/-- Four page tables and a record at 0x20000 under the table key: 42 pages of 2 MiB from address 0 on lie in frames 32 to 63, with
a rank list of module 0 alone, an empty key-range table and a schedule record of one core. -/
def ctxMem : Mem :=
  { cells := [(0x10000, 0x01), (0x10001, 0x10), (0x10002, 0x01), (0x11000, 0x01), (0x11001, 0x20), (0x11002, 0x01),
      (0x12000, 0x01), (0x12001, 0x30), (0x12002, 0x01)]
      ++ (List.range 42).flatMap (fun k => [(0x13000 + 8 * k, (0x07 : Byte)), (0x13002 + 8 * k, 0x20)])
      ++ [(0x20002, 0x01), (0x2000E, 1), (0x20030, 16), (0x20040, 1), (0x20042, 64), (0x20069, 0x10), (0x20071, 0x20),
          (0x200001, 0x30), (0x200008, 1), (0x202002, 1), (0x202003, 1)]
    frames := [(1, some { tier := 0, stack := 0, key := 5, replay := false }), (2, some { tier := 0, stack := 0, key := 5, replay := false }),
               (32, some { tier := 0, stack := 0, key := 5, replay := false })]
    tableKey := 5 }

def ctxReady : State := { up with ident := { variant := .ulk8440 }, mem := ctxMem, ctxs := [(63, { recAddr := 0x20000 })] }

theorem eq_pair3 {α β : Type} (p : α × β) (x : α) (y : β) (h1 : p.1 = x) (h2 : p.2 = y) : p = (x, y) := Prod.ext h1 h2

theorem ok_ex {ε α : Type} (x : Except ε (Option α)) (h : x.toOption.any (·.isSome) = true) : ∃ v, x = .ok (some v) := by
  cases x with
  | ok v =>
    obtain ⟨w, h⟩ := Option.isSome_iff_exists.mp (by simpa [Except.toOption] using h : v.isSome = true)
    exact ⟨w, congrArg _ h⟩
  | error e => cases h

/-- A bucket that has started and owes the own contribution. -/
def startedBucket : Bucket :=
  { job := 0, tag := 5, slot := 0, issued := true, started := true, elems := 8, fmt := 1, d0 := some (d16 0x10000 [8]) }

def startedUp : State :=
  (withBuckets (withQ (atEntry { op := 0x50 } []) (fun y =>
    { y with phase := .running, begun := true, flight := .collective [5] false false })) [startedBucket]).tick 5

/-- Slot 63 active, with its schedule record in memory. -/
def ctxSched : State :=
  { ctxReady with ctxs := [(63, { state := 1, record := some { ptRoot := 0x10000, schedVa := 0x2000 } })] }

theorem ctxSched_read : ∃ r, ({ ctxSched.access 0 pgSched with
    sched := { (ctxSched.access 0 pgSched).sched with reloadCtx := sl 0x8000003F 5 0 } } : State).rereadSched
      (sl 0x8000003F 5 0) = some r :=
  ok_some _ (by decide +kernel)

/-- Locked to a parent whose port carries. -/
def timedAdmin : State := portAt { admin with clk := { locked := true, parent := some 31 } } { st := 3, mask := 255, link := { established := true } }

/-- A worklist breakpoint holds queue 0. -/
def heldUp : State :=
  { withQ (atEntry { op := 0x10 } []) (fun y => { y with phase := .held 3 }) with
    dbg := { session := true, wl := [(3, { enable := true, held := some q0 })] } }

/-- The frame view stands at a line of frame 2. -/
def viewUp : State := { withQueue {} with dbg := { session := true, fvAddr := 0x20000 } }

/-- COPY from device memory to a host page under bounce protection. -/
def bounced : State :=
  withCtx { atEntry { op := 0x33, desc := desc2 } [d16 0x10000 [0], d16 0x30000 [0]] with
    mem := { demoMem with cells := tableBytes ++ [(0x14018, 0x0F)] ++ cellsAt 0x28000 listBytes } } (fun x => { x with hostMode := 2 })

/-- Port 31 up with every lane. -/
def lanesUp : State :=
  portAt up { st := 3, mask := 255, link := { established := true }, lanes := (List.range 8).map (fun l => (l, ({ st := 1 } : Lane))) }

/-- An access of slot 63 waits for a repair. -/
def aParked : Parked :=
  { rid := 7, page := 0, va := 0, tag := 0, source := 0, reason := 0, queue := 0, write := false, replayable := true, written := true
    time := 0 }

def parkedUp : State := { vfs with ctxs := [(63, { state := 1, parked := [aParked] })] }

theorem ctxReady_pte :
    ctxReady.pte 0x10000 = .ok 0x11001 ∧ ctxReady.pte 0x11000 = .ok 0x12001 ∧ ctxReady.pte 0x12000 = .ok 0x13001 ∧
    ∀ k : Fin 42, ctxReady.pte (0x13000 + 8 * k.val) = .ok 0x200007 :=
  ⟨ok_is _ _ (by decide +kernel), ok_is _ _ (by decide +kernel), ok_is _ _ (by decide +kernel),
   fun k => ok_is _ _ ((by decide +kernel : ∀ k : Fin 42, (ctxReady.pte (0x13000 + 8 * k.val)).toOption = some 0x200007) k)⟩

theorem ctxReady_walk (va : Nat) (h : va < 0x5400000) : ∃ x, ctxReady.walk va true 4 0x10000 = .ok x ∧ x.host = false := by
  obtain ⟨h1, h2, h3, h4⟩ := ctxReady_pte
  have l4 : levelIndex va 4 = 0 := by simp [levelIndex, sl]; omega
  have l3 : levelIndex va 3 = 0 := by simp [levelIndex, sl]; omega
  have l2 : levelIndex va 2 = 0 := by simp [levelIndex, sl]; omega
  have l1 : levelIndex va 1 = va / 2097152 := by simp [levelIndex, sl]; omega
  have h5 : ctxReady.pte (0x13000 + 8 * (va / 2097152)) = .ok 0x200007 := h4 ⟨va / 2097152, by omega⟩
  have fr : 64 < ctxReady.frameCount := by decide +kernel
  have o : va % 2097152 / 65536 < 32 := by omega
  have f : ¬ (32 + va % 2097152 / 65536 ≥ ctxReady.frameCount) := by omega
  refine ⟨{ host := false, addr := (32 + va % 2097152 / 65536) * 65536 + va % 2097152 % 65536, pin := 0, cls := 0 }, ?_, rfl⟩
  unfold State.walk
  rw [l4, show 0x10000 + 8 * 0 = 0x10000 from rfl, h1]
  show State.walk _ _ _ 3 0x11000 = _
  unfold State.walk
  rw [l3, show 0x11000 + 8 * 0 = 0x11000 from rfl, h2]
  show State.walk _ _ _ 2 0x12000 = _
  unfold State.walk
  rw [l2, show 0x12000 + 8 * 0 = 0x12000 from rfl, h3]
  show State.walk _ _ _ 1 0x13000 = _
  unfold State.walk
  rw [l1, h5]
  show ctxReady.leaf va 0x200007 (va % 2097152) true true = _
  simp only [State.leaf]
  rw [if_neg (by decide), if_neg (by decide), if_neg (by decide), if_neg (by decide)]
  show (if 32 + va % 2097152 / 65536 ≥ ctxReady.frameCount then _ else _) = _
  rw [if_neg f]
  rfl

theorem pieces_lt (g fuel a n : Nat) (p : Nat × Nat) (h : p ∈ pieces g fuel a n) : p.1 < a + n := by
  induction fuel generalizing a n with
  | zero => cases h
  | succ fuel ih =>
    unfold pieces at h
    split at h
    · cases h
    · rcases List.mem_cons.mp h with rfl | h
      · show a < a + n
        omega
      · have := ih _ _ h
        omega

theorem ctxReady_areas (r : CtxRec) (h1 : r.ptRoot = 0x10000) (h2 : r.saveArea = 0) (h3 : r.faultRing = 0) (h4 : r.faultEntries = 64) :
    ctxReady.areasMapped r = true := by
  have m (n : Nat) (d : Bool) (h : n < 0x5400000) : ctxReady.mapsWrite 0x10000 0 n d = true := by
    unfold State.mapsWrite
    rw [Bool.and_eq_true]
    refine ⟨decide_eq_true (by omega), List.all_eq_true.mpr ?_⟩
    intro p hp
    obtain ⟨x, e, hx⟩ := ctxReady_walk p.1 (by have := pieces_lt _ _ _ _ _ hp; omega)
    rw [e]
    simp [hx]
  obtain ⟨x, e, hx⟩ := ctxReady_walk 0 (by decide)
  unfold State.areasMapped
  rw [h1, h2, h3, h4, m _ _ (by decide), State.ringBytes, e]
  simp only [hx]
  rw [m _ _ (by decide)]
  rfl

/-- The record, the key-range table and the schedule record as CREATE reads them. -/
theorem ctxReady_built : ∃ b, (ctxReady.access 0 (pgCtx 63)).buildCtx 63 = .ok b := by
  show ∃ b, ctxReady.buildCtx 63 = .ok b
  obtain ⟨rb, h1, h2⟩ := ok_get (ctxReady.physRead ctxReady.mem.tableKey false (ctxReady.ctx 63).recAddr 128) (fun rb =>
    (recOf rb).inRange = true ∧ (recOf rb).ptRoot = 0x10000 ∧ (recOf rb).saveArea = 0 ∧ (recOf rb).faultRing = 0
      ∧ (recOf rb).faultEntries = 64 ∧ bit (recOf rb).mode 1 = false ∧ bit (recOf rb).mode 2 = false
      ∧ (recOf rb).keyrangeVa = 0x1000 ∧ (recOf rb).schedVa = 0x2000 ∧ (ctxReady.readGroups (recOf rb)).isSome = true)
    (by decide +kernel)
  obtain ⟨i, p, a, f, n, m1, m2, kv, sv, g⟩ := h2
  obtain ⟨gs, g⟩ := ok_some _ g
  obtain ⟨kb, k1, k2⟩ := ok_get (ctxReady.tread 0x10000 0x1000 256) (fun kb => rangesOk (rangesOfTable kb) = true) (by decide +kernel)
  obtain ⟨sb, s1, s2⟩ := ok_get (ctxReady.tread 0x10000 0x2000 32) (fun sb =>
    ctxReady.schedOk 63 false (schedOf sb) = true ∧ ctxReady.withReloads.schedOk 63 false (schedOf sb) = true) (by decide +kernel)
  have free : (ctxReady.ctx 63).state = 0 := by decide +kernel
  have inTable : (ctxReady.ctx 63).recAddr / 65536 < ctxReady.frameCount := by decide +kernel
  refine ⟨{ record := recOf rb, groups := gs, ranges := rangesOfTable kb, sched := schedOf sb, charter := none }, ?_⟩
  unfold State.buildCtx
  simp only [free, inTable, if_true, h1, i, ctxReady_areas _ p a f n, g, p, kv, sv, k1, s1, m2, k2, s2, State.readCharter, m1]
  rfl

/-! ## Examples of the spec, and published test vectors -/

/-- The example after R163: MUL V2 ← IN0 × V1. -/
theorem test_micro_op : microOf 0x0424010000000000 = { op := 4, dst := 2, a := 0x10, b := 1, c := 0, rsvd := 0, md := 0, imm := 0 } := by
  decide +kernel

/-- R173's example: six tokens, two routes each, capacity 3. -/
theorem test_route_slots :
    (slotsOf [(0, 0, 1), (0, 1, 0), (1, 0, 1), (1, 1, 2), (2, 0, 1), (2, 1, 0), (3, 0, 2), (3, 1, 1), (4, 0, 0), (4, 1, 2),
      (5, 0, 1), (5, 1, 2)]).map (fun r => (r.g, r.slot))
    = [(1, 0), (0, 0), (1, 1), (2, 0), (1, 2), (0, 1), (2, 1), (1, 3), (0, 2), (2, 2), (1, 4), (2, 3)] := by decide +kernel

/-- R103's example: 3.1 is 25,395.2 grid units, −0.001 is −8.192 units. -/
theorem test_stochastic_grid :
    stochGrid false 26628797235 (-20) 0 13106 = 25396 ∧ stochGrid false 26628797235 (-20) 0 13107 = 25395 ∧
    stochGrid true 8589934 (-20) 0 52952 = -8 ∧ stochGrid true 8589934 (-20) 0 52953 = -9 := by decide +kernel

/-- R103's example: a block whose largest magnitude is 3.1 has exponent 129. -/
theorem test_p16_exponent : (p16Block [.fin false 3250585 (-20), .fin true 1049 (-20)] none).1 = 129 := by decide +kernel

/-- The example after R118: 131 gives 124, 133 gives 126; a tile that overflowed loses its boost and 2 of its adjustment. -/
theorem test_scale_update :
    newExp { exp := 0, fmt := 0, flags := 0, pos := 0, ovf := 0, adjVa := 0, origin := 0, item := 0, tiles := 0, items := 0, hist := [131, 0] } 8 = 124 ∧
    newExp { exp := 0, fmt := 0, flags := 0, pos := 0, ovf := 0, adjVa := 0, origin := 0, item := 0, tiles := 0, items := 0, hist := [133, 131] } 8 = 126 ∧
    (tileUpdate 2 [0, 0, 1, 0]).1.take 2 = [254, 0] := by decide +kernel

/-- R410's example: BLK_ID of core 41; absent on ULK-8440. -/
theorem test_block_id :
    (up.hostRead 0 0x39 0).1 = 0x01290010 ∧ (({ up with ident := { variant := .ulk8440 } } : State).hostRead 0 0x39 0).1 = 0 := by
  decide +kernel

/-- FIPS 180-4's example of SHA-384. -/
theorem test_sha384 :
    beNat ((sha384 [0x61, 0x62, 0x63]).take 16) = 0xcb00753f45a35e8bb5a03d699ac65007 := by decide +kernel

/-- The GCM specification's test case 13: AES-256, nothing sealed. -/
theorem test_gcm : beNat (gcmSeal (zeros 32) (zeros 12) [] []).2 = 0x530f8afbc74536b9a963b4f1c4cb738b := by decide +kernel

/-- The check value of CRC-64/WE (ECMA-182, all ones, inverted) of "123456789". -/
theorem test_crc64 : crc64 [0x31, 0x32, 0x33, 0x34, 0x35, 0x36, 0x37, 0x38, 0x39] = 0x62EC59E3F1A4F00A := by decide +kernel

/-! ## Commands, with results from the rules cited -/

def ok (r : Host.Outcome State Fault Refusal) (p : State → Bool) : Bool := match r with | .next s => p s | _ => false

/-- R43: beyond the absolute limit the machine stops. -/
theorem test_absolute_limit : exec (.powerUp 5 65001) off = .fault .absoluteLimit := by rfl

/-- R416: IDCODE. -/
theorem test_idcode : ok (exec (.idcode 5) { boot := .standby }) (fun s => s.out = [.tap 0x14B2156F]) = true := by decide +kernel

/-- R247, R270: a quench raises the generation, which wraps. -/
theorem test_quench_wraps :
    ok (exec (.quenchContext 5 (call 1) 63) { admin with ctxs := [(63, { state := 1, gen := 255 })] })
      (fun s => (s.ctx 63).state = 2 && (s.ctx 63).gen = 0) = true := by decide +kernel

/-- R256: a tail 2^DEPTH + 1 ahead of the head stops the queue. -/
theorem test_doorbell_overrun :
    ok (exec (.doorbell 5 0 63 8 65) (slot63 { state := 1, queues := [(1, { enable := true })] }))
      (fun s => (s.queue ⟨63, 1⟩).error) = true ∧
    ok (exec (.doorbell 5 0 63 8 64) (slot63 { state := 1, queues := [(1, { enable := true })] }))
      (fun s => !(s.queue ⟨63, 1⟩).error && (s.queue ⟨63, 1⟩).tail = 64) = true := by decide +kernel

/-- R351: a tampered module holds no root. -/
theorem test_tamper : ok (exec (.tamper 5 .mesh) up) (fun s => s.sec.fuse && s.sec.root.isNone) = true := by decide +kernel

/-- R403: writing 1 clears pending bits, writing 0 leaves them. -/
theorem test_irq_clear :
    ok (exec (.irqStatClear 5 0 pgRas 2) { up with hdrs := [(pgRas, { stat := 3 })] }) (fun s => (s.hdr pgRas).stat = 1) = true := by
  decide +kernel

/-- R87: the last iteration leaves the loop, the one before goes back. -/
theorem test_loop_end :
    ok (exec (.loopEnd 5 q0) (atFrame { addr := 0x100, loops := [{ start := 0, count := 2, iter := 0 }] } { op := 5 } []))
      (fun s => ((s.queue q0).stack.map (·.loops)) = [[{ start := 0, count := 2, iter := 1 }]]) = true := by decide +kernel

/-- An empty queue idles; the front command runs. -/
theorem test_step : step up = .next up ∧ ok (step { up with pending := [.idcode 5] }) (fun s => s.pending = []) = true :=
  ⟨rfl, by decide +kernel⟩

/-! ## Well-formedness: an ill-formed operand for each check -/

theorem smoke_slot : (Instr.quenchDone 0 64).wf = false ∧ (Instr.quenchDone 0 63).wf = true := by decide

theorem smoke_queue : (Instr.nop 0 ⟨0, 16⟩).wf = false ∧ (Instr.nop 0 ⟨64, 0⟩).wf = false ∧ (Instr.nop 0 ⟨63, 15⟩).wf = true := by decide

theorem smoke_fn : (Instr.histClear 0 66).wf = false ∧ (Instr.histClear 0 65).wf = true := by decide

theorem smoke_port : (Instr.flitSend 0 32).wf = false ∧ (Instr.flitSend 0 31).wf = true := by decide

theorem smoke_word : (Instr.dalRead 0 0x100000000).wf = false ∧ (Instr.dalRead 0 0xFFFFFFFF).wf = true := by decide

theorem smoke_page : (Instr.hangWatchdog 0 65536).wf = false ∧ (Instr.hangWatchdog 0 65535).wf = true := by decide

theorem smoke_offset : (Instr.loReadLatch 0 0 0 2).wf = false ∧ (Instr.loReadLatch 0 0 0 4096).wf = false ∧
    (Instr.loReadLatch 0 0 0 4092).wf = true := by decide

theorem smoke_window : (Instr.windowRead 0 0 0x1000000000 1).wf = false ∧ (Instr.windowRead 0 0 0xFFFFFFFFF 1).wf = true := by decide

theorem smoke_core : (Instr.preemptionPoint 0 80).wf = false ∧ (Instr.preemptionPoint 0 79).wf = true := by decide

theorem smoke_unit : (Instr.laserUnitFail 0 2).wf = false ∧ (Instr.laserUnitFail 0 1).wf = true := by decide

theorem smoke_region : (Instr.skewDrain 0 8).wf = false ∧ (Instr.skewDrain 0 7).wf = true := by decide

theorem smoke_lane : (Instr.laneFail 0 0 8).wf = false ∧ (Instr.laneFail 0 31 7).wf = true := by decide

theorem smoke_rail : (Instr.railResetLevel 0 16).wf = false ∧ (Instr.railResetLevel 0 15).wf = true := by decide

theorem smoke_breakpoint : (Instr.wlResume 0 65 4).wf = false ∧ (Instr.wlResume 0 65 3).wf = true := by decide

theorem smoke_frame : (Instr.migrationSwitch 0 67108864).wf = false ∧ (Instr.migrationSwitch 0 67108863).wf = true := by decide

theorem smoke_byte : (Instr.packageReset 0 256).wf = false ∧ (Instr.packageReset 0 255).wf = true := by decide

theorem smoke_vfs : (Instr.sriovEnable 0 true 65).wf = false ∧ (Instr.sriovEnable 0 true 64).wf = true := by decide

theorem smoke_payload : (Instr.finish 0 0 (zeros 4097)).wf = false ∧ (Instr.finish 0 0 (zeros 4096)).wf = true := by
  decide +kernel

theorem smoke_bind : (Instr.bindSlot 0 0 ⟨63, 0, 255, zeros 95⟩).wf = false ∧ (Instr.unbind 0 0 ⟨63, 256, 255, zeros 96⟩).wf = false ∧
    (Instr.bindSlot 0 0 ⟨63, 0, 255, zeros 96⟩).wf = true := by decide +kernel

theorem smoke_flit : (Instr.flitReceive 0 0 (zeros 641)).wf = false ∧ (Instr.flitReceive 0 0 (zeros 642)).wf = true := by
  decide +kernel

theorem smoke_packet :
    (Instr.data 0 0 { ptype := 16 }).wf = false ∧ (Instr.data 0 0 { dst := 65536 }).wf = false ∧
    (Instr.data 0 0 { ptype := 15, dst := 65535 }).wf = true := by decide +kernel

/-! ## Witnesses: the commands -/

def sPowerAndPin5 : State := ({ up with boot := .tripHeld } : State).tick 5

def sPowerAndPin6 : State := ({ up with pins := { modResetN := false } } : State).tick 5

def sPowerAndPin8 : State := ({ off with pins := { perstN := true } } : State).tick 5

def sPowerAndPin9 : State := ({ up with pins := {} } : State).tick 5

/-- The hypotheses of every clause of PowerAndPinCommands are met together by some state and operands. -/
theorem wit_PowerAndPinCommands :
    (47000 ≤ 65000 ∧ 65000 ≤ 65000 ∧ (off.tick 5).powered = false) ∧
    (45000 ≤ 45000 ∧ 45000 < 48000 ∧ (up.tick 5).powered = true) ∧
    ((up.tick 5).powered = true) ∧
    ((up.tick 5).powered = true) ∧
    ((up.tick 5).powered = true ∧ (up.tick 5).pins.modResetN = true ∧ (up.tick 5).boot ≠ .tripHeld) ∧
    (sPowerAndPin5.pins.modResetN = true ∧ sPowerAndPin5.boot = .tripHeld) ∧
    (sPowerAndPin6.powered = true ∧ sPowerAndPin6.pins.modResetN = false) ∧
    ((up.tick 5).pins.perstN = true ∧ (up.tick 5).powered = true) ∧
    (sPowerAndPin8.pins.perstN = true ∧ sPowerAndPin8.powered = false) ∧
    (sPowerAndPin9.powered = true ∧ sPowerAndPin9.pins.perstN = false) ∧
    ((up.tick 5).linkTrains.hostUp = true) := by decide +kernel

def sSecurityEvent7 : State := ({ up with sec := { waits := [(0, .anneal)] } } : State).tick 1000000000

def sSecurityEvent8 : State := ({ up with sec := { waits := [(0, .create 63)] } } : State).tick 1000000000

def sSecurityEvent9 : State := ({ up with sec := { waits := [(0, .hello 31)] } } : State).tick 1000000000

def sSecurityEvent10 : State := ({ up with sec := { waits := [(0, .domain (call 1))] } } : State).tick 1000000000

def sSecurityEvent11 : State := ({ up with sec := { waits := [(0, .rekey 31)] } } : State).tick 1000000000

def sSecurityEvent12 : State := ({ up with sec := { waits := [(0, .boot)] } } : State).tick 1000000000

/-- The hypotheses of every clause of SecurityEventCommands are met together by some state and operands. -/
theorem wit_SecurityEventCommands :
    (63 < 64 ∧ ((vfs.tick 5).hostUp = true ∧ (vfs.tick 5).bound 63 = true)) ∧
    ((up.tick 5).hostUp = true) ∧
    ((up.tick 5).powered = true) ∧
    ((off.tick 5).powered = false) ∧
    (5 < 6) ∧
    (5 < 6 ∧ (up.tick 5).running = true) ∧
    ((up.tick 5).powered = true) ∧
    (sSecurityEvent7.sec.waits[0]? = some (0, .anneal) ∧ 0 + 1000000000 ≤ sSecurityEvent7.clk.now) ∧
    (sSecurityEvent8.sec.waits[0]? = some (0, .create 63) ∧ 0 + 1000000000 ≤ sSecurityEvent8.clk.now) ∧
    (sSecurityEvent9.sec.waits[0]? = some (0, .hello 31) ∧ 0 + 1000000000 ≤ sSecurityEvent9.clk.now) ∧
    (sSecurityEvent10.sec.waits[0]? = some (0, .domain (call 1)) ∧ 0 + 1000000000 ≤ sSecurityEvent10.clk.now) ∧
    (sSecurityEvent11.sec.waits[0]? = some (0, .rekey 31) ∧ 0 + 1000000000 ≤ sSecurityEvent11.clk.now) ∧
    (sSecurityEvent12.sec.waits[0]? = some (0, .boot) ∧ 0 + 1000000000 ≤ sSecurityEvent12.clk.now) := by decide +kernel

def sLaser2 : State :=
  ({ up with lasers := [(0, { emitting := false }), (1, { released := true, emitting := false })] } : State).tick 5

/-- The hypotheses of every clause of LaserCommands are met together by some state and operands. -/
theorem wit_LaserCommands :
    (1 < 2 ∧ ((up.tick 5).laser 1).present = true) ∧
    (1 < 2) ∧
    (1 < 2 ∧ ((sLaser2.laser 1).released = true ∧ ∀ q ∈ sLaser2.portList, sLaser2.feeds q ≠ some 1 ∧ (sLaser2.port
     q).moving = false)) ∧
    (1 < 2) := by decide +kernel

/-- The hypotheses of every clause of ReferenceClockCommands are met together by some state and operands. -/
theorem wit_ReferenceClockCommands :
    ((up.tick 5).powered = true ∧ (up.tick 5).clk.held = false) ∧
    ((({ up with clk := { held := true } } : State).tick 5).clk.held = true) ∧
    ((up.tick 5).powered = true ∧ (up.tick 5).clk.pcieLost = false) ∧
    ((({ up with clk := { pcieLost := true } } : State).tick 5).clk.pcieLost = true) := by decide +kernel

def sRail1 : State := ({ up with pwr := { rails := [(15, { st := 1 })] } } : State).tick 5

/-- The hypotheses of every clause of RailCommands are met together by some state and operands. -/
theorem wit_RailCommands :
    ((up.tick 5).powered = true ∧ (up.tick 5).railPresent 15 = true ∧ ((up.tick 5).rail 15).st ≠ 1) ∧
    (sRail1.powered = true ∧ sRail1.railPresent 15 = true ∧ (sRail1.rail 15).st = 1) ∧
    (sRail1.railPresent 15 = true ∧ (sRail1.rail 15).st = 1) ∧
    (7 < 8 ∧ ((up.tick 5).powered = true ∧ (up.tick 5).railPresent 7 = true)) ∧
    ((up.tick 5).powered = true ∧ (up.tick 5).railPresent 14 = true) ∧
    (8 ≤ 8 ∧ 8 ≠ 14 ∧ ((up.tick 5).powered = true ∧ (up.tick 5).railPresent 8 = true)) := by decide +kernel

def sRegion1 : State := ({ up with pwr := { regions := [(7, { pulling := some (0, 1) })] } } : State).tick 1000000

def sRegion2 : State := ({ up with pwr := { regions := [(7, { drained := 2, temp := 89 })] } } : State).tick 5

/-- The hypotheses of every clause of RegionCommands are met together by some state and operands. -/
theorem wit_RegionCommands :
    ((up.tick 5).running = true) ∧
    (sRegion1.running = true ∧ 7 ∈ sRegion1.regions ∧ (sRegion1.region 7).drained = 0 ∧ ∃ p : Nat × Nat,
     (sRegion1.region 7).pulling = some p ∧ p.1 + 1000000 ≤ sRegion1.clk.now) ∧
    (sRegion2.running = true ∧ 7 ∈ sRegion2.regions ∧ (((sRegion2.region 7).drained = 1 ∧ ∃ a : Nat, (sRegion2.region
     7).okAt = some a ∧ a + 100000000 ≤ sRegion2.clk.now) ∨ ((sRegion2.region 7).drained = 2 ∧ (sRegion2.region
     7).temp < 90))) :=
  ⟨by decide +kernel,
   by exact ⟨by decide +kernel, by decide +kernel, by decide +kernel, (0, 1), by decide +kernel⟩,
   by exact ⟨by decide +kernel, by decide +kernel, .inr (by decide +kernel)⟩⟩

def sThermal1 : State := ({ up with pwr := { regions := [(7, { throttle := true })] } } : State).tick 5

def sThermal2 : State := ({ up with pwr := { regions := [(7, { mhz := 1550 })] } } : State).tick 5

def sThermal9 : State := ({ up with pwr := { regions := [(7, { drained := 2 })] } } : State).tick 5

/-- The hypotheses of every clause of ThermalCommands are met together by some state and operands. -/
theorem wit_ThermalCommands :
    (95 ≤ 95 ∧ ((up.tick 5).running = true ∧ 7 ∈ (up.tick 5).regions)) ∧
    (93 ≤ 93 ∧ (sThermal1.running = true ∧ 7 ∈ sThermal1.regions ∧ (sThermal1.region 7).drained ≠ 2 ∧
     (sThermal1.region 7).throttle = true)) ∧
    (89 < 90 ∧ (sThermal2.running = true ∧ 7 ∈ sThermal2.regions ∧ (sThermal2.region 7).drained ≠ 2 ∧
     (sThermal2.region 7).mhz < sThermal2.clockCap 7)) ∧
    (105 ≤ 105 ∧ ((up.tick 5).running = true ∧ 7 ∈ (up.tick 5).regions ∧ ((up.tick 5).region 7).drained ≠ 2)) ∧
    (100 ≤ 100 ∧ (up.tick 5).running = true) ∧
    (95 ≤ 95 ∧ ((up.tick 5).running = true ∧ 7 < (up.tick 5).ident.variant.near)) ∧
    ((30 + 15 < 46 ∨ 60 < 46) ∧ (up.tick 5).running = true) ∧
    (40 < 41 ∧ (up.tick 5).running = true) ∧
    (89 < 90 ∧ ((up.tick 5).running = true ∧ 7 ∈ (up.tick 5).regions)) ∧
    (89 < 90 ∧ (sThermal9.running = true ∧ (sThermal9.region 7).drained = 2)) ∧
    (89 < 90 ∧ (up.tick 5).running = true) ∧
    (99 < 100 ∧ (up.tick 5).running = true) ∧
    (54 < 43 + 12 ∧ 54 < 55 ∧ (up.tick 5).running = true) ∧
    (94 < 95 ∧ (up.tick 5).running = true) ∧
    (38 ≤ 38 ∧ (up.tick 5).running = true) ∧
    (115 ≤ 115 ∧ (up.tick 5).powered = true) ∧
    (84 < 85 ∧ (({ up with boot := .tripHeld } : State).tick 5).boot = .tripHeld) := by decide +kernel

/-- The hypotheses of every clause of PowerMeasureCommand are met together by some state and operands. -/
theorem wit_PowerMeasureCommand :
    ((up.tick 5).running = true) := by decide +kernel

def sBringup1 : State := (portAt up { st := 1, light := true }).tick 5

def sBringup2 : State := (portAt up { st := 1, moving := true }).tick 5

def sBringup3 : State := (portAt up { st := 2, lightAt := 0 }).tick 1000000000

def sBringup4 : State := (portAt up { st := 1, moving := true, movedAt := 0 }).tick 1000000000

def sBringup5 : State := (portAt up { st := 4, retryAt := 5 }).tick 5

def sBringup6 : State := (portAt up { st := 1, locked := true, mask := 255 }).tick 5

/-- The hypotheses of every clause of BringupCommands are met together by some state and operands. -/
theorem wit_BringupCommands :
    ((up.tick 5).mayBringUp 31 = true ∧ ((up.tick 5).port 31).st = 0) ∧
    (sBringup1.live = true ∧ (sBringup1.port 31).st = 1 ∧ (sBringup1.port 31).locked = false ∧ (sBringup1.port
     31).moving = false ∧ (sBringup1.port 31).light = true) ∧
    (sBringup2.live = true ∧ (sBringup2.port 31).st = 1 ∧ (sBringup2.port 31).locked = false ∧ (sBringup2.port
     31).moving = true) ∧
    (((sBringup3.port 31).st = 1 ∨ (sBringup3.port 31).st = 2) ∧ (sBringup3.port 31).moving = false ∧ (sBringup3.port
     31).lightAt + 1000000000 ≤ sBringup3.clk.now) ∧
    ((sBringup4.port 31).moving = true ∧ (sBringup4.port 31).movedAt + 1000000000 ≤ sBringup4.clk.now) ∧
    ((sBringup5.port 31).st = 4 ∧ (sBringup5.port 31).retryAt ≤ sBringup5.clk.now ∧ (sBringup5.setPort 31
     { sBringup5.port 31 with st := 0 }).mayBringUp 31 = true) ∧
    (trainPayload.length = 16 ∧ fld trainPayload 0 1 = 1 ∧ (sBringup6.live = true ∧ (sBringup6.port 31).st = 1 ∧
     (sBringup6.port 31).locked = true ∧ (sBringup6.port 31).moving = false ∧ sBringup6.peerAllowed (fld trainPayload
     2 2) = true ∧ 4 ≤ popcount ((sBringup6.port 31).mask &&& fld trainPayload 4 1) 8)) := by decide +kernel

def sSession0 : State := (portAt up { st := 2, link := { helloSent := true } }).tick 5

def sSession1 : State := (portAt up { st := 2 }).tick 5

def sSession3 : State := (portAt up { st := 2, link := { finishSent := true } }).tick 5

def sSession5 : State := (portAt up { st := 3, link := { established := true } }).tick 86400000000000

def sSession6 : State :=
  (portAt { up with sec := { trngOk := false } } { st := 3, link := { established := true } }).tick 86400000000000

/-- The hypotheses of every clause of SessionCommands are met together by some state and operands. -/
theorem wit_SessionCommands :
    ((List.replicate 146 0).length = 146 ∧ (sSession0.live = true ∧ (sSession0.port 31).st = 2 ∧ (sSession0.port
     31).link.helloSent = true ∧ (sSession0.port 31).link.peerHello = none)) ∧
    (sSession1.live = true ∧ (sSession1.port 31).st = 2 ∧ (sSession1.port 31).link.proofOk = false) ∧
    ((proofUp.tick 5).live = true ∧ ((proofUp.tick 5).port 31).st = 2 ∧ ((proofUp.tick 5).port 31).link.proofOk =
     false ∧ ((proofUp.tick 5).port 31).link.peerHello = some (List.replicate 146 0) ∧ (proofUp.tick 5).proofOk 31
     proofPayload ({ chainOk := true, sigOk := true } : ProofVerdict) = true) ∧
    (sSession3.live = true ∧ (sSession3.port 31).st = 2 ∧ (sSession3.port 31).link.finishSent = true ∧ (sSession3.port
     31).link.established = false ∧ ((sSession3.port 31).finishMac 31) = (sSession3.port 31).finishMac 31) ∧
    (({ ptype := 12, payload := 5 :: List.replicate 144 1 } : Packet).ptype = 0x0C ∧
     ({ ptype := 12, payload := 5 :: List.replicate 144 1 } : Packet).payload.length = 145 ∧ fld
     ({ ptype := 12, payload := 5 :: List.replicate 144 1 } : Packet).payload 0 1 = 5 ∧ ((linkUp.tick 5).admitPacket
     31 ({ ptype := 12, payload := 5 :: List.replicate 144 1 } : Packet)).2 = true) ∧
    (sSession5.live = true ∧ (sSession5.port 31).st = 3 ∧ (sSession5.port 31).link.established = true ∧
     (sSession5.port 31).link.rekeySent = false ∧ sSession5.sec.trngOk = true ∧ ((sSession5.port 31).link.ctrNear =
     true ∨ (sSession5.port 31).link.at_ + 86400000000000 ≤ sSession5.clk.now)) ∧
    (sSession6.live = true ∧ (sSession6.port 31).st = 3 ∧ (sSession6.port 31).link.established = true ∧
     (sSession6.port 31).link.rekeySent = false ∧ sSession6.sec.trngOk = false ∧ ((sSession6.port 31).link.ctrNear =
     true ∨ (sSession6.port 31).link.at_ + 86400000000000 ≤ sSession6.clk.now)) :=
  ⟨by decide +kernel,
   by decide +kernel,
   by decide +kernel,
   by decide +kernel,
   by decide +kernel,
   by exact ⟨by decide +kernel, by decide +kernel, by decide +kernel, by decide +kernel, by decide +kernel,
     .inr (by decide +kernel)⟩,
   by exact ⟨by decide +kernel, by decide +kernel, by decide +kernel, by decide +kernel, by decide +kernel,
     .inr (by decide +kernel)⟩⟩

def sLane0 : State := (portAt up { lanes := (List.range 8).map (fun l => (l, ({ st := 1 } : Lane))) }).tick 5

def sLane1 : State :=
  (portAt up { st := 3, lanes := (List.range 7).map (fun l => (l, ({ st := 1 } : Lane))) ++ [(7, ({ st := 3 } : Lane))] }).tick 10000000000

def sLane3 : State :=
  (portAt up { st := 3, recalReq := [7], lanes := (List.range 8).map (fun l => (l, ({ st := 1 } : Lane))) }).tick 5

/-- The hypotheses of every clause of LaneCommands are met together by some state and operands. -/
theorem wit_LaneCommands :
    (7 < 8 ∧ (((sLane0.port 31).lane 7).st = 1 ∨ ((sLane0.port 31).lane 7).st = 2)) ∧
    (7 < 8 ∧ ((sLane1.port 31).st = 3 ∧ ((sLane1.port 31).lane 7).st = 3 ∧ ((sLane1.port 31).lane 7).failedAt +
     10000000000 ≤ sLane1.clk.now ∧ (sLane1.port 31).recalibrating = false ∧ 4 ≤ (sLane1.port 31).active.length ∧
     (sLane1.port 31).active.length ≤ 7)) ∧
    (7 < 8 ∧ 9 < 10 ∧ ((((portAt up { lanes := (List.range 8).map (fun l => (l, ({ st := 1 } : Lane))) }).tick 5).port
     31).lane 7).st = 1) ∧
    (7 < 8 ∧ ((sLane3.port 31).st = 3 ∧ 7 ∈ (sLane3.port 31).recalReq ∧ ((sLane3.port 31).lane 7).st = 1 ∧ 5 ≤
     (sLane3.port 31).coming.length ∧ (sLane3.port 31).recalibrating = false)) ∧
    (7 < 8 ∧ ((((portAt up
     { lanes := (List.range 7).map (fun l => (l, ({ st := 1 } : Lane))) ++ [(7, ({ st := 2 } : Lane))] }).tick 5).port
     31).lane 7).st = 2) ∧
    (7 < 8 ∧ ((((portAt up
     { lanes := (List.range 7).map (fun l => (l, ({ st := 1 } : Lane))) ++ [(7, ({ st := 2 } : Lane))] }).tick 5).port
     31).lane 7).st = 2) ∧
    (({ ptype := 0x0D, payload := List.replicate 8 0 } : Packet).payload.length = 8 ∧ ((linkUp.tick 5).admitPacket 31
     ({ ptype := 0x0D, payload := List.replicate 8 0 } : Packet)).2 = true) ∧
    (31 < 32 ∧ (up.tick 5).opens 0 (pgPort 31) = true) ∧
    (31 < 32 ∧ (up.tick 5).opens 0 (pgPort 31) = true) ∧
    (31 < 32 ∧ (up.tick 5).opens 0 (pgPort 31) = true) := by decide +kernel

def sPortPacket4 : State :=
  (portAt up { st := 3, mask := 255, fseqRx := 65535, lanes := (List.range 8).map (fun l => (l, ({ st := 1 } : Lane))) }).tick 5

def sPortPacket7 : State := ({ linkUp with clk := { parent := some 31 } } : State).tick 5

def sPortPacket9 : State := (portAt up { st := 2, syncSeq := some 0, link := { established := true } }).tick 5

def sPortPacket11 : State := (portAt up { deadAt := some 0 }).tick 5

def sPortPacket12 : State := (portAt up { deadAt := some 0, moving := true }).tick 5

/-- The hypotheses of every clause of PortPacketCommands are met together by some state and operands. -/
theorem wit_PortPacketCommands :
    ((linkUp.tick 5).live = true ∧ ((linkUp.tick 5).port 31).flows = true ∧ ((linkUp.tick 5).port 31).window.length <
     2048) ∧
    ((lanesUp.tick 5).live = true ∧ ((lanesUp.tick 5).port 31).flows = true ∧ ((lanesUp.tick 5).port 31).window.length
     < 2048 ∧ (((lanesUp.tick 5).port 31).atFlit ((lanesUp.tick 5).port 31).fseqTx).starved = false) ∧
    ((linkUp.tick 5).live = true ∧ ((linkUp.tick 5).port 31).flows = true ∧ (([] : Bytes).length ≠ 642 ∨ fld ([] :
     Bytes) 634 8 ≠ crc64 (([] : Bytes).take 634) ∨ max 1 ((linkUp.tick 5).port 31).dealt.length ≤ ((linkUp.tick
     5).port 31).ahead ([] : Bytes))) ∧
    (flitIntact emptyFlit = true ∧ ((linkUp.tick 5).live = true ∧ ((linkUp.tick 5).port 31).flows = true ∧
     ((linkUp.tick 5).port 31).ahead emptyFlit = 0)) ∧
    (flitIntact emptyFlit = true ∧ (sPortPacket4.live = true ∧ (sPortPacket4.port 31).flows = true ∧ 0 <
     (sPortPacket4.port 31).ahead emptyFlit ∧ (sPortPacket4.port 31).ahead emptyFlit < (sPortPacket4.port
     31).dealt.length)) ∧
    (emptyFlit.length = 642 ∧ fld emptyFlit 634 8 = crc64 (emptyFlit.take 634) ∧ ((lanesUp.tick 5).live = true ∧
     ((lanesUp.tick 5).port 31).flows = true ∧ fld emptyFlit 0 2 = ((lanesUp.tick 5).port 31).fseqRx ∧ bit (fld
     emptyFlit 4 1) 0 = false ∧ ((lanesUp.tick 5).port 31).early = [] ∧ (((lanesUp.tick 5).port 31).takeFlit
     emptyFlit).starved = false)) ∧
    (0 < ({ ptype := 10, dst := 1 } : Packet).ptype ∧ ({ ptype := 10, dst := 1 } : Packet).ptype < 0x0B ∧
     (({ ptype := 10, dst := 1 } : Packet).dst ≠ (linkUp.tick 5).fab.moduleId ∧ ((linkUp.tick 5).admitPacket 31
     ({ ptype := 10, dst := 1 } : Packet)).2 = true ∧ ((linkUp.tick 5).admitPacket 31 ({ ptype := 10, dst := 1 } :
     Packet)).1.inPartition ({ ptype := 10, dst := 1 } : Packet).dst = true)) ∧
    (sPortPacket7.clk.parent = some 31 ∧ sPortPacket7.clk.free = false ∧ sPortPacket7.live = true ∧ (sPortPacket7.port
     31).st = 3) ∧
    (({ ptype := 11, payload := List.replicate 40 0 } : Packet).payload.length = 40 ∧ fld
     ({ ptype := 11, payload := List.replicate 40 0 } : Packet).payload 0 1 = 0 ∧ ((linkUp.tick 5).admitPacket 31
     ({ ptype := 11, payload := List.replicate 40 0 } : Packet)).2 = true) ∧
    (({ ptype := 11, payload := 1 :: List.replicate 39 0 } : Packet).payload.length = 40 ∧ fld
     ({ ptype := 11, payload := 1 :: List.replicate 39 0 } : Packet).payload 0 1 ≠ 0 ∧ ((sPortPacket9.admitPacket 31
     ({ ptype := 11, payload := 1 :: List.replicate 39 0 } : Packet)).2 = true ∧ ((sPortPacket9.admitPacket 31
     ({ ptype := 11, payload := 1 :: List.replicate 39 0 } : Packet)).1.port 31).syncSeq = some (fld
     ({ ptype := 11, payload := 1 :: List.replicate 39 0 } : Packet).payload 4 4))) ∧
    ((up.tick 5).present (.port 31) = true) ∧
    ((sPortPacket11.port 31).deadAt ≠ none ∧ (sPortPacket11.port 31).moving = false) ∧
    ((sPortPacket12.port 31).deadAt ≠ none ∧ (sPortPacket12.port 31).moving = true) :=
  ⟨by decide +kernel,
   by decide +kernel,
   by decide +kernel,
   by exact ⟨emptyFlit_intact, by decide +kernel, by decide +kernel, by decide +kernel⟩,
   by exact ⟨emptyFlit_intact, by decide +kernel, by decide +kernel, by decide +kernel, by decide +kernel⟩,
   by exact ⟨by decide +kernel, fld_close (List.replicate 634 0) (by decide +kernel), by decide +kernel⟩,
   by decide +kernel,
   by decide +kernel,
   by decide +kernel,
   by decide +kernel,
   by decide +kernel,
   by decide +kernel,
   by decide +kernel⟩

/-- The hypotheses of every clause of PacketCommands are met together by some state and operands. -/
theorem wit_PacketCommands :
    (({ payload := 7 :: List.replicate 48 1 } : Packet).payload.length = 49 ∧ fld
     ({ payload := 7 :: List.replicate 48 1 } : Packet).payload 0 1 = 7 ∧ (((joining.tick 5).admitPacket 31
     ({ payload := 7 :: List.replicate 48 1 } : Packet)).2 = true ∧ (((joining.tick 5).admitPacket 31
     ({ payload := 7 :: List.replicate 48 1 } : Packet)).1.port 31).link.join = true ∧ ((joining.tick 5).admitPacket
     31 ({ payload := 7 :: List.replicate 48 1 } : Packet)).1.sec.domain = none ∧ ((joining.tick 5).admitPacket 31
     ({ payload := 7 :: List.replicate 48 1 } : Packet)).1.sec.lifecycle = .deployed)) ∧
    (({ ptype := 12, payload := 6 :: List.replicate 50 1 } : Packet).ptype = 0x0C ∧
     ({ ptype := 12, payload := 6 :: List.replicate 50 1 } : Packet).payload.length = 51 ∧ fld
     ({ ptype := 12, payload := 6 :: List.replicate 50 1 } : Packet).payload 0 1 = 6 ∧ (((linkUp.tick 5).admitPacket
     31 ({ ptype := 12, payload := 6 :: List.replicate 50 1 } : Packet)).2 = true ∧ (((linkUp.tick 5).admitPacket 31
     ({ ptype := 12, payload := 6 :: List.replicate 50 1 } : Packet)).1.port 31).link.join = false)) ∧
    (((joining.tick 5).admitPacket 31 ({ ptype := 12, payload := 6 :: List.replicate 50 1 } : Packet)).2 = true ∧
     (((joining.tick 5).admitPacket 31 ({ ptype := 12, payload := 6 :: List.replicate 50 1 } : Packet)).1.port
     31).link.join = true) ∧
    (({ ptype := 1, job := 7, payload := List.replicate 8 1 } : Packet).ptype = 1 ∧ (((jobUp.tick 5).jobPacket 31
     ({ ptype := 1, job := 7, payload := List.replicate 8 1 } : Packet)).2 = some 63 ∧ ((((jobUp.tick 5).jobPacket 31
     ({ ptype := 1, job := 7, payload := List.replicate 8 1 } : Packet)).1.ctx 63).state = 1 ∨ (((jobUp.tick
     5).jobPacket 31 ({ ptype := 1, job := 7, payload := List.replicate 8 1 } : Packet)).1.ctx 63).state = 4) ∧
     (({ ptype := 1, job := 7, payload := List.replicate 8 1 } : Packet).src,
     ({ ptype := 1, job := 7, payload := List.replicate 8 1 } : Packet).tag) ∉ (((jobUp.tick 5).jobPacket 31
     ({ ptype := 1, job := 7, payload := List.replicate 8 1 } : Packet)).1.ctx 63).dead)) ∧
    (({ ptype := 8, job := 7, payload := List.replicate 32 0 } : Packet).ptype = 8 ∧ (((jobUp.tick 5).jobPacket 31
     ({ ptype := 8, job := 7, payload := List.replicate 32 0 } : Packet)).2 = some 63 ∧ ((((jobUp.tick 5).jobPacket 31
     ({ ptype := 8, job := 7, payload := List.replicate 32 0 } : Packet)).1.ctx 63).state = 1 ∨ (((jobUp.tick
     5).jobPacket 31 ({ ptype := 8, job := 7, payload := List.replicate 32 0 } : Packet)).1.ctx 63).state = 4))) ∧
    ((up.tick 5).live = true) ∧
    (({ ptype := 7, job := 7, payload := List.replicate 8 0 } : Packet).ptype = 7 ∧ ((jobUp.tick 5).jobPacket 31
     ({ ptype := 7, job := 7, payload := List.replicate 8 0 } : Packet)).2 = some 63) := by decide +kernel

/-- The hypotheses of every clause of ReductionPackets are met together by some state and operands. -/
theorem wit_ReductionPackets :
    (({ ptype := 2, job := 7, payload := List.replicate 400 0 } : Packet).ptype = 2 ∧ (((jobUp.tick 5).jobPacket 31
     ({ ptype := 2, job := 7, payload := List.replicate 400 0 } : Packet)).2 = some 63 ∧ ((jobUp.tick 5).jobPacket 31
     ({ ptype := 2, job := 7, payload := List.replicate 400 0 } : Packet)).1.epochOf 63
     ({ ptype := 2, job := 7, payload := List.replicate 400 0 } : Packet).tag = 0)) ∧
    (({ ptype := 3, job := 7, payload := List.replicate 16 0 } : Packet).ptype = 3 ∧ (((jobUp.tick 5).jobPacket 31
     ({ ptype := 3, job := 7, payload := List.replicate 16 0 } : Packet)).2 = some 63 ∧ ((jobUp.tick 5).jobPacket 31
     ({ ptype := 3, job := 7, payload := List.replicate 16 0 } : Packet)).1.epochOf 63
     ({ ptype := 3, job := 7, payload := List.replicate 16 0 } : Packet).tag = 0)) ∧
    (({ ptype := 4, job := 7, payload := List.replicate 8 0 } : Packet).ptype = 4 ∧ (((jobUp.tick 5).jobPacket 31
     ({ ptype := 4, job := 7, payload := List.replicate 8 0 } : Packet)).2 = some 63 ∧ ((jobUp.tick 5).jobPacket 31
     ({ ptype := 4, job := 7, payload := List.replicate 8 0 } : Packet)).1.epochOf 63
     ({ ptype := 4, job := 7, payload := List.replicate 8 0 } : Packet).tag = 0)) ∧
    (({ ptype := 5, job := 7, payload := List.replicate 8 0 } : Packet).ptype = 5 ∧ ((jobUp.tick 5).jobPacket 31
     ({ ptype := 5, job := 7, payload := List.replicate 8 0 } : Packet)).2 = some 63) ∧
    (({ ptype := 6, job := 7, payload := List.replicate 128 0 } : Packet).ptype = 6 ∧ ((jobUp.tick 5).jobPacket 31
     ({ ptype := 6, job := 7, payload := List.replicate 128 0 } : Packet)).2 = some 63) ∧
    ((∃ v b' sm, (redUp.tick 5).jobPacket 31 ({ ptype := 2, job := 7, src := 5, payload := zeros 19 } : Packet) = (v,
     some 63) ∧ v.epochOf 63 0 = 0 ∧ v.bucketFor 63 0 = (v, some aBucket) ∧ aBucket.collect (groupKey 0 (v.posOfModule
     63 5)) (v.ranks 63 0).length 0 (zeros 19) = (b', some sm) ∧ b'.readySent = false ∧ b'.inputs.any (fun i =>
     i.level = 0 && i.rep = v.posOfModule 63 5 && i.st = .waiting) = true ∧ (v.itemDone 63
     ({ ptype := 2, job := 7, src := 5, payload := zeros 19 } : Packet)).deadline b' 1 = none)) ∧
    ((∃ v, (redUp.tick 5).jobPacket 31 ({ ptype := 3, job := 7, src := 5, payload := zeros 16 } : Packet) = (v, some
     63) ∧ v.epochOf 63 0 = 0 ∧ v.bucket 63 0 = some aBucket)) ∧
    ((∃ v, (redUp.tick 5).jobPacket 31 ({ ptype := 4, job := 7, src := 5, payload := zeros 8 } : Packet) = (v, some
     63) ∧ v.epochOf 63 0 = 0 ∧ v.bucket 63 0 = some aBucket)) ∧
    (({ ptype := 5, job := 7, src := 5, payload := zeros 8 } : Packet).summary = false ∧ (∃ v w b, (redUp.tick
     5).jobPacket 31 ({ ptype := 5, job := 7, src := 5, payload := zeros 8 } : Packet) = (v, some 63) ∧ v.bucketFor 63
     0 = (w, some b))) ∧
    (({ ptype := 5, job := 7, src := 5, ctl := 16, payload := zeros 19 } : Packet).summary = true ∧ (∃ v w b' sm,
     (redUp.tick 5).jobPacket 31 ({ ptype := 5, job := 7, src := 5, ctl := 16, payload := zeros 19 } : Packet) = (v,
     some 63) ∧ v.bucketFor 63 0 = (w, some aBucket) ∧
     { aBucket with lost := aBucket.lost || ({ ptype := 5, job := 7, src := 5, ctl := 16, payload := zeros 19 } : Packet).lost }.collect
     0 (w.ranks 63 0).length 0 (zeros 19) = (b', some sm))) ∧
    ((∃ v b' sm, (redUp.tick 5).jobPacket 31 ({ ptype := 6, job := 7, src := 5, payload := zeros 19 } : Packet) = (v,
     some 63) ∧ v.bucket 63 0 = some aBucket ∧ aBucket.collect 1 (v.ranks 63 0).length 0 (zeros 19) = (b', some sm))) :=
  ⟨by decide +kernel,
   by decide +kernel,
   by decide +kernel,
   by decide +kernel,
   by decide +kernel,
   by exact ⟨_, _, _, eq_pair _ _ (by decide +kernel), by decide +kernel,
     eq_pair3 _ _ _ (by decide +kernel) (by decide +kernel), eq_some _ (by decide +kernel), by decide +kernel,
     by decide +kernel, by decide +kernel⟩,
   by exact ⟨_, eq_pair _ _ (by decide +kernel), by decide +kernel, by decide +kernel⟩,
   by exact ⟨_, eq_pair _ _ (by decide +kernel), by decide +kernel, by decide +kernel⟩,
   by exact ⟨by decide +kernel, _, _, _, eq_pair _ _ (by decide +kernel), eq_some _ (by decide +kernel)⟩,
   by exact ⟨by decide +kernel, _, _, _, _, eq_pair _ _ (by decide +kernel), eq_pair _ _ (by decide +kernel),
     eq_some _ (by decide +kernel)⟩,
   by exact ⟨_, _, _, eq_pair _ _ (by decide +kernel), by decide +kernel, eq_some _ (by decide +kernel)⟩⟩

def sReductionTimers0 : State :=
  (withBuckets (withQ (atEntry { op := 0x50 } []) (fun y => { y with phase := .running, begun := true, flight := .collective [5] false false })) [({ job := 0, tag := 5, slot := 0, issued := true, planned := true } : Bucket)]).tick 5

def sReductionTimers2 : State :=
  (withBuckets (withQ (atEntry { op := 0x50 } []) (fun y => { y with phase := .running, begun := true, flight := .collective [5] false false })) [({ job := 0, tag := 5, slot := 0, issued := true, started := true, elems := 8, fmt := 1, d0 := some (d16 0x10000 [8]) } : Bucket)]).tick 5

def sReductionTimers6 : State :=
  (withBuckets (withQ (atEntry { op := 0x50 } []) (fun y => { y with phase := .running, begun := true, flight := .collective [5] false false })) [({ job := 0, tag := 5, slot := 0, fmt := 1, elems := 67108864, inputs := [({ level := 0, rep := 1, st := .ready { members := [1] } } : Input)] } : Bucket)]).tick 5

/-- The hypotheses of every clause of ReductionTimers are met together by some state and operands. -/
theorem wit_ReductionTimers :
    (sReductionTimers0.serves 0 = true ∧ sReductionTimers0.buckets.find? (fun z => z.waitsStart 0 5) = some
     ({ job := 0, tag := 5, slot := 0, issued := true, planned := true } : Bucket) ∧ sReductionTimers0.mayStart
     ({ job := 0, tag := 5, slot := 0, issued := true, planned := true } : Bucket) = true) ∧
    (sReductionTimers0.serves 0 = true ∧ sReductionTimers0.buckets.find? (fun z => z.waitsStart 0 5) = some
     ({ job := 0, tag := 5, slot := 0, issued := true, planned := true } : Bucket) ∧ sReductionTimers0.mayStart
     ({ job := 0, tag := 5, slot := 0, issued := true, planned := true } : Bucket) = true ∧ State.bucket
     { sReductionTimers0 with buckets := modFirst (fun z => z.waitsStart 0 5) (fun z => { z with started := true }) sReductionTimers0.buckets }
     0 5 = some ({ job := 0, tag := 5, slot := 0, issued := true, planned := true, started := true } : Bucket) ∧
     ({ job := 0, tag := 5, slot := 0, issued := true, planned := true, started := true } : Bucket).started = true ∧
     ({ job := 0, tag := 5, slot := 0, issued := true, planned := true, started := true } : Bucket).readySent = false
     ∧ ({ job := 0, tag := 5, slot := 0, issued := true, planned := true, started := true } : Bucket).own = .waiting) ∧
    (sReductionTimers2.serves 0 = true ∧ sReductionTimers2.buckets.find? (fun z => z.waitsStart 0 5) = none ∧
     sReductionTimers2.bucket 0 5 = some
     ({ job := 0, tag := 5, slot := 0, issued := true, started := true, elems := 8, fmt := 1, d0 := some (d16 0x10000 [8]) }
     : Bucket) ∧
     ({ job := 0, tag := 5, slot := 0, issued := true, started := true, elems := 8, fmt := 1, d0 := some (d16 0x10000 [8]) }
     : Bucket).readySent = false) ∧
    (
     ({ job := 0, tag := 5, slot := 0, issued := true, started := true, elems := 8, fmt := 1, d0 := some (d16 0x10000 [8]) }
     : Bucket).d0 = some (d16 0x10000 [8]) ∧ (sReductionTimers2.buckets.find? (fun z => z.owes 0 5) = some
     ({ job := 0, tag := 5, slot := 0, issued := true, started := true, elems := 8, fmt := 1, d0 := some (d16 0x10000 [8]) }
     : Bucket) ∧ (sReductionTimers2.queue ⟨0,
     ({ job := 0, tag := 5, slot := 0, issued := true, started := true, elems := 8, fmt := 1, d0 := some (d16 0x10000 [8]) }
     : Bucket).queue⟩).phase = .running ∧ (sReductionTimers2.queue ⟨0,
     ({ job := 0, tag := 5, slot := 0, issued := true, started := true, elems := 8, fmt := 1, d0 := some (d16 0x10000 [8]) }
     : Bucket).queue⟩).entry = some ({ op := 0x50 } : Entry) ∧ sReductionTimers2.serves 0 = true ∧
     sReductionTimers2.claimed
     ({ job := 0, tag := 5, slot := 0, issued := true, started := true, elems := 8, fmt := 1, d0 := some (d16 0x10000 [8]) }
     : Bucket) = true ∧ sReductionTimers2.entryHeld ⟨0,
     ({ job := 0, tag := 5, slot := 0, issued := true, started := true, elems := 8, fmt := 1, d0 := some (d16 0x10000 [8]) }
     : Bucket).queue⟩ ({ op := 0x50 } : Entry) = false ∧ sReductionTimers2.readAddrs 0 ((d16 0x10000 [8]).bytesAt
     (((d16 0x10000 [8]).own.drop
     ({ job := 0, tag := 5, slot := 0, issued := true, started := true, elems := 8, fmt := 1, d0 := some (d16 0x10000 [8]) }
     : Bucket).elem0).take
     ({ job := 0, tag := 5, slot := 0, issued := true, started := true, elems := 8, fmt := 1, d0 := some (d16 0x10000 [8]) }
     : Bucket).elems)) = .ok (List.replicate 16 0))) ∧
    (startedBucket.d0 = some (d16 0x10000 [8]) ∧ startedBucket.doneAt = none ∧ startedBucket.own = .waiting ∧
     startedUp.buckets.find? (fun b => b.owes 0 5) = some startedBucket ∧ (startedUp.queue ⟨0,
     startedBucket.queue⟩).phase = .running ∧ (startedUp.queue ⟨0, startedBucket.queue⟩).entry = some ({ op := 0x50 }
     : Entry) ∧ startedUp.serves 0 = true ∧ startedUp.claimed startedBucket = true ∧ startedUp.entryHeld ⟨0,
     startedBucket.queue⟩ ({ op := 0x50 } : Entry) = false ∧ startedUp.readAddrs 0 ((d16 0x10000 [8]).bytesAt (((d16
     0x10000 [8]).own.drop startedBucket.elem0).take startedBucket.elems)) = .ok (List.replicate 16 0) ∧
     startedUp.deadline startedBucket 0 = none) ∧
    (sReductionTimers0.bucket 0 5 = some ({ job := 0, tag := 5, slot := 0, issued := true, planned := true } : Bucket)
     ∧ sReductionTimers0.live = true ∧ ({ job := 0, tag := 5, slot := 0, issued := true, planned := true } :
     Bucket).readySent = false) ∧
    (sReductionTimers6.live = true ∧ sReductionTimers6.bucket 0 5 = some
     ({ job := 0, tag := 5, slot := 0, fmt := 1, elems := 67108864, inputs := [({ level := 0, rep := 1, st := .ready { members := [1] } } : Input)] }
     : Bucket) ∧
     ({ job := 0, tag := 5, slot := 0, fmt := 1, elems := 67108864, inputs := [({ level := 0, rep := 1, st := .ready { members := [1] } } : Input)] }
     : Bucket).inputs.find? (fun z => z.level = 0 && z.st.data && !z.pulled) = some
     ({ level := 0, rep := 1, st := .ready { members := [1] } } : Input) ∧ (sReductionTimers6.redUsed + streamLen
     ({ job := 0, tag := 5, slot := 0, fmt := 1, elems := 67108864, inputs := [({ level := 0, rep := 1, st := .ready { members := [1] } } : Input)] }
     : Bucket).fmt
     ({ job := 0, tag := 5, slot := 0, fmt := 1, elems := 67108864, inputs := [({ level := 0, rep := 1, st := .ready { members := [1] } } : Input)] }
     : Bucket).elems ≤ 134217728 ∨
     ({ job := 0, tag := 5, slot := 0, fmt := 1, elems := 67108864, inputs := [({ level := 0, rep := 1, st := .ready { members := [1] } } : Input)] }
     : Bucket).leftReady 0 = true)) :=
  ⟨by decide +kernel,
   by decide +kernel,
   by decide +kernel,
   by exact ⟨by decide +kernel, by decide +kernel, by decide +kernel, by decide +kernel, by decide +kernel,
     by decide +kernel, by decide +kernel, ok_is _ _ (by decide +kernel)⟩,
   by exact ⟨by decide +kernel, by decide +kernel, by decide +kernel, by decide +kernel, by decide +kernel,
     by decide +kernel, by decide +kernel, by decide +kernel, by decide +kernel, ok_is _ _ (by decide +kernel),
     by decide +kernel⟩,
   by decide +kernel,
   by decide +kernel⟩

def wList1 : State := (atEntry ({ op := 0 } : Entry) [])

def eList1 : Entry := ({ op := 0 } : Entry)

def wList2 : State := (atEntry ({ op := 2 } : Entry) [])

def eList2 : Entry := ({ op := 2 } : Entry)

def wList3 : State := (atEntry ({ op := 1 } : Entry) [])

def eList3 : Entry := ({ op := 1 } : Entry)

def wList4 : State := (atRing ({ op := 3, imm0 := 0x18000 } : Entry))

def eList4 : Entry := ({ op := 3, imm0 := 0x18000 } : Entry)

def wList5 : State :=
  withCtx (atRing ({ op := 3, imm0 := 0x18000 } : Entry)) (fun x => { x with queues := x.queues ++ [(1, bigQueue)] })

def eList5 : Entry := ({ op := 3, imm0 := 0x18000 } : Entry)

def wList6 : State := (atEntry ({ op := 3, imm0 := 0x100 } : Entry) [])

def eList6 : Entry := ({ op := 3, imm0 := 0x100 } : Entry)

def sList7 : State := (withQueue { enable := true, phase := .treeWait, cur := some { op := 3 }, tree := [aTree] }).tick 5

def wList9 : State := (atEntry ({ op := 4, imm0 := 0 } : Entry) [])

def eList9 : Entry := ({ op := 4, imm0 := 0 } : Entry)

def wList10 : State := (atEntry ({ op := 4, imm0 := 1 } : Entry) [])

def eList10 : Entry := ({ op := 4, imm0 := 1 } : Entry)

def wList11 : State :=
  atFrame ({ addr := 0x100, loops := [({ start := 0, count := 2, iter := 0 } : Loop)] } : Frame) ({ op := 5 } : Entry) []

def eList11 : Entry := ({ op := 5 } : Entry)

def wList12 : State :=
  atFrame ({ addr := 0x100, loops := [({ start := 0, count := 1, iter := 0 } : Loop)] } : Frame) ({ op := 5 } : Entry) []

def eList12 : Entry := ({ op := 5 } : Entry)

def sList13 : State := (withQueue {}).tick 5

def sList14 : State := (withQ (atEntry { op := 6 } []) (fun y => { y with phase := .done .ok })).tick 5

/-- The hypotheses of every clause of ListCommands are met together by some state and operands. -/
theorem wit_ListCommands :
    (((withQueue { enable := true, base := 0x10000, tail := 1 }).tick 5).serves 0 = true ∧ (((withQueue
     { enable := true, base := 0x10000, tail := 1 }).tick 5).ctx 0).ending = false ∧ (((withQueue
     { enable := true, base := 0x10000, tail := 1 }).tick 5).queue q0).enable = true ∧ (((withQueue
     { enable := true, base := 0x10000, tail := 1 }).tick 5).queue q0).error = false ∧ (((withQueue
     { enable := true, base := 0x10000, tail := 1 }).tick 5).queue q0).phase = .idle ∧ (((withQueue
     { enable := true, base := 0x10000, tail := 1 }).tick 5).queue q0).head ≠ (((withQueue
     { enable := true, base := 0x10000, tail := 1 }).tick 5).queue q0).tail ∧ ringOp (entryOf (zeros 64)).op = true ∧
     ((withQueue { enable := true, base := 0x10000, tail := 1 }).tick 5).bounceRing 0 0x10000 = false ∧ (((withQueue
     { enable := true, base := 0x10000, tail := 1 }).tick 5).accessHeld 0 0x10000 64 = false ∧ ((withQueue
     { enable := true, base := 0x10000, tail := 1 }).tick 5).hostNeeds 0 0x10000 64 .ring (((withQueue
     { enable := true, base := 0x10000, tail := 1 }).tick 5).queue q0).arrived = []) ∧ (∃ v, ((withQueue
     { enable := true, base := 0x10000, tail := 1 }).tick 5).ringRead 0 (((withQueue
     { enable := true, base := 0x10000, tail := 1 }).tick 5).queue q0).base ((((withQueue
     { enable := true, base := 0x10000, tail := 1 }).tick 5).queue q0).head % 2 ^ (((withQueue
     { enable := true, base := 0x10000, tail := 1 }).tick 5).queue q0).depth) 64 = (v, .ok (zeros 64)))) ∧
    ((wList1.tick 0).ready q0 0x00 = some eList1) ∧
    ((wList2.tick 0).ready q0 0x02 = some eList2) ∧
    ((wList3.tick 0).ready q0 0x01 = some eList3 ∧ (((Claims.begun wList3 0 q0 eList3).queue q0).stack =
     ({ addr := 0x100 } : Frame) :: ([] : List Frame) ∧ ((Claims.begun wList3 0 q0 eList3).queue q0).list
     ({ addr := 0x100 } : Frame).addr = some (listOf ({ op := 1 } : Entry) []))) ∧
    ((wList4.tick 0).ready q0 0x03 = some eList4 ∧ (((Claims.begun wList4 0 q0 eList4).queue q0).stack = [] ∧
     (Claims.begun wList4 0 q0 eList4).admitTree q0.slot eList4.imm0 = .ok [aTree] ∧ (bit ((Claims.begun wList4 0
     q0 eList4).ctxRec q0.slot).mode 0 = true → (Claims.begun wList4 0 q0 eList4).tableNeeds q0.slot
     ((Claims.begun wList4 0 q0 eList4).queue q0).arrived 65537 0 = []) ∧ (Claims.begun wList4 0 q0
     eList4).tableFault q0 [aTree] = none ∧ (Claims.begun wList4 0 q0 eList4).treesHeld q0.slot + treeSize [aTree]
     ≤ maxTree)) ∧
    ((wList5.tick 0).ready q0 0x03 = some eList5 ∧ (((Claims.begun wList5 0 q0 eList5).queue q0).stack = [] ∧
     (Claims.begun wList5 0 q0 eList5).admitTree q0.slot eList5.imm0 = .ok [aTree] ∧ (bit ((Claims.begun wList5 0
     q0 eList5).ctxRec q0.slot).mode 0 = true → (Claims.begun wList5 0 q0 eList5).tableNeeds q0.slot
     ((Claims.begun wList5 0 q0 eList5).queue q0).arrived 65537 0 = []) ∧ (Claims.begun wList5 0 q0
     eList5).tableFault q0 [aTree] = none ∧ maxTree < (Claims.begun wList5 0 q0 eList5).treesHeld q0.slot +
     treeSize [aTree])) ∧
    ((wList6.tick 0).ready q0 0x03 = some eList6 ∧ (listOf ({ op := 3, imm0 := 0x100 } : Entry) []).entries =
     ({ op := 3, imm0 := 0x100 } : Entry) :: ([] : List Entry) ∧ (((Claims.begun wList6 0 q0 eList6).queue q0).stack
     = ({ addr := 0x100 } : Frame) :: ([] : List Frame) ∧ ((Claims.begun wList6 0 q0 eList6).queue q0).list
     eList6.imm0 = some (listOf ({ op := 3, imm0 := 0x100 } : Entry) []))) ∧
    ((sList7.queue q0).phase = .treeWait ∧ (sList7.queue q0).cur = some ({ op := 3 } : Entry) ∧ sList7.serves q0.slot
     = true ∧ sList7.treesHeld q0.slot + treeSize (sList7.queue q0).tree ≤ maxTree) ∧
    ((((withQueue { enable := true, phase := .treeWait, cur := some { op := 3 }, tree := [aTree] }).tick 5).queue
     q0).phase = .treeWait ∧ (((withQueue
     { enable := true, phase := .treeWait, cur := some { op := 3 }, tree := [aTree] }).tick 5).queue q0).cur = some
     { op := 3 } ∧ ((withQueue { enable := true, phase := .treeWait, cur := some { op := 3 }, tree := [aTree] }).tick
     5).serves 0 = true ∧ ((withQueue
     { enable := true, phase := .treeWait, cur := some { op := 3 }, tree := [aTree] }).tick 5).treesHeld 0 + treeSize
     (((withQueue { enable := true, phase := .treeWait, cur := some { op := 3 }, tree := [aTree] }).tick 5).queue
     q0).tree ≤ maxTree ∧ (∃ v w, v = ((withQueue
     { enable := true, phase := .treeWait, cur := some { op := 3 }, tree := [aTree] }).tick 5).modQueue q0 (fun y =>
     { y with stack := [{ addr := 0 }], phase := .ready, begun := false, flight := .none }) ∧ w = ((seqIds
     (((withQueue { enable := true, phase := .treeWait, cur := some { op := 3 }, tree := [aTree] }).tick 5).queue
     q0).tree).foldl (fun u i => u.track 0 i) (v.modQueue q0 (fun y => { y with phase := y.entering }))).wantSlot 0
     true ∧ bit (w.ctxRec 0).mode 0 = false)) ∧
    ((wList9.tick 0).ready q0 0x04 = some eList9 ∧ (((Claims.begun wList9 0 q0 eList9).queue q0).stack =
     ({ addr := 0x100 } : Frame) :: ([] : List Frame) ∧ ((Claims.begun wList9 0 q0 eList9).queue q0).list
     ({ addr := 0x100 } : Frame).addr = some (listOf ({ op := 4, imm0 := 0 } : Entry) []) ∧ sl eList9.imm0 31 0 = 0)) ∧
    ((wList10.tick 0).ready q0 0x04 = some eList10 ∧ (((Claims.begun wList10 0 q0 eList10).queue q0).stack =
     ({ addr := 0x100 } : Frame) :: ([] : List Frame) ∧ sl eList10.imm0 31 0 ≠ 0)) ∧
    ((wList11.tick 0).ready q0 0x05 = some eList11 ∧ (((Claims.begun wList11 0 q0 eList11).queue q0).stack =
     ({ addr := 0x100, loops := [({ start := 0, count := 2, iter := 0 } : Loop)] } : Frame) :: ([] : List Frame) ∧
     ({ addr := 0x100, loops := [({ start := 0, count := 2, iter := 0 } : Loop)] } : Frame).loops =
     ({ start := 0, count := 2, iter := 0 } : Loop) :: ([] : List Loop) ∧ ({ start := 0, count := 2, iter := 0 } :
     Loop).iter + 1 < ({ start := 0, count := 2, iter := 0 } : Loop).count)) ∧
    ((wList12.tick 0).ready q0 0x05 = some eList12 ∧ (((Claims.begun wList12 0 q0 eList12).queue q0).stack =
     ({ addr := 0x100, loops := [({ start := 0, count := 1, iter := 0 } : Loop)] } : Frame) :: ([] : List Frame) ∧
     ({ addr := 0x100, loops := [({ start := 0, count := 1, iter := 0 } : Loop)] } : Frame).loops =
     ({ start := 0, count := 1, iter := 0 } : Loop) :: ([] : List Loop) ∧ ({ start := 0, count := 1, iter := 0 } :
     Loop).count ≤ ({ start := 0, count := 1, iter := 0 } : Loop).iter + 1)) ∧
    (((sList13.ctx q0.slot).state = 1 ∨ (sList13.ctx q0.slot).state = 4) ∧ sList13.endHeld q0 = false) ∧
    (((sList14.ctx q0.slot).state = 1 ∨ (sList14.ctx q0.slot).state = 4) ∧ sList14.endHeld q0 = false ∧ (sList14.queue
     q0).phase = .done Status.ok ∧ (sList14.queue q0).entry = some ({ op := 6 } : Entry)) :=
  ⟨by exact ⟨by decide +kernel, by decide +kernel, by decide +kernel, by decide +kernel, by decide +kernel,
    by decide +kernel, by decide +kernel, by decide +kernel, by decide +kernel,
    ok_read _ _ (ok_is _ _ (by decide +kernel))⟩,
   by decide +kernel,
   by decide +kernel,
   by decide +kernel,
   by exact ⟨by decide +kernel, by decide +kernel, ok_is _ _ (by decide +kernel), by decide +kernel⟩,
   by exact ⟨by decide +kernel, by decide +kernel, ok_is _ _ (by decide +kernel), by decide +kernel⟩,
   by decide +kernel,
   by decide +kernel,
   by exact ⟨by decide +kernel, by decide +kernel, by decide +kernel, by decide +kernel, _, _, rfl, rfl, by decide +kernel⟩,
   by decide +kernel,
   by decide +kernel,
   by decide +kernel,
   by decide +kernel,
   by decide +kernel,
   by decide +kernel⟩

def wBarrierAndFence0 : State := (atEntry ({ op := 6 } : Entry) [])

def eBarrierAndFence0 : Entry := ({ op := 6 } : Entry)

def wBarrierAndFence1 : State := (atEntry ({ op := 6, variant := 1 } : Entry) [])

def eBarrierAndFence1 : Entry := ({ op := 6, variant := 1 } : Entry)

def sBarrierAndFence2 : State :=
  (withQ (atEntry ({ op := 6 } : Entry) []) (fun y => { y with phase := .running, begun := true, flight := .barrier 2 9 0 1 })).tick 5

def sBarrierAndFence3 : State :=
  (withQ (atEntry ({ op := 6 } : Entry) []) (fun y => { y with phase := .running, begun := true, flight := .barrier 1 9 0 1 })).tick 5

def sBarrierAndFence4 : State :=
  (withQ (atEntry ({ op := 6 } : Entry) []) (fun y => { y with phase := .running, begun := true, flight := .barrier 2 9 0 1 })).tick 1000

def wBarrierAndFence5 : State := (atEntry ({ op := 7 } : Entry) [])

def eBarrierAndFence5 : Entry := ({ op := 7 } : Entry)

def sBarrierAndFence6 : State := (atEntry ({ op := 7 } : Entry) []).tick 5

def wBarrierAndFence8 : State := (atEntry ({ op := 8, signalFence := 3, signalValue := 1 } : Entry) [])

def eBarrierAndFence8 : Entry := ({ op := 8, signalFence := 3, signalValue := 1 } : Entry)

def wBarrierAndFence9 : State :=
  withCtx (atEntry ({ op := 9 } : Entry) [])
    (fun x => { x with record := x.record.map (fun (r : CtxRec) => { r with mode := 4 }) })

def eBarrierAndFence9 : Entry := ({ op := 9 } : Entry)

def wBarrierAndFence10 : State := (atEntry ({ op := 9 } : Entry) [])

def eBarrierAndFence10 : Entry := ({ op := 9 } : Entry)

/-- The hypotheses of every clause of BarrierAndFenceEntries are met together by some state and operands. -/
theorem wit_BarrierAndFenceEntries :
    ((wBarrierAndFence0.tick 0).ready q0 0x06 = some eBarrierAndFence0 ∧ eBarrierAndFence0.variant = 0) ∧
    ((wBarrierAndFence1.tick 0).ready q0 0x06 = some eBarrierAndFence1 ∧ (eBarrierAndFence1.variant = 1 ∨
     eBarrierAndFence1.variant = 2)) ∧
    ((sBarrierAndFence2.queue q0).phase = .running ∧ (sBarrierAndFence2.queue q0).flight = .barrier 2 9 0 1 ∧
     sBarrierAndFence2.serves q0.slot = true) ∧
    ((sBarrierAndFence3.queue q0).phase = .running ∧ (sBarrierAndFence3.queue q0).flight = .barrier 1 9 0 1 ∧
     sBarrierAndFence3.serves q0.slot = true ∧ ∀ x ∈ (sBarrierAndFence3.ctx q0.slot).queues, x.2.enable = true →
     x.2.error = false → x.2.atBarrier 1 9 = true) ∧
    (1 ≠ 0 ∧ ((sBarrierAndFence4.queue q0).phase = .running ∧ (sBarrierAndFence4.queue q0).flight = .barrier 2 9 0 1 ∧
     sBarrierAndFence4.serves q0.slot = true ∧ 0 + 1 * 1000 ≤ sBarrierAndFence4.clk.now)) ∧
    ((wBarrierAndFence5.tick 0).ready q0 0x07 = some eBarrierAndFence5) ∧
    (sBarrierAndFence6.serves q0.slot = true ∧ sBarrierAndFence6.inPeriod q0 = true) ∧
    (((withQ (atEntry { op := 7, waitFence := 3, waitValue := 0 } []) (fun y => { y with phase := .waiting })).tick
     5).serves 0 = true ∧ ((withQ (atEntry { op := 7, waitFence := 3, waitValue := 0 } []) (fun y =>
     { y with phase := .waiting })).tick 5).inPeriod q0 = true ∧ (((withQ (atEntry
     { op := 7, waitFence := 3, waitValue := 0 } []) (fun y => { y with phase := .waiting })).tick 5).queue q0).phase
     = .waiting ∧ (((withQ (atEntry { op := 7, waitFence := 3, waitValue := 0 } []) (fun y =>
     { y with phase := .waiting })).tick 5).queue q0).entry = some { op := 7, waitFence := 3, waitValue := 0 } ∧ (∃
     st, State.waitTest (if 3 < (((withQ (atEntry { op := 7, waitFence := 3, waitValue := 0 } []) (fun y =>
     { y with phase := .waiting })).tick 5).ctxRec 0).fenceCount then ((withQ (atEntry
     { op := 7, waitFence := 3, waitValue := 0 } []) (fun y => { y with phase := .waiting })).tick 5).meet 0 (((withQ
     (atEntry { op := 7, waitFence := 3, waitValue := 0 } []) (fun y => { y with phase := .waiting })).tick 5).fenceVa
     0 3) 16 else ((withQ (atEntry { op := 7, waitFence := 3, waitValue := 0 } []) (fun y =>
     { y with phase := .waiting })).tick 5)) 0 { op := 7, waitFence := 3, waitValue := 0 } = .ok (some st))) ∧
    ((wBarrierAndFence8.tick 0).ready q0 0x08 = some eBarrierAndFence8 ∧ (∃ v, (Claims.begun wBarrierAndFence8 0 q0
     eBarrierAndFence8).signalFence 0 eBarrierAndFence8.signalFence eBarrierAndFence8.signalValue .ok = (v, none))) ∧
    ((wBarrierAndFence9.tick 0).ready q0 0x09 = some eBarrierAndFence9 ∧ bit ((Claims.begun wBarrierAndFence9 0 q0
     eBarrierAndFence9).ctxRec q0.slot).mode 2 = true) ∧
    ((wBarrierAndFence10.tick 0).ready q0 0x09 = some eBarrierAndFence10 ∧ bit ((Claims.begun wBarrierAndFence10 0
     q0 eBarrierAndFence10).ctxRec q0.slot).mode 2 = false) :=
  ⟨by decide +kernel,
   by decide +kernel,
   by decide +kernel,
   by decide +kernel,
   by decide +kernel,
   by decide +kernel,
   by decide +kernel,
   by exact ⟨by decide +kernel, by decide +kernel, by decide +kernel, by decide +kernel, ok_ex _ (by decide +kernel)⟩,
   by exact ⟨by decide +kernel, ok_pair _ (by decide +kernel)⟩,
   by decide +kernel,
   by decide +kernel⟩

def wStep0 : State := (atEntry ({ op := 0x0A } : Entry) [])

def eStep0 : Entry := ({ op := 0x0A } : Entry)

def wStep1 : State :=
  withCtx (atEntry ({ op := 0x0A } : Entry) [])
    (fun x => { x with record := x.record.map (fun (r : CtxRec) => { r with mode := 4 }) })

def eStep1 : Entry := ({ op := 0x0A } : Entry)

def wStep2 : State := (atEntry ({ op := 0x0B, desc := desc1 } : Entry) [d16 0x10000 [8]])

def eStep2 : Entry := ({ op := 0x0B, desc := desc1 } : Entry)

def wStep3 : State := (atEntry ({ op := 0x0C } : Entry) [])

def eStep3 : Entry := ({ op := 0x0C } : Entry)

def wStep4 : State := (atEntry ({ op := 0x0C, imm0 := 0x10000, imm1 := 1 } : Entry) [])

def eStep4 : Entry := ({ op := 0x0C, imm0 := 0x10000, imm1 := 1 } : Entry)

/-- The hypotheses of every clause of StepEntries are met together by some state and operands. -/
theorem wit_StepEntries :
    ((wStep0.tick 0).ready q0 0x0A = some eStep0 ∧ bit ((Claims.begun wStep0 0 q0 eStep0).ctxRec q0.slot).mode 2
     = false) ∧
    ((wStep1.tick 0).ready q0 0x0A = some eStep1 ∧ bit ((Claims.begun wStep1 0 q0 eStep1).ctxRec q0.slot).mode 2
     = true) ∧
    ((wStep2.tick 0).ready q0 0x0B = some eStep2 ∧ (Claims.begun wStep2 0 q0 eStep2).logOpen 0 (((Claims.begun wStep2
     0 q0 eStep2).ctxRec 0).logRing + 128 * (((Claims.begun wStep2 0 q0 eStep2).queue q0).startStep % max
     ((Claims.begun wStep2 0 q0 eStep2).ctxRec 0).logEntries 1)) = true ∧ (∃ ls, (Claims.begun wStep2 0 q0
     eStep2).stepScale 0 ((Claims.begun wStep2 0 q0 eStep2).queue q0).startStep = .ok ls ∧ ∃ v, (Claims.begun wStep2 0
     q0 eStep2).vwrites 0 ((Claims.begun wStep2 0 q0 eStep2).stepMask 0 ((Claims.begun wStep2 0 q0 eStep2).queue q0))
     = (v, none) ∧ ∃ w, v.ringWrite 0 (v.ctxRec 0).logRing (((Claims.begun wStep2 0 q0 eStep2).queue q0).startStep %
     max ((Claims.begun wStep2 0 q0 eStep2).ctxRec 0).logEntries 1) (v.recordOf 0 ((Claims.begun wStep2 0 q0
     eStep2).queue q0) ls) = (w, none))) ∧
    ((wStep3.tick 0).ready q0 0x0C = some eStep3 ∧ (∃ v fs, (Claims.begun wStep3 0 q0 eStep3).retireEdit 0 eStep3.imm0
     eStep3.imm1 = (v, .ok fs))) ∧
    ((wStep4.tick 0).ready q0 0x0C = some eStep4 ∧ (∃ v st, (Claims.begun wStep4 0 q0 eStep4).retireEdit 0 eStep4.imm0
     eStep4.imm1 = (v, .error st))) :=
  ⟨by decide +kernel,
   by decide +kernel,
   by exact ⟨by decide +kernel, by decide +kernel, 0, ok_is _ _ (by decide +kernel),
     ((Claims.begun wStep2 0 q0 eStep2).vwrites 0 ((Claims.begun wStep2 0 q0 eStep2).stepMask 0 ((Claims.begun wStep2 0 q0 eStep2).queue q0))).1,
     ok_pair' _ (by decide +kernel), ok_pair _ (by decide +kernel)⟩,
   by exact ⟨by decide +kernel, ok_ret _ (by decide +kernel)⟩,
   by exact ⟨by decide +kernel, bad_ret _ (by decide +kernel)⟩⟩

def wCollective0 : State :=
  withCtx (atEntry ({ op := 0x50, desc := desc2, imm1 := 4096 } : Entry) [d16 0x10000 [8], d16 0x20000 [8]])
    (fun x => { x with usedIdx := [(0, 0)] })

def eCollective0 : Entry := ({ op := 0x50, desc := desc2, imm1 := 4096 } : Entry)

def wCollective1 : State := (atEntry ({ op := 0x51, desc := desc2, imm1 := 4096 } : Entry) [d16 0x10000 [8], d16 0x20000 [8]])

def eCollective1 : Entry := ({ op := 0x51, desc := desc2, imm1 := 4096 } : Entry)

def wCollective2 : State := (atEntry ({ op := 0x62 } : Entry) [])

def eCollective2 : Entry := ({ op := 0x62 } : Entry)

def wCollective3 : State := (atEntry ({ op := 0x62 } : Entry) [])

def eCollective3 : Entry := ({ op := 0x62 } : Entry)

def wCollective4 : State :=
  withBuckets (atEntry ({ op := 0x62 } : Entry) []) [{ job := 0, tag := 5, slot := 0, issued := true, started := true }]

def eCollective4 : Entry := ({ op := 0x62 } : Entry)

def wCollective5 : State := (atEntry ({ op := 0x53, desc := desc2 } : Entry) [d16 0x10000 [8, 1], d16 0x20000 [8, 1]])

def eCollective5 : Entry := ({ op := 0x53, desc := desc2 } : Entry)

def wCollective6 : State := (atEntry ({ op := 0x60, desc := desc2 } : Entry) [d16 0x10000 [8], d16 0x20000 [8]])

def eCollective6 : Entry := ({ op := 0x60, desc := desc2 } : Entry)

def wCollective7 : State := (atEntry ({ op := 0x54, desc := desc1 } : Entry) [d16 0x10000 [8], d16 0x20000 [8]])

def eCollective7 : Entry := ({ op := 0x54, desc := desc1 } : Entry)

def wCollective8 : State := (atEntry ({ op := 0x55, desc := desc1 } : Entry) [d16 0x10000 [8], d16 0x20000 [8]])

def eCollective8 : Entry := ({ op := 0x55, desc := desc1 } : Entry)

def wCollective9 : State :=
  withCtx (atEntry ({ op := 0x55, desc := desc1 } : Entry) [d16 0x10000 [8]])
    (fun x => { x with msgs := [{ src := 0, mid := 0, bytes := zeros 16, got := [(0, 16)], last := true }] })

def eCollective9 : Entry := ({ op := 0x55, desc := desc1 } : Entry)

def wCollective10 : State := (atEntry ({ op := 0x55, desc := desc1 } : Entry) [d16 0x10000 [8]])

def eCollective10 : Entry := ({ op := 0x55, desc := desc1 } : Entry)

def wCollective11 : State := (atEntry ({ op := 0x61, desc := desc1 } : Entry) [d16 0x10000 [8], d16 0x20000 [8]])

def eCollective11 : Entry := ({ op := 0x61, desc := desc1 } : Entry)

def sCollective12 : State :=
  (withQ (atEntry ({ op := 0x53 } : Entry) []) (fun y => { y with phase := .running, begun := true, flight := .exchange 0 5 [] })).tick 5

def sCollective13 : State :=
  (withQ (atEntry ({ op := 6 } : Entry) []) (fun y => { y with phase := .running, begun := true, flight := .recv 0 })).tick 5

/-- The hypotheses of every clause of CollectiveEntries are met together by some state and operands. -/
theorem wit_CollectiveEntries :
    ((wCollective0.tick 0).ready q0 0x50 = some eCollective0 ∧ (0x50 = 0x50 ∨ 0x50 = 0x51) ∧ (∃ j, j < bucketCount
     eCollective0.imm1 (((Claims.begun wCollective0 0 q0 eCollective0).queue q0).d 0) ∧ ((Claims.begun
     wCollective0 0 q0 eCollective0).ctx q0.slot).usedIdx.contains (((Claims.begun wCollective0 0 q0
     eCollective0).queue q0).startStep, (bucketBase eCollective0.imm0 ((Claims.begun wCollective0 0 q0
     eCollective0).queue q0).iter).toNat + j) = true)) ∧
    ((wCollective1.tick 0).ready q0 0x51 = some eCollective1 ∧ (0x51 = 0x50 ∨ 0x51 = 0x51) ∧ (∀ j, j < bucketCount
     eCollective1.imm1 (((Claims.begun wCollective1 0 q0 eCollective1).queue q0).d 0) → ((Claims.begun
     wCollective1 0 q0 eCollective1).ctx q0.slot).usedIdx.contains (((Claims.begun wCollective1 0 q0
     eCollective1).queue q0).startStep, (bucketBase eCollective1.imm0 ((Claims.begun wCollective1 0 q0
     eCollective1).queue q0).iter).toNat + j) = false)) ∧
    ((wCollective2.tick 0).ready q0 0x62 = some eCollective2) ∧
    ((wCollective3.tick 0).ready q0 0x62 = some eCollective3 ∧ (∃ v w, v = State.modQueue
     { ((Claims.begun wCollective3 0 q0 eCollective3).abandonOld 0 ((Claims.begun wCollective3 0 q0 eCollective3).queue q0).startStep) with buckets := ((Claims.begun wCollective3 0 q0 eCollective3).abandonOld 0 ((Claims.begun wCollective3 0 q0 eCollective3).queue q0).startStep).buckets.filter (fun b => !(b.slot = 0 && b.doneAt.isSome && !b.issued)) }
     q0 (fun y => { y with phase := .running, flight := .reshard 0 }) ∧ w = v.abandonOld 0 (v.queue q0).startStep ∧
     w.epochClear 0 = true)) ∧
    ((wCollective4.tick 0).ready q0 0x62 = some eCollective4 ∧ (∃ v w, v = State.modQueue
     { ((Claims.begun wCollective4 0 q0 eCollective4).abandonOld 0 ((Claims.begun wCollective4 0 q0 eCollective4).queue q0).startStep) with buckets := ((Claims.begun wCollective4 0 q0 eCollective4).abandonOld 0 ((Claims.begun wCollective4 0 q0 eCollective4).queue q0).startStep).buckets.filter (fun b => !(b.slot = 0 && b.doneAt.isSome && !b.issued)) }
     q0 (fun y => { y with phase := .running, flight := .reshard 0 }) ∧ w = v.abandonOld 0 (v.queue q0).startStep ∧
     w.epochClear 0 = false)) ∧
    ((wCollective5.tick 0).ready q0 0x53 = some eCollective5 ∧ ((Claims.begun wCollective5 0 q0 eCollective5).dark =
     true ∨ ((Claims.begun wCollective5 0 q0 eCollective5).members 0 (((Claims.begun wCollective5 0 q0
     eCollective5).queue q0).d 0)).all ((Claims.begun wCollective5 0 q0 eCollective5).peerOk 0) = true) ∧ (∃ counts
     ss, (Claims.begun wCollective5 0 q0 eCollective5).exchangeStreams 0 ((Claims.begun wCollective5 0 q0
     eCollective5).queue q0) eCollective5 = .ok (counts, ss))) ∧
    ((wCollective6.tick 0).ready q0 0x60 = some eCollective6 ∧ (0x60 = 0x52 ∨ 0x60 = 0x60) ∧ eCollective6.op = 0x60 ∧
     (∃ own, (Claims.begun wCollective6 0 q0 eCollective6).holderStream 0 (((Claims.begun wCollective6 0 q0
     eCollective6).queue q0).d 0) = .ok own) ∧ (((Claims.begun wCollective6 0 q0 eCollective6).queue q0).d
     0).missing.all (fun i => (Claims.begun wCollective6 0 q0 eCollective6).peerOk 0 ((Claims.begun wCollective6 0 q0
     eCollective6).holder 0 (((Claims.begun wCollective6 0 q0 eCollective6).queue q0).d 0) i)) = true) ∧
    ((wCollective7.tick 0).ready q0 0x54 = some eCollective7 ∧ ((Claims.begun wCollective7 0 q0
     eCollective7).rankOf q0.slot eCollective7.imm0 = some 0 ∧ (Claims.begun wCollective7 0 q0
     eCollective7).readAddrs q0.slot (((Claims.begun wCollective7 0 q0 eCollective7).queue q0).d 0).stream = .ok
     (List.replicate 16 0))) ∧
    ((wCollective8.tick 0).ready q0 0x55 = some eCollective8 ∧ (Claims.begun wCollective8 0 q0
     eCollective8).rankOf q0.slot eCollective8.imm0 = some 0) ∧
    ((wCollective9.tick 0).ready q0 0x55 = some eCollective9 ∧ (Claims.begun wCollective9 0 q0 eCollective9).rankOf 0
     eCollective9.imm0 = some 0 ∧ (∃ v b, v = (Claims.begun wCollective9 0 q0 eCollective9).modQueue q0 (fun y =>
     { y with phase := .running, flight := .recv (Claims.begun wCollective9 0 q0 eCollective9).clk.now }) ∧ (v.queue
     q0).entry = some eCollective9 ∧ (v.ctx 0).message (v.rankAt 0 eCollective9.imm0) ((v.queue q0).mid
     eCollective9.tag) = some b ∧ ∃ w, v.vwrites 0 (writesAt ((v.queue q0).d 0).stream b) = (w, none))) ∧
    ((wCollective10.tick 0).ready q0 0x55 = some eCollective10 ∧ (∃ m, (Claims.begun wCollective10 0 q0
     eCollective10).rankOf 0 eCollective10.imm0 = some m) ∧ (∃ v, v = (Claims.begun wCollective10 0 q0
     eCollective10).modQueue q0 (fun y =>
     { y with phase := .running, flight := .recv (Claims.begun wCollective10 0 q0 eCollective10).clk.now }) ∧ (v.queue
     q0).entry = some eCollective10 ∧ (v.ctx 0).message (v.rankAt 0 eCollective10.imm0) ((v.queue q0).mid
     eCollective10.tag) = none)) ∧
    ((wCollective11.tick 0).ready q0 0x61 = some eCollective11 ∧ (∃ u, (Claims.begun wCollective11 0 q0
     eCollective11).dropView 0 (((Claims.begun wCollective11 0 q0 eCollective11).queue q0).d 0) = (u, none))) ∧
    (5 ≠ 0 ∧ ((sCollective12.queue q0).phase = .running ∧ (sCollective12.queue q0).flight = .exchange 0 5 [] ∧
     (sCollective12.queue q0).entry = some ({ op := 0x53 } : Entry) ∧ sCollective12.serves q0.slot = true ∧ 5 ≤
     sCollective12.clk.now)) ∧
    ((sCollective13.queue q0).phase = .running ∧ ((sCollective13.queue q0).flight = .gather 0 [] ∨
     (sCollective13.queue q0).flight = .recv 0) ∧ sCollective13.serves q0.slot = true ∧ (sCollective13.ctxRec
     q0.slot).patience ≠ 0xFFFFFFFF ∧ 0 + (sCollective13.ctxRec q0.slot).patience * 1000 ≤ sCollective13.clk.now) :=
  ⟨by exact ⟨by decide +kernel, .inl rfl, 0, by decide +kernel⟩,
   by exact ⟨by decide +kernel, .inr rfl, by decide +kernel⟩,
   by decide +kernel,
   by exact ⟨by decide +kernel, _, _, rfl, rfl, by decide +kernel⟩,
   by exact ⟨by decide +kernel, _, _, rfl, rfl, by decide +kernel⟩,
   by exact ⟨by decide +kernel, .inr (by decide +kernel), ok_two _ (by decide +kernel)⟩,
   by exact ⟨by decide +kernel, .inr rfl, by decide +kernel, ok_val _ (by decide +kernel), by decide +kernel⟩,
   by exact ⟨by decide +kernel, by decide +kernel, ok_is _ _ (by decide +kernel)⟩,
   by decide +kernel,
   by exact ⟨by decide +kernel, by decide +kernel, _, zeros 16, rfl, by decide +kernel, by decide +kernel,
     ok_pair _ (by decide +kernel)⟩,
   by exact ⟨by decide +kernel, ⟨0, by decide +kernel⟩, _, rfl, by decide +kernel, by decide +kernel⟩,
   by exact ⟨by decide +kernel, ok_pair _ (by decide +kernel)⟩,
   by decide +kernel,
   by exact ⟨by decide +kernel, .inr (by decide +kernel), by decide +kernel⟩⟩

def wService0 : State := (atEntry ({ op := 0x33, desc := desc2 } : Entry) [d16 0x10000 [8], d16 0x20000 [8]])

def eService0 : Entry := ({ op := 0x33, desc := desc2 } : Entry)

def wService1 : State := bounced

def eService1 : Entry := ({ op := 0x33, desc := desc2 } : Entry)

def wService2 : State := (atEntry ({ op := 0x80, desc := desc1 } : Entry) [d16 0x10000 [8], d16 0x20000 [8]])

def eService2 : Entry := ({ op := 0x80, desc := desc1 } : Entry)

def wService3 : State :=
  withRoot (atEntry ({ op := 0x81, desc := desc1, variant := 1, imm1 := 0x20000 } : Entry) [d16 0x10000 [8], d16 0x20000 [8]])

def eService3 : Entry := ({ op := 0x81, desc := desc1, variant := 1, imm1 := 0x20000 } : Entry)

def wService4 : State :=
  withRoot (atEntry ({ op := 0x82, variant := 0, imm1 := 0x20000 } : Entry) [d16 0x10000 [8], d16 0x20000 [8]])

def eService4 : Entry := ({ op := 0x82, variant := 0, imm1 := 0x20000 } : Entry)

def wService5 : State :=
  withCtx (atEntry ({ op := 0x83, desc := desc1, imm1 := 0x20000 } : Entry) [d16 0x10000 [8], d16 0x20000 [8]])
    (fun x => { x with charter := some aCharter, ranges := [{ slot := 3, owner := 0xFF }] })

def eService5 : Entry := ({ op := 0x83, desc := desc1, imm1 := 0x20000 } : Entry)

def wService6 : State :=
  withCtx (atEntry ({ op := 0x83, desc := desc1, imm1 := 0x20000 } : Entry) [d16 0x10000 [8], d16 0x20000 [8]])
    (fun x => { x with charter := some aCharter, ranges := [{ slot := 3, owner := 0 }] })

def eService6 : Entry := ({ op := 0x83, desc := desc1, imm1 := 0x20000 } : Entry)

def wService7 : State := (atEntry ({ op := 0x83, desc := desc1, imm1 := 0x20000 } : Entry) [d16 0x10000 [8], d16 0x20000 [8]])

def eService7 : Entry := ({ op := 0x83, desc := desc1, imm1 := 0x20000 } : Entry)

def wService8 : State := (atEntry ({ op := 0x84, desc := desc1 } : Entry) [d16 0x10000 []])

def eService8 : Entry := ({ op := 0x84, desc := desc1 } : Entry)

def wService9 : State :=
  withCtx (atEntry ({ op := 0x72 } : Entry) [])
    (fun x => { x with record := x.record.map (fun (r : CtxRec) => { r with scaleTable := 0 }) })

def eService9 : Entry := ({ op := 0x72 } : Entry)

def sService10 : State :=
  (withReads (withQ (atEntry ({ op := 0x33, desc := desc2 } : Entry) []) (fun y => { y with phase := .running, begun := true, flight := .hostRead [] })) [({ tag := 9, slot := 0, queue := 0, gen := 0, fn := 0, va := 0x10000, addr := 0, len := 64 } : HostRead)]).tick 5

def sService12 : State :=
  (withReads up [({ tag := 9, slot := 0, queue := 0, gen := 0, fn := 0, va := 0x10000, addr := 0, len := 64 } : HostRead)]).tick 5

def sService13 : State :=
  (withReads (withQ (atEntry ({ op := 0x33, desc := desc2 } : Entry) []) (fun y => { y with phase := .running, begun := true, cur := some { op := 3 }, flight := .hostRead [] })) [({ tag := 9, slot := 0, queue := 0, gen := 0, fn := 0, va := 0x10000, addr := 0, len := 64 } : HostRead)]).tick 5

/-- The hypotheses of every clause of ServiceEntries are met together by some state and operands. -/
theorem wit_ServiceEntries :
    ((wService0.tick 0).ready q0 0x33 = some eService0 ∧ (Claims.begun wService0 0 q0 eService0).bounceData 0
     (((Claims.begun wService0 0 q0 eService0).queue q0).d 0) = false ∧ (Claims.begun wService0 0 q0
     eService0).bounceData 0 (((Claims.begun wService0 0 q0 eService0).queue q0).d 1) = false ∧ (∃ v d, (Claims.begun
     wService0 0 q0 eService0).copyRead 0 (((Claims.begun wService0 0 q0 eService0).queue q0).d 0) ((Claims.begun
     wService0 0 q0 eService0).queue q0).arrived = (v, .ok d) ∧ ∃ w, v.vwrites 0 (writesAt (((Claims.begun wService0 0
     q0 eService0).queue q0).d 1).stream d) .data = (w, none))) ∧
    ((wService1.tick 0).ready q0 0x33 = some eService1 ∧ (Claims.begun wService1 0 q0 eService1).bounceData 0
     (((Claims.begun wService1 0 q0 eService1).queue q0).d 0) = false ∧ (Claims.begun wService1 0 q0
     eService1).bounceData 0 (((Claims.begun wService1 0 q0 eService1).queue q0).d 1) = true ∧ (∃ v d, (Claims.begun
     wService1 0 q0 eService1).copyRead 0 (((Claims.begun wService1 0 q0 eService1).queue q0).d 0) ((Claims.begun
     wService1 0 q0 eService1).queue q0).arrived = (v, .ok d) ∧ ∃ w, ((v.unitWrites 0 (((Claims.begun wService1 0 q0
     eService1).queue q0).d 1).base d).1).vwrites 0 (v.unitWrites 0 (((Claims.begun wService1 0 q0 eService1).queue
     q0).d 1).base d).2 .data = (w, none))) ∧
    ((wService2.tick 0).ready q0 0x80 = some eService2 ∧ (∃ v rest, (Claims.begun wService2 0 q0 eService2).ingest 0
     (((Claims.begun wService2 0 q0 eService2).queue q0).d 0) ((Claims.begun wService2 0 q0 eService2).queue
     q0).arrived eService2.imm1 eService2.imm0 (((Claims.begun wService2 0 q0 eService2).queue q0).d 0).stream = (v,
     .ok rest) ∧ ∃ w, v.vwrites 0 (writesAt rest (zeros rest.length)) = (w, none))) ∧
    ((wService3.tick 0).ready q0 0x81 = some eService3 ∧ (∃ bs, (Claims.begun wService3 0 q0 eService3).ckptStreams 0
     ((Claims.begun wService3 0 q0 eService3).queue q0) = .ok bs ∧ ∃ w, State.vwrites
     { (Claims.begun wService3 0 q0 eService3) with sec := { (Claims.begun wService3 0 q0 eService3).sec with sealed := (Claims.begun wService3 0 q0 eService3).sec.sealed + ((Claims.begun wService3 0 q0 eService3).ckptUnits 0 eService3.imm0 bs).length + ((Claims.begun wService3 0 q0 eService3).ckptClose 0 eService3.imm0 (bit eService3.variant 0) ((Claims.begun wService3 0 q0 eService3).ckptUnits 0 eService3.imm0 bs)).length } }
     0 (layUnits eService3.imm1 (((Claims.begun wService3 0 q0 eService3).ckptUnits 0 eService3.imm0 bs).map (fun (u :
     Bytes × Bytes) => u.1) ++ (Claims.begun wService3 0 q0 eService3).ckptClose 0 eService3.imm0 (bit
     eService3.variant 0) ((Claims.begun wService3 0 q0 eService3).ckptUnits 0 eService3.imm0 bs))) .sealed = (w,
     none))) ∧
    ((wService4.tick 0).ready q0 0x82 = some eService4 ∧ (∃ key v r, (Claims.begun wService4 0 q0
     eService4).restoreKey 0 eService4.imm0 ((List.range 6).filterMap ((Claims.begun wService4 0 q0 eService4).queue
     q0).desc) = some key ∧ (Claims.begun wService4 0 q0 eService4).restoreAll 0 key eService4.imm0 ((Claims.begun
     wService4 0 q0 eService4).queue q0).arrived ((List.range 6).filterMap ((Claims.begun wService4 0 q0
     eService4).queue q0).desc)
     { va := eService4.imm1, tags := segsOf ((Claims.begun wService4 0 q0 eService4).ctx 0).resegs eService4.imm0 } =
     (v, .ok r) ∧ v.restoreClose 0 key eService4.imm0 (bit eService4.variant 0) ((Claims.begun wService4 0 q0
     eService4).queue q0).arrived r = .ok ())) ∧
    ((wService5.tick 0).ready q0 0x83 = some eService5 ∧ ((Claims.begun wService5 0 q0 eService5).ctx 0).charter =
     some aCharter ∧ (∃ r ws n, aCharter.rules[eService5.imm0]? = some r ∧ (((Claims.begun wService5 0 q0
     eService5).queue q0).d 0).tensorId = r.tensorId ∧ (Claims.begun wService5 0 q0 eService5).rangesOf 0
     (((Claims.begun wService5 0 q0 eService5).queue q0).d 0) = [r.range] ∧ (r.limit = 0 ∨ tget 0 ((Claims.begun
     wService5 0 q0 eService5).ctx 0).releases eService5.imm0 < r.limit) ∧ (Claims.begun wService5 0 q0
     eService5).openAt 0 eService5.imm1 (releaseSize r (((Claims.begun wService5 0 q0 eService5).queue q0).d 0)) =
     true ∧ (Claims.begun wService5 0 q0 eService5).releaseWrites 0 aCharter r ((((Claims.begun wService5 0 q0
     eService5).queue q0).rawDesc 0).getD (((Claims.begun wService5 0 q0 eService5).queue q0).d 0)) (((Claims.begun
     wService5 0 q0 eService5).queue q0).d 0) eService5.imm1 = .ok (ws, n) ∧ ∃ w, State.vwrites
     { (Claims.begun wService5 0 q0 eService5) with sec := { (Claims.begun wService5 0 q0 eService5).sec with sealed := (Claims.begun wService5 0 q0 eService5).sec.sealed + n } }
     0 ws = (w, none))) ∧
    ((wService6.tick 0).ready q0 0x83 = some eService6 ∧ ((Claims.begun wService6 0 q0 eService6).ctx 0).charter =
     some aCharter ∧ (∃ r, aCharter.rules[eService6.imm0]? = some r ∧ (Claims.begun wService6 0 q0 eService6).openAt 0
     eService6.imm1 (releaseSize r (((Claims.begun wService6 0 q0 eService6).queue q0).d 0)) = false)) ∧
    ((wService7.tick 0).ready q0 0x83 = some eService7 ∧ ((Claims.begun wService7 0 q0 eService7).ctx
     q0.slot).charter = none) ∧
    ((wService8.tick 0).ready q0 0x84 = some eService8 ∧ (∃ v, (Claims.begun wService8 0 q0 eService8).readElem 0
     (((Claims.begun wService8 0 q0 eService8).queue q0).d 0) (List.replicate (((Claims.begun wService8 0 q0
     eService8).queue q0).d 0).rank 0) = .ok v)) ∧
    ((wService9.tick 0).ready q0 0x72 = some eService9 ∧ (∃ n, (Claims.begun wService9 0 q0 eService9).stepScale 0
     ((Claims.begun wService9 0 q0 eService9).queue q0).startStep = .ok n) ∧ (((Claims.begun wService9 0 q0
     eService9).compute q0 eService9 ((Claims.begun wService9 0 q0 eService9).scaleUpdate 0)).queue q0).phase = .done
     .ok) ∧
    (sService10.pcie.reads.find? (fun z => z.tag = 9) = some
     ({ tag := 9, slot := 0, queue := 0, gen := 0, fn := 0, va := 0x10000, addr := 0, len := 64 } : HostRead) ∧
     ({ tag := 9, slot := 0, queue := 0, gen := 0, fn := 0, va := 0x10000, addr := 0, len := 64 } : HostRead).fetchAdd
     = none ∧ sService10.waitsRead
     ({ tag := 9, slot := 0, queue := 0, gen := 0, fn := 0, va := 0x10000, addr := 0, len := 64 } : HostRead) = true) ∧
    (((withReads up
     [({ tag := 9, slot := 0, queue := 0, gen := 0, fn := 0, va := 0x10000, addr := 0, len := 64, fetchAdd := some (0x10000, 1, 8) }
     : HostRead)]).tick 5).pcie.reads.find? (fun z => z.tag = 9) = some
     ({ tag := 9, slot := 0, queue := 0, gen := 0, fn := 0, va := 0x10000, addr := 0, len := 64, fetchAdd := some (0x10000, 1, 8) }
     : HostRead) ∧
     ({ tag := 9, slot := 0, queue := 0, gen := 0, fn := 0, va := 0x10000, addr := 0, len := 64, fetchAdd := some (0x10000, 1, 8) }
     : HostRead).fetchAdd = some ((0x10000, 1, 8) : Nat × Nat × Nat)) ∧
    (sService12.pcie.reads.find? (fun z => z.tag = 9) = some
     ({ tag := 9, slot := 0, queue := 0, gen := 0, fn := 0, va := 0x10000, addr := 0, len := 64 } : HostRead) ∧
     ({ tag := 9, slot := 0, queue := 0, gen := 0, fn := 0, va := 0x10000, addr := 0, len := 64 } : HostRead).fetchAdd
     = none ∧ sService12.waitsRead
     ({ tag := 9, slot := 0, queue := 0, gen := 0, fn := 0, va := 0x10000, addr := 0, len := 64 } : HostRead) = false) ∧
    (sService13.pcie.reads.find? (fun z => z.tag = 9) = some
     ({ tag := 9, slot := 0, queue := 0, gen := 0, fn := 0, va := 0x10000, addr := 0, len := 64 } : HostRead) ∧
     ({ tag := 9, slot := 0, queue := 0, gen := 0, fn := 0, va := 0x10000, addr := 0, len := 64 } : HostRead).fetchAdd
     = none ∧ sService13.waitsRead
     ({ tag := 9, slot := 0, queue := 0, gen := 0, fn := 0, va := 0x10000, addr := 0, len := 64 } : HostRead) = true ∧
     (sService13.queue ⟨({ tag := 9, slot := 0, queue := 0, gen := 0, fn := 0, va := 0x10000, addr := 0, len := 64 } :
     HostRead).slot, ({ tag := 9, slot := 0, queue := 0, gen := 0, fn := 0, va := 0x10000, addr := 0, len := 64 } :
     HostRead).queue⟩).phase = .running ∧ (sService13.queue
     ⟨({ tag := 9, slot := 0, queue := 0, gen := 0, fn := 0, va := 0x10000, addr := 0, len := 64 } : HostRead).slot,
     ({ tag := 9, slot := 0, queue := 0, gen := 0, fn := 0, va := 0x10000, addr := 0, len := 64 } :
     HostRead).queue⟩).cur.isSome = true ∧ (sService13.queue
     ⟨({ tag := 9, slot := 0, queue := 0, gen := 0, fn := 0, va := 0x10000, addr := 0, len := 64 } : HostRead).slot,
     ({ tag := 9, slot := 0, queue := 0, gen := 0, fn := 0, va := 0x10000, addr := 0, len := 64 } :
     HostRead).queue⟩).entry = some ({ op := 0x33, desc := desc2 } : Entry)) :=
  ⟨by exact ⟨by decide +kernel, by decide +kernel, by decide +kernel, ok_fst _ _ (by decide +kernel)⟩,
   by exact ⟨by decide +kernel, by decide +kernel, by decide +kernel, ok_fst _ _ (by decide +kernel)⟩,
   by exact ⟨by decide +kernel, ok_fst _ _ (by decide +kernel)⟩,
   by exact ⟨by decide +kernel, ok_val1 _ _ (by decide +kernel)⟩,
   by exact ⟨by decide +kernel, _, _, _, rfl, rfl, ok_is _ _ (by decide +kernel)⟩,
   by exact ⟨by decide +kernel, by decide +kernel, aRule, [(0x20000, List.replicate 16 0)], 0, by decide +kernel,
     by decide +kernel, by decide +kernel, .inr (by decide +kernel), by decide +kernel, ok_is _ _ (by decide +kernel),
     ok_pair _ (by decide +kernel)⟩,
   by exact ⟨by decide +kernel, by decide +kernel, aRule, by decide +kernel, by decide +kernel⟩,
   by decide +kernel,
   by exact ⟨by decide +kernel, ok_val _ (by decide +kernel)⟩,
   by exact ⟨by decide +kernel, ok_val _ (by decide +kernel), by decide +kernel⟩,
   by decide +kernel,
   by decide +kernel,
   by decide +kernel,
   by decide +kernel⟩

def sContext6 : State := (slot63 { state := 1, record := some { mode := 1 } }).tick 5

def sContext7 : State := (slot63 { state := 4, queues := [(15, {})] }).tick 5

/-- The hypotheses of every clause of ContextCommands are met together by some state and operands. -/
theorem wit_ContextCommands :
    (pf0 0 = true ∧ (Claims.CtxOpened (up.tick 5) 0 63 ∧ (up.tick 5).fw.act = none)) ∧
    (ctxReady.tick 0 = ctxReady ∧ Claims.CtxOpened ctxReady 0 63 ∧ ctxReady.fw.act = none ∧ ctxReady.sec.trngOk = true
     ∧ (∃ b, (ctxReady.access 0 (pgCtx 63)).buildCtx 63 = .ok b)) ∧
    (pf0 0 = true ∧ (Claims.CtxOpened ((withAct up).tick 5) 0 63 ∧ ((withAct up).tick 5).fw.act ≠ none ∧ 63 ∉
     ((withAct up).tick 5).fw.creates)) ∧
    (((vfs.tick 5).access 64 (pgCtx 63)).ctxOpens 64 63 true = true) ∧
    ((((slot63 { state := 2 }).tick 5).ctx 63).state = 2) ∧
    (pf0 0 = true ∧ ((up.tick 5).access 0 (pgCtx 63)).ctxOpens 0 63 true = true) ∧
    (Claims.CtxOpened sContext6 0 63 ∧ (sContext6.ctx 63).state = 1 ∧ bit (sContext6.ctxRec 63).mode 0 = true) ∧
    ((sContext7.ctx 63).state = 4 ∧ ∀ p ∈ (sContext7.ctx 63).queues, p.2.dry = true) :=
  ⟨by unfold Claims.CtxOpened; decide +kernel,
   by exact ⟨rfl, by unfold Claims.CtxOpened; decide +kernel, by decide +kernel, by decide +kernel, ctxReady_built⟩,
   by unfold Claims.CtxOpened; decide +kernel,
   by decide +kernel,
   by decide +kernel,
   by decide +kernel,
   by unfold Claims.CtxOpened; decide +kernel,
   by decide +kernel⟩

def sContextRegister0 : State :=
  (slot63 { state := 1, queues := [(15, { enable := true, head := 0xFFFFFFFF, depth := 4 })] }).tick 5

def sContextRegister8 : State := (slot63 { state := 1, queues := [(15, {})] }).tick 5

def sContextRegister9 : State := (slot63 { state := 1, queues := [(15, { enable := true })] }).tick 5

/-- The hypotheses of every clause of ContextRegisterCommands are met together by some state and operands. -/
theorem wit_ContextRegisterCommands :
    (63 < 64 ∧ 15 < 16 ∧ (sContextRegister0.hostUp = true ∧ sContextRegister0.live = true ∧ (sContextRegister0.ctx
     63).state = 1 ∧ (15 % 2 ^ 32 + 2 ^ 32 - (sContextRegister0.queue ⟨63, 15⟩).head) % 2 ^ 32 ≤ 2 ^
     (sContextRegister0.queue ⟨63, 15⟩).depth)) ∧
    (63 < 64 ∧ 15 < 16 ∧ (sContextRegister0.hostUp = true ∧ sContextRegister0.live = true ∧ (sContextRegister0.ctx
     63).state = 1 ∧ (sContextRegister0.queue ⟨63, 15⟩).error = false ∧ 2 ^ (sContextRegister0.queue ⟨63, 15⟩).depth <
     (16 % 2 ^ 32 + 2 ^ 32 - (sContextRegister0.queue ⟨63, 15⟩).head) % 2 ^ 32)) ∧
    (Claims.CtxOpened (vfs.tick 5) 64 63) ∧
    (Claims.CtxOpened (vfs.tick 5) 64 63) ∧
    (Claims.CtxOpened (parkedUp.tick 5) 64 63 ∧ (((parkedUp.tick 5).access 64 (pgCtx 63)).ctx 63).parked.filter (fun p
     => p.replayable && (sl 7 15 0 = 0xFFFF || p.rid = sl 7 15 0)) = [aParked]) ∧
    (Claims.CtxOpened (vfs.tick 5) 64 63) ∧
    (Claims.CtxOpened (vfs.tick 5) 64 63) ∧
    (Claims.CtxOpened (vfs.tick 5) 64 63) ∧
    (Claims.CtxOpened sContextRegister8 0 63 ∧ ∀ p ∈ (sContextRegister8.ctx 63).queues, p.2.enable = false) ∧
    (Claims.CtxOpened sContextRegister9 0 63 ∧ ∃ p ∈ (sContextRegister9.ctx 63).queues, p.2.enable = true) ∧
    ((((slot63 { state := 1, invalGo := true }).tick 5).ctx 63).invalGo = true) ∧
    (bit 0x80000000 31 = true ∧ (Claims.Opened (up.tick 5) 0 pgMmu ∧ (up.tick 5).mem.scrubGo = none)) ∧
    ((({ up with mem := { scrubGo := some (7, 1) } } : State).tick 5).mem.scrubGo = some (7, 1)) :=
  ⟨by decide +kernel,
   by decide +kernel,
   by unfold Claims.CtxOpened; decide +kernel,
   by unfold Claims.CtxOpened; decide +kernel,
   by exact ⟨by unfold Claims.CtxOpened; decide +kernel, by decide +kernel⟩,
   by unfold Claims.CtxOpened; decide +kernel,
   by unfold Claims.CtxOpened; decide +kernel,
   by unfold Claims.CtxOpened; decide +kernel,
   by unfold Claims.CtxOpened; decide +kernel,
   by unfold Claims.CtxOpened; decide +kernel,
   by decide +kernel,
   by unfold Claims.Opened; decide +kernel,
   by decide +kernel⟩

def sHostInterface0 : State :=
  ({ up with mem := { frames := [(0, some { tier := 0, stack := 0, key := 5, replay := false })], tableKey := 5 } } : State).tick 5

def sHostInterface2 : State :=
  ({ vfs with pcie := { vfs.pcie with held := [{ fn := 64, off := 0, len := 1, data := none }] } } : State).tick 5

def sHostInterface8 : State :=
  ({ vfs with pcie := { vfs.pcie with sessions := [(9, 0)] }, ctxs := [(63, { state := 1, gen := 3, record := some {} })] } : State).tick 5

def sHostInterface11 : State :=
  ({ vfs with pcie := { vfs.pcie with sessions := [(9, 0)] }, ctxs := [(63, { state := 1, gen := 3, session := some 9, record := some {} })] } : State).tick 5

/-- The hypotheses of every clause of HostInterfaceCommands are met together by some state and operands. -/
theorem wit_HostInterfaceCommands :
    (sHostInterface0.windowOpen 0 0xFF80 128 = true ∧ sHostInterface0.windowHeld
     { fn := 0, off := 0xFF80, len := 128, data := none } = false ∧ piecesOf 128 0xFF80 128 = [(0xFF80, 128)] ∧
     sHostInterface0.windowAt 0 0xFF80 false = (some (0xFF80, 5, false), false) ∧ (sHostInterface0.windowTouch 0
     0xFF80 128).physRead 5 false 0xFF80 128 = .ok (List.replicate 128 0)) ∧
    ((vfs.tick 5).windowOpen 64 0xFFFFFFFFF ([7] : Bytes).length = true ∧ (vfs.tick 5).windowHeld
     { fn := 64, off := 0xFFFFFFFFF, len := ([7] : Bytes).length, data := some ([7] : Bytes) } = false) ∧
    (sHostInterface2.windowOpen 64 0xFFFFFFFFF ([7] : Bytes).length = true ∧ sHostInterface2.windowHeld
     { fn := 64, off := 0xFFFFFFFFF, len := ([7] : Bytes).length, data := some ([7] : Bytes) } = true) ∧
    (63 < 64 ∧ ((vfs.tick 5).hostUp = true ∧ (vfs.tick 5).bound 63 = true)) ∧
    (64 ≤ 64 ∧ (vfs.tick 5).configUp = true) ∧
    (1 ≤ 6 ∧ 6 ≤ 6 ∧ 16 ∈ [1, 2, 4, 8, 16] ∧ (up.tick 5).hostUp = true) ∧
    ((vfs.tick 5).configUp = true ∧ (vfs.tick 5).running = true ∧ (vfs.tick 5).signs = true ∧ ∀ p ∈ (vfs.tick
     5).pcie.sessions, p.1 ≠ 9) ∧
    (63 < 64 ∧ (sHostInterface8.hasSession 9 = true ∧ sHostInterface8.bound 63 = true)) ∧
    (sHostInterface8.hasSession 9 = true ∧ sHostInterface8.bindResult 9
     ({ slot := 63, gen := 3, owner := 0xFF, sig := zeros 96 } : BindRequest) = 0) ∧
    (sHostInterface8.hasSession 9 = true ∧ sHostInterface8.bindResult 9
     ({ slot := 63, gen := 4, owner := 0xFF, sig := zeros 96 } : BindRequest) ≠ 0) ∧
    (sHostInterface11.hasSession 9 = true ∧ (sHostInterface11.ctx
     ({ slot := 63, gen := 3, owner := 0xFF, sig := zeros 96 } : BindRequest).slot).state = 1 ∧ (sHostInterface11.ctx
     ({ slot := 63, gen := 3, owner := 0xFF, sig := zeros 96 } : BindRequest).slot).gen =
     ({ slot := 63, gen := 3, owner := 0xFF, sig := zeros 96 } : BindRequest).gen ∧ (sHostInterface11.ctx
     ({ slot := 63, gen := 3, owner := 0xFF, sig := zeros 96 } : BindRequest).slot).session = some 9) ∧
    ((vfs.tick 5).configUp = true ∧ (vfs.tick 5).signs = true ∧ (vfs.tick 5).fw.act = none ∧ (vfs.tick 5).running =
     true) :=
  ⟨by exact ⟨by decide +kernel, by decide +kernel, by decide +kernel, by decide +kernel, ok_is _ _ (by decide +kernel)⟩,
   by decide +kernel,
   by decide +kernel,
   by decide +kernel,
   by decide +kernel,
   by exact ⟨by decide +kernel, by decide +kernel, by decide +kernel, by decide +kernel⟩,
   by decide +kernel,
   by decide +kernel,
   by decide +kernel,
   by decide +kernel,
   by decide +kernel,
   by decide +kernel⟩

def sSchedule2 : State := (coreAt up { st := 3 }).tick 5

def sSchedule3 : State := (coreAt up { st := 2, preempt := true, ctx := some 63, holds := some 63 }).tick 5

def sSchedule4 : State := (slot63 { state := 1, queues := [(0, { enable := true, head := 0, tail := 1 })] }).tick 5

def sSchedule5 : State := (coreAt sprigging { st := 2, ctx := some 63, holds := some 63 }).tick 5

def sSchedule7 : State := (slot63 { state := 1, record := some { mode := 4 } }).tick 8000000

/-- The hypotheses of every clause of ScheduleCommands are met together by some state and operands. -/
theorem wit_ScheduleCommands :
    ((up.tick 1000000).ticking = true ∧ ((up.tick 1000000).sched.k + 1) * (up.tick 1000000).quantumNs ≤ (up.tick
     1000000).clk.time) ∧
    ((up.tick 950000).ticking = true ∧ ((up.tick 950000).sched.k + 1) * (up.tick 950000).quantumNs ≤ (up.tick
     950000).clk.time + 50000) ∧
    (sSchedule2.live = true ∧ 79 < sSchedule2.ident.variant.cores ∧ (sSchedule2.core 79).st = 3 ∧ sSchedule2.ras.sweep
     = false) ∧
    (sSchedule3.live = true ∧ 79 < sSchedule3.ident.variant.cores ∧ (sSchedule3.core 79).st = 2 ∧ (sSchedule3.core
     79).preempt = true ∧ (sSchedule3.core 79).ctx = some 63) ∧
    (63 < 64 ∧ (sSchedule4.ticking = true ∧ (sSchedule4.ctx 63).strict = false ∧ sSchedule4.runnable 63 = true)) ∧
    ((sSchedule5.core 79).ctx = some 63 ∧ sSchedule5.ticking = true ∧ sSchedule5.sched.sprigs = true ∧
     (sSchedule5.core 79).st = 2 ∧ (sSchedule5.core 79).sprig = none ∧ sSchedule5.donates 63 = true ∧
     sSchedule5.pickSource 63 = some 62) ∧
    (63 < 64 ∧ (sSchedule7.ticking = true ∧ (sSchedule7.ctx 63).active = true ∧ (sSchedule7.ctx 63).periodic = true ∧
     (sSchedule7.ctx 63).ending = false ∧ (sSchedule7.ctx 63).nextPeriod ≤ sSchedule7.round ∧ (sSchedule7.ctx
     63).reload = none ∧ ∀ p ∈ (sSchedule7.ctx 63).queues, p.2.overruns = false)) ∧
    (Claims.Opened (up.tick 5) 0 pgSched) ∧
    (bit 0x8000003F 31 = true ∧ Claims.Opened ctxSched 0 pgSched ∧ (∃ v, v =
     { ctxSched.access 0 pgSched with sched := { (ctxSched.access 0 pgSched).sched with reloadCtx := sl 0x8000003F 5 0 } }
     ∧ ∃ r, v.rereadSched (sl 0x8000003F 5 0) = some r)) :=
  ⟨by decide +kernel,
   by decide +kernel,
   by decide +kernel,
   by decide +kernel,
   by decide +kernel,
   by decide +kernel,
   by decide +kernel,
   by unfold Claims.Opened; decide +kernel,
   by exact ⟨by decide +kernel, by unfold Claims.Opened; decide +kernel, _, rfl, ctxSched_read⟩⟩

def sPlacement2 : State :=
  ({ up with mem := { frames := [(7, some { tier := 1, stack := 0, key := 0, replay := false })], classes := [(7, 5)], migr := [{ frame := 7, tier := 0, stack := 5 }] } } : State).tick 5

def sPlacement6 : State :=
  ({ up with mem := { frames := [(7, some { tier := 1, stack := 7, key := 0, replay := false })] } } : State).tick 5

def sPlacement10 : State := ({ slot63 { state := 1 } with mem := { annealQ := [(63, 7)] } } : State).tick 5

def sPlacement11 : State := (annealing { slot := 0, range := 0, newSlot := 4, ptr := 0 }).tick 5

def sPlacement12 : State := (annealing { slot := 0, range := 1, newSlot := 4, ptr := 0 }).tick 5

/-- The hypotheses of every clause of PlacementCommands are met together by some state and operands. -/
theorem wit_PlacementCommands :
    ((({ up with mem := { frames := [(7, some { tier := 0, stack := 0, key := 0, replay := false })] } } : State).tick
     5).placeWaiting.mayMigrate 7 1 7 = true) ∧
    (
     (({ up with mem := { frames := [(7, some { tier := 0, stack := 0, key := 0, replay := false })], migr := [{ frame := 7, tier := 1, stack := 5 }] } }
     : State).tick 5).mem.migr.find? (fun m => m.frame = 7) = some ({ frame := 7, tier := 1, stack := 5 } : Migration)
     ∧
     (({ up with mem := { frames := [(7, some { tier := 0, stack := 0, key := 0, replay := false })], migr := [{ frame := 7, tier := 1, stack := 5 }] } }
     : State).tick 5).classMoves 7 1 = true ∧ (∃ v, v =
     ((({ up with mem := { frames := [(7, some { tier := 0, stack := 0, key := 0, replay := false })], migr := [{ frame := 7, tier := 1, stack := 5 }] } }
     : State).tick 5).copyErrors 7).dropLines 7 ∧ v.backing 7 = some
     { tier := 0, stack := 0, key := 0, replay := false })) ∧
    (sPlacement2.mem.migr.find? (fun z => z.frame = 7) = some ({ frame := 7, tier := 0, stack := 5 } : Migration) ∧
     sPlacement2.classMoves 7 ({ frame := 7, tier := 0, stack := 5 } : Migration).tier = false) ∧
    (
     (({ up with mem := { frames := [(7, some { tier := 0, stack := 0, key := 0, replay := false })], migr := [{ frame := 7, tier := 1, stack := 5 }] } }
     : State).tick 5).mem.migr.find? (fun z => z.frame = 7) = some ({ frame := 7, tier := 1, stack := 5 } : Migration)) ∧
    (Claims.Opened (up.tick 5) 0 pgPlace) ∧
    (bit 0x80000000 31 = true ∧ Claims.Opened (up.tick 5) 0 pgPlace) ∧
    (1 < 2 ∧ (sPlacement6.running = true ∧ 7 < sPlacement6.stacks 1 ∧ (sPlacement6.mc (if 1 = 0 then 7 else 16 +
     7)).patrol = true ∧ sPlacement6.liesIn 1 7 (some 7) = true)) ∧
    (Claims.Opened (up.tick 5) 0 pgMemcrypt) ∧
    ((bit 0x8000003F 31 = true ∧ sl 0x8000003F 10 8 < 8) ∧ Claims.Opened ((slot63 { state := 1 }).tick 5) 0 pgMemcrypt
     ∧ ((((slot63 { state := 1 }).tick 5).access 0 pgMemcrypt).ctx 63).state ≠ 0 ∧ ((63, 0) : Nat × Nat) ∉ (((slot63
     { state := 1 }).tick 5).access 0 pgMemcrypt).mem.annealQ ∧ ∀ a ∈ (((slot63 { state := 1 }).tick 5).access 0
     pgMemcrypt).mem.anneals, ¬ (a.slot = 63 ∧ a.range = 0)) ∧
    (sPlacement10.mem.annealQ = (63, 7) :: ([] : List (Nat × Nat)) ∧ sPlacement10.live = true ∧ (sPlacement10.ctx
     63).state = 1 ∧ sPlacement10.annealing.length < 4 ∧ 1 + 8 * sPlacement10.freeCtxs ≤ sPlacement10.freeSlots ∧
     sPlacement10.sec.trngOk = true) ∧
    (sPlacement11.annealing.find? (fun z => z.slot = 0 && z.range = 0) = some
     ({ slot := 0, range := 0, newSlot := 4, ptr := 0 } : Anneal) ∧ sPlacement11.blockOf
     ({ slot := 0, range := 0, newSlot := 4, ptr := 0 } : Anneal) = some (0x10000, 2, 0) ∧ sPlacement11.running = true
     ∧ sPlacement11.frameHeld 2 = false ∧ ∀ m ∈ sPlacement11.mem.migr, m.frame ≠ 2) ∧
    (sPlacement12.annealing.find? (fun z => z.slot = 0 && z.range = 1) = some
     ({ slot := 0, range := 1, newSlot := 4, ptr := 0 } : Anneal) ∧ sPlacement12.blockOf
     ({ slot := 0, range := 1, newSlot := 4, ptr := 0 } : Anneal) = none ∧ sPlacement12.running = true) :=
  ⟨by decide +kernel,
   by exact ⟨by decide +kernel, by decide +kernel, _, rfl, by decide +kernel⟩,
   by decide +kernel,
   by decide +kernel,
   by unfold Claims.Opened; decide +kernel,
   by unfold Claims.Opened; decide +kernel,
   by decide +kernel,
   by unfold Claims.Opened; decide +kernel,
   by exact ⟨by decide +kernel, by unfold Claims.Opened; decide +kernel, by decide +kernel⟩,
   by decide +kernel,
   by decide +kernel,
   by decide +kernel⟩

def sCore3 : State := (coreAt up { st := 4 }).tick 5

def sCore7 : State := (coreAt up { st := 5 }).tick 5

def sCore9 : State := ({ up with ras := { interval := 1 } } : State).tick 5

def sCore11 : State := (coreAt up { st := 2 }).tick 5

/-- The hypotheses of every clause of CoreCommands are met together by some state and operands. -/
theorem wit_CoreCommands :
    (((up.tick 5).access 0 (pgCore 79)).coreOpens 0 79 = true) ∧
    (((up.tick 5).access 0 (pgCore 79)).coreOpens 0 79 = true ∧ bit 1 0 = true ∧ bit 1 1 = false) ∧
    (((up.tick 5).access 0 (pgCore 79)).coreOpens 0 79 = true) ∧
    ((sCore3.access 0 (pgCore 79)).coreOpens 0 79 = true ∧ ((sCore3.access 0 (pgCore 79)).core 79).st = 4) ∧
    (((up.tick 5).access 0 (pgCore 79)).coreOpens 0 79 = true) ∧
    (Claims.Opened (up.tick 5) 0 pgRas) ∧
    (Claims.Opened (up.tick 5) 0 pgRas ∧ bit 0x80000000 31 = true ∧ ((up.tick 5).access 0 pgRas).ras.sweep = false) ∧
    ((sCore7.core 79).st = 5 ∧ sCore7.running = true) ∧
    ((sCore7.core 79).st = 5 ∧ sCore7.running = true) ∧
    (sCore9.live = true ∧ sCore9.ras.cpActive = false ∧ sCore9.ras.interval ≠ 0) ∧
    (sCore9.live = true ∧ sCore9.ras.cpActive = false ∧ sCore9.ras.interval ≠ 0 ∧ sCore9.ras.sweep = false) ∧
    (sCore11.live = true ∧ 79 < sCore11.ident.variant.cores ∧ sCore11.ras.cpActive = false ∧ (sCore11.hdr (pgCore
     79)).reset = false ∧ (sCore11.core 79).st ≠ 6) :=
  ⟨by decide +kernel,
   by decide +kernel,
   by decide +kernel,
   by decide +kernel,
   by decide +kernel,
   by unfold Claims.Opened; decide +kernel,
   by unfold Claims.Opened; decide +kernel,
   by decide +kernel,
   by decide +kernel,
   by decide +kernel,
   by decide +kernel,
   by decide +kernel⟩

def sReset1 : State := ({ up with hdrs := [(pgCore 79, { reset := true })] } : State).tick 5

def sReset3 : State := ({ up with hdrs := [(pgCore 79, { reset := true })] } : State).tick 1000000

def sReset8 : State := ({ up with ras := { cpActive := true } } : State).tick 100000000

def sReset9 : State := ({ up with dbg := { cps := [(15, { expired := [0] })] } } : State).tick 59999999999

def sReset10 : State := ({ up with dbg := { cps := [(15, { expired := [0] })] } } : State).tick 60000000000

/-- The hypotheses of every clause of ResetCommands are met together by some state and operands. -/
theorem wit_ResetCommands :
    (2 < 3 ∧ (up.tick 5).live = true) ∧
    (sReset1.running = true ∧ (sReset1.hdr (pgCore 79)).reset = true) ∧
    ((up.tick 5).live = true ∧ engineOf (pageOf (pgCore 79)) = true ∧ (up.tick 5).present (pageOf (pgCore 79)) = true
     ∧ ((up.tick 5).hdr (pgCore 79)).reset = false ∧ (up.tick 5).pwr.hold = false) ∧
    (79 < 80 ∧ (sReset3.running = true ∧ (sReset3.hdr (pgCore 79)).reset = true ∧ (sReset3.hdr (pgCore 79)).resetAt +
     1000000 ≤ sReset3.clk.now)) ∧
    (255 < 256 ∧ (up.tick 5).running = true) ∧
    ((({ up with ras := { cpActive := true } } : State).tick 5).ras.cpActive = true) ∧
    (Claims.Opened (up.tick 5) 0 pgRas) ∧
    (bit 1 0 = true ∧ Claims.Opened (up.tick 5) 0 pgRas) ∧
    (sReset8.ras.cpActive = true ∧ sReset8.ras.cpAt + 100000000 ≤ sReset8.clk.now) ∧
    (15 < 16 ∧ (sReset9.live = true ∧ (sReset9.cp 15).halt = false ∧ ∃ a ∈ (sReset9.cp 15).expired, sReset9.clk.now <
     a + 60000000000)) ∧
    (15 < 16 ∧ (sReset10.live = true ∧ (sReset10.cp 15).halt = false ∧ ∀ a ∈ (sReset10.cp 15).expired, a + 60000000000
     ≤ sReset10.clk.now)) ∧
    ((up.tick 5).running = true) ∧
    ((up.tick 5).running = true) ∧
    (255 < 256 ∧ ((up.tick 5).powered = true ∧ (up.tick 5).boot ≠ .standby ∧ (up.tick 5).boot ≠ .tripHeld)) ∧
    ((bootBad.tick 5).boot = .booting ∧ (bootBad.tick 5).pins.modResetN = true ∧ (bootBad.tick 5).resetOver = true ∧
     (bootBad.tick 5).fw.boot = none) ∧
    ((({ State.reset with boot := .booting } : State).tick 5).boot = .booting ∧
     (({ State.reset with boot := .booting } : State).tick 5).pins.modResetN = true ∧
     (({ State.reset with boot := .booting } : State).tick 5).resetOver = true ∧ (∃ f,
     (({ State.reset with boot := .booting } : State).tick 5).fw.boot = some f) ∧
     (({ State.reset with boot := .booting } : State).tick 5).sec.trngOk = true) ∧
    ((({ State.reset with boot := .booting, sec := { trngOk := false } } : State).tick 5).boot = .booting ∧
     (({ State.reset with boot := .booting, sec := { trngOk := false } } : State).tick 5).pins.modResetN = true ∧
     (({ State.reset with boot := .booting, sec := { trngOk := false } } : State).tick 5).resetOver = true ∧ (∃ f,
     (({ State.reset with boot := .booting, sec := { trngOk := false } } : State).tick 5).fw.boot = some f) ∧
     (({ State.reset with boot := .booting, sec := { trngOk := false } } : State).tick 5).sec.trngOk = false) :=
  ⟨by decide +kernel,
   by decide +kernel,
   by decide +kernel,
   by decide +kernel,
   by decide +kernel,
   by decide +kernel,
   by unfold Claims.Opened; decide +kernel,
   by unfold Claims.Opened; decide +kernel,
   by decide +kernel,
   by decide +kernel,
   by decide +kernel,
   by decide +kernel,
   by decide +kernel,
   by decide +kernel,
   by decide +kernel,
   by exact ⟨by decide +kernel, by decide +kernel, by decide +kernel, ok_some _ (by decide +kernel), by decide +kernel⟩,
   by exact ⟨by decide +kernel, by decide +kernel, by decide +kernel, ok_some _ (by decide +kernel), by decide +kernel⟩⟩

/-- The hypotheses of every clause of RegisterCommands are met together by some state and operands. -/
theorem wit_RegisterCommands :
    (0xFFC % 4 = 0 ∧ 0xFFC < 4096 ∧ (((up.tick 5).access 0 (pgPort 31)).mayWrite 0 (pgPort 31) 0xFFC = true ∧
     ((up.tick 5).access 0 (pgPort 31)).opens 0 (pgPort 31) = true)) ∧
    (0xFFC % 4 = 0 ∧ 0xFFC < 4096 ∧ (((up.tick 5).access 0 (pgPort 31)).mayWrite 0 (pgPort 31) 0xFFC = true ∧
     ((up.tick 5).access 0 (pgPort 31)).opens 0 (pgPort 31) = true)) ∧
    (Claims.Opened (up.tick 5) 0 pgReduce) ∧
    (63 < 64 ∧ Claims.CtxOpened (up.tick 5) 0 63) ∧
    (((up.tick 5).access 0 (pgCtx 63)).mayWrite 0 (pgCtx 63) 0x10 = true ∧ ((up.tick 5).access 0 (pgCtx 63)).reaches 0
     (pgCtx 63) = true ∧ (up.tick 5).live = true) ∧
    (((up.tick 5).access 0 (pgCtx 63)).mayWrite 0 (pgCtx 63) 0x18 = true ∧ ((up.tick 5).access 0 (pgCtx 63)).opens 0
     (pgCtx 63) = true) ∧
    (((up.tick 5).access 0 (pgCtx 63)).mayWrite 0 (pgCtx 63) 0x20 = true ∧ ((up.tick 5).access 0 (pgCtx 63)).opens 0
     (pgCtx 63) = true) ∧
    (0xFFC % 4 = 0 ∧ 0xFFC < 4096 ∧ 0x3FFF < 0x4000 ∧ (up.tick 5).hostUp = true) ∧
    (Claims.Opened (up.tick 5) 0 pgNumeric) ∧
    (Claims.Opened (up.tick 5) 0 pgPerf) ∧
    (bit 2 1 = true ∧ Claims.Opened (up.tick 5) 0 pgPerf) ∧
    (Claims.Opened (up.tick 5) 0 pgPerturb) ∧
    (bit 1 0 = true ∧ (Claims.Opened (up.tick 5) 0 pgPerturb ∧ ((up.tick 5).access 0 pgPerturb).test.arm = false ∧
     ((up.tick 5).access 0 pgPerturb).test.force = false)) ∧
    ((up.tick 5).running = true) ∧
    ((up.tick 5).running = true) :=
  ⟨by decide +kernel,
   by decide +kernel,
   by unfold Claims.Opened; decide +kernel,
   by unfold Claims.CtxOpened; decide +kernel,
   by decide +kernel,
   by decide +kernel,
   by decide +kernel,
   by decide +kernel,
   by unfold Claims.Opened; decide +kernel,
   by unfold Claims.Opened; decide +kernel,
   by unfold Claims.Opened; decide +kernel,
   by unfold Claims.Opened; decide +kernel,
   by unfold Claims.Opened; decide +kernel,
   by decide +kernel,
   by decide +kernel⟩

/-- The hypotheses of every clause of OliastorOperations are met together by some state and operands. -/
theorem wit_OliastorOperations :
    ((up.tick 5).accepts ({ anchor := 0, role := some .monitor, paramsOk := true } : ClientCert) = true) ∧
    (Claims.Serves (admin.tick 5) (call 1) .all) ∧
    (Claims.Serves (admin.tick 5) (call 1) .all ∧ (admin.tick 5).signs = true ∧ (admin.tick 5).fw.act = none ∧
     (admin.tick 5).running = true) ∧
    (Claims.Serves (admin.tick 5) (call 1) .all) ∧
    (Claims.Serves (admin.tick 5) (call 1) .admin ∧ ∃ r ∈ (admin.tick 5).ras.log, r.seq = 4) ∧
    (1 < 65536 ∧ mgmtPage 1 = none ∧ Claims.Serves (admin.tick 5) (call 1) .all) ∧
    (Claims.Serves (admin.tick 5) (call 1) .admin ∧ (admin.tick 5).fw.sec.running.secver ≤ 63 ∧ (admin.tick
     5).fw.mgmt.running.secver ≤ 63 ∧ (admin.tick 5).fw.ctrl.running.secver ≤ 63 ∧ (admin.tick
     5).fw.link.running.secver ≤ 63) ∧
    (Claims.Serves (admin.tick 5) (call 1) .admin) ∧
    (1 < 2 ∧ (Claims.Serves (admin.tick 5) (call 1) .admin ∧ ((admin.tick 5).laser 1).present = true)) ∧
    (63 < 64 ∧ Claims.Serves (admin.tick 5) (call 1) .admin) ∧
    (63 < 64 ∧ 7 < 8 ∧ Claims.Serves (admin.tick 5) (call 1) .admin) ∧
    (Claims.Serves (admin.tick 5) (call 1) .admin) :=
  ⟨by decide +kernel,
   by exact serves_all,
   by exact ⟨serves_all, by decide +kernel⟩,
   by exact serves_all,
   by exact ⟨serves_admin, by decide +kernel⟩,
   by exact ⟨by decide +kernel, by decide +kernel, serves_all⟩,
   by exact ⟨serves_admin, by decide +kernel⟩,
   by exact serves_admin,
   by exact ⟨by decide +kernel, serves_admin, by decide +kernel⟩,
   by exact ⟨by decide +kernel, serves_admin⟩,
   by exact ⟨by decide +kernel, by decide +kernel, serves_admin⟩,
   by exact serves_admin⟩

def sOliastorAdministration6 : State := ({ admin with sec := { lifecycle := .provisioned } } : State).tick 5

/-- The hypotheses of every clause of OliastorAdministration are met together by some state and operands. -/
theorem wit_OliastorAdministration :
    (Claims.Serves (admin.tick 5) (call 1) .admin ∧ (admin.tick 5).fw.act = none ∧ ((admin.tick 5).fw.comp
     ({ comp := .sec, secver := 63, build := 1, digest := 1, sigOk := true, offset := 0, length := 8, total := 16 } :
     Image).comp).complete
     ({ comp := .sec, secver := 63, build := 1, digest := 1, sigOk := true, offset := 0, length := 8, total := 16 } :
     Image) = false) ∧
    (Claims.Serves (admin.tick 5) (call 1) .admin ∧ (admin.tick 5).fw.act = none ∧ ((admin.tick 5).fw.comp
     ({ comp := .sec, secver := 63, build := 1, digest := 1, sigOk := true, offset := 0, length := 8, total := 8 } :
     Image).comp).complete
     ({ comp := .sec, secver := 63, build := 1, digest := 1, sigOk := true, offset := 0, length := 8, total := 8 } :
     Image) = true) ∧
    (Claims.Serves (stagedAdmin.tick 5) (call 1) .admin ∧ (stagedAdmin.tick 5).fw.act = none ∧ ((stagedAdmin.tick
     5).fw.mgmt.staged = true ∨ (stagedAdmin.tick 5).fw.ctrl.staged = true)) ∧
    (((withAct up).tick 200000000).running = true ∧ ∃ t0 : Nat, ((withAct up).tick 200000000).fw.act = some t0 ∧
     ((withAct up).tick 200000000).clk.now ≤ t0 + 200000000) ∧
    (((withAct up).tick 200000000).running = true ∧ ∃ t0 : Nat, ((withAct up).tick 200000000).fw.act = some t0 ∧ t0 +
     200000000 ≤ ((withAct up).tick 200000000).clk.now) ∧
    ((Lifecycle.retired = .returned ∨ Lifecycle.retired = .retired) ∧ ((admin.tick 5).conn (call 1) = some
     ({ id := 1, role := .admin, anchor := 0 } : Conn) ∧ ({ id := 1, role := .admin, anchor := 0 } : Conn).role =
     .admin ∧ (admin.tick 5).fw.act = none ∧ (admin.tick 5).sec.lifecycle = .deployed ∧ (admin.tick 5).allFree = true)) ∧
    (sOliastorAdministration6.conn (call 1) = some ({ id := 1, role := .admin, anchor := 0 } : Conn) ∧
     sOliastorAdministration6.fw.act = none ∧ sOliastorAdministration6.sec.lifecycle = .provisioned ∧
     sOliastorAdministration6.sec.trngOk = true) ∧
    ((admin.tick 5).conn (call 2) = some ({ id := 2, role := .fabric, anchor := 0 } : Conn) ∧
     ({ id := 2, role := .fabric, anchor := 0 } : Conn).role ≠ .admin ∧ (admin.tick 5).sec.lifecycle = .deployed) ∧
    (Claims.Serves (admin.tick 5) (call 1) .admin) ∧
    (Claims.Serves (admin.tick 5) (call 1) .admin) ∧
    (Claims.Serves (admin.tick 5) (call 1) .admin ∧ (admin.tick 5).sec.domain = none ∧ (admin.tick 5).sec.lifecycle =
     .deployed ∧ (admin.tick 5).sec.trngOk = true) ∧
    (Claims.Serves (admin.tick 5) (call 1) .admin ∧ 31 < (admin.tick 5).ident.variant.ports ∧ (admin.tick
     5).sec.domain = none ∧ (admin.tick 5).sec.lifecycle = .deployed ∧ ((admin.tick 5).port 31).st ≠ 3) ∧
    ((List.replicate 16 0).length ≤ 16 ∧ Claims.Serves (admin.tick 5) (call 1) .admin) ∧
    (65535 < 65536 ∧ Claims.Serves (admin.tick 5) (call 2) .fabric) ∧
    (((∀ e ∈ ([{ index := 16383, ports := [31, 30, 29, 28] }] : List RouteEntry), e.index < 16384 ∧ e.ports.length ≤
     4)) ∧ (Claims.Serves (admin.tick 5) (call 2) .fabric ∧ ∀ e ∈ ([{ index := 16383, ports := [31, 30, 29, 28] }] :
     List RouteEntry), ∀ p ∈ e.ports, p < (admin.tick 5).ident.variant.ports)) ∧
    (Claims.Serves (admin.tick 5) (call 2) .fabric ∧ 31 < (admin.tick 5).ident.variant.ports ∧ (admin.tick
     5).clk.locked = false) ∧
    (Claims.Serves (timedAdmin.tick 5) (call 2) .fabric ∧ 31 < (timedAdmin.tick 5).ident.variant.ports ∧
     (timedAdmin.tick 5).clk.locked = true ∧ (timedAdmin.tick 5).clk.parent = some 31 ∧ ((timedAdmin.tick 5).port
     31).carries = true) ∧
    (Claims.Serves (lockedAdmin.tick 5) (call 2) .fabric ∧ 31 < (lockedAdmin.tick 5).ident.variant.ports ∧
     (lockedAdmin.tick 5).clk.locked = true ∧ ((lockedAdmin.tick 5).port 31).carries = false) ∧
    (Claims.Serves (admin.tick 5) (call 2) .fabric) :=
  ⟨by exact ⟨serves_admin, by decide +kernel, by decide +kernel⟩,
   by exact ⟨serves_admin, by decide +kernel, by decide +kernel⟩,
   by exact ⟨⟨_, rfl, by decide +kernel⟩, by decide +kernel, .inl (by decide +kernel)⟩,
   by exact ⟨by decide +kernel, 0, by decide +kernel, by decide +kernel⟩,
   by exact ⟨by decide +kernel, 0, by decide +kernel, by decide +kernel⟩,
   by exact ⟨.inr rfl, by decide +kernel⟩,
   by decide +kernel,
   by decide +kernel,
   by exact serves_admin,
   by exact serves_admin,
   by exact ⟨serves_admin, by decide +kernel⟩,
   by exact ⟨serves_admin, by decide +kernel⟩,
   by exact ⟨by decide +kernel, serves_admin⟩,
   by exact ⟨by decide +kernel, serves_fabric⟩,
   by exact ⟨by decide +kernel, serves_fabric, by decide +kernel⟩,
   by exact ⟨serves_fabric, by decide +kernel⟩,
   by exact ⟨⟨_, rfl, by decide +kernel⟩, by decide +kernel⟩,
   by exact ⟨⟨_, rfl, by decide +kernel⟩, by decide +kernel⟩,
   by exact serves_fabric⟩

def sDebug3 : State := ({ dbgUp with dbg := { session := true, cps := [(15, { halt := true })] } } : State).tick 5

def sDebug4 : State := ({ up with dbg := { cps := [(15, { bps := [0, 0, 0, 1] })] } } : State).tick 5

def sDebug19 : State := ({ boot := .standby, sec := { lifecycle := .blank } } : State).tick 5

def sDebug20 : State := ({ boot := .standby, sec := { fuse := true } } : State).tick 5

def sDebug21 : State := ({ boot := .running, ctxs := [] } : State).tick 5

/-- The hypotheses of every clause of DebugCommands are met together by some state and operands. -/
theorem wit_DebugCommands :
    (((dbgUp.tick 5).access 65 pgDebug).debugOpens 65 = true) ∧
    (((dbgUp.tick 5).access 65 pgDebug).debugOpens 65 = true) ∧
    (bit 0x8000000F 31 = true ∧ bit 0x8000000F 30 = false ∧ (((dbgUp.tick 5).access 65 pgDebug).debugOpens 65 = true ∧
     (((dbgUp.tick 5).access 65 pgDebug).cp (sl 0x8000000F 3 0)).halt = false)) ∧
    (bit 0xC000000F 31 = true ∧ bit 0xC000000F 30 = true ∧ ((sDebug3.access 65 pgDebug).debugOpens 65 = true ∧
     ((sDebug3.access 65 pgDebug).cp (sl 0xC000000F 3 0)).halt = true)) ∧
    (15 < 16 ∧ bit 1 0 = true ∧ ((sDebug4.cp 15).bps[3]? = some 1 ∧ sDebug4.live = true ∧ (sDebug4.cp 15).halt =
     false)) ∧
    (3 < 4 ∧ ((((wlHit).tick 5).queue q0).entry = some ({ op := 0x10, tag := 77 } : Entry) ∧ ((wlHit).tick 5).serves
     q0.slot = true ∧ ((wlHit).tick 5).inPeriod q0 = true ∧ (((wlHit).tick 5).queue q0).phase = .ready ∧
     (((wlHit).tick 5).queue q0).begun = false ∧ ((wlHit).tick 5).breakHits q0 ({ op := 0x10, tag := 77 } : Entry) 3 =
     true)) ∧
    (3 < 4 ∧ ((dbgUp.tick 5).access 65 pgDebug).debugOpens 65 = true) ∧
    (((heldUp.tick 5).access 65 pgDebug).debugOpens 65 = true ∧ (((heldUp.tick 5).access 65 pgDebug).wl 3).held = some
     q0 ∧ (((heldUp.tick 5).access 65 pgDebug).queue q0).phase = .held 3) ∧
    (((dbgUp.tick 5).access 65 pgDebug).debugOpens 65 = true) ∧
    (((viewUp.tick 5).access 65 pgDebug).debugOpens 65 = true ∧ (∃ v, v = State.view
     { ((viewUp.tick 5).access 65 pgDebug) with dbg := { ((viewUp.tick 5).access 65 pgDebug).dbg with fvWrite := false } }
     (((viewUp.tick 5).access 65 pgDebug).dbg.fvAddr / 128 / 512) ∧ v.line (((viewUp.tick 5).access 65
     pgDebug).dbg.fvAddr / 128) = some { key := 9, replay := false })) ∧
    (((dbgUp.tick 5).access 65 pgDebug).debugOpens 65 = true) ∧
    (((viewUp.tick 5).access 65 pgDebug).debugOpens 65 = true ∧ (∃ v, v =
     { ((viewUp.tick 5).access 65 pgDebug) with dbg := { ((viewUp.tick 5).access 65 pgDebug).dbg with fvWrite := true } }
     ∧ v.line (v.dbg.fvAddr / 128) = some { key := 9, replay := false } ∧ v.migrating (v.dbg.fvAddr / 128 / 512) =
     none)) ∧
    ((up.tick 5).powered = true) ∧
    ((up.tick 5).powered = true) ∧
    ((up.tick 5).powered = true) ∧
    (0xFFFFFFFF < 2 ^ 32 ∧ (up.tick 5).powered = true) ∧
    (0xFFFFFFFF < 2 ^ 32 ∧ (up.tick 5).powered = true) ∧
    ((up.tick 5).powered = true) ∧
    ((up.tick 5).powered = true) ∧
    (sDebug19.powered = true ∧ sDebug19.sec.lifecycle = .blank ∧ sDebug19.sec.fuse = false ∧ sDebug19.sec.latch =
     false ∧ sDebug19.sec.trngOk = true) ∧
    (sDebug20.powered = true ∧ sDebug20.sec.lifecycle ≠ .retired ∧ sDebug20.sec.fuse = true) ∧
    (sDebug21.powered = true ∧ sDebug21.hasContexts = true ∧ sDebug21.sec.fuse = false ∧ sDebug21.sec.latch = false ∧
     sDebug21.boot ≠ .recovery ∧ sDebug21.allFree = true) ∧
    ((up.tick 5).powered = true) :=
  ⟨by decide +kernel,
   by decide +kernel,
   by decide +kernel,
   by decide +kernel,
   by decide +kernel,
   by decide +kernel,
   by decide +kernel,
   by exact ⟨by decide +kernel, by decide +kernel, by decide +kernel⟩,
   by decide +kernel,
   by exact ⟨by decide +kernel, _, rfl, by decide +kernel⟩,
   by decide +kernel,
   by exact ⟨by decide +kernel, _, rfl, by decide +kernel⟩,
   by decide +kernel,
   by decide +kernel,
   by decide +kernel,
   by decide +kernel,
   by decide +kernel,
   by decide +kernel,
   by decide +kernel,
   by decide +kernel,
   by decide +kernel,
   by decide +kernel,
   by decide +kernel⟩
/-- An index tensor (X16). -/
def ix16 (base : Nat) (dims : List Nat) : Desc := { d16 base dims with fmt := 0x30 }

/-! ## Witnesses: the operators -/

/-- The entry of slot 0 on core 0, which the slot holds. -/
def onCore (e : Entry) (ds : List Desc) : State :=
  { atEntry e ds with cores := [(0, { st := 2, ctx := some 0, holds := some 0 })] }

/-- The hypotheses of an operator's statement: the entry can run, its operator gives a result, its stores succeed. -/
def Runnable (op : Nat) (e : Entry) (ds : List Desc) (f : QRef → State → Queue → Entry → Except Acc Done) : Prop :=
  ∃ (r : Done) (u : State), ((onCore e ds).tick 0).ready q0 op = some e ∧
    ((Claims.begun (onCore e ds) 0 q0 e).queue q0).outcome
      (f q0 (Claims.begun (onCore e ds) 0 q0 e) ((Claims.begun (onCore e ds) 0 q0 e).queue q0) e) = .ok r ∧
    ((Claims.begun (onCore e ds) 0 q0 e).occupy q0 e).effFault q0.slot r.eff = none ∧
    ((Claims.begun (onCore e ds) 0 q0 e).occupy q0 e).applyEff q0.slot r.eff = (u, none)

def runs (op : Nat) (e : Entry) (ds : List Desc) (f : QRef → State → Queue → Entry → Except Acc Done) : Bool :=
  let s := Claims.begun (onCore e ds) 0 q0 e
  decide (((onCore e ds).tick 0).ready q0 op = some e) &&
    (match (s.queue q0).outcome (f q0 s (s.queue q0) e) with
     | .error _ => false
     | .ok r => ((s.occupy q0 e).effFault q0.slot r.eff).isNone && ((s.occupy q0 e).applyEff q0.slot r.eff).2.isNone)

theorem runnable (op : Nat) (e : Entry) (ds : List Desc) (f : QRef → State → Queue → Entry → Except Acc Done)
    (h : runs op e ds f = true) : Runnable op e ds f := by
  unfold runs at h
  simp only [Bool.and_eq_true, decide_eq_true_eq] at h
  obtain ⟨h1, h2⟩ := h
  split at h2
  · cases h2
  · rename_i r hr
    simp only [Bool.and_eq_true, Option.isNone_iff_eq_none] at h2
    exact ⟨r, _, h1, hr, h2.1, Prod.ext rfl h2.2⟩

def eMatmul : Entry := { op := 0x10, desc := [0, 1, 2, 0xFFFF, 0xFFFF, 0xFFFF] }

def eMatmulBwdPair : Entry := { op := 0x11, desc := [0, 1, 2, 3, 4, 0xFFFF] }

def eGroupedMatmul : Entry := { op := 0x12, desc := [0, 1, 2, 3, 0xFFFF, 0xFFFF] }

def eGroupedBwdPair : Entry := { op := 0x13, desc := [0, 1, 2, 3, 4, 5] }

def eAttnFwd : Entry := { op := 0x20, desc := [0, 1, 2, 0xFFFF, 0xFFFF, 0xFFFF], imm0 := 1 }

def eAttnBwd : Entry := { op := 0x21, desc := [0, 1, 2, 3, 4, 0xFFFF], imm0 := 1 }

def eNormFwd : Entry := { op := 0x22, desc := [0, 1, 2, 3, 0xFFFF, 0xFFFF] }

def eNormBwd : Entry := { op := 0x23, desc := [0, 1, 2, 3, 4, 5] }

def eLossXent : Entry := { op := 0x24, desc := [0, 1, 2, 3, 0xFFFF, 0xFFFF] }

def eElementwise : Entry := { op := 0x30, desc := [0, 1, 2, 3, 0xFFFF, 0xFFFF] }

def eRowreduce : Entry := { op := 0x31, desc := [0, 1, 0xFFFF, 0xFFFF, 0xFFFF, 0xFFFF] }

def eConvert : Entry := { op := 0x32, desc := [0, 1, 0xFFFF, 0xFFFF, 0xFFFF, 0xFFFF] }

def eEmbed : Entry := { op := 0x40, desc := [0, 1, 2, 0xFFFF, 0xFFFF, 0xFFFF] }

def eRouteTopk : Entry := { op := 0x41, desc := [0, 1, 2, 0xFFFF, 0xFFFF, 0xFFFF], imm0 := 1 }

def eCompress : Entry := { op := 0x42, desc := [0, 1, 2, 3, 0xFFFF, 0xFFFF], imm0 := 1 }

def eExpand : Entry := { op := 0x43, desc := [0, 1, 2, 3, 0xFFFF, 0xFFFF] }

def eOptAdam : Entry := { op := 0x70, desc := [0, 1, 2, 3, 4, 0xFFFF] }

def eOptMomentum : Entry := { op := 0x71, desc := [0, 1, 2, 3, 4, 0xFFFF] }

theorem runs_matmul : Runnable 0x10 eMatmul [d16 0x10000 [2, 1], d16 0x10100 [1, 2], d16 0x10200 [1, 1]]
      (fun q s y e => s.matmul q.slot y e) :=
  runnable _ _ _ _ (by decide +kernel)

theorem runs_matmulBwdPair : Runnable 0x11 eMatmulBwdPair [d16 0x10000 [1, 1], d16 0x10100 [1, 1], d16 0x10200 [1, 1], d16 0x10300 [1, 1], d16 0x10400 [1, 1]]
      (fun q s y e => s.bwdPair q.slot y e none) :=
  runnable _ _ _ _ (by decide +kernel)

theorem runs_groupedMatmul : Runnable 0x12 eGroupedMatmul [d16 0x10000 [1, 1, 1], d16 0x10100 [1, 1, 1], d16 0x10200 [1, 1, 1], ix16 0x10300 [1]]
      (fun q s y _ => s.grouped q.slot y) :=
  runnable _ _ _ _ (by decide +kernel)

theorem runs_groupedBwdPair : Runnable 0x13 eGroupedBwdPair [d16 0x10000 [1, 1, 1], d16 0x10100 [1, 1, 1], d16 0x10200 [1, 1, 1], d16 0x10300 [1, 1, 1], d16 0x10400 [1, 1, 1], ix16 0x10500 [1]]
      (fun q s y e => s.bwdPair q.slot y e (y.desc 5)) :=
  runnable _ _ _ _ (by decide +kernel)

theorem runs_attnFwd : Runnable 0x20 eAttnFwd [d16 0x10000 [1, 3, 1, 1], d16 0x10100 [1, 1, 1, 1], d16 0x10200 [1, 1, 1, 1]]
      (fun q s y e => s.attnFwd q.slot y e) :=
  runnable _ _ _ _ (by decide +kernel)

theorem runs_attnBwd : Runnable 0x21 eAttnBwd [d16 0x10000 [1, 1, 1, 1], d16 0x10100 [1, 3, 1, 1], d16 0x10200 [1, 1, 1, 1], d16 0x10300 [1, 1, 1, 1], d16 0x10400 [1, 3, 1, 1]]
      (fun q s y e => s.attnBwd q.slot y e) :=
  runnable _ _ _ _ (by decide +kernel)

theorem runs_normFwd : Runnable 0x22 eNormFwd [d16 0x10000 [2, 1], d16 0x10100 [2], d16 0x10200 [2, 1], d16 0x10300 [1, 1]]
      (fun q s y e => s.normFwd q.slot y e) :=
  runnable _ _ _ _ (by decide +kernel)

theorem runs_normBwd : Runnable 0x23 eNormBwd [d16 0x10000 [1, 1], d16 0x10100 [1, 1], d16 0x10200 [1], d16 0x10300 [1, 1], d16 0x10400 [1, 1], d16 0x10500 [1]]
      (fun q s y e => s.normBwd q.slot y e) :=
  runnable _ _ _ _ (by decide +kernel)

theorem runs_lossXent : Runnable 0x24 eLossXent [d16 0x10000 [2, 1], ix16 0x10100 [1], d16 0x10200 [2, 1], d16 0x10300 [1]]
      (fun q s y _ => s.lossXent q.slot y) :=
  runnable _ _ _ _ (by decide +kernel)

theorem runs_elementwise : Runnable 0x30 eElementwise [d16 0x10000 [1, 1], d16 0x10100 [1, 1], d16 0x10200 [1, 1], d16 0x10300 [1, 1]]
      (fun q s y e => s.elementwise q.slot y e) :=
  runnable _ _ _ _ (by decide +kernel)

theorem runs_rowreduce : Runnable 0x31 eRowreduce [d16 0x10000 [2, 1], d16 0x10100 [1, 1]]
      (fun q s y e => s.rowReduce q.slot y e) :=
  runnable _ _ _ _ (by decide +kernel)

theorem runs_convert : Runnable 0x32 eConvert [d16 0x10000 [2, 1], d16 0x10100 [2, 1]]
      (fun q s y _ => s.convert q.slot y) :=
  runnable _ _ _ _ (by decide +kernel)

theorem runs_embed : Runnable 0x40 eEmbed [d16 0x10000 [2, 1], ix16 0x10100 [1], d16 0x10200 [2, 1]]
      (fun q s y e => if bit e.variant 0 then s.embedBack q.slot y else s.embed q.slot y) :=
  runnable _ _ _ _ (by decide +kernel)

theorem runs_routeTopk : Runnable 0x41 eRouteTopk [d16 0x10000 [2, 1], ix16 0x10100 [1, 1], d16 0x10200 [1, 1]]
      (fun q s y e => if bit e.variant 0 then s.routeBack q.slot y else s.routeTopk q.slot y e.imm0) :=
  runnable _ _ _ _ (by decide +kernel)

theorem runs_compress : Runnable 0x42 eCompress [d16 0x10000 [1, 1], ix16 0x10100 [1, 1], d16 0x10200 [1, 1, 1], ix16 0x10300 [1, 2]]
      (fun q s y e => if bit e.variant 0 then s.compressBack q.slot y e.imm0 else s.compress q.slot y e.imm0) :=
  runnable _ _ _ _ (by decide +kernel)

theorem runs_expand : Runnable 0x43 eExpand [d16 0x10000 [1, 1, 1], ix16 0x10100 [1, 1], d16 0x10200 [1, 1], d16 0x10300 [1, 1]]
      (fun q s y e => if bit e.variant 0 then s.expandBack q.slot y else s.expand q.slot y) :=
  runnable _ _ _ _ (by decide +kernel)

theorem runs_optAdam : Runnable 0x70 eOptAdam [d16 0x10000 [1], d16 0x10100 [1], d16 0x10200 [1], d16 0x10300 [1], d16 0x10400 [6]]
      (fun q s y _ => s.optimise q.slot y true) :=
  runnable _ _ _ _ (by decide +kernel)

theorem runs_optMomentum : Runnable 0x71 eOptMomentum [d16 0x10000 [1], d16 0x10100 [1], d16 0x10200 [1], d16 0x10300 [1], d16 0x10400 [6]]
      (fun q s y _ => s.optimise q.slot y false) :=
  runnable _ _ _ _ (by decide +kernel)

/-- The hypotheses of every clause of OperatorEntries are met. -/
theorem wit_OperatorEntries :
    Runnable 0x10 eMatmul [d16 0x10000 [2, 1], d16 0x10100 [1, 2], d16 0x10200 [1, 1]]
      (fun q s y e => s.matmul q.slot y e) ∧
    Runnable 0x11 eMatmulBwdPair [d16 0x10000 [1, 1], d16 0x10100 [1, 1], d16 0x10200 [1, 1], d16 0x10300 [1, 1], d16 0x10400 [1, 1]]
      (fun q s y e => s.bwdPair q.slot y e none) ∧
    Runnable 0x12 eGroupedMatmul [d16 0x10000 [1, 1, 1], d16 0x10100 [1, 1, 1], d16 0x10200 [1, 1, 1], ix16 0x10300 [1]]
      (fun q s y _ => s.grouped q.slot y) ∧
    Runnable 0x13 eGroupedBwdPair [d16 0x10000 [1, 1, 1], d16 0x10100 [1, 1, 1], d16 0x10200 [1, 1, 1], d16 0x10300 [1, 1, 1], d16 0x10400 [1, 1, 1], ix16 0x10500 [1]]
      (fun q s y e => s.bwdPair q.slot y e (y.desc 5)) ∧
    Runnable 0x20 eAttnFwd [d16 0x10000 [1, 3, 1, 1], d16 0x10100 [1, 1, 1, 1], d16 0x10200 [1, 1, 1, 1]]
      (fun q s y e => s.attnFwd q.slot y e) ∧
    Runnable 0x21 eAttnBwd [d16 0x10000 [1, 1, 1, 1], d16 0x10100 [1, 3, 1, 1], d16 0x10200 [1, 1, 1, 1], d16 0x10300 [1, 1, 1, 1], d16 0x10400 [1, 3, 1, 1]]
      (fun q s y e => s.attnBwd q.slot y e) ∧
    Runnable 0x22 eNormFwd [d16 0x10000 [2, 1], d16 0x10100 [2], d16 0x10200 [2, 1], d16 0x10300 [1, 1]]
      (fun q s y e => s.normFwd q.slot y e) ∧
    Runnable 0x23 eNormBwd [d16 0x10000 [1, 1], d16 0x10100 [1, 1], d16 0x10200 [1], d16 0x10300 [1, 1], d16 0x10400 [1, 1], d16 0x10500 [1]]
      (fun q s y e => s.normBwd q.slot y e) ∧
    Runnable 0x24 eLossXent [d16 0x10000 [2, 1], ix16 0x10100 [1], d16 0x10200 [2, 1], d16 0x10300 [1]]
      (fun q s y _ => s.lossXent q.slot y) ∧
    Runnable 0x30 eElementwise [d16 0x10000 [1, 1], d16 0x10100 [1, 1], d16 0x10200 [1, 1], d16 0x10300 [1, 1]]
      (fun q s y e => s.elementwise q.slot y e) ∧
    Runnable 0x31 eRowreduce [d16 0x10000 [2, 1], d16 0x10100 [1, 1]]
      (fun q s y e => s.rowReduce q.slot y e) ∧
    Runnable 0x32 eConvert [d16 0x10000 [2, 1], d16 0x10100 [2, 1]]
      (fun q s y _ => s.convert q.slot y) ∧
    Runnable 0x40 eEmbed [d16 0x10000 [2, 1], ix16 0x10100 [1], d16 0x10200 [2, 1]]
      (fun q s y e => if bit e.variant 0 then s.embedBack q.slot y else s.embed q.slot y) ∧
    Runnable 0x41 eRouteTopk [d16 0x10000 [2, 1], ix16 0x10100 [1, 1], d16 0x10200 [1, 1]]
      (fun q s y e => if bit e.variant 0 then s.routeBack q.slot y else s.routeTopk q.slot y e.imm0) ∧
    Runnable 0x42 eCompress [d16 0x10000 [1, 1], ix16 0x10100 [1, 1], d16 0x10200 [1, 1, 1], ix16 0x10300 [1, 2]]
      (fun q s y e => if bit e.variant 0 then s.compressBack q.slot y e.imm0 else s.compress q.slot y e.imm0) ∧
    Runnable 0x43 eExpand [d16 0x10000 [1, 1, 1], ix16 0x10100 [1, 1], d16 0x10200 [1, 1], d16 0x10300 [1, 1]]
      (fun q s y e => if bit e.variant 0 then s.expandBack q.slot y else s.expand q.slot y) ∧
    Runnable 0x70 eOptAdam [d16 0x10000 [1], d16 0x10100 [1], d16 0x10200 [1], d16 0x10300 [1], d16 0x10400 [6]]
      (fun q s y _ => s.optimise q.slot y true) ∧
    Runnable 0x71 eOptMomentum [d16 0x10000 [1], d16 0x10100 [1], d16 0x10200 [1], d16 0x10300 [1], d16 0x10400 [6]]
      (fun q s y _ => s.optimise q.slot y false) :=
  ⟨runs_matmul, runs_matmulBwdPair, runs_groupedMatmul, runs_groupedBwdPair, runs_attnFwd, runs_attnBwd, runs_normFwd,
    runs_normBwd, runs_lossXent, runs_elementwise, runs_rowreduce, runs_convert, runs_embed, runs_routeTopk,
    runs_compress, runs_expand, runs_optAdam, runs_optMomentum⟩

theorem ok_and {ε α : Type} (x : Except ε α) (p : α → Bool) (h : x.toOption.any p = true) : ∃ v, x = .ok v ∧ p v = true := by
  cases x with
  | ok v => exact ⟨v, rfl, h⟩
  | error e => cases h

/-! ## Witnesses: the other statements -/

theorem wit_StepRunsTheFrontCommand :
    ({ up with pending := [.idcode 5] } : State).pending = .idcode 5 :: [] ∧ State.reset.pending = [] := by decide +kernel

theorem wit_TickMovesOnlyTheClocks :
    ({ clk := { held := true } } : State).clk.held = true ∧ State.reset.clk.held = false ∧ State.reset.clk.slew = 0 := by
  decide +kernel

theorem wit_EveryOtherCommandCompletes : (Instr.powerUp 0 65000).mayStop = false := by decide +kernel

theorem wit_TheTwoStops : ((off.tick 5).powered = false ∧ 65001 > 65000) ∧ (up.tick 5).powered = true := by decide +kernel

/-- Slot 63 in an epoch. -/
def inEpoch (n : Nat) : State := slot63 { state := 1, epoch := n }

theorem wit_EpochFilter :
    ({ ptype := 4 } : Packet).ptype ≤ 4 ∧ (inEpoch 1).epochOf 63 0 = -1 ∧ (inEpoch 0).epochOf 63 0x01000000 = 1 ∧
    (inEpoch 1).epochOf 63 0x01000000 = 0 ∧ (inEpoch 0).epochOf 63 0xFF000000 = -1 := by decide +kernel

theorem wit_QuenchRaisesTheGeneration :
    ((slot63 { state := 1, gen := 255 }).ctx 63).state = 1 ∧ ((slot63 { state := 4 }).ctx 63).state = 4 := by decide +kernel

theorem wit_LowReadLatchesTheHighHalf :
    isLo (pageOf (pgCtx 63)) 0x80 = true ∧ up.present (pageOf (pgCtx 63)) = true ∧
    up.pcie.latch.find? (fun p => p.1 = (0, pgCtx 63) && p.2.1 = 0x80) = none := by decide +kernel

/-- A page that has latched an error. -/
def errAt : State := { up with hdrs := [(pgRas, { errValid := true, errClass := 3 })] }

theorem wit_FirstErrorIsLatched :
    (1 : Nat) ≠ 0 ∧ pgPort 0 ≠ pgRas ∧ (errAt.hdr pgRas).errValid = true ∧ (up.hdr pgRas).errValid = false := by decide +kernel

theorem wit_StepKeepsMemoryForm :
    (withQueue {}).mem.wf = true ∧ ∃ u, step { withQueue {} with pending := [.idcode 5] } = .next u := ⟨by decide +kernel, _, rfl⟩

theorem wit_StepKeepsTheTamperedModuleShut : ∃ u, step { up with pending := [.tamper 5 .mesh] } = .next u := ⟨_, rfl⟩

theorem wit_StepTakesOneCommand :
    ({ up with pending := [.idcode 5, .dalOpen 6] } : State).pending = .idcode 5 :: [.dalOpen 6] ∧
    ∃ u, step { up with pending := [.idcode 5, .dalOpen 6] } = .next u := ⟨rfl, _, rfl⟩

theorem wit_PackageResetLeaves : up.sec.pending = none := rfl

theorem wit_TamperedModuleServesNothing : ({ sec := { fuse := true } } : State).sec.fuse = true := rfl

theorem wit_KeySlotsOfAContext :
    ((slot63 { state := 2 }).tick 5).ctx 63 = { state := 2 } ∧
    (((slot63 { state := 4, queues := [(0, {})] }).tick 5).ctx 63).state = 4 ∧
    (∀ p ∈ (((slot63 { state := 4, queues := [(0, {})] }).tick 5).ctx 63).queues, p.2.dry = true) ∧
    ((slot63 { state := 3 }).ctx 63).state = 3 ∧ State.reset.boot = .booting ∧ State.reset.pins.modResetN = true ∧
    State.reset.pins.holdUntil ≤ max State.reset.clk.now 0 ∧ State.reset.fw.boot.isSome = true ∧ State.reset.sec.trngOk = true := by decide +kernel

theorem wit_TestPortOnStandbyPower :
    ({ boot := .standby } : State).powered = true ∧ ({ boot := .standby } : State).pins.modResetN = true := by decide +kernel

/-! Memory: frames 2 and 3 of the demonstration memory are backed, with every line written under key 9. -/

def mapped : State := withQueue {}

theorem wit_WriteTouchesOnlyItsBytes :
    ∃ u e, mapped.physWrite 9 false 0x2007F [1, 2] = (u, e) ∧ ((0x2007E : Nat) < 0x2007F ∨ 0x2007F + 2 ≤ 0x2007E) ∧
      ((0x20081 : Nat) < 0x2007F ∨ 0x2007F + [1, 2].length ≤ 0x20081) := ⟨_, _, rfl, by decide, by decide⟩

/-- Frame 3 on its way to another stack. -/
def moving : State := { mapped with mem := { demoMem with migr := [{ frame := 3, tier := 0, stack := 1 }] } }

theorem wit_ReadReturnsWhatWasWritten :
    (9 : Nat) ≠ 0 ∧ (∀ m ∈ moving.mem.migr, ∀ i, i < 2 → m.frame ≠ (0x2FFFE + i) / 65536) ∧
    ∃ u, moving.physWrite 9 false 0x2FFFE [1, 2] = (u, none) :=
  ⟨by decide, by decide +kernel, ok_pair _ (by decide +kernel)⟩

theorem wit_LineReadsOnlyThroughItsWriter :
    (List.replicate 128 (7 : Byte)).length = 128 ∧ moving.backing (0x400 / 512) ≠ none ∧
    (∀ m ∈ moving.mem.migr, m.frame ≠ 0x400 / 512) ∧
    (∃ u, moving.lineWrite 9 true (128 * 0x400) (List.replicate 128 7) = (u, none) ∧ (true = true → u.counterFailed (0x400 / 128) = false)) ∧
    ((8 : Nat) ≠ 9 ∨ false ≠ true) :=
  ⟨by decide +kernel, by decide +kernel, by decide +kernel,
   ⟨(moving.lineWrite 9 true (128 * 0x400) (List.replicate 128 7)).1, ok_pair' _ (by decide +kernel), by decide +kernel⟩,
     by decide⟩

theorem wit_PartialWriteVerifiesFirst :
    ([7] : Bytes).length < 128 ∧ 0x2007F % 128 + ([7] : Bytes).length ≤ 128 ∧ (mapped.line (0x2007F / 128)).isSome = true ∧
    mapped.counterFailed (0x2007F / 16384) = false ∧ 0x2007F / 16384 ∉ mapped.mem.readonly ∧
    mapped.checkLine 8 false (0x2007F / 128) ≠ none ∧ mapped.checkLine 9 false (0x2007F / 128) = none := by decide +kernel

/-- Line 0x400 poisoned, while frame 3 is on its way. -/
def poisonedAt : State :=
  { mapped with mem := { moving.mem with lines := [(0x400, some { key := 9, replay := false, poison := true })] } }

theorem wit_PoisonedLines :
    poisonedAt.line 0x400 = some { key := 9, replay := false, poison := true } ∧ poisonedAt.counterFailed (0x400 / 128) = false ∧
    (∀ m ∈ poisonedAt.mem.migr, m.frame ≠ 0x400 / 512) ∧
    0x400 / 128 ∉ poisonedAt.mem.readonly ∧ (List.replicate 128 (7 : Byte)).length = 128 ∧ ([7] : Bytes).length < 128 ∧
    (0x2007F : Nat) / 128 = 0x400 := by decide +kernel

/-- Frame 3 on its way with a write held. -/
def holding : State :=
  { mapped with mem := { demoMem with migr := [{ frame := 3, tier := 0, stack := 1,
                                                 held := [{ key := 9, replay := false, fa := 0x30000, data := [7], at_ := 0 }] }] } }

theorem wit_OperatorsStoreOnlyTheirWrites :
    ∃ u, holding.applyEff 0 { writes := [(0x10004, [7])] } = (u, none) ∧
      (∀ p ∈ holding.stores 0 (holding.writtenBy 0 { writes := [(0x10004, [7])] }), 0x20003 < p.1 ∨ p.1 + p.2 ≤ 0x20003) ∧
      (∀ p ∈ holding.stores 0 (holding.writtenBy 0 { writes := [(0x10004, [7])] }), 0x20005 < p.1 ∨ p.1 + p.2 ≤ 0x20005) ∧
      ∀ m ∈ holding.mem.migr, ∀ w ∈ m.held, 0x20003 < w.fa ∨ w.fa + w.data.length ≤ 0x20003 :=
  ⟨(holding.applyEff 0 { writes := [(0x10004, [7])] }).1, ok_pair' _ (by decide +kernel), by decide +kernel, by decide +kernel,
   by decide +kernel⟩

theorem wit_TranslationKeepsTheOffset :
    2 ^ 57 ≤ 2 ^ 57 ∧ ∃ x, mapped.translate 0 0x1FFFF false = .ok x ∧ (!x.host) = true :=
  ⟨by decide, ok_and _ (fun (x : Xlat) => !x.host) (by decide +kernel)⟩

theorem wit_NearestEven : 2 * (3 % 2 ^ 1) = 2 ^ 1 := by decide

theorem wit_PageInterrupts : up.present (pageOf pgRas) = true ∧ ∀ c, pageOf pgRas ≠ .ctx c :=
  ⟨by decide +kernel, by
    intro c h
    have h2 : pageOf pgRas = .ras := by decide +kernel
    rw [h2] at h
    cases h⟩

/-- Region 7 in a given state, rail 15 below its warning level. -/
def region7 (r : Region) : State := { up with pwr := { regions := [(7, r)], rails := [(15, { st := 1 })] } }

theorem wit_SupplyCommandsComplete :
    (up.powered = true ∧ up.railPresent 15 = true ∧ (up.rail 15).st ≠ 1) ∧
    ((region7 {}).railPresent 15 = true ∧ ((region7 {}).rail 15).st = 1 ∧ (∀ p ∈ (region7 {}).pwr.rails, p.1 ≠ 15 → p.2.st ≠ 1)) ∧
    (up.railPresent 0 = true ∧ up.railPresent 7 = true ∧ up.railPresent 8 = true ∧ up.railPresent 14 = true) ∧
    (up.running = true ∧ 7 ∈ up.regions ∧ (7, 6) ∈ pairsOf up ∧ beyond { mhz := 400 } { mhz := 625 } 0 = true) ∧
    (((region7 { pulling := some (0, 1) }).region 7).drained = 0 ∧ ((region7 { pulling := some (0, 1) }).region 7).pulling = some (0, 1) ∧
      0 + 1000000 ≤ max up.clk.now 1000000 ∧ up.ras.sweep = false) ∧
    (((region7 { drained := 1, okAt := some 0 }).region 7).drained = 1 ∧ 0 + 100000000 ≤ max up.clk.now 100000000) ∧
    (((region7 { drained := 2, temp := 89 }).region 7).drained = 2 ∧ ((region7 { drained := 2, temp := 89 }).region 7).temp < 90) ∧
    (((region7 { throttle := true }).region 7).throttle = true ∧ ((region7 { throttle := true }).region 7).drained ≠ 2) ∧
    7 < up.ident.variant.near ∧ ({ up with boot := .tripHeld } : State).boot = .tripHeld ∧ 5000 > up.limit ∧ 0 ≤ up.limit := by
  decide +kernel
end Sys2Proof.Tests
end

section
/-! PROOFS. The clock of a command (R11, R41, R221, log 2): what `State.tick` answers while the reference is held and while it
is not, and O2 from the two. -/

namespace Sys2Proof.Machine

/-- A clock that the time elapsed since is added to has reached the command's moment, or stays where it was. -/
theorem add_elapsed_eq_max (now t : Nat) : now + (t - now) = max now t := by omega

/-- While the reference is held only the interval clock moves (R41). -/
theorem tick_of_held {s : State} (t : Nat) (hheld : s.clk.held = true) :
    s.tick t = { s with clk := { s.clk with now := max s.clk.now t } } := by
  simp only [State.tick, hheld, if_true, add_elapsed_eq_max]

/-- `k` steps of a slew in its own direction are no more than `k`. -/
theorem natAbs_mul_sign_le (k : Nat) (slew : Int) : ((k : Int) * slew.sign).natAbs ≤ k := by
  rcases Int.sign_trichotomy slew with h | h | h <;> rw [h] <;> omega

/-- While the reference is not held, device time counts with the interval clock and takes a part `d` of the slew: no more than
is left of it, and no more than 100 ppm of the elapsed time (R221). -/
theorem tick_of_not_held {s : State} (t : Nat) (hheld : s.clk.held = false) :
    ∃ (d : Int) (n : Nat), d.natAbs ≤ min s.clk.slew.natAbs ((t - s.clk.now) / 10000) ∧
      s.tick t = { s with
        free := n
        clk := { s.clk with
          now := max s.clk.now t
          time := (((s.clk.time + (t - s.clk.now) : Nat) : Int) + d).toNat % 2 ^ 64
          slew := s.clk.slew - d } } := by
  by_cases hlim : min s.clk.slew.natAbs ((t - s.clk.now) / 10000) = 0
  · refine ⟨0, s.free, Nat.zero_le _, ?_⟩
    simp only [State.tick, hheld, hlim, if_true, Bool.false_eq_true, if_false, add_elapsed_eq_max, Int.add_zero, Int.sub_zero,
      Int.toNat_natCast]
  · generalize hd : Config.value s.free % (min s.clk.slew.natAbs ((t - s.clk.now) / 10000) + 1) = k
    have hk : k ≤ min s.clk.slew.natAbs ((t - s.clk.now) / 10000) :=
      hd ▸ Nat.le_of_lt_succ (Nat.mod_lt _ (Nat.succ_pos _))
    refine ⟨k * s.clk.slew.sign, s.free + 1, Nat.le_trans (natAbs_mul_sign_le k _) hk, ?_⟩
    simp only [State.tick, hheld, hlim, hd, Bool.false_eq_true, if_false, add_elapsed_eq_max]

/-- Settles O2: with the reference held by `tick_of_held`, else by `tick_of_not_held`, whose part of the slew is 0 when nothing
is left to slew. -/
theorem tickMovesOnlyTheClocks : Obligations.TickMovesOnlyTheClocks := by
  intro t s
  cases hheld : s.clk.held with
  | true =>
    rw [tick_of_held t hheld]
    exact ⟨rfl, fun _ => ⟨rfl, rfl⟩, nofun, nofun⟩
  | false =>
    obtain ⟨d, n, hd, htick⟩ := tick_of_not_held t hheld
    obtain ⟨hleft, hrate⟩ := Nat.le_min.mp hd
    rw [htick]
    refine ⟨rfl, nofun, fun _ hslew => ?_, fun _ => ⟨d, hrate, hleft, rfl, rfl⟩⟩
    have hzero : d = 0 := by omega
    simp only [hzero, Int.add_zero, Int.toNat_natCast]

end Sys2Proof.Machine
end

section
/-! PROOFS. The functions of the Oliastor service (R372): what a request on an open connection of a role that may call it
does, and O40 from that. -/

namespace Sys2Proof.Machine

open Claims

/-- A function of the service that may be called has its effect. -/
theorem serve_of_serves {s : State} {msg : Call} {a : Allowed} (f : State → State) (h : Serves s msg a) :
    s.serve msg a f = f s := by
  obtain ⟨k, hconn, hallows⟩ := h
  simp only [State.serve, hconn, hallows, if_true]

/-- A command that serves a function `f` gives `E` where the function may be called and has the effect `E`. -/
theorem gives_of_serve {c : Nat → Instr} {msg : Call} {a : Allowed} {f : State → State} {G : State → Prop} {E : State → State}
    (hexec : ∀ t s, exec (c t) s = .next ((s.tick t).serve msg a f)) (hserves : ∀ s, G s → Serves s msg a)
    (heffect : ∀ s, G s → f s = E s) : Gives c G E := by
  intro t s hG
  rw [hexec, serve_of_serves f (hserves _ hG), heffect _ hG]

/-- A hallmark request of a running module that signs is answered at once: no activation holds it (R367, R369). -/
theorem askHallmark_of_running {s : State} (msg : Call) (req : HallmarkRequest) (hsigns : s.signs = true)
    (hact : s.fw.act = none) (hrunning : s.running = true) :
    s.askHallmark (some msg) req = (s.hallmark req.nonce req.report req.slot).2.reply msg resOk
      ((s.hallmark req.nonce req.report req.slot).1 ++ s.company) := by
  simp only [State.askHallmark, hsigns, hact, hrunning, Bool.not_true, Option.isSome_none, Bool.or_self, Bool.false_eq_true,
    if_false]

/-- Settles O40: OLIASTOR_CONNECT by its condition, every other function by `gives_of_serve` and the branch of its effect that
the operands select. -/
theorem oliastorOperations : Obligations.OliastorOperations := by
  refine ⟨fun cert => ?connect, fun msg => ?status, fun msg req => ?hallmark, fun msg => ?subscribe, fun msg seq => ?ack,
    fun msg page hpage hmgmt => ?readPage, fun msg => ?commit, fun msg => ?discard, fun msg unit hunit => ?laser,
    fun msg slot hslot => ?quench, fun msg slot range hslot hrange => ?anneal, fun msg enable => ?bar4⟩
  case connect =>
    intro t s haccepts
    exact congrArg Host.Outcome.next (if_pos haccepts)
  case status => exact gives_of_serve (fun _ _ => rfl) (fun _ h => h) (fun _ _ => rfl)
  case hallmark =>
    exact gives_of_serve (fun _ _ => rfl) (fun _ h => h.1) (fun _ ⟨_, hsigns, hact, hrunning⟩ =>
      askHallmark_of_running msg req hsigns hact hrunning)
  case subscribe => exact gives_of_serve (fun _ _ => rfl) (fun _ h => h) (fun _ _ => rfl)
  case ack =>
    refine gives_of_serve (fun _ _ => rfl) (fun _ h => h.1) (fun s ⟨_, r, hmem, hseq⟩ => if_pos ?_)
    exact List.any_eq_true.mpr ⟨r, hmem, decide_eq_true hseq⟩
  case readPage =>
    refine gives_of_serve (fun _ _ => rfl) (fun _ h => h) (fun s _ => (if_neg (Nat.not_le.mpr hpage)).trans ?_)
    simp only [hmgmt]
  case commit =>
    refine gives_of_serve (fun _ _ => rfl) (fun _ h => h.1) (fun s ⟨_, hsec, hmgmt, hctrl, hlink⟩ => if_neg ?_)
    simp only [gt_iff_lt, List.any_cons, List.any_nil, Bool.or_false, Bool.or_eq_true, decide_eq_true_eq, not_or, Nat.not_lt,
      hsec, hmgmt, hctrl, hlink, and_self]
  case discard => exact gives_of_serve (fun _ _ => rfl) (fun _ h => h) (fun _ _ => rfl)
  case laser =>
    refine gives_of_serve (fun _ _ => rfl) (fun _ h => h.1) (fun s ⟨_, hpresent⟩ => if_neg ?_)
    simp only [ge_iff_le, hpresent, Bool.not_true, Bool.or_false, decide_eq_true_eq, Nat.not_le, hunit]
  case quench => exact gives_of_serve (fun _ _ => rfl) (fun _ h => h) (fun _ _ => if_neg (Nat.not_le.mpr hslot))
  case anneal =>
    exact gives_of_serve (fun _ _ => rfl) (fun _ h => h) (fun _ _ => if_neg (by omega))
  case bar4 => exact gives_of_serve (fun _ _ => rfl) (fun _ h => h) (fun _ _ => rfl)

end Sys2Proof.Machine
end

section
/-! PROOFS. The commands that run the current entry of a queue: one rule that says what such a command answers, and with it the
step entries STEP_BEGIN, STEP_END and RETIRE (R48, R49, R258, R271), from which O23. -/

namespace Sys2Proof.Machine

open Claims

/-- An entry that can run as the command's opcode has its effect where it has begun. -/
theorem runEntry_of_ready {s : State} {t : Nat} {q : QRef} {op : Nat} {e : Entry} (f : State → Entry → State)
    (hready : (s.tick t).ready q op = some e) : s.runEntry t q op f = .next (f (begun s t q e) e) := by
  simp only [State.runEntry, hready, begun]

/-- A command that runs the current entry with the effect `f` gives `E` wherever `f` does. -/
theorem runs_of_runEntry {c : Nat → QRef → Instr} {op : Nat} {f : QRef → State → Entry → State} {G : QRef → Entry → State → Prop}
    {E : QRef → Entry → State → State} (hexec : ∀ t q s, exec (c t q) s = s.runEntry t q op (f q))
    (heffect : ∀ q e s, G q e s → f q s e = E q e s) : Runs c op G E := by
  intro t q s e hready hG
  rw [hexec, runEntry_of_ready _ hready, heffect q e _ hG]

/-- Settles O23: each clause by `runs_of_runEntry` and the branch of the entry's effect that its condition selects: the mode of the
context for STEP_BEGIN, the open log ring and the writes that succeed for STEP_END, the answer of the table edit for RETIRE. -/
theorem stepEntries : Obligations.StepEntries := by
  refine ⟨?beginStep, ?beginPeriodic, fun ls v w => ?endStep, fun v fs => ?retired, fun v st => ?refused⟩
  case beginStep =>
    refine runs_of_runEntry (fun t q s => (rfl : _ = execStepBegin t q s)) (fun q e s hmode => ?_)
    simp only [hmode, Bool.false_eq_true, if_false]
  case beginPeriodic =>
    refine runs_of_runEntry (fun t q s => (rfl : _ = execStepBegin t q s)) (fun q e s hmode => ?_)
    simp only [hmode, if_true]
  case endStep =>
    refine runs_of_runEntry (fun t q s => (rfl : _ = execStepEnd t q s)) (fun q e s ⟨hopen, hscale, hmask, hrecord⟩ => ?_)
    simp only [hopen, hscale, hmask, hrecord, Bool.not_true, Bool.false_eq_true, if_false]
  case retired =>
    refine runs_of_runEntry (fun t q s => (rfl : _ = execRetire t q s)) (fun q e s hedit => ?_)
    simp only [State.startRetire, hedit]
  case refused =>
    refine runs_of_runEntry (fun t q s => (rfl : _ = execRetire t q s)) (fun q e s hedit => ?_)
    simp only [State.startRetire, hedit]

end Sys2Proof.Machine
end

section
/-! PROOFS. What accesses to device memory leave: flags, records, line caches, held writes, retired locations, migrations and pins
(R183 to R190, R197, R310 to R318, R376 to R378, R408) change no context, and an access no queue. -/

namespace Sys2Proof.Machine

/-- An operation that leaves the contexts, done for each element of a list, leaves them. -/
theorem foldl_ctxs {α : Type} {f : State → α → State} (hf : ∀ s a, (f s a).ctxs = s.ctxs) (l : List α) (s : State) :
    (l.foldl f s).ctxs = s.ctxs := by
  induction l generalizing s with
  | nil => rfl
  | cons a l ih => exact (ih (f s a)).trans (hf s a)

/-! ### Flags and records -/

@[simp] theorem slotVector_ctxs (s : State) (c v : Nat) : (s.slotVector c v).ctxs = s.ctxs := by
  unfold State.slotVector
  split <;> rfl

@[simp] theorem sendRise_ctxs (s : State) (i old new : Nat) : (s.sendRise i old new).ctxs = s.ctxs := by
  unfold State.sendRise
  split
  · refine foldl_ctxs (fun s v => ?_) _ s
    split
    · exact slotVector_ctxs s _ v
    · rfl
  · dsimp only
    split <;> rfl

@[simp] theorem raise_ctxs (s : State) (i bits : Nat) : (s.raise i bits).ctxs = s.ctxs := by
  unfold State.raise
  split
  · exact sendRise_ctxs _ _ _ _
  · rfl

@[simp] theorem push_ctxs (s : State) (kind value : Nat) : (s.push kind value).ctxs = s.ctxs := by
  refine foldl_ctxs (fun s c => ?_) _ s
  split <;> rfl

@[simp] theorem latchErr_ctxs (s : State) (i cls code : Nat) (ctx : Option (Nat × Nat)) (info : Nat) :
    (s.latchErr i cls code ctx info).ctxs = s.ctxs := by
  unfold State.latchErr
  split <;> rfl

@[simp] theorem logRas_ctxs (s : State) (page cls code : Nat) (ctx : Option Nat) (info : Nat) :
    (s.logRas page cls code ctx info).ctxs = s.ctxs := by
  unfold State.logRas
  split
  · rfl
  · simp only [push_ctxs, raise_ctxs, latchErr_ctxs]

@[simp] theorem perf_ctxs (s : State) (ev slot op tag n : Nat) : (s.perf ev slot op tag n).ctxs = s.ctxs := by
  unfold State.perf
  split
  · rfl
  · refine foldl_ctxs (fun s i => ?_) _ s
    dsimp only
    split
    · split
      · exact raise_ctxs _ _ _
      · rfl
    · rfl

/-! ### Lines, counters and their caches -/

@[simp] theorem bring_ctxs (s : State) (c : Cstr) (dirty : Bool) : (s.bring c dirty).ctxs = s.ctxs := by
  unfold State.bring
  split
  · split <;> rfl
  · dsimp only
    split
    · rfl
    · split
      · rfl
      · split <;> rfl

@[simp] theorem fill_ctxs (s : State) (replay write : Bool) (ln : Nat) : (s.fill replay write ln).ctxs = s.ctxs := by
  have hpath : ∀ (l : List Cstr) (u : State), (l.foldl (fun s c => s.bring c false) u).ctxs = u.ctxs :=
    foldl_ctxs (fun u c => bring_ctxs u c false)
  unfold State.fill
  dsimp only
  split
  · exact bring_ctxs _ _ _
  · split <;> simp only [bring_ctxs, hpath]

@[simp] theorem fillAt_ctxs (s : State) (replay write : Bool) (fa n : Nat) : (s.fillAt replay write fa n).ctxs = s.ctxs := by
  refine foldl_ctxs (fun u p => ?_) _ s
  exact fill_ctxs u replay write (p.1 / 128)

@[simp] theorem setBytes_ctxs (s : State) (fa : Nat) (d : Bytes) : (s.setBytes fa d).ctxs = s.ctxs := by
  induction d generalizing s fa with
  | nil => rfl
  | cons b bs ih => exact ih (s.setByte fa b) (fa + 1)

@[simp] theorem queueAnneal_ctxs (s : State) (c r : Nat) : (s.queueAnneal c r).ctxs = s.ctxs := by
  unfold State.queueAnneal
  dsimp only
  split <;> rfl

@[simp] theorem annealKey_ctxs (s : State) (key : Nat) : (s.annealKey key).ctxs = s.ctxs := by
  refine foldl_ctxs (fun u c => foldl_ctxs (fun v r => ?_) _ u) _ s
  exact queueAnneal_ctxs v c r.2

@[simp] theorem poisonFailing_ctxs (s : State) (b key : Nat) : (s.poisonFailing b key).ctxs = s.ctxs := by
  refine foldl_ctxs (fun s ln => ?_) _ s
  split
  · split <;> rfl
  · rfl

@[simp] theorem reencrypt_ctxs (s : State) (b key : Nat) : (s.reencrypt b key).ctxs = s.ctxs := by
  unfold State.reencrypt
  dsimp only
  split
  · simp only [annealKey_ctxs, logRas_ctxs, raise_ctxs, State.setBlock, poisonFailing_ctxs]
  · simp only [State.setBlock, poisonFailing_ctxs]

@[simp] theorem countWrite_ctxs (s : State) (ln key : Nat) : (s.countWrite ln key).ctxs = s.ctxs := by
  unfold State.countWrite
  dsimp only [State.bumpFver, State.setBlock]
  split
  · exact reencrypt_ctxs _ _ _
  · rfl

@[simp] theorem lineWrite_ctxs (s : State) (key : Nat) (replay : Bool) (fa : Nat) (d : Bytes) :
    (s.lineWrite key replay fa d).1.ctxs = s.ctxs := by
  unfold State.lineWrite
  dsimp only
  split
  · rfl
  · split
    · rfl
    · split
      · split
        · split <;> rfl
        · split <;> simp only [setBytes_ctxs, State.setLine, countWrite_ctxs]
      · split <;> simp only [setBytes_ctxs, State.setLine, countWrite_ctxs]

@[simp] theorem putHeld_ctxs (s : State) (w : HeldWrite) : (s.putHeld w).1.ctxs = s.ctxs := by
  unfold State.putHeld
  split
  · rfl
  · rfl
  · exact lineWrite_ctxs _ _ _ _ _

@[simp] theorem heldWrites_ctxs (s : State) (m : Migration) : (s.heldWrites m).ctxs = s.ctxs :=
  foldl_ctxs putHeld_ctxs _ s

/-! ### Frames, retired locations and migrations -/

@[simp] theorem poison_ctxs (s : State) (ln : Nat) : (s.poison ln).ctxs = s.ctxs := by
  unfold State.poison
  split <;> rfl

@[simp] theorem place_ctxs (s : State) (f : Nat) (b : Backing) : (s.place f b).ctxs = s.ctxs := by
  unfold State.place
  dsimp only
  split <;> split <;> rfl

@[simp] theorem startMoves_ctxs (s : State) : s.startMoves.ctxs = s.ctxs := by
  refine foldl_ctxs (fun s f => ?_) _ s
  split
  · rfl
  · split <;> rfl

@[simp] theorem retireLocation_ctxs (s : State) (mcx pg : Nat) (frame : Option Nat) :
    (s.retireLocation mcx pg frame).ctxs = s.ctxs := by
  unfold State.retireLocation
  split
  · dsimp only
    rw [raise_ctxs, raise_ctxs]
    split
    · split
      · exact startMoves_ctxs _
      · rfl
    · rfl
  · simp only [logRas_ctxs, raise_ctxs]

@[simp] theorem correctedAt_ctxs (s : State) (mcx pg : Nat) (frame : Option Nat) : (s.correctedAt mcx pg frame).ctxs = s.ctxs := by
  unfold State.correctedAt
  dsimp only
  split
  · split <;> simp only [retireLocation_ctxs, logRas_ctxs, setMc_ctxs]
  · split <;> simp only [retireLocation_ctxs, logRas_ctxs, setMc_ctxs, State.draw]

@[simp] theorem uncorrectableAt_ctxs (s : State) (ctx : Option (Option Nat)) (ln : Nat) :
    (s.uncorrectableAt ctx ln).ctxs = s.ctxs := by
  unfold State.uncorrectableAt
  split
  · rfl
  · dsimp only
    rw [retireLocation_ctxs, poison_ctxs]
    split <;> simp only [logRas_ctxs, raise_ctxs, setMc_ctxs]

@[simp] theorem corrections_ctxs (s : State) (fa n : Nat) : (s.corrections fa n).ctxs = s.ctxs := by
  unfold State.corrections
  split
  · rfl
  · refine foldl_ctxs (fun s p => ?_) _ s
    dsimp only
    split
    · split
      · exact correctedAt_ctxs _ _ _ _
      · rfl
    · rfl

@[simp] theorem noteHold_ctxs (s : State) (m : Migration) : (s.noteHold m).ctxs = s.ctxs := by
  unfold State.noteHold
  split
  · rfl
  · exact perf_ctxs _ _ _ _ _ _

@[simp] theorem copyErrors_ctxs (s : State) (f : Nat) : (s.copyErrors f).ctxs = s.ctxs :=
  foldl_ctxs (fun u ln => uncorrectableAt_ctxs u none ln) _ s

@[simp] theorem endMigration_ctxs (s : State) (m : Migration) : (s.endMigration m).ctxs = s.ctxs := by
  simp only [State.endMigration, startMoves_ctxs, heldWrites_ctxs, noteHold_ctxs]

@[simp] theorem cancelMigration_ctxs (s : State) (m : Migration) : (s.cancelMigration m).ctxs = s.ctxs :=
  endMigration_ctxs _ m

@[simp] theorem switchTo_ctxs (s : State) (m : Migration) : (s.switchTo m).ctxs = s.ctxs := by
  unfold State.switchTo
  dsimp only
  split <;> simp only [endMigration_ctxs, place_ctxs, State.dropLines, copyErrors_ctxs]

@[simp] theorem makeRoom_ctxs (s : State) (tier : Nat) : (s.makeRoom tier).ctxs = s.ctxs := by
  unfold State.makeRoom
  split
  · rfl
  · dsimp only
    split
    · exact switchTo_ctxs _ _
    · rfl

@[simp] theorem toTier_ctxs (s : State) (f tier : Nat) : (s.toTier f tier).ctxs = s.ctxs := by
  unfold State.toTier
  split
  · rfl
  · split
    · rfl
    · simp only [switchTo_ctxs, State.draw, makeRoom_ctxs]
  · split
    · split
      · rfl
      · exact cancelMigration_ctxs _ _
    · split <;> simp only [switchTo_ctxs, State.draw, makeRoom_ctxs]

/-! ### Accesses -/

@[simp] theorem notePin_ctxs (s : State) (c va f pin : Nat) : (s.notePin c va f pin).ctxs = s.ctxs := by
  unfold State.notePin
  extract_lets near
  split
  · rfl
  · split
    · rfl
    · split
      · exact toTier_ctxs _ _ _
      · split
        · rfl
        · exact raise_ctxs _ _ _

@[simp] theorem noteLines_ctxs (s : State) (replay write : Bool) (fa n : Nat) : (s.noteLines replay write fa n).ctxs = s.ctxs := by
  simp only [State.noteLines, fillAt_ctxs, corrections_ctxs]

/-- What the queues of a slot hold depends on the contexts alone. -/
theorem queue_of_ctxs {s u : State} (h : u.ctxs = s.ctxs) (q : QRef) : u.queue q = s.queue q := by
  simp only [State.queue, State.ctx, h]

/-- A change of a context that keeps its queues keeps every queue. -/
theorem modCtx_queue {f : Ctx → Ctx} (hf : ∀ x, (f x).queues = x.queues) (s : State) (c : Nat) (q : QRef) :
    (s.modCtx c f).queue q = s.queue q := by
  by_cases hc : q.slot = c
  · subst hc
    simp only [State.queue, ctx_modCtx_same, Ctx.queue, hf]
  · simp only [State.queue, ctx_modCtx_other _ _ _ _ hc]

theorem tally_queue (s : State) (c i n : Nat) (q : QRef) : (s.modCtx c (fun x => x.tally i n)).queue q = s.queue q := by
  rw [modCtx_queue]
  exact fun _ => rfl

theorem notePin_queue (s : State) (c va f pin : Nat) (q : QRef) : (s.notePin c va f pin).queue q = s.queue q :=
  queue_of_ctxs (notePin_ctxs s c va f pin) q

theorem noteClass_queue (s : State) (f pte : Nat) (desc : Option Nat) (q : QRef) :
    (s.noteClass f pte desc).queue q = s.queue q := rfl

theorem noteLines_queue (s : State) (replay write : Bool) (fa n : Nat) (q : QRef) :
    (s.noteLines replay write fa n).queue q = s.queue q :=
  queue_of_ctxs (noteLines_ctxs s replay write fa n) q

@[simp] theorem touchPiece_queue (s : State) (c : Nat) (desc : Option Nat) (written : Bool) (p : Nat × Nat) (q : QRef) :
    (s.touchPiece c desc written p).queue q = s.queue q := by
  unfold State.touchPiece
  split
  · rfl
  · split
    · rfl
    · dsimp only
      split
      · rw [noteClass_queue, notePin_queue]
      · rw [tally_queue, noteLines_queue, noteClass_queue, notePin_queue]

/-- An operation that leaves what `g` reads of a queue, done for each element of a list, leaves it. -/
theorem foldl_queue {α β : Type} {f : State → α → State} {g : Queue → β} {q : QRef}
    (hf : ∀ s a, g ((f s a).queue q) = g (s.queue q)) (l : List α) (s : State) :
    g ((l.foldl f s).queue q) = g (s.queue q) := by
  induction l generalizing s with
  | nil => rfl
  | cons a l ih => exact (ih (f s a)).trans (hf s a)

@[simp] theorem meet_queue (s : State) (c va n : Nat) (q : QRef) : (s.meet c va n).queue q = s.queue q :=
  foldl_queue (g := id) (fun u p => touchPiece_queue u c none false p q) _ s

end Sys2Proof.Machine
end

section
/-! PROOFS. Computing entries (R120, R152): one rule that says when such an entry completes, and with it the eighteen operators,
from which O24. -/

namespace Sys2Proof.Machine

open Claims

/-! ### An entry's work enters its cores -/

@[simp] theorem readSave_queue (s : State) (k c va : Nat) (y : Core) (q : QRef) : (s.readSave k c va y).queue q = s.queue q := by
  unfold State.readSave
  dsimp only
  split
  · rw [setCore_queue, meet_queue]
  · rw [modCtx_queue, meet_queue]
    exact fun _ => rfl

@[simp] theorem load_queue (s : State) (q : QRef) (e : Entry) (k i : Nat) (r : QRef) : (s.load q e k i).queue r = s.queue r := by
  unfold State.load
  dsimp only
  split
  · exact readSave_queue _ _ _ _ _ r
  · rfl

/-- An entry whose work enters its cores keeps the rounded tiles it has (R152). -/
theorem occupy_kept (s : State) (q : QRef) (e : Entry) : ((s.occupy q e).queue q).kept = (s.queue q).kept := by
  simp only [State.occupy, queue_modQueue_same]
  exact foldl_queue (g := Queue.kept) (fun u (p : Nat × Nat) => congrArg Queue.kept (load_queue u q e p.1 p.2 q)) _ s

/-- What a computing entry gives depends on its queue only by the rounded tiles kept for it. -/
theorem outcome_of_kept {y z : Queue} (h : z.kept = y.kept) (f : Except Acc Done) : z.outcome f = y.outcome f := by
  simp only [Queue.outcome, h]

/-- A computing entry that gives a result, can write it and does so completes (R120). -/
theorem compute_of_stored {s u : State} {q : QRef} {e : Entry} {f : Except Acc Done} {r : Done}
    (hgives : (s.queue q).outcome f = .ok r) (hfault : (s.occupy q e).effFault q.slot r.eff = none)
    (hstores : (s.occupy q e).applyEff q.slot r.eff = (u, none)) : s.compute q e f = u.computed q e r := by
  simp only [State.compute, outcome_of_kept (occupy_kept s q e), hgives, hfault, hstores]

/-- A command that runs a computing entry with the operator `f` completes it with what `f` gives. -/
theorem computes_of_runCompute {c : Nat → QRef → Instr} {op : Nat} {f : QRef → State → Queue → Entry → Except Acc Done}
    (hexec : ∀ t q s, exec (c t q) s = s.runCompute t q op (f q)) : Computes c op f := by
  intro t q s e r u hready hgives hfault hstores
  rw [hexec, State.runCompute, runEntry_of_ready _ hready, compute_of_stored hgives hfault hstores]

/-- Settles O24: each of the eighteen commands runs a computing entry with its operator, so that it completes by
`computes_of_runCompute`. -/
theorem operatorEntries : Obligations.OperatorEntries := by
  unfold Obligations.OperatorEntries
  and_intros <;> exact computes_of_runCompute (fun _ _ _ => rfl)

end Sys2Proof.Machine
end

section
/-! PROOFS. The work list (R53 to R59, R69, R87, R257): fetch, lists, calls, loops and completion, from which O21. -/

namespace Sys2Proof.Machine

open Claims

/-- A call whose tree fits starts it, in a context without an object table. -/
theorem startTree_of_flat {s v w : State} {q : QRef} {addr : Nat}
    (hv : v = s.modQueue q (fun y => { y with stack := [{ addr }], phase := .ready, begun := false, flight := .none }))
    (hw : w = ((seqIds (s.queue q).tree).foldl (fun u i => u.track q.slot i)
      (v.modQueue q (fun y => { y with phase := y.entering }))).wantSlot q.slot true)
    (hflat : bit (w.ctxRec q.slot).mode 0 = false) : s.startTree q addr = w := by
  simp only [State.startTree, ← hv, ← hw, hflat, Bool.false_eq_true, if_false]

/-- Settles O21: each clause of an entry by `runs_of_runEntry` and the branch of its effect that the queue's stack, its list and the
loop's count select; QUEUE_FETCH, TREE_ADMIT_RESUME and ENTRY_COMPLETE by the branch their conditions select. -/
theorem listCommands : Obligations.ListCommands := by
  refine ⟨fun q b v => ?fetch, ?nop, ?listEnd, fun f r l => ?listHead, fun tr => ?callFits, fun tr => ?callWaits,
    fun f r l h es hes => ?callNested, fun q e => ?resume, fun q e v w => ?resumeFlat, fun f r l => ?loopSkipped,
    fun f r => ?loopOpened, fun f r l ls => ?loopAgain, fun f r l ls => ?loopDone, fun q => ?complete,
    fun q e st => ?completeDone⟩
  case fetch =>
    intro t s ⟨hserves, hending, hrun, herror, hidle, hmore, hop, ⟨hheld, hneeds⟩, hread⟩
    change execQueueFetch t q s = _
    simp only [execQueueFetch, hserves, hending, hrun, herror, hidle, hmore, hheld, hneeds, hread, hop, List.isEmpty_nil,
      Bool.not_true, Bool.not_false, Bool.and_self, ne_eq, not_false_eq_true, decide_true, if_true, Bool.false_eq_true, if_false]
  case nop => exact runs_of_runEntry (fun t q s => (rfl : _ = execNop t q s)) (fun _ _ _ _ => rfl)
  case listEnd => exact runs_of_runEntry (fun t q s => (rfl : _ = execListEnd t q s)) (fun _ _ _ _ => rfl)
  case listHead =>
    refine runs_of_runEntry (fun t q s => (rfl : _ = execListHead t q s)) (fun q e s ⟨hstack, hlist⟩ => ?_)
    simp only [hstack, hlist, Option.map_some, Option.getD_some]
  case callFits =>
    refine runs_of_runEntry (fun t q s => (rfl : _ = execCall t q s)) (fun q e s ⟨hstack, htree, hneeds, hfault, hroom⟩ => ?_)
    simp only [hstack, htree, ite_eq_right_iff.mpr hneeds, hfault, List.isEmpty_nil, Bool.not_true, Bool.false_eq_true,
      if_true, if_false, gt_iff_lt, Nat.not_lt.mpr hroom]
  case callWaits =>
    refine runs_of_runEntry (fun t q s => (rfl : _ = execCall t q s)) (fun q e s ⟨hstack, htree, hneeds, hfault, hfull⟩ => ?_)
    simp only [hstack, htree, ite_eq_right_iff.mpr hneeds, hfault, List.isEmpty_nil, Bool.not_true, Bool.false_eq_true,
      if_true, if_false, gt_iff_lt, hfull]
  case callNested =>
    refine runs_of_runEntry (fun t q s => (rfl : _ = execCall t q s)) (fun q e s ⟨hstack, hlist⟩ => ?_)
    simp only [hstack, hlist, hes, List.isEmpty_cons, Bool.false_eq_true, if_false]
  case resume =>
    intro t s ⟨hphase, hcur, hserves, hroom⟩
    change execTreeAdmitResume t q s = _
    simp only [execTreeAdmitResume, hphase, hcur, hserves, hroom, decide_true, Bool.and_self, if_true]
  case resumeFlat =>
    intro t s ⟨hphase, hcur, hserves, hroom, hv, hw, hflat⟩
    change execTreeAdmitResume t q s = _
    simp only [execTreeAdmitResume, hphase, hcur, hserves, hroom, decide_true, Bool.and_self, if_true,
      startTree_of_flat hv hw hflat]
  case loopSkipped =>
    refine runs_of_runEntry (fun t q s => (rfl : _ = execLoopBegin t q s)) (fun q e s ⟨hstack, hlist, hcount⟩ => ?_)
    simp only [hstack, hlist, hcount, Option.map_some, Option.getD_some, if_true]
  case loopOpened =>
    refine runs_of_runEntry (fun t q s => (rfl : _ = execLoopBegin t q s)) (fun q e s ⟨hstack, hcount⟩ => ?_)
    simp only [hstack, hcount, if_false]
  case loopAgain =>
    refine runs_of_runEntry (fun t q s => (rfl : _ = execLoopEnd t q s)) (fun q e s ⟨hstack, hloops, hmore⟩ => ?_)
    simp only [hstack, hloops, hmore, if_true]
  case loopDone =>
    refine runs_of_runEntry (fun t q s => (rfl : _ = execLoopEnd t q s)) (fun q e s ⟨hstack, hloops, hlast⟩ => ?_)
    simp only [hstack, hloops, Nat.not_lt.mpr hlast, if_false]
  case complete =>
    intro t s ⟨hstate, hheld⟩
    change execEntryComplete t q s = _
    simp only [execEntryComplete, hstate, hheld, Bool.not_false, and_self, if_true]
  case completeDone =>
    intro t s ⟨hstate, hheld, hphase, hentry⟩
    change execEntryComplete t q s = _
    simp only [execEntryComplete, State.completeEntry, hstate, hheld, hphase, hentry, Bool.not_false, and_self, if_true]

end Sys2Proof.Machine
end

section
/-! PROOFS. Barriers, fences and PERIOD_MARK (R85 to R88, R260, R296), from which O22. -/

namespace Sys2Proof.Machine

open Claims

/-- A waiting entry whose wait has come to a status starts with OK, unless it is itself the wait, and else ends with the status. -/
theorem wake_of_waitTest {s : State} {q : QRef} {e : Entry} {st : Status} (hphase : (s.queue q).phase = .waiting)
    (hentry : (s.queue q).entry = some e)
    (htest : State.waitTest (if e.waitFence < (s.ctxRec q.slot).fenceCount then s.meet q.slot (s.fenceVa q.slot e.waitFence) 16
      else s) q.slot e = .ok (some st)) :
    s.wake q = (if e.waitFence < (s.ctxRec q.slot).fenceCount then s.meet q.slot (s.fenceVa q.slot e.waitFence) 16
      else s).setQueue q { s.queue q with phase := if st = .ok ∧ e.op ≠ 0x07 then .ready else .done st } := by
  simp only [State.wake, hphase, hentry, htest]
  split
  case h_1 heq => cases heq
  case h_2 heq => cases heq
  case h_3 heq =>
    cases heq
    by_cases hop : e.op = 0x07
    · simp only [hop, ne_eq, not_true_eq_false, and_false, if_true, if_false]
    · simp only [hop, ne_eq, not_false_eq_true, and_self, if_true, if_false]
  case h_4 hnot heq =>
    cases heq
    have hok : st ≠ .ok := fun h => hnot (h ▸ rfl)
    simp only [hok, false_and, if_false]

/-- Settles O22: each entry by `runs_of_runEntry` and the branch of its scope, its fence or its context's mode; BARRIER_COMPLETE and
BARRIER_PATIENCE by what the queue waits in, FENCE_WAIT_SATISFIED by `wake_of_waitTest`. -/
theorem barrierAndFenceEntries : Obligations.BarrierAndFenceEntries := by
  refine ⟨?listScope, ?waits, fun q ident start p => ?jobDone, fun q ident start p => ?slotDone,
    fun q ident start p hp => ?patience, ?fenceWait, fun q => ?look, fun q e st => ?satisfied, fun v => ?signal, ?periodic, ?aperiodic⟩
  case listScope =>
    refine runs_of_runEntry (fun t q s => (rfl : _ = execBarrier t q s)) (fun q e s hscope => ?_)
    simp only [hscope, if_true]
  case waits =>
    refine runs_of_runEntry (fun t q s => (rfl : _ = execBarrier t q s)) (fun q e s hscope => ?_)
    have hlist : e.variant ≠ 0 := by omega
    have hdefined : ¬ e.variant ≥ 3 := by omega
    simp only [hlist, hdefined, if_false]
  case jobDone =>
    intro t s ⟨hphase, hflight, hserves⟩
    change execBarrierComplete t q s = _
    simp only [execBarrierComplete, hphase, hflight, hserves, Bool.not_true, Bool.false_eq_true, if_false, if_true]
  case slotDone =>
    intro t s ⟨hphase, hflight, hserves, hall⟩
    change execBarrierComplete t q s = _
    have harrived : (((s.tick t).ctx q.slot).queues.filter (fun p => p.2.enable && !p.2.error)).all
        (fun p => p.2.atBarrier 1 ident) = true := by
      rw [List.all_eq_true]
      intro x hx
      obtain ⟨hmem, hcond⟩ := List.mem_filter.mp hx
      rw [Bool.and_eq_true, Bool.not_eq_true'] at hcond
      exact hall x hmem hcond.1 hcond.2
    simp only [execBarrierComplete, hphase, hflight, hserves, harrived, List.foldl_map, Bool.not_true, Bool.false_eq_true,
      Nat.reduceEqDiff, if_false, if_true]
  case patience =>
    intro t s ⟨hphase, hflight, hserves, hpassed⟩
    change execBarrierPatience t q s = _
    simp only [execBarrierPatience, hphase, hflight, hserves, hp, hpassed, ne_eq, not_false_eq_true, decide_true,
      Bool.and_self, if_true]
  case fenceWait => exact runs_of_runEntry (fun t q s => (rfl : _ = execFenceWait t q s)) (fun _ _ _ _ => rfl)
  case look =>
    intro t s ⟨hserves, hperiod⟩
    change execFenceWaitSatisfied t q s = _
    simp only [execFenceWaitSatisfied, hserves, hperiod, Bool.and_self, if_true]
  case satisfied =>
    intro t s ⟨hserves, hperiod, hphase, hentry, htest⟩
    change execFenceWaitSatisfied t q s = _
    simp only [execFenceWaitSatisfied, hserves, hperiod, Bool.and_self, if_true, wake_of_waitTest hphase hentry htest]
  case signal =>
    refine runs_of_runEntry (fun t q s => (rfl : _ = execFenceSignal t q s)) (fun q e s hsignal => ?_)
    simp only [hsignal]
  case periodic =>
    refine runs_of_runEntry (fun t q s => (rfl : _ = execPeriodMark t q s)) (fun q e s hmode => ?_)
    simp only [hmode, if_true]
  case aperiodic =>
    refine runs_of_runEntry (fun t q s => (rfl : _ = execPeriodMark t q s)) (fun q e s hmode => ?_)
    simp only [hmode, Bool.false_eq_true, if_false]

end Sys2Proof.Machine
end

section
/-! PROOFS. Collectives, gathers, SEND and RECV (R75 to R82, R235 to R238): what the start of each entry does, from which O25. -/

namespace Sys2Proof.Machine

open Claims

/-- What a queue is after it has been changed. -/
theorem queue_of_eq_modQueue {s v : State} {q : QRef} {f : Queue → Queue} (h : v = s.modQueue q f) : v.queue q = f (s.queue q) :=
  h ▸ queue_modQueue_same s q f

/-- RESHARD that finds every bucket of the old epoch ended sets the new one and ends. -/
theorem tryReshard_of_clear {s : State} {q : QRef} {n : Nat} (hphase : (s.queue q).phase = .running)
    (hflight : (s.queue q).flight = .reshard n)
    (hclear : (s.abandonOld q.slot (s.queue q).startStep).epochClear q.slot = true) :
    s.tryReshard q = (((s.abandonOld q.slot (s.queue q).startStep).modCtx q.slot (fun x =>
      { x with epoch := n, usedIdx := [] })).releaseHeld q.slot).finishEntry q .ok := by
  simp only [State.tryReshard, hphase, hflight, hclear, if_true]

/-- RESHARD that finds a bucket of the old epoch open waits. -/
theorem tryReshard_of_open {s : State} {q : QRef} {n : Nat} (hphase : (s.queue q).phase = .running)
    (hflight : (s.queue q).flight = .reshard n)
    (hopen : (s.abandonOld q.slot (s.queue q).startStep).epochClear q.slot = false) :
    s.tryReshard q = s.abandonOld q.slot (s.queue q).startStep := by
  simp only [State.tryReshard, hphase, hflight, hopen, Bool.false_eq_true, if_false]

/-- A RECV whose message is there writes it to D0, uses it up and ends. -/
theorem tryRecv_of_message {s w : State} {q : QRef} {e : Entry} {start : Nat} {b : Bytes} (hphase : (s.queue q).phase = .running)
    (hflight : (s.queue q).flight = .recv start) (hentry : (s.queue q).entry = some e)
    (hmsg : (s.ctx q.slot).message (s.rankAt q.slot e.imm0) ((s.queue q).mid e.tag) = some b)
    (hwrite : s.vwrites q.slot (writesAt ((s.queue q).d 0).stream b) = (w, none)) :
    s.tryRecv q = (w.modCtx q.slot (fun x =>
      x.takeMsg (s.rankAt q.slot e.imm0) ((s.queue q).mid e.tag))).finishEntry q .ok := by
  simp only [State.tryRecv, hphase, hflight, hentry, hmsg, hwrite]

/-- A RECV whose message is not there waits. -/
theorem tryRecv_of_no_message {s : State} {q : QRef} {e : Entry} {start : Nat} (hphase : (s.queue q).phase = .running)
    (hflight : (s.queue q).flight = .recv start) (hentry : (s.queue q).entry = some e)
    (hmsg : (s.ctx q.slot).message (s.rankAt q.slot e.imm0) ((s.queue q).mid e.tag) = none) : s.tryRecv q = s := by
  simp only [State.tryRecv, hphase, hflight, hentry, hmsg]

/-- A summing collective that names an index used before in its step and epoch ends (R78). -/
theorem sumEntry_of_used {s : State} {q : QRef} {e : Entry} (hused : ∃ j, j < bucketCount e.imm1 ((s.queue q).d 0) ∧
      (s.ctx q.slot).usedIdx.contains ((s.queue q).startStep, (bucketBase e.imm0 (s.queue q).iter).toNat + j) = true) :
    s.sumEntry q e = s.finishEntry q .contractUnsupported := by
  obtain ⟨j, hj, hmem⟩ := hused
  exact if_pos (List.any_eq_true.mpr ⟨j, List.mem_range.mpr hj, hmem⟩)

/-- A summing collective whose indices are new issues its buckets and starts those that may start. -/
theorem sumEntry_of_new {s : State} {q : QRef} {e : Entry} (hnew : ∀ j, j < bucketCount e.imm1 ((s.queue q).d 0) →
      (s.ctx q.slot).usedIdx.contains ((s.queue q).startStep, (bucketBase e.imm0 (s.queue q).iter).toNat + j) = false) :
    s.sumEntry q e =
      let y := s.queue q
      let n := bucketCount e.imm1 (y.d 0)
      let base := (bucketBase e.imm0 y.iter).toNat
      let tags := (List.range n).map (fun j => bucketTag (s.ctxRec q.slot).job (s.ctx q.slot).epoch (base + j) y.startStep)
      let u := (List.range n).foldl (fun s j => s.issueBucket q e (y.d 0) (y.d 1) y.startStep (base + j) j)
        (s.modCtx q.slot (fun x => ({ x with
          usedIdx := x.usedIdx ++ (List.range n).map (fun j => (y.startStep, base + j)) }).clearSkips (y.d 1)))
      tags.foldl (fun s t => s.startBucket q.slot t)
        (u.modQueue q (fun y => { y with phase := .running, flight := .collective tags false false })) := by
  refine if_neg (fun hany => ?_)
  obtain ⟨j, hj, hmem⟩ := List.any_eq_true.mp hany
  exact Bool.false_ne_true ((hnew j (List.mem_range.mp hj)).symm.trans hmem)

/-- A gather whose own stream can be read and whose holders can be reached asks each of them, then looks at what is there. -/
theorem startGather_of_reachable {s : State} {q : QRef} {e : Entry} {own : Bytes}
    (hown : s.holderStream q.slot ((s.queue q).d 0) = .ok own)
    (hpeers : ((s.queue q).d 0).missing.all (fun i => s.peerOk q.slot (s.holder q.slot ((s.queue q).d 0) i)) = true) :
    s.startGather q e =
      let y := s.queue q
      let d := y.d 0
      let n := if e.op = 0x60 then own.length else own.length - 4
      let u := d.missing.foldl (fun u i => u.sendFor q.slot
        { ptype := 8, ctl := 4, dst := u.holder q.slot d i, tag := y.mid d.tensorId
          payload := gatherPayload d.tensorId y.iter i 0 n }) s
      (u.modQueue q (fun y => { y with phase := .running, flight := .gather u.clk.now d.missing })).tryGather q := by
  have hreach : ((s.queue q).d 0).missing.any (fun i => !s.peerOk q.slot (s.holder q.slot ((s.queue q).d 0) i)) = false := by
    rw [List.any_eq_not_all_not]
    simp only [Bool.not_not, hpeers, Bool.not_true]
  simp only [State.startGather, hown, hreach, Bool.false_eq_true, if_false]

/-- An exchange whose streams can be read and whose members can be reached, or are only late for want of light, sends them. -/
theorem startExchange_of_reachable {s : State} {q : QRef} {e : Entry} {counts : List Nat} {ss : List Bytes}
    (hpeers : s.dark = true ∨ (s.members q.slot ((s.queue q).d 0)).all (s.peerOk q.slot) = true)
    (hstreams : s.exchangeStreams q.slot (s.queue q) e = .ok (counts, ss)) :
    s.startExchange q e =
      let u := ((s.members q.slot ((s.queue q).d 0)).zip ss).foldl (fun u p =>
        u.sendMsg q.slot p.1 ((s.queue q).mid e.tag) p.2) (s.keepCounts q.slot (s.queue q) e counts)
      (u.modQueue q (fun y => { y with
        phase := .running
        flight := .exchange u.clk.now (u.patienceEnd q.slot (sl e.imm1 31 0)) [] })).tryExchange q := by
  have hreach : (!s.dark && (s.members q.slot ((s.queue q).d 0)).any (fun m => !s.peerOk q.slot m)) = false := by
    rw [List.any_eq_not_all_not]
    rcases hpeers with hdark | hall
    · rw [hdark, Bool.not_true, Bool.false_and]
    · simp only [Bool.not_not, hall, Bool.not_true, Bool.and_false]
  simp only [State.startExchange, hreach, hstreams, Bool.false_eq_true, if_false]

/-- Settles O25: each entry by `runs_of_runEntry` and the lemma above that says what its start does; where it goes on at once (RESHARD,
RECV), `queue_of_eq_modQueue` gives the phase and the flight it does so with. -/
theorem collectiveEntries : Obligations.CollectiveEntries := by
  refine ⟨fun op hop => ?sumUsed, fun op hop => ?sumNew, ?reshard, fun v w => ?reshardClear, fun v w => ?reshardOpen,
    fun counts ss => ?exchange, fun op own hop => ?gather, fun m b => ?send, fun m => ?recv, fun m b v w => ?recvThere,
    fun v => ?recvWaits, fun u => ?drop, fun q e start d late hd => ?late, fun q start left => ?lost⟩
  case sumUsed =>
    rcases hop with rfl | rfl
    · exact runs_of_runEntry (fun t q s => (rfl : _ = execAllReduce t q s)) (fun _ _ _ hused => sumEntry_of_used hused)
    · exact runs_of_runEntry (fun t q s => (rfl : _ = execReduceScatter t q s)) (fun _ _ _ hused => sumEntry_of_used hused)
  case sumNew =>
    rcases hop with rfl | rfl
    · exact runs_of_runEntry (fun t q s => (rfl : _ = execAllReduce t q s)) (fun _ _ _ hnew => sumEntry_of_new hnew)
    · exact runs_of_runEntry (fun t q s => (rfl : _ = execReduceScatter t q s)) (fun _ _ _ hnew => sumEntry_of_new hnew)
  case reshard => exact runs_of_runEntry (fun t q s => (rfl : _ = execReshard t q s)) (fun _ _ _ _ => rfl)
  case reshardClear =>
    refine runs_of_runEntry (fun t q s => (rfl : _ = execReshard t q s)) (fun q e s ⟨hv, hw, hclear⟩ => ?_)
    have hqueue := queue_of_eq_modQueue hv
    rw [State.startReshard]
    simp only [← hv]
    rw [tryReshard_of_clear (n := sl e.imm0 7 0) (by rw [hqueue]) (by rw [hqueue]) (hw ▸ hclear), ← hw]
  case reshardOpen =>
    refine runs_of_runEntry (fun t q s => (rfl : _ = execReshard t q s)) (fun q e s ⟨hv, hw, hopen⟩ => ?_)
    have hqueue := queue_of_eq_modQueue hv
    rw [State.startReshard]
    simp only [← hv]
    rw [tryReshard_of_open (n := sl e.imm0 7 0) (by rw [hqueue]) (by rw [hqueue]) (hw ▸ hopen), ← hw]
  case exchange =>
    exact runs_of_runEntry (fun t q s => (rfl : _ = execAllToAll t q s)) (fun _ _ _ ⟨hpeers, hstreams⟩ =>
      startExchange_of_reachable hpeers hstreams)
  case gather =>
    rcases hop with rfl | rfl
    · refine runs_of_runEntry (fun t q s => (rfl : _ = execAllGather t q s)) (fun q e s ⟨hop, hown, hpeers⟩ => ?_)
      rw [startGather_of_reachable hown hpeers, hop]
    · refine runs_of_runEntry (fun t q s => (rfl : _ = execGatherShard t q s)) (fun q e s ⟨hop, hown, hpeers⟩ => ?_)
      rw [startGather_of_reachable hown hpeers, hop]
  case send =>
    refine runs_of_runEntry (fun t q s => (rfl : _ = execSend t q s)) (fun q e s ⟨hrank, hread⟩ => ?_)
    simp only [hrank, hread]
  case recv =>
    refine runs_of_runEntry (fun t q s => (rfl : _ = execRecv t q s)) (fun q e s hrank => ?_)
    simp only [hrank]
  case recvThere =>
    refine runs_of_runEntry (fun t q s => (rfl : _ = execRecv t q s)) (fun q e s ⟨hrank, hv, hentry, hmsg, hwrite⟩ => ?_)
    have hqueue := queue_of_eq_modQueue hv
    simp only [hrank, ← hv]
    exact tryRecv_of_message (start := s.clk.now) (by rw [hqueue]) (by rw [hqueue]) hentry hmsg hwrite
  case recvWaits =>
    refine runs_of_runEntry (fun t q s => (rfl : _ = execRecv t q s)) (fun q e s ⟨⟨m, hrank⟩, hv, hentry, hmsg⟩ => ?_)
    have hqueue := queue_of_eq_modQueue hv
    simp only [hrank, ← hv]
    exact tryRecv_of_no_message (start := s.clk.now) (by rw [hqueue]) (by rw [hqueue]) hentry hmsg
  case drop =>
    refine runs_of_runEntry (fun t q s => (rfl : _ = execDropShard t q s)) (fun q e s hdrop => ?_)
    simp only [hdrop]
  case late =>
    intro t s ⟨hphase, hflight, hentry, hserves, hpassed⟩
    change execAllToAllPatience t q s = _
    simp only [execAllToAllPatience, hphase, hflight, hentry, hserves, hd, hpassed, ne_eq, not_false_eq_true, and_self, if_true]
  case lost =>
    intro t s ⟨hphase, hflight, hserves, hlimit, hpassed⟩
    change execPeerWaitTimeout t q s = _
    rcases hflight with hflight | hflight <;>
      simp only [execPeerWaitTimeout, hphase, hflight, hserves, hlimit, hpassed, ne_eq, not_false_eq_true, decide_true,
        Bool.and_self, if_true]

end Sys2Proof.Machine
end

section
/-! PROOFS. Packets that end here (R80, R211, R216, R217, R339, R357, R362), from which O17. -/

namespace Sys2Proof.Machine

open Claims

/-- A packet that is accepted for a slot's job: what acceptance leaves, and the slot. -/
theorem jobPacket_of_slot {s : State} {port c : Nat} {pkt : Packet} (h : (s.jobPacket port pkt).2 = some c) :
    ∃ v, s.jobPacket port pkt = (v, some c) := ⟨_, Prod.ext rfl h⟩

/-- Settles O17: DOMAIN and CHARTER by the branch that an admitted packet's form and its session select, the packets of a job by
`jobPacket_of_slot`. -/
theorem packetCommands : Obligations.PacketCommands := by
  refine ⟨fun port pkt hlen hkind => ?domain, fun port pkt htype hlen hkind => ?charter, fun port pkt => ?charterInJoin,
    fun port c pkt htype => ?data, fun port c pkt htype => ?gatherReq, fun slot => ?gatherServe, fun port c pkt htype => ?abort⟩
  case domain =>
    intro t s ⟨hadmit, hjoin, hdomain, hlife⟩
    change execDomain t port pkt s = _
    simp only [execDomain, hadmit, hlen, hkind, hjoin, hdomain, hlife, Option.isNone_none, and_self, if_true]
  case charter =>
    intro t s ⟨hadmit, hjoin⟩
    change execCharter t port pkt s = _
    simp only [execCharter, hadmit, hjoin, htype, hlen, hkind, Bool.not_true, Bool.false_eq_true, ne_eq, not_true_eq_false, or_self,
      if_false]
    generalize State.jobDigest _ _ = holder
    rcases holder with _ | ⟨c, own⟩
    · rfl
    · rfl
  case charterInJoin =>
    intro t s ⟨hadmit, hjoin⟩
    change execCharter t port pkt s = _
    simp only [execCharter, hadmit, hjoin, Bool.not_true, Bool.false_eq_true, true_or, if_false, if_true]
  case data =>
    intro t s ⟨hjob, hstate, halive⟩
    change execData t port pkt s = _
    obtain ⟨v, hv⟩ := jobPacket_of_slot hjob
    rw [hv] at hstate halive
    have hserved : ¬ (((v.ctx c).state ≠ 1 ∧ (v.ctx c).state ≠ 4) ∨ (v.ctx c).dead.contains (pkt.src, pkt.tag) = true) := by
      rw [List.contains_iff_mem]
      rintro (⟨h1, h4⟩ | hdead)
      · exact hstate.elim h1 h4
      · exact halive hdead
    simp only [execData, hv, htype, hserved, ne_eq, not_true_eq_false, if_false]
  case gatherReq =>
    intro t s ⟨hjob, hstate⟩
    change execGatherReq t port pkt s = _
    obtain ⟨v, hv⟩ := jobPacket_of_slot hjob
    rw [hv] at hstate
    have hkept : ((v.itemDone c pkt).ctx c).state = 1 ∨ ((v.itemDone c pkt).ctx c).state = 4 := hstate
    simp only [execGatherReq, hv, htype, hkept, ne_eq, not_true_eq_false, if_false, if_true]
  case gatherServe =>
    intro t s hlive
    change execGatherReqServe t slot s = _
    simp only [execGatherReqServe, hlive, if_true]
  case abort =>
    intro t s hjob
    change execAbort t port pkt s = _
    obtain ⟨v, hv⟩ := jobPacket_of_slot hjob
    simp only [execAbort, hv, htype, ne_eq, not_true_eq_false, if_false]

end Sys2Proof.Machine
end

section
/-! PROOFS. Rounding to a grid (R101): what `rneGrid` answers on a finer and on a coarser grid, from which O58. -/

namespace Sys2Proof.Machine

/-- On a grid at least as fine as the value's own the value stands exactly. -/
theorem rneGrid_finer (m k : Nat) (e : Int) : rneGrid m e (e - k) = m * 2 ^ k := by
  have hfine : e - k ≤ e := by omega
  have hshift : (e - (e - k)).toNat = k := by omega
  rw [rneGrid, if_pos hfine, hshift, Nat.shiftLeft_eq]

/-- On a grid `k` binades coarser the quotient by the step goes up beyond the half step, and at the half step when it is odd. -/
theorem rneGrid_coarser (m k : Nat) (e : Int) : rneGrid m e (e + k) =
    if 2 * (m % 2 ^ k) > 2 ^ k ∨ (2 * (m % 2 ^ k) = 2 ^ k ∧ m / 2 ^ k % 2 = 1) then m / 2 ^ k + 1 else m / 2 ^ k := by
  rcases Nat.eq_zero_or_pos k with rfl | hk
  · have hexact : rneGrid m e e = m := by simpa using rneGrid_finer m 0 e
    simp [Nat.mod_one, hexact]
  · have hcoarse : ¬ e + k ≤ e := by omega
    have hshift : (e + k - e).toNat = k := by omega
    simp only [rneGrid, hcoarse, hshift, Nat.shiftRight_eq_div_pow, if_false]

/-- A rounded value lies within half a step of the value: it is the quotient where the remainder is at most half a step, and one
more where it is at least that. -/
theorem rneGrid_within_half_step (m k : Nat) (e : Int) :
    2 * (rneGrid m e (e + k) * 2 ^ k - m) ≤ 2 ^ k ∧ 2 * (m - rneGrid m e (e + k) * 2 ^ k) ≤ 2 ^ k := by
  have hm : m / 2 ^ k * 2 ^ k + m % 2 ^ k = m := Nat.div_add_mod' m (2 ^ k)
  have hr : m % 2 ^ k < 2 ^ k := Nat.mod_lt m (Nat.two_pow_pos k)
  rw [rneGrid_coarser]
  split
  case isTrue hup => rw [Nat.add_one_mul (m / 2 ^ k)]; omega
  case isFalse hdown => omega

/-- A value half-way between two grid points goes to the even one. -/
theorem rneGrid_tie_even (m k : Nat) (e : Int) (htie : 2 * (m % 2 ^ k) = 2 ^ k) : rneGrid m e (e + k) % 2 = 0 := by
  rw [rneGrid_coarser]
  split <;> omega

/-- Settles O58 by `rneGrid_within_half_step`, `rneGrid_tie_even` and `rneGrid_finer`. -/
theorem nearestEven : Obligations.NearestEven :=
  ⟨rneGrid_within_half_step, rneGrid_tie_even, rneGrid_finer⟩

end Sys2Proof.Machine
end

section
/-! PROOFS. The clocks of a reduction (R121, R226, R228, R230, R231): what starting, settling and contributing to a bucket do, from
which O20. -/

namespace Sys2Proof.Machine

open Claims

/-- A bucket that waits to start and may is started. -/
theorem startBucket_of_mayStart {s : State} {c tag : Nat} {b : Bucket}
    (hwaits : s.buckets.find? (fun b => b.waitsStart c tag) = some b) (hmay : s.mayStart b = true) : s.startBucket c tag =
      { s with buckets := modFirst (fun x => x.waitsStart c tag) (fun x => { x with started := true }) s.buckets } := by
  simp only [State.startBucket, hwaits, hmay, if_true]

/-- Where no bucket of a tag waits to start, none is started. -/
theorem startBucket_of_none_waits {s : State} {c tag : Nat} (hwaits : s.buckets.find? (fun b => b.waitsStart c tag) = none) :
    s.startBucket c tag = s := by
  simp only [State.startBucket, hwaits]

/-- BUCKET_START starts what may start; a bucket of its tag that is under way and not yet ready is settled (R231). -/
theorem bucketStart_of_serves {t slot tag : Nat} {s : State} (hserves : (s.tick t).serves slot = true) :
    exec (.bucketStart t slot tag) s = .next (
      let u := (s.tick t).startBucket slot tag
      match u.bucket slot tag with
      | some x => if x.readySent then u else (u.settle x).wakeSums slot
      | none => u) := by
  change execBucketStart t slot tag s = _
  simp only [execBucketStart, hserves, if_true]
  cases ((s.tick t).startBucket slot tag).bucket slot tag <;> rfl

/-- A bucket that still waits for this member's contribution is not ready: settling it only puts it in its place. -/
theorem settle_of_own_waiting {s : State} {b : Bucket} (hready : b.readySent = false) (hown : b.own = .waiting) :
    s.settle b = s.setBucket b := by
  have hunsettled : b.own.settled = false := hown ▸ rfl
  simp only [State.settle, hready, hunsettled, Bool.false_and, Bool.false_eq_true, if_false]

/-- A change of a context that keeps its record leaves what the record says. -/
theorem ctxRec_modCtx_of_record {s : State} {c : Nat} {f : Ctx → Ctx} (hf : (f (s.ctx c)).record = (s.ctx c).record) :
    (s.modCtx c f).ctxRec c = s.ctxRec c := by
  simp only [State.ctxRec, ctx_modCtx_same, hf]

@[simp] theorem modCtx_deadline (s : State) (c : Nat) (f : Ctx → Ctx) (b : Bucket) (n : Nat) :
    (s.modCtx c f).deadline b n = s.deadline b n := rfl

/-- CONTRIBUTION_READY of an entry that runs, with a bucket it claims, hands in the elements it reads. -/
theorem contributionReady_of_read {t slot tag : Nat} {s : State} {b : Bucket} {e : Entry} {d0 : Desc} {d : Bytes}
    (hd0 : b.d0 = some d0) (howes : (s.tick t).buckets.find? (fun b => b.owes slot tag) = some b)
    (hphase : ((s.tick t).queue ⟨slot, b.queue⟩).phase = .running) (hentry : ((s.tick t).queue ⟨slot, b.queue⟩).entry = some e)
    (hserves : (s.tick t).serves slot = true) (hclaimed : (s.tick t).claimed b = true)
    (hheld : (s.tick t).entryHeld ⟨slot, b.queue⟩ e = false)
    (hread : (s.tick t).readAddrs slot (d0.bytesAt ((d0.own.drop b.elem0).take b.elems)) = .ok d) :
    exec (.contributionReady t slot tag) s = .next (((s.tick t).contribute b d).wakeSums slot) := by
  change execContributionReady t slot tag s = _
  simp only [execContributionReady, howes, hphase, hentry, hd0, hserves, hclaimed, hheld, hread, Bool.not_true, Bool.false_eq_true,
    or_self, if_false]

/-- A contribution in time to a bucket that waits for it becomes this member's input, with what was carried in, and starts the
bucket's clock; the bucket is settled (R121, R226, R228). -/
theorem contribute_of_own_waiting {s : State} {b : Bucket} {d : Bytes} (hdone : b.doneAt = none) (hown : b.own = .waiting)
    (htime : ∀ a, s.deadline b 0 = some a → s.clk.now ≤ a) : s.contribute b d =
      let r := s.contribution b d
      let self := (s.ctxRec b.slot).position
      let nf := streamBad b.fmt b.elems r.2
      let x := { b with
        contrib := some r.2, carriedIn := r.1.isSome
        own := .ready { nf, members := [self], offenders := if nf then [self] else []
                        carried := if r.1.isSome then [self] else [] }
        anchor := match b.anchor with | some a => some a | none => some s.clk.now }
      let u := s.modCtx b.slot (fun y => { y with carries := match r.1 with | some k => y.carries.erase k | none => y.carries })
      State.settle { u with buckets := modFirst (fun y => y.owes b.slot b.tag) (fun _ => x) u.buckets } x := by
  have hintime (a : Nat) (ha : s.deadline b 0 = some a) : ¬ s.clk.now > a := Nat.not_lt.mpr (htime a ha)
  cases hdeadline : s.deadline b 0 with
  | none =>
    simp only [State.contribute, hdone, hown, hdeadline, Option.isSome_none, Bool.false_eq_true, if_false, modCtx_deadline,
      modCtx_clk, ne_eq, not_true_eq_false, ctxRec_modCtx_of_record] <;> rfl
  | some a =>
    simp only [State.contribute, hdone, hown, hdeadline, hintime a hdeadline, Option.isSome_none, Bool.false_eq_true, if_false,
      decide_false, modCtx_deadline, modCtx_clk, ne_eq, not_true_eq_false, ctxRec_modCtx_of_record] <;> rfl

/-- Settles O20: BUCKET_START by `bucketStart_of_serves` and what starting and settling do there, CONTRIBUTION_READY by
`contributionReady_of_read` and `contribute_of_own_waiting`, RED_DEADLINE and RED_PULL_ISSUE by their conditions. -/
theorem reductionTimers : Obligations.ReductionTimers := by
  refine ⟨fun slot tag b => ?starts, fun slot tag b x => ?startsWaiting, fun slot tag b => ?settles,
    fun slot tag b e d0 d hd0 => ?hands, fun slot tag b e d0 d hd0 hdone hown => ?handsInTime,
    fun slot tag b => ?deadline, fun slot tag level b i => ?pull⟩
  case starts =>
    intro t s ⟨hserves, hwaits, hmay⟩
    have hstart := bucketStart_of_serves (tag := tag) hserves
    rw [startBucket_of_mayStart hwaits hmay] at hstart
    exact hstart
  case startsWaiting =>
    intro t s ⟨hserves, hwaits, hmay, hbucket, _, hready, hown⟩
    rw [bucketStart_of_serves hserves, startBucket_of_mayStart hwaits hmay]
    simp only [hbucket, hready, settle_of_own_waiting hready hown, Bool.false_eq_true, if_false]
  case settles =>
    intro t s ⟨hserves, hwaits, hbucket, hready⟩
    rw [bucketStart_of_serves hserves, startBucket_of_none_waits hwaits]
    simp only [hbucket, hready, Bool.false_eq_true, if_false]
  case hands =>
    intro t s ⟨howes, hphase, hentry, hserves, hclaimed, hheld, hread⟩
    exact contributionReady_of_read hd0 howes hphase hentry hserves hclaimed hheld hread
  case handsInTime =>
    intro t s ⟨howes, hphase, hentry, hserves, hclaimed, hheld, hread, htime⟩
    have howed : b.owes slot tag = true := List.find?_some (p := fun b : Bucket => b.owes slot tag) howes
    simp only [Bucket.owes, Bool.and_eq_true, decide_eq_true_eq] at howed
    obtain ⟨⟨⟨⟨⟨rfl, rfl⟩, _⟩, _⟩, _⟩, _⟩ := howed
    exact (contributionReady_of_read hd0 howes hphase hentry hserves hclaimed hheld hread).trans
      (congrArg (fun u : State => Host.Outcome.next (u.wakeSums b.slot)) (contribute_of_own_waiting hdone hown htime))
  case deadline =>
    intro t s ⟨hbucket, hlive, hready⟩
    change execRedDeadline t slot tag s = _
    simp only [execRedDeadline, hbucket]
    exact congrArg Host.Outcome.next (if_pos ⟨hlive, by rw [hready, Bool.not_false]⟩)
  case pull =>
    intro t s ⟨hlive, hbucket, hfind, hroom⟩
    change execRedPullIssue t slot tag level s = _
    have hgo : ((s.tick t).live
        && (decide ((s.tick t).redUsed + streamLen b.fmt b.elems ≤ 134217728) || b.leftReady level)) = true := by
      rw [hlive, Bool.true_and, Bool.or_eq_true, decide_eq_true_eq]
      exact hroom
    simp only [execRedPullIssue, hbucket, hfind]
    exact if_pos hgo

end Sys2Proof.Machine
end

section
/-! PROOFS. The service entries and the answers to host reads (R117, R118, R122, R323 to R325, R337, R343, R436), from which O26. -/

namespace Sys2Proof.Machine

open Claims

/-- Sending the reads that waited for a tag changes no queue. -/
@[simp] theorem pumpReads_queue (s : State) (q : QRef) : s.pumpReads.queue q = s.queue q := by
  refine foldl_queue (g := id) (fun u r => ?_) _ s
  dsimp only
  split
  · rfl
  · rfl

@[simp] theorem freeRead_queue (s : State) (tag : Nat) (q : QRef) : (s.freeRead tag).queue q = s.queue q :=
  pumpReads_queue _ q

/-- A change of the host interface's state changes no queue. -/
theorem queue_with_pcie (s : State) (p : Pcie) (q : QRef) : ({ s with pcie := p } : State).queue q = s.queue q := rfl

/-- Settles O26: each entry by `runs_of_runEntry` and the branch of its effect that its condition selects; what a host read brings
by the read it answers, its timeout by what `freeRead` leaves of the queues. -/
theorem serviceEntries : Obligations.ServiceEntries := by
  refine ⟨fun v w d => ?copy, fun v x w d us => ?copyUnits, fun v w rest => ?ingest, fun w bs => ?checkpoint,
    fun key v r => ?restore, fun ch r ws n w => ?release, fun ch r => ?releaseClosed, ?releaseNone, fun v => ?log, fun n => ?scale,
    fun tag data r => ?arrives, fun tag data r f => ?added, fun tag data r => ?stray, fun tag r e => ?timeout⟩
  case copy =>
    refine runs_of_runEntry (fun t q s => (rfl : _ = execCopy t q s)) (fun q e s ⟨hfault, hread, hplain, hwrite⟩ => ?_)
    simp only [State.copy, ite_eq_right_iff.mpr hfault, hread, hplain, hwrite, Bool.false_eq_true, if_false]
  case copyUnits =>
    refine runs_of_runEntry (fun t q s => (rfl : _ = execCopy t q s)) (fun q e s ⟨hfault, hread, hbounce, hunits, hwrite⟩ => ?_)
    simp only [State.copy, ite_eq_right_iff.mpr hfault, hread, hbounce, hunits, hwrite, if_true]
  case ingest =>
    refine runs_of_runEntry (fun t q s => (rfl : _ = execIngest t q s)) (fun q e s ⟨hopen, hwrite⟩ => ?_)
    simp only [hopen, hwrite]
  case checkpoint =>
    refine runs_of_runEntry (fun t q s => (rfl : _ = execCheckpoint t q s)) (fun q e s ⟨hstreams, hwrite⟩ => ?_)
    simp only [hstreams, hwrite]
  case restore =>
    refine runs_of_runEntry (fun t q s => (rfl : _ = execRestore t q s)) (fun q e s ⟨hkey, hall, hclose⟩ => ?_)
    simp only [hkey, hall, hclose]
  case release =>
    refine runs_of_runEntry (fun t q s => (rfl : _ = execRelease t q s))
      (fun q e s ⟨hcharter, hrule, htensor, hrange, hlimit, hopen, hunits, hwrite⟩ => ?_)
    have hallowed : ¬ (((s.queue q).d 0).tensorId ≠ r.tensorId ∨ s.rangesOf q.slot ((s.queue q).d 0) ≠ [r.range]
        ∨ (r.limit ≠ 0 ∧ tget 0 (s.ctx q.slot).releases e.imm0 ≥ r.limit)) := by
      rintro (h | h | ⟨h0, hused⟩)
      · exact h htensor
      · exact h hrange
      · exact hlimit.elim h0 (Nat.not_lt.mpr hused)
    simp only [hcharter, hrule, hallowed, hopen, hunits, hwrite, Bool.not_true, Bool.false_eq_true, if_false]
  case releaseClosed =>
    refine runs_of_runEntry (fun t q s => (rfl : _ = execRelease t q s)) (fun q e s ⟨hcharter, hrule, hclosed⟩ => ?_)
    simp only [hcharter, hrule, hclosed, Bool.not_false, if_true, ite_self]
  case releaseNone =>
    refine runs_of_runEntry (fun t q s => (rfl : _ = execRelease t q s)) (fun q e s hcharter => ?_)
    simp only [hcharter]
  case log =>
    refine runs_of_runEntry (fun t q s => (rfl : _ = execLog t q s)) (fun q e s hread => ?_)
    simp only [hread]
  case scale =>
    refine runs_of_runEntry (fun t q s => (rfl : _ = execScaleUpdate t q s)) (fun q e s ⟨hold, hdone⟩ => ?_)
    simp only [hold, hdone, if_true]
  case arrives =>
    intro t s ⟨hfind, hplain, hwaits⟩
    change execHostCompletion t tag data s = _
    simp only [execHostCompletion, hfind, hplain, hwaits, if_true]
    rfl
  case added =>
    intro t s ⟨hfind, hatomic⟩
    change execHostCompletion t tag data s = _
    simp only [execHostCompletion, hfind, hatomic]
  case stray =>
    intro t s ⟨hfind, hplain, hwaits⟩
    change execHostCompletion t tag data s = _
    simp only [execHostCompletion, hfind, hplain, hwaits, Bool.false_eq_true, if_false]
  case timeout =>
    intro t s ⟨hfind, hplain, hwaits, hphase, hcur, hentry⟩
    change execHostCplTimeout t tag s = _
    have hcurrent : ((s.tick t).queue ⟨r.slot, r.queue⟩).cur.isNone = false := by rw [← Option.not_isSome, hcur, Bool.not_true]
    simp only [execHostCplTimeout, hfind, hplain, hwaits, queue_with_pcie, freeRead_queue, hphase, hentry, hcurrent, hostSource,
      Option.isNone_none, Bool.and_self, decide_true, if_true, Bool.false_eq_true, if_false]

end Sys2Proof.Machine
end

section
/-! PROOFS. Register accesses (R403, R404, R406, R408, R409, R431, R433) and observation (R345, R346): when a write is applied and
what it comes to, from which O37. -/

namespace Sys2Proof.Machine

open Claims

/-- The write of an aligned register of a page that is open to the function is applied (R403). -/
theorem regWrite_of_opens {s : State} {fn page off : Nat} (v : Nat) (haligned : off % 4 = 0) (hin : off < 4096)
    (hmay : (s.access fn page).mayWrite fn page off = true) (hopens : (s.access fn page).opens fn page = true) :
    s.regWrite fn page off v = (s.access fn page).applyWrite fn page off (v % 2 ^ 32) := by
  simp only [State.regWrite, haligned, hmay, hopens, ge_iff_le, Nat.not_le.mpr hin, ne_eq, not_true_eq_false, decide_false,
    Bool.not_true, Bool.or_self, Bool.true_or, Bool.false_eq_true, if_false, if_true]

/-- A write to `IRQ_STAT` of a page that the function reaches is applied, in reset too (R405). -/
theorem regWrite_stat_of_reaches {s : State} {fn page : Nat} (v : Nat) (hmay : (s.access fn page).mayWrite fn page 0x10 = true)
    (hreaches : (s.access fn page).reaches fn page = true) (hlive : s.live = true) :
    s.regWrite fn page 0x10 v = (s.access fn page).clearStat page (v % 2 ^ 32) := by
  have haccessed : (s.access fn page).live = true := hlive
  refine (if_neg ?_).trans (if_pos ?_)
  · rw [hmay]
    decide
  · rw [hreaches, haccessed, Bool.and_true, Bool.and_true]
    exact Bool.or_true _

/-- The functions that reach the REDUCE page may write it. -/
theorem mayWrite_reduce (s : State) (fn off : Nat) : s.mayWrite fn pgReduce off = true := rfl

/-- The pages 0xC0 to 0xFF are CTX pages. -/
theorem pageOf_of_ctx_range {i : Nat} (hlow : 0xC0 ≤ i) (hhigh : i ≤ 0xFF) : pageOf i = .ctx (i - 0xC0) := by
  simp only [pageOf]
  repeat rw [if_neg (by omega)]
  rw [if_pos ⟨hlow, hhigh⟩]

/-- The page of a slot is its CTX page. -/
theorem pageOf_pgCtx {c : Nat} (hc : c < 64) : pageOf (pgCtx c) = .ctx c := by
  rw [pgCtx, pageOf_of_ctx_range (by omega) (by omega), Nat.add_sub_cancel_left]

/-- A register of an open CTX page other than CTX_CTRL may be written where its controls may, locked or not. -/
theorem opens_and_mayWrite_of_ctxOpens {s : State} {fn c off : Nat} (hoff : off ≠ 0x40) (h : s.ctxOpens fn c false = true) :
    s.opens fn (pgCtx c) = true ∧ s.mayWrite fn (pgCtx c) off = true := by
  simp only [State.ctxOpens, Bool.and_eq_true, decide_eq_true_eq] at h
  obtain ⟨⟨hc, hopens⟩, hmay⟩ := h
  refine ⟨hopens, ?_⟩
  simp only [State.mayWrite, pageOf_pgCtx hc, decide_eq_false hoff, hmay]

/-- A page that is open to PF0 or to the debug layer takes their command. -/
theorem accepts_of_opened {s : State} {fn page : Nat} (h : Opened s fn page) :
    (pf0 fn && (s.access fn page).opens fn page) = true := Bool.and_eq_true_iff.mpr h

/-- The low bits of a value hold each bit below them. -/
theorem bit_mod_of_lt {v i n : Nat} (hi : i < n) : bit (v % 2 ^ n) i = bit v i := by
  simp only [bit, Nat.testBit_mod_two_pow, hi, decide_true, Bool.true_and]

/-- Settles O37: register writes by `regWrite_of_opens` and `regWrite_stat_of_reaches` and what the write of that register does;
every other command by its condition. -/
theorem registerCommands : Obligations.RegisterCommands := by
  refine ⟨fun fn page off value haligned hin => ?write, fun fn page off value haligned hin => ?commit, fun fn value => ?guard,
    fun fn slot value hslot => ?recAddr, fun fn page value => ⟨?statClear, ?irqSet, ?errClear⟩,
    fun page off haligned hin hpage => ?read, fun fn => ?histClear, fun fn value => ?pcWrite,
    fun fn value hclear => ?pcClear, fun fn value => ?ptWrite, fun fn value harm => ?ptArm, ?obsLatch,
    fun watts temp throttle => ?epochEnd⟩
  case write =>
    intro t s ⟨hmay, hopens⟩
    exact congrArg Host.Outcome.next (regWrite_of_opens value haligned hin hmay hopens)
  case commit =>
    intro t s ⟨hmay, hopens⟩
    exact congrArg Host.Outcome.next (regWrite_of_opens value haligned hin hmay hopens)
  case guard =>
    intro t s ⟨_, hopens⟩
    exact congrArg Host.Outcome.next (regWrite_of_opens value (by decide) (by decide) (mayWrite_reduce _ fn _) hopens)
  case recAddr =>
    intro t s hctx
    obtain ⟨hopens, hmay⟩ := opens_and_mayWrite_of_ctxOpens (off := 0x4C) (by decide) hctx
    have hwrite := regWrite_of_opens value (by decide) (by decide) hmay hopens
    simp only [State.applyWrite, pageOf_pgCtx hslot] at hwrite
    exact congrArg Host.Outcome.next hwrite
  case statClear =>
    intro t s ⟨hmay, hreaches, hlive⟩
    exact congrArg Host.Outcome.next (regWrite_stat_of_reaches value hmay hreaches hlive)
  case irqSet =>
    intro t s ⟨hmay, hopens⟩
    exact congrArg Host.Outcome.next (regWrite_of_opens value (by decide) (by decide) hmay hopens)
  case errClear =>
    intro t s ⟨hmay, hopens⟩
    have hwrite := regWrite_of_opens value (by decide) (by decide) hmay hopens
    refine congrArg Host.Outcome.next (hwrite.trans ?_)
    change State.clearErr _ page (value % 2 ^ 32) = _
    rw [State.clearErr, bit_mod_of_lt (by decide)]
  case read =>
    intro t s hup
    change execLoReadLatch t 0 page off s = _
    have hpf : pf0 0 = true := rfl
    refine if_pos ?_
    simp only [hup, haligned, hin, hpage, hpf, Nat.zero_le, decide_true, ne_eq, Bool.true_or, Bool.and_true]
    rfl
  case histClear =>
    intro t s hopened
    exact congrArg Host.Outcome.next (if_pos (accepts_of_opened hopened))
  case pcWrite =>
    intro t s hopened
    exact congrArg Host.Outcome.next (if_pos (accepts_of_opened hopened))
  case pcClear =>
    intro t s hopened
    exact congrArg Host.Outcome.next ((if_pos (accepts_of_opened hopened)).trans (if_pos hclear))
  case ptWrite =>
    intro t s hopened
    exact congrArg Host.Outcome.next (if_pos (accepts_of_opened hopened))
  case ptArm =>
    intro t s ⟨hopened, hidle, hfree⟩
    refine congrArg Host.Outcome.next ((if_pos (accepts_of_opened hopened)).trans ?_)
    simp only [State.writePtArm, harm, hidle, hfree, Bool.not_false, Bool.and_self, Bool.false_and, Bool.false_eq_true, if_true,
      if_false]
  case obsLatch =>
    intro t s hrunning
    change execObsLatch t s = _
    simp only [execObsLatch, hrunning, Bool.not_true, Bool.false_eq_true, if_false]
  case epochEnd =>
    intro t s hrunning
    change execEpochEnd t watts temp throttle s = _
    exact if_neg (by rw [hrunning]; exact Bool.false_ne_true)

end Sys2Proof.Machine
end

section
/-! PROOFS. What accesses to device memory store and hold (R181 to R190, R305 to R318): the operations that leave both the stored
bytes and the held writes, and those that leave one byte as it is. -/

namespace Sys2Proof.Machine

/-- The state but for what accesses to device memory leave their marks in: memory and its controllers, retired locations, the contexts'
counts, flags, records, event counts, draws and messages. -/
def State.beside (s : State) : State :=
  { s with
    ident := { s.ident with retired := [] }, ras := { s.ras with log := [], produced := 0 }, mem := {}, mcs := [], ctxs := [], hdrs := []
    test := {}, free := 0, out := [] }

/-- The same with the stored bytes of device memory, and the migrations with the writes they hold. -/
def State.stored (s : State) : State := { s.beside with mem := { cells := s.mem.cells, migr := s.mem.migr } }

/-- A change of memory that leaves its bytes and its migrations. -/
theorem stored_with_mem {s : State} {m : Mem} (hcells : m.cells = s.mem.cells) (hmigr : m.migr = s.mem.migr) :
    ({ s with mem := m } : State).stored = s.stored := by
  simp only [State.stored, hcells, hmigr]
  rfl

/-- What leaves all that is beside memory's marks and what is stored leaves what is beside them. -/
theorem beside_of_stored {s u : State} (h : u.stored = s.stored) : u.beside = s.beside :=
  congrArg (fun v : State => { v with mem := {} }) h

/-- An operation that leaves what `g` reads of a state, done for each element of a list, leaves it. -/
theorem foldl_kept {σ α β : Type} (g : σ → β) {f : σ → α → σ} (hf : ∀ s a, g (f s a) = g s) (l : List α) (s : σ) :
    g (l.foldl f s) = g s := by
  induction l generalizing s with
  | nil => rfl
  | cons a l ih => exact (ih (f s a)).trans (hf s a)

theorem foldl_stored {α : Type} {f : State → α → State} (hf : ∀ s a, (f s a).stored = s.stored) (l : List α) (s : State) :
    (l.foldl f s).stored = s.stored := foldl_kept State.stored hf l s

/-! ### Flags, records and counts -/

@[simp] theorem setMc_stored (s : State) (c : Nat) (m : Mc) : (s.setMc c m).stored = s.stored := rfl

@[simp] theorem modCtx_stored (s : State) (c : Nat) (f : Ctx → Ctx) : (s.modCtx c f).stored = s.stored := rfl

@[simp] theorem draw_stored (s : State) : s.draw.2.stored = s.stored := rfl

@[simp] theorem emit_stored (s : State) (o : Out) : (s.emit o).stored = s.stored := rfl

@[simp] theorem raise_stored (s : State) (i bits : Nat) : (s.raise i bits).stored = s.stored := by
  unfold State.raise
  split
  · simp only [State.sendRise]
    split
    · refine foldl_stored (fun u v => ?_) _ _
      split
      · unfold State.slotVector
        split <;> rfl
      · rfl
    · split <;> rfl
  · rfl

@[simp] theorem push_stored (s : State) (kind value : Nat) : (s.push kind value).stored = s.stored := by
  refine foldl_stored (fun u c => ?_) _ s
  split <;> rfl

@[simp] theorem latchErr_stored (s : State) (i cls code : Nat) (ctx : Option (Nat × Nat)) (info : Nat) :
    (s.latchErr i cls code ctx info).stored = s.stored := by
  unfold State.latchErr
  split <;> rfl

@[simp] theorem logRas_stored (s : State) (page cls code : Nat) (ctx : Option Nat) (info : Nat) :
    (s.logRas page cls code ctx info).stored = s.stored := by
  unfold State.logRas
  split
  · rfl
  · simp only [push_stored, raise_stored, latchErr_stored]
    rfl

@[simp] theorem perf_stored (s : State) (ev slot op tag n : Nat) : (s.perf ev slot op tag n).stored = s.stored := by
  unfold State.perf
  split
  · rfl
  · refine foldl_stored (fun u i => ?_) _ s
    dsimp only
    split
    · split
      · exact raise_stored _ _ _
      · rfl
    · rfl

/-! ### Lines, counters and their caches -/

@[simp] theorem setLine_stored (s : State) (ln : Nat) (l : Line) : (s.setLine ln l).stored = s.stored := rfl

@[simp] theorem setBlock_stored (s : State) (b : Nat) (x : Block) : (s.setBlock b x).stored = s.stored := rfl

@[simp] theorem bumpFver_stored (s : State) (f n : Nat) : (s.bumpFver f n).stored = s.stored := rfl

/-- A structure that leaves its cache changes no stored byte and no migration. -/
theorem evict_cells_migr (m : Mem) (e : Cstr × Bool) : (m.evict e).cells = m.cells ∧ (m.evict e).migr = m.migr := by
  unfold Mem.evict
  dsimp only
  split
  · exact ⟨rfl, rfl⟩
  · split
    · split <;> exact ⟨rfl, rfl⟩
    · split <;> exact ⟨rfl, rfl⟩
    · exact ⟨rfl, rfl⟩

@[simp] theorem bring_stored (s : State) (c : Cstr) (dirty : Bool) : (s.bring c dirty).stored = s.stored := by
  unfold State.bring
  split
  · split <;> rfl
  · extract_lets mine v v2 u src
    have hroom : u.stored = s.stored := by
      unfold u
      split
      · rfl
      · split
        · obtain ⟨hcells, hmigr⟩ := evict_cells_migr s.draw.2.mem _
          exact stored_with_mem hcells hmigr
        · rfl
    exact (stored_with_mem rfl rfl).trans hroom

@[simp] theorem fill_stored (s : State) (replay write : Bool) (ln : Nat) : (s.fill replay write ln).stored = s.stored := by
  have hpath : ∀ (l : List Cstr) (u : State), (l.foldl (fun s c => s.bring c false) u).stored = u.stored :=
    foldl_stored (fun u c => bring_stored u c false)
  unfold State.fill
  dsimp only
  split
  · exact bring_stored _ _ _
  · split <;> simp only [bring_stored, hpath]

@[simp] theorem fillAt_stored (s : State) (replay write : Bool) (fa n : Nat) : (s.fillAt replay write fa n).stored = s.stored := by
  refine foldl_stored (fun u p => ?_) _ s
  exact fill_stored u replay write (p.1 / 128)

@[simp] theorem annealKey_stored (s : State) (key : Nat) : (s.annealKey key).stored = s.stored := by
  refine foldl_stored (fun u c => foldl_stored (fun v r => ?_) _ u) _ s
  unfold State.queueAnneal
  dsimp only
  split <;> rfl

@[simp] theorem poisonFailing_stored (s : State) (b key : Nat) : (s.poisonFailing b key).stored = s.stored := by
  refine foldl_stored (fun u ln => ?_) _ s
  split
  · split <;> rfl
  · rfl

@[simp] theorem reencrypt_stored (s : State) (b key : Nat) : (s.reencrypt b key).stored = s.stored := by
  have hpoisoned := poisonFailing_stored s b key
  unfold State.reencrypt
  generalize s.poisonFailing b key = u at hpoisoned ⊢
  dsimp only
  split
  · rw [annealKey_stored, logRas_stored, raise_stored]
    exact hpoisoned
  · exact hpoisoned

@[simp] theorem initBlock_stored (s : State) (b key : Nat) : (s.initBlock b key).stored = s.stored := by
  unfold State.initBlock
  dsimp only
  rw [setBlock_stored]
  split
  · exact reencrypt_stored s b key
  · rfl

@[simp] theorem countWrite_stored (s : State) (ln key : Nat) : (s.countWrite ln key).stored = s.stored := by
  unfold State.countWrite
  dsimp only
  rw [bumpFver_stored, setBlock_stored]
  split
  · exact reencrypt_stored s _ key
  · rfl

@[simp] theorem poison_stored (s : State) (ln : Nat) : (s.poison ln).stored = s.stored := by
  unfold State.poison
  split <;> rfl

/-! ### Frames -/

@[simp] theorem place_stored (s : State) (f : Nat) (b : Backing) : (s.place f b).stored = s.stored := by
  unfold State.place
  extract_lets v src u c m w
  have hleft : v.stored = s.stored := by
    unfold v
    split
    · exact setMc_stored s _ _
    · rfl
  have hplaced : u.stored = s.stored := (stored_with_mem rfl rfl).trans hleft
  split
  · exact hplaced
  · exact (setMc_stored _ _ _).trans ((draw_stored u).trans hplaced)

@[simp] theorem noteHold_stored (s : State) (m : Migration) : (s.noteHold m).stored = s.stored := by
  unfold State.noteHold
  split
  · rfl
  · exact perf_stored _ _ _ _ _ _

@[simp] theorem dropLines_stored (s : State) (f : Nat) : (s.dropLines f).stored = s.stored := by
  have hevicted (l : List (Cstr × Bool)) : (l.foldl Mem.evict s.mem).cells = s.mem.cells ∧ (l.foldl Mem.evict s.mem).migr = s.mem.migr :=
    List.foldlRecOn l Mem.evict (motive := fun m => m.cells = s.mem.cells ∧ m.migr = s.mem.migr) ⟨rfl, rfl⟩
      (fun m hm e _ => ⟨(evict_cells_migr m e).1.trans hm.1, (evict_cells_migr m e).2.trans hm.2⟩)
  obtain ⟨hcells, hmigr⟩ := hevicted _
  exact stored_with_mem hcells hmigr

@[simp] theorem noteClass_stored (s : State) (f pte : Nat) (desc : Option Nat) : (s.noteClass f pte desc).stored = s.stored := rfl

@[simp] theorem setHostBytes_stored (s : State) (x : Nat) (d : Bytes) : (s.setHostBytes x d).stored = s.stored := by
  induction d generalizing s x with
  | nil => rfl
  | cons b bs ih => exact ih _ (x + 1)

/-! ### A byte that no held write covers -/

/-- A run of `n` bytes at an address leaves byte `a` out. -/
def misses (a fa n : Nat) : Prop := a < fa ∨ fa + n ≤ a

/-- No write that a migration holds covers byte `a`. -/
def Migration.misses (m : Migration) (a : Nat) : Prop := ∀ w ∈ m.held, Machine.misses a w.fa w.data.length

/-- Byte `a` of device memory is `b`, and no held write (R189) covers it. -/
def State.rests (a : Nat) (b : Byte) (s : State) : Prop := s.byteAt a = b ∧ ∀ m ∈ s.mem.migr, m.misses a

variable {a : Nat} {b : Byte}

/-- Whether a byte rests depends on what is stored and held alone. -/
theorem rests_of_stored {s u : State} (h : u.stored = s.stored) (hs : s.rests a b) : u.rests a b := by
  have hcells : u.stored.mem.cells = s.stored.mem.cells := by rw [h]
  have hmigr : u.stored.mem.migr = s.stored.mem.migr := by rw [h]
  change u.mem.cells = s.mem.cells at hcells
  change u.mem.migr = s.mem.migr at hmigr
  simpa only [State.rests, State.byteAt, hcells, hmigr] using hs

/-- A change of memory that leaves its bytes and its migrations leaves a resting byte. -/
theorem rests_with_mem {s : State} {m : Mem} (hcells : m.cells = s.mem.cells) (hmigr : m.migr = s.mem.migr) (hs : s.rests a b) :
    ({ s with mem := m } : State).rests a b :=
  rests_of_stored (stored_with_mem hcells hmigr) hs

theorem setBytes_rests {s : State} {fa : Nat} {d : Bytes} (hmiss : misses a fa d.length) (hs : s.rests a b) :
    (s.setBytes fa d).rests a b := by
  induction d generalizing s fa with
  | nil => exact hs
  | cons c cs ih =>
    simp only [misses, List.length_cons] at hmiss
    refine ih (by unfold misses; omega) ⟨?_, hs.2⟩
    exact (tget_tput_other 0 s.mem.cells fa a c (by omega)).trans hs.1

/-- A write within a line leaves a byte outside it. -/
theorem lineWrite_rests {s : State} {key fa : Nat} {replay : Bool} {d : Bytes} (hmiss : misses a fa d.length) (hs : s.rests a b) :
    (s.lineWrite key replay fa d).1.rests a b := by
  have hput : ∀ u : State, u.stored = s.stored →
      (((if replay then u.countWrite (fa / 128) key else u).setLine (fa / 128) { key, replay }).setBytes fa d).rests a b := by
    intro u hu
    refine setBytes_rests hmiss (rests_of_stored (s := s) ?_ hs)
    rw [setLine_stored, ← hu]
    split
    · exact countWrite_stored u _ key
    · rfl
  unfold State.lineWrite
  dsimp only
  split
  · exact hs
  · split
    · exact hs
    · split
      · split
        · split
          · exact rests_of_stored (setLine_stored s _ _) hs
          · exact hs
        · exact hput s rfl
      · exact hput _ rfl

theorem putHeld_rests {s : State} {w : HeldWrite} (hmiss : misses a w.fa w.data.length) (hs : s.rests a b) :
    (s.putHeld w).1.rests a b := by
  unfold State.putHeld
  split
  · exact rests_of_stored (setLine_stored s _ _) hs
  · exact hs
  · exact lineWrite_rests hmiss hs

theorem heldWrites_rests {s : State} {m : Migration} (hm : m.misses a) (hs : s.rests a b) : (s.heldWrites m).rests a b :=
  List.foldlRecOn m.held _ hs (fun _ hu w hw => putHeld_rests (hm w hw) hu)

/-! ### Migrations and pins -/

/-- A migration that starts holds no write. -/
theorem startMoves_rests {s : State} (hs : s.rests a b) : s.startMoves.rests a b := by
  refine List.foldlRecOn _ _ hs (fun u hu f _ => ?_)
  split
  · exact hu
  · split
    · refine ⟨hu.1, fun m hm => ?_⟩
      rcases List.mem_append.mp hm with hold | hnew
      · exact hu.2 m hold
      · rw [List.mem_singleton.mp hnew]
        exact fun w hw => absurd hw List.not_mem_nil
    · exact hu

theorem retireLocation_rests {s : State} {mcx pg : Nat} {frame : Option Nat} (hs : s.rests a b) :
    (s.retireLocation mcx pg frame).rests a b := by
  unfold State.retireLocation
  split
  · refine rests_of_stored ((raise_stored _ _ _).trans (raise_stored _ _ _)) ?_
    split
    · dsimp only
      split
      · exact startMoves_rests hs
      · exact hs
    · exact hs
  · exact rests_of_stored ((logRas_stored _ _ _ _ _ _).trans (raise_stored _ _ _)) hs

theorem correctedAt_rests {s : State} {mcx pg : Nat} {frame : Option Nat} (hs : s.rests a b) :
    (s.correctedAt mcx pg frame).rests a b := by
  unfold State.correctedAt
  dsimp only
  split
  · split
    · exact retireLocation_rests (rests_of_stored (logRas_stored _ _ _ _ _ _) hs)
    · exact hs
  · split
    · exact retireLocation_rests (rests_of_stored (logRas_stored _ _ _ _ _ _) hs)
    · exact hs

theorem uncorrectableAt_rests {s : State} {ctx : Option (Option Nat)} {ln : Nat} (hs : s.rests a b) :
    (s.uncorrectableAt ctx ln).rests a b := by
  unfold State.uncorrectableAt
  split
  · exact hs
  · refine retireLocation_rests (rests_of_stored (s := s) ?_ hs)
    rw [poison_stored]
    split
    · exact (logRas_stored _ _ _ _ _ _).trans (raise_stored _ _ _)
    · exact raise_stored _ _ _

theorem corrections_rests {s : State} {fa n : Nat} (hs : s.rests a b) : (s.corrections fa n).rests a b := by
  unfold State.corrections
  split
  · exact hs
  · refine List.foldlRecOn _ _ hs (fun u hu p _ => ?_)
    dsimp only
    split
    · split
      · exact correctedAt_rests hu
      · exact hu
    · exact hu

theorem noteLines_rests {s : State} {replay write : Bool} {fa n : Nat} (hs : s.rests a b) :
    (s.noteLines replay write fa n).rests a b :=
  rests_of_stored (fillAt_stored _ _ _ _ _) (corrections_rests hs)

theorem endMigration_rests {s : State} {m : Migration} (hm : m.misses a) (hs : s.rests a b) : (s.endMigration m).rests a b := by
  refine startMoves_rests (heldWrites_rests hm (rests_of_stored (noteHold_stored _ m) ⟨hs.1, fun o ho => hs.2 o ?_⟩))
  exact (List.mem_filter.mp ho).1

theorem cancelMigration_rests {s : State} {m : Migration} (hm : m.misses a) (hs : s.rests a b) : (s.cancelMigration m).rests a b := by
  unfold State.cancelMigration
  exact endMigration_rests hm (rests_with_mem rfl rfl hs)

theorem copyErrors_rests {s : State} {f : Nat} (hs : s.rests a b) : (s.copyErrors f).rests a b := by
  refine List.foldlRecOn _ _ hs (fun u hu ln _ => ?_)
  exact uncorrectableAt_rests hu

theorem switchTo_rests {s : State} {m : Migration} (hm : m.misses a) (hs : s.rests a b) : (s.switchTo m).rests a b := by
  have hcopied : ((s.copyErrors m.frame).dropLines m.frame).rests a b := rests_of_stored (dropLines_stored _ _) (copyErrors_rests hs)
  unfold State.switchTo
  dsimp only
  split
  · exact hcopied
  · exact endMigration_rests hm (rests_with_mem rfl rfl (rests_of_stored (place_stored _ _ _) hcopied))

theorem makeRoom_rests {s : State} {tier : Nat} (hs : s.rests a b) : (s.makeRoom tier).rests a b := by
  unfold State.makeRoom
  split
  · exact hs
  · dsimp only
    split
    · exact switchTo_rests (fun w hw => absurd hw List.not_mem_nil) hs
    · exact hs

/-- The writes held behind a frame's migration leave a resting byte out. -/
theorem migrating_misses {s : State} {f : Nat} {m : Migration} (hs : s.rests a b) (hm : s.migrating f = some m) : m.misses a :=
  hs.2 m (List.mem_of_find?_eq_some hm)

theorem toTier_rests {s : State} {f tier : Nat} (hs : s.rests a b) : (s.toTier f tier).rests a b := by
  unfold State.toTier
  split
  · exact hs
  · split
    · exact hs
    · exact switchTo_rests (fun w hw => absurd hw List.not_mem_nil) (rests_of_stored (draw_stored _) (makeRoom_rests hs))
  · next m _ hmigrating =>
    have hm : m.misses a := migrating_misses hs hmigrating
    split
    · split
      · exact hs
      · exact cancelMigration_rests hm hs
    · split
      · exact switchTo_rests hm hs
      · exact switchTo_rests hm (rests_of_stored (draw_stored _) (makeRoom_rests hs))

theorem notePin_rests {s : State} {c va f pin : Nat} (hs : s.rests a b) : (s.notePin c va f pin).rests a b := by
  unfold State.notePin
  extract_lets near
  split
  · exact hs
  · split
    · exact hs
    · split
      · exact toTier_rests hs
      · split
        · exact hs
        · exact rests_of_stored (raise_stored _ _ _) hs

/-! ### Writes to device memory -/

theorem back_rests {s : State} {f key : Nat} {replay : Bool} (hs : s.rests a b) : (s.back f key replay).rests a b := by
  unfold State.back
  split
  · exact hs
  · extract_lets k cls near s1 p tier v s2
    have hroom : s1.rests a b := by
      unfold s1
      split
      · exact makeRoom_rests hs
      · exact hs
    have hplaced : s2.rests a b := rests_of_stored (place_stored _ _ _) hroom
    split
    · refine rests_of_stored (bumpFver_stored _ _ _) (rests_of_stored ?_ hplaced)
      exact foldl_stored (fun u i => initBlock_stored u (4 * f + i) key) _ s2
    · exact hplaced

theorem holdWrite_rests {s : State} {w : HeldWrite} (hmiss : misses a w.fa w.data.length) (hs : s.rests a b) :
    (s.holdWrite w).1.rests a b := by
  refine ⟨hs.1, fun m hm => ?_⟩
  obtain ⟨o, ho, rfl⟩ := List.mem_map.mp hm
  split
  · intro x hx
    rcases List.mem_append.mp hx with hold | hnew
    · exact hs.2 o ho x hold
    · exact List.mem_singleton.mp hnew ▸ hmiss
  · exact hs.2 o ho

theorem physPiece_rests {s : State} {key fa : Nat} {replay : Bool} {d : Bytes} (hmiss : misses a fa d.length) (hs : s.rests a b) :
    (s.physPiece key replay fa d).1.rests a b := by
  unfold State.physPiece
  dsimp only
  split
  · exact holdWrite_rests hmiss (back_rests hs)
  · exact lineWrite_rests hmiss (back_rests hs)

/-- What each step keeps is kept by steps done until one stops. -/
theorem untilStop_induction {α : Type} {P : State → Prop} {f : State → α → State × Option Acc} {l : List α} {s : State} (hs : P s)
    (hf : ∀ u, P u → ∀ x ∈ l, P (f u x).1) : P (untilStop f l s).1 := by
  refine List.foldlRecOn l _ (motive := fun r : State × Option Acc => P r.1) hs (fun r hr x hx => ?_)
  split
  · exact hr
  · exact hf r.1 hr x hx

/-- A piece lies within the run it is cut from, and within one block. -/
theorem pieces_within {g fuel x n : Nat} {p : Nat × Nat} (hg : 0 < g) (hp : p ∈ pieces g fuel x n) :
    x ≤ p.1 ∧ p.1 + p.2 ≤ x + n ∧ p.1 % g + p.2 ≤ g := by
  induction fuel generalizing x n with
  | zero => exact absurd hp List.not_mem_nil
  | succ fuel ih =>
    have hmod : x % g < g := Nat.mod_lt x hg
    simp only [pieces] at hp
    split at hp
    · exact absurd hp List.not_mem_nil
    · rcases List.mem_cons.mp hp with rfl | hrest
      · dsimp only
        omega
      · have := ih hrest
        omega

/-- Each byte of a run lies in a piece of it. -/
theorem exists_piece {g fuel x n v : Nat} (hg : 0 < g) (hfuel : x % g + n ≤ g * fuel) (hlow : x ≤ v) (hhigh : v < x + n) :
    ∃ p ∈ pieces g fuel x n, p.1 ≤ v ∧ v < p.1 + p.2 := by
  induction fuel generalizing x n with
  | zero => omega
  | succ fuel ih =>
    have hmod : x % g < g := Nat.mod_lt x hg
    rw [Nat.mul_succ] at hfuel
    simp only [pieces, if_neg (show n ≠ 0 by omega)]
    by_cases hfirst : v < x + min n (g - x % g)
    · exact ⟨_, List.mem_cons_self, hlow, hfirst⟩
    · have hfull : min n (g - x % g) = g - x % g := by omega
      have hnext : (x + (g - x % g)) % g = 0 := by
        have hsum : x + (g - x % g) = g * (x / g) + g := by have := Nat.div_add_mod x g; omega
        rw [hsum, Nat.add_mod_right, Nat.mul_mod_right]
      obtain ⟨p, hp, hin⟩ := ih (x := x + min n (g - x % g)) (n := n - min n (g - x % g)) (by rw [hfull, hnext]; omega)
        (by omega) (by omega)
      exact ⟨p, List.mem_cons_of_mem _ hp, hin⟩

@[simp] theorem length_bslice (d : Bytes) (off n : Nat) : (bslice d off n).length = n := by
  simp only [bslice, List.length_append, List.length_take, List.length_drop, List.length_replicate]
  omega

theorem physWrite_rests {s : State} {key fa : Nat} {replay : Bool} {d : Bytes} (hmiss : misses a fa d.length) (hs : s.rests a b) :
    (s.physWrite key replay fa d).1.rests a b := by
  refine untilStop_induction hs (fun u hu p hp => physPiece_rests ?_ hu)
  have := pieces_within (by decide) hp
  unfold misses at hmiss ⊢
  rw [length_bslice]
  omega

end Sys2Proof.Machine
end

section
/-! PROOFS. The ranges of device memory that an operator's writes translate to (R152, R251, R310), and O56: a byte outside them and
outside the held writes stays. -/

namespace Sys2Proof.Machine

/-! ### Translation within a page (R251, R252) -/

theorem sl_add_of_within_page {va k lo : Nat} (hi : Nat) (hlo : 16 ≤ lo) (hk : va % 65536 + k < 65536) :
    sl (va + k) hi lo = sl va hi lo := by
  have hpage : (va + k) / 65536 = va / 65536 := by omega
  have hshift : (va + k) / 2 ^ lo = va / 2 ^ lo := by
    obtain ⟨j, rfl⟩ := Nat.exists_eq_add_of_le hlo
    rw [Nat.pow_add, ← Nat.div_div_eq_div_mul, ← Nat.div_div_eq_div_mul]
    exact congrArg (· / 2 ^ j) hpage
  simp only [sl, Nat.shiftRight_eq_div_pow, hshift]

theorem levelIndex_add_of_within_page {va k : Nat} (level : Nat) (hk : va % 65536 + k < 65536) :
    levelIndex (va + k) level = levelIndex va level := by
  unfold levelIndex
  split
  · exact sl_add_of_within_page 20 (by omega) hk
  · exact sl_add_of_within_page _ (by omega) hk

/-- A translation moved on by `k` bytes. -/
def Xlat.on (x : Xlat) (k : Nat) : Xlat := { x with addr := x.addr + k }

/-- A leaf translates the bytes of a page to bytes that follow each other. -/
theorem leaf_add {s : State} {va e off k : Nat} {big write : Bool} {x : Xlat} (hk : off % 65536 + k < 65536)
    (h : s.leaf va e off big write = .ok x) : s.leaf (va + k) e (off + k) big write = .ok (x.on k) := by
  have hdiv : (off + k) / 65536 = off / 65536 := by omega
  have hmod : (off + k) % 65536 = off % 65536 + k := by omega
  unfold State.leaf at h ⊢
  rw [hdiv, hmod]
  dsimp only at h ⊢
  split at h
  · cases h
  next hreserved =>
  rw [if_neg hreserved]
  split at h
  · cases h
  next hwide =>
  rw [if_neg hwide]
  split at h
  case isTrue htarget =>
    rw [if_pos htarget]
    split at h
    · cases h
    next hwritable =>
    cases h
    rw [if_neg hwritable, Xlat.on, Nat.add_assoc]
  case isFalse htarget =>
    rw [if_neg htarget]
    split at h
    · cases h
    next haligned =>
    rw [if_neg haligned]
    split at h
    · cases h
    next hframe =>
    rw [if_neg hframe]
    split at h
    · cases h
    next hwritable =>
    cases h
    rw [if_neg hwritable, Xlat.on, Nat.add_assoc]

theorem walk_add {s : State} {va k : Nat} {write : Bool} {x : Xlat} (hk : va % 65536 + k < 65536) (level table : Nat)
    (h : s.walk va write level table = .ok x) : s.walk (va + k) write level table = .ok (x.on k) := by
  induction level generalizing table with
  | zero =>
    have hoff : (va + k) % 65536 = va % 65536 + k := by omega
    simp only [State.walk, levelIndex_add_of_within_page _ hk, hoff] at h ⊢
    split at h
    · cases h
    · split at h
      · cases h
      next hvalid =>
      rw [if_neg hvalid]
      split at h
      · cases h
      next hleaf =>
      rw [if_neg hleaf]
      exact leaf_add (by omega) h
  | succ level ih =>
    have hoff : (va + k) % 2097152 = va % 2097152 + k := by omega
    simp only [State.walk, levelIndex_add_of_within_page _ hk, hoff] at h ⊢
    split at h
    · cases h
    · split at h
      · cases h
      next hvalid =>
      rw [if_neg hvalid]
      split at h
      · next hleaf =>
        rw [if_pos hleaf]
        exact leaf_add (by omega) h
      next hleaf =>
      rw [if_neg hleaf]
      split at h
      · cases h
      next htable =>
      rw [if_neg htable]
      exact ih _ h

/-- Within a page addresses translate to addresses that follow each other. -/
theorem translate_add {s : State} {c va k : Nat} {write : Bool} {x : Xlat} (hk : va % 65536 + k < 65536)
    (h : s.translate c va write = .ok x) : s.translate c (va + k) write = .ok (x.on k) := by
  unfold State.translate at h ⊢
  split at h
  · cases h
  · rw [if_neg (by omega)]
    exact walk_add hk 4 _ h

/-! ### The bytes a write reaches -/

/-- Results of a list that none stops are those of its elements. -/
theorem map_eq_of_collect {ε α : Type} {l : List (Except ε α)} {r : List α} (h : collect l = .ok r) : l = r.map .ok := by
  induction l generalizing r with
  | nil =>
    cases h
    rfl
  | cons x l ih =>
    cases x with
    | error e => cases h
    | ok y =>
      simp only [collect] at h
      split at h
      · next hl =>
        cases h
        rw [ih hl, List.map_cons]
      · cases h

theorem exists_arg_of_collect {ε α β : Type} {f : α → Except ε β} {l : List α} {r : List β} {y : β}
    (h : collect (l.map f) = .ok r) (hy : y ∈ r) : ∃ x ∈ l, f x = .ok y := by
  rw [← List.mem_map, map_eq_of_collect h]
  exact List.mem_map_of_mem hy

theorem exists_result_of_collect {ε α β : Type} {f : α → Except ε β} {l : List α} {r : List β} {x : α}
    (h : collect (l.map f) = .ok r) (hx : x ∈ l) : ∃ y ∈ r, .ok y = f x := by
  rw [← List.mem_map, ← map_eq_of_collect h]
  exact List.mem_map_of_mem hx

/-- The targets of a write are its pieces, each where its first byte translates to. -/
theorem piece_of_target {s : State} {c va n : Nat} {u : HostUse} {ts : List (Nat × Nat × Xlat)} {t : Nat × Nat × Xlat}
    (h : s.storeTargets c va n u = .ok ts) (ht : t ∈ ts) :
    (t.1, t.2.1) ∈ piecesOf 16384 va n ∧ s.translate c t.1 true = .ok t.2.2 := by
  unfold State.storeTargets at h
  split at h
  · cases h
  · obtain ⟨p, hp, hpiece⟩ := exists_arg_of_collect h ht
    split at hpiece
    · cases hpiece
    · next x hx =>
      split at hpiece
      · cases hpiece
      · split at hpiece
        · cases hpiece
        · cases hpiece
          exact ⟨hp, hx⟩

/-- Each piece of a write that has targets is one of them. -/
theorem target_of_piece {s : State} {c va n : Nat} {u : HostUse} {ts : List (Nat × Nat × Xlat)} {p : Nat × Nat}
    (h : s.storeTargets c va n u = .ok ts) (hp : p ∈ piecesOf 16384 va n) : ∃ x, (p.1, p.2, x) ∈ ts := by
  unfold State.storeTargets at h
  split at h
  · cases h
  · obtain ⟨t, ht, hpiece⟩ := exists_result_of_collect h hp
    split at hpiece
    · cases hpiece
    · next x hx =>
      split at hpiece
      · cases hpiece
      · split at hpiece
        · cases hpiece
        · cases hpiece
          exact ⟨x, ht⟩

/-- The pieces of a run, cut at 16 KiB, lie within it, each within one page. -/
theorem piece_within {va n : Nat} {p : Nat × Nat} (hp : p ∈ piecesOf 16384 va n) :
    va ≤ p.1 ∧ p.1 + p.2 ≤ va + n ∧ p.1 % 65536 + p.2 ≤ 65536 := by
  obtain ⟨hlow, hhigh, hblock⟩ := pieces_within (by decide) hp
  omega

/-- Byte `a` of device memory is where slot c's virtual address `v` translates to for a write. -/
def State.lands (s : State) (c v a : Nat) : Prop := ∃ x, s.translate c v true = .ok x ∧ x.host = false ∧ x.addr = a

/-- A byte in the range of a target is where a byte of the write lands. -/
theorem lands_of_target {s : State} {c va n a : Nat} {u : HostUse} {ts : List (Nat × Nat × Xlat)} {t : Nat × Nat × Xlat}
    (h : s.storeTargets c va n u = .ok ts) (ht : t ∈ ts) (hdevice : t.2.2.host = false) (hin : ¬ misses a t.2.2.addr t.2.1) :
    ∃ v, va ≤ v ∧ v < va + n ∧ s.lands c v a := by
  obtain ⟨hp, hx⟩ := piece_of_target h ht
  obtain ⟨hlow, hhigh, hpage⟩ := piece_within hp
  unfold misses at hin
  dsimp only at hlow hhigh hpage
  refine ⟨t.1 + (a - t.2.2.addr), by omega, by omega, t.2.2.on (a - t.2.2.addr), translate_add (by omega) hx, hdevice, ?_⟩
  simp only [Xlat.on]
  omega

/-- Where a byte of a write lands is in the range of a target. -/
theorem target_of_lands {s : State} {c va n v a : Nat} {u : HostUse} {ts : List (Nat × Nat × Xlat)}
    (h : s.storeTargets c va n u = .ok ts) (hlow : va ≤ v) (hhigh : v < va + n) (hlands : s.lands c v a) :
    ∃ t ∈ ts, t.2.2.host = false ∧ ¬ misses a t.2.2.addr t.2.1 := by
  obtain ⟨p, hp, hfrom, hto⟩ := exists_piece (g := 16384) (fuel := n / 16384 + 2) (by decide) (by omega) hlow hhigh
  obtain ⟨x, ht⟩ := target_of_piece h hp
  obtain ⟨_, _, hpage⟩ := piece_within hp
  obtain ⟨y, hy, hhost, haddr⟩ := hlands
  have hmoved := translate_add (k := v - p.1) (by omega) (piece_of_target h ht).2
  dsimp only at hmoved
  rw [Nat.add_sub_cancel' hfrom, hy] at hmoved
  cases hmoved
  refine ⟨_, ht, hhost, ?_⟩
  simp only [Xlat.on] at haddr
  unfold misses
  dsimp only
  omega

/-! ### The ranges of an operator's writes -/

/-- A byte outside what a context's writes store to is where no byte of theirs lands. -/
theorem not_lands_of_stores {s : State} {c a v : Nat} {ws : List (Nat × Nat)} {w : Nat × Nat} {ts : List (Nat × Nat × Xlat)}
    (hout : ∀ p ∈ s.stores c ws, misses a p.1 p.2) (hw : w ∈ ws) (hts : s.storeTargets c w.1 w.2 .no = .ok ts)
    (hlow : w.1 ≤ v) (hhigh : v < w.1 + w.2) : ¬ s.lands c v a := by
  intro hlands
  obtain ⟨t, ht, hdevice, hin⟩ := target_of_lands hts hlow hhigh hlands
  refine hin (hout (t.2.2.addr, t.2.1) (List.mem_flatMap.mpr ⟨w, hw, ?_⟩))
  simp only [hts, List.mem_filterMap]
  exact ⟨t, ht, by rw [hdevice]; rfl⟩

/-- A run that `joinRuns` makes of a write and the runs after it: one of those, the write, or the write and the run that it stands right
before. -/
theorem joinRuns_cons {w x : Nat × Bytes} {ws : List (Nat × Bytes)} (hx : x ∈ joinRuns (w :: ws)) :
    x = w ∨ x ∈ joinRuns ws ∨ ∃ y ∈ joinRuns ws, y.1 = w.1 + w.2.length ∧ x = (w.1, w.2 ++ y.2) := by
  rw [joinRuns, List.foldr_cons, ← joinRuns] at hx
  dsimp only at hx
  split at hx
  · exact (List.mem_cons.mp hx).imp_right .inl
  · next i hi =>
    split at hx
    · exact (List.mem_cons.mp hx).imp_right .inl
    · split at hx
      · next y hy =>
        obtain ⟨hlt, hjoins, _⟩ := List.findIdx?_eq_some_iff_getElem.mp hi
        rcases List.mem_append.mp hx with hbefore | hjoined
        · exact .inr (.inl (List.mem_of_mem_take hbefore))
        · rcases List.mem_cons.mp hjoined with rfl | hafter
          · obtain ⟨hlt', rfl⟩ := List.getElem?_eq_some_iff.mp hy
            exact .inr (.inr ⟨_, List.getElem_mem hlt, of_decide_eq_true hjoins, rfl⟩)
          · exact .inr (.inl (List.mem_of_mem_drop hafter))
      · exact (List.mem_cons.mp hx).imp_right .inl

/-- The runs of `joinRuns` cover no byte that the writes do not cover. -/
theorem exists_write_of_joinRuns {ws : List (Nat × Bytes)} {x : Nat × Bytes} {v : Nat} (hx : x ∈ joinRuns ws) (hlow : x.1 ≤ v)
    (hhigh : v < x.1 + x.2.length) : ∃ w ∈ ws, w.1 ≤ v ∧ v < w.1 + w.2.length := by
  induction ws generalizing x with
  | nil => exact absurd hx List.not_mem_nil
  | cons w ws ih =>
    have hlater {y : Nat × Bytes} (hy : y ∈ joinRuns ws) (hfrom : y.1 ≤ v) (hto : v < y.1 + y.2.length) :
        ∃ w' ∈ w :: ws, w'.1 ≤ v ∧ v < w'.1 + w'.2.length := by
      obtain ⟨w', hw', hin⟩ := ih hy hfrom hto
      exact ⟨w', List.mem_cons_of_mem w hw', hin⟩
    rcases joinRuns_cons hx with rfl | hrun | ⟨y, hy, hnext, rfl⟩
    · exact ⟨x, List.mem_cons_self, hlow, hhigh⟩
    · exact hlater hrun hlow hhigh
    · rw [List.length_append] at hhigh
      dsimp only at hlow hhigh
      by_cases hfirst : v < w.1 + w.2.length
      · exact ⟨w, List.mem_cons_self, hlow, hfirst⟩
      · exact hlater hy (by omega) (by omega)

/-! ### The stores of an operator -/

@[simp] theorem bumpFver_ctxs (s : State) (f n : Nat) : (s.bumpFver f n).ctxs = s.ctxs := rfl

@[simp] theorem noteClass_ctxs (s : State) (f pte : Nat) (desc : Option Nat) : (s.noteClass f pte desc).ctxs = s.ctxs := rfl

@[simp] theorem initBlock_ctxs (s : State) (b key : Nat) : (s.initBlock b key).ctxs = s.ctxs := by
  unfold State.initBlock
  dsimp only [State.setBlock]
  split
  · exact reencrypt_ctxs s b key
  · rfl

@[simp] theorem back_ctxs (s : State) (f key : Nat) (replay : Bool) : (s.back f key replay).ctxs = s.ctxs := by
  unfold State.back
  split
  · rfl
  · extract_lets k cls near s1 p tier v s2
    have hroom : s1.ctxs = s.ctxs := by
      unfold s1
      split
      · exact makeRoom_ctxs s 0
      · rfl
    have hplaced : s2.ctxs = s.ctxs := (place_ctxs _ _ _).trans hroom
    split
    · refine (bumpFver_ctxs _ _ _).trans ((foldl_ctxs (fun u i => ?_) _ s2).trans hplaced)
      exact initBlock_ctxs u (4 * f + i) key
    · exact hplaced

@[simp] theorem physPiece_ctxs (s : State) (key fa : Nat) (replay : Bool) (d : Bytes) :
    (s.physPiece key replay fa d).1.ctxs = s.ctxs := by
  unfold State.physPiece
  dsimp only
  split
  · exact back_ctxs s _ _ _
  · exact (lineWrite_ctxs _ _ _ _ _).trans (back_ctxs s _ _ _)

@[simp] theorem physWrite_ctxs (s : State) (key fa : Nat) (replay : Bool) (d : Bytes) :
    (s.physWrite key replay fa d).1.ctxs = s.ctxs :=
  untilStop_induction (P := fun u => u.ctxs = s.ctxs) rfl (fun u hu _ _ => (physPiece_ctxs u _ _ _ _).trans hu)

@[simp] theorem setHostBytes_ctxs (s : State) (x : Nat) (d : Bytes) : (s.setHostBytes x d).ctxs = s.ctxs := by
  induction d generalizing s x with
  | nil => rfl
  | cons b bs ih => exact ih _ (x + 1)

/-- What a context's record holds depends on the contexts alone. -/
theorem ctxRec_of_ctxs {s u : State} (h : u.ctxs = s.ctxs) (c : Nat) : u.ctxRec c = s.ctxRec c := by
  simp only [State.ctxRec, State.ctx, h]

/-- The lines a context has written are counted beside its record. -/
theorem tally_ctxRec (s : State) (c i n r : Nat) : (s.modCtx c (fun x => x.tally i n)).ctxRec r = s.ctxRec r := by
  by_cases hr : r = c
  · subst hr
    simp only [State.ctxRec, ctx_modCtx_same]
    rfl
  · simp only [State.ctxRec, ctx_modCtx_other _ _ _ _ hr]

theorem storePiece_ctxRec (s : State) (c va : Nat) (d : Bytes) (t : Nat × Nat × Xlat) (r : Nat) :
    (s.storePiece c va d t).1.ctxRec r = s.ctxRec r := by
  unfold State.storePiece
  extract_lets chunk x k f w
  split
  · refine ctxRec_of_ctxs ((foldl_ctxs (fun u p => ?_) _ _).trans (setHostBytes_ctxs s _ _)) r
    rfl
  · have hwritten : w.1.ctxs = s.ctxs := by simp only [w, physWrite_ctxs, noteClass_ctxs, notePin_ctxs]
    rw [tally_ctxRec, ctxRec_of_ctxs (noteLines_ctxs _ _ _ _ _), ctxRec_of_ctxs hwritten]

variable {a : Nat} {b : Byte}

/-- A piece of a write leaves a byte outside its target. -/
theorem storePiece_rests {s : State} {c va : Nat} {d : Bytes} {t : Nat × Nat × Xlat}
    (hmiss : t.2.2.host = false → misses a t.2.2.addr t.2.1) (hs : s.rests a b) : (s.storePiece c va d t).1.rests a b := by
  unfold State.storePiece
  extract_lets chunk x k f w
  split
  · refine rests_of_stored ((foldl_stored (fun u p => ?_) _ _).trans (setHostBytes_stored s _ _)) hs
    exact emit_stored u _
  · next hdevice =>
    have hwritten : w.1.rests a b := by
      refine physWrite_rests ?_ (rests_of_stored (noteClass_stored _ _ _ _) (notePin_rests hs))
      rw [length_bslice]
      exact hmiss (Bool.eq_false_iff.mpr hdevice)
    exact rests_of_stored (modCtx_stored _ _ _) (noteLines_rests hwritten)

/-- A state that the stores of an operator have led to from `s`: byte `a` rests, and the records of the contexts are those of `s`. -/
def State.spared (s : State) (a : Nat) (b : Byte) (u : State) : Prop := u.rests a b ∧ ∀ c, u.ctxRec c = s.ctxRec c

/-- A write leaves a byte where none of its bytes lands. -/
theorem vwriteAt_spared {s0 s u : State} {c va : Nat} {d : Bytes}
    (hmiss : ∀ ts, s0.storeTargets c va d.length .no = .ok ts → ∀ v, va ≤ v → v < va + d.length → ¬ s0.lands c v a)
    (hu : s.spared a b u) : s.spared a b (u.vwriteAt s0 c va d .no).1 := by
  unfold State.vwriteAt
  split
  · exact hu
  · next ts hts =>
    refine untilStop_induction hu (fun w ⟨hrests, hrec⟩ t ht => ⟨storePiece_rests (fun hdevice => ?_) hrests, fun r => ?_⟩)
    · refine Classical.byContradiction (fun hin => ?_)
      obtain ⟨v, hlow, hhigh, hlands⟩ := lands_of_target hts ht hdevice hin
      exact hmiss ts hts v hlow hhigh hlands
    · exact (storePiece_ctxRec w c va d t r).trans (hrec r)

/-- The fold of an update into a scale slot leaves a byte outside the slot (R112). -/
theorem foldSlot_spared {s u : State} {c : Nat} {x : SlotUpd}
    (hmiss : ∀ ts, s.storeTargets c (s.slotAddr c x.slot) 64 .no = .ok ts → ∀ v, s.slotAddr c x.slot ≤ v →
      v < s.slotAddr c x.slot + 64 → ¬ s.lands c v a)
    (hu : s.spared a b u) : s.spared a b (u.foldSlot s c x).1 := by
  have haddr : u.slotAddr c x.slot = s.slotAddr c x.slot := by simp only [State.slotAddr, hu.2 c]
  unfold State.foldSlot
  dsimp only
  split
  · exact hu
  · rw [haddr]
    refine vwriteAt_spared ?_ hu
    rw [length_bslice]
    exact hmiss

/-- The writes of an operator that none stops leave a byte outside the ranges they store to. -/
theorem vwrites_spared {s u : State} {c : Nat} {ws : List (Nat × Bytes)} (h : s.vwrites c ws = (u, none))
    (hout : ∀ p ∈ s.stores c (ws.map (fun w => (w.1, w.2.length))), misses a p.1 p.2) (hs : s.rests a b) : s.spared a b u := by
  unfold State.vwrites at h
  split at h
  · cases h
  · next hfault =>
    have hkept : s.spared a b (untilStop (fun s' w => s'.vwriteAt s c w.1 w.2 .no) (joinRuns ws) s).1 := by
      refine untilStop_induction ⟨hs, fun _ => rfl⟩ (fun u hu x hx => vwriteAt_spared (fun _ _ v hlow hhigh => ?_) hu)
      obtain ⟨w, hw, hfrom, hto⟩ := exists_write_of_joinRuns hx hlow hhigh
      have hnone := List.findSome?_eq_none_iff.mp hfault w hw
      unfold State.writeFault at hnone
      split at hnone
      · cases hnone
      · next ts hts =>
        exact not_lands_of_stores (w := (w.1, w.2.length)) hout (List.mem_map_of_mem (f := fun w : Nat × Bytes => (w.1, w.2.length)) hw)
          hts hfrom hto
    rw [h] at hkept
    exact hkept

/-- The stores of an operator that succeed leave a byte outside the ranges they go to. -/
theorem applyEff_spared {s u : State} {c : Nat} {f : Eff} (h : s.applyEff c f = (u, none))
    (hout : ∀ p ∈ s.stores c (s.writtenBy c f), misses a p.1 p.2) (hs : s.rests a b) : s.spared a b u := by
  have hparts : s.stores c (s.writtenBy c f) = s.stores c (f.writes.map (fun w => (w.1, w.2.length)))
      ++ s.stores c (f.slots.map (fun x => (s.slotAddr c x.slot, 64))) := List.flatMap_append
  rw [hparts] at hout
  unfold State.applyEff at h
  split at h
  · cases h
  · next s1 hwrites =>
    have hwritten := vwrites_spared hwrites (fun p hp => hout p (List.mem_append_left _ hp)) hs
    have hkept : s.spared a b (untilStop (fun s' x => s'.foldSlot s c x) f.slots s1).1 := by
      refine untilStop_induction hwritten (fun w hw x hx => foldSlot_spared (fun ts hts v hlow hhigh => ?_) hw)
      exact not_lands_of_stores (w := (s.slotAddr c x.slot, 64)) (fun p hp => hout p (List.mem_append_right _ hp))
        (List.mem_map_of_mem (f := fun x : SlotUpd => (s.slotAddr c x.slot, 64)) hx) hts hlow hhigh
    rw [h] at hkept
    exact hkept

/-! ### The completion of a computing entry -/

theorem draw_mem (s : State) : s.draw.2.mem = s.mem := rfl

/-- The passes of an entry's tiles on its cores change no memory. -/
@[simp] theorem tilesRun_mem (s : State) (q : QRef) (e : Entry) : (s.tilesRun q e).mem = s.mem := by
  unfold State.tilesRun
  dsimp only
  rw [modCtx_mem]
  refine (foldl_kept State.mem (fun u p => ?_) _ _).trans (draw_mem s)
  rfl

theorem assayTile_rests {s : State} {q : QRef} {e : Entry} {n cls core els : Nat} (hs : s.rests a b) :
    (s.assayTile q e n cls core els).rests a b := by
  unfold State.assayTile
  dsimp only
  split
  · exact hs
  · split
    · exact rests_of_stored ((logRas_stored _ _ _ _ _ _).trans (raise_stored _ _ _)) hs
    · exact hs

theorem assay_rests {s : State} {q : QRef} {e : Entry} {n : Nat} (hs : s.rests a b) : (s.assay q e n).rests a b := by
  unfold State.assay
  split
  · exact hs
  · split
    · exact hs
    · refine List.foldlRecOn _ _ hs (fun u hu p _ => ?_)
      exact assayTile_rests hu

/-- The completion of a computing entry stores nothing. -/
theorem computed_rests {s : State} {q : QRef} {e : Entry} {r : Done} (hs : s.rests a b) : (s.computed q e r).rests a b := by
  have hrun (u : State) (hu : u.rests a b) : (u.tilesRun q e).rests a b := by
    simpa only [State.rests, State.byteAt, tilesRun_mem] using hu
  exact assay_rests (hrun _ hs)

/-- Settles O56: the stores leave the byte by `applyEff_spared`, and the completion stores nothing. -/
theorem operatorsStoreOnlyTheirWrites : Obligations.OperatorsStoreOnlyTheirWrites := by
  intro s u q e r a hstores hout hheld
  have hrests : u.rests a (s.byteAt a) := (applyEff_spared hstores hout ⟨rfl, hheld⟩).1
  exact (computed_rests hrests).1

end Sys2Proof.Machine
end

section
/-! PROOFS. Draining, self-test, the sweep and multi-bit errors (R153 to R155, R395, R396), from which O35. -/

namespace Sys2Proof.Machine

open Claims

/-- SELFTEST_DONE of a core in its test, while the module runs. -/
theorem selftestDone_of_testing {t core : Nat} {pass : Bool} {s : State} (htest : ((s.tick t).core core).st = 5)
    (hrunning : (s.tick t).running = true) : exec (.selftestDone t core pass) s = .next
      (let s := s.tick t
       let k := { s.core core with runs := satAdd 16 (s.core core).runs 1, last := if pass then 1 else 2, selftest := false }
       let u := (s.setCore core k).raise (pgCore core) 4
       let v := u.setCore core k.removed
       (if pass then u.returnCore core
        else ({ v with ras := { v.ras with failed := satAdd 8 v.ras.failed 1 } }.raise pgRas 4).logRas (pgCore core) 2 0x22 none
          core).sweepPast core (core + 1)) := by
  change execSelftestDone t core pass s = _
  exact if_neg (by simp only [htest, hrunning, ne_eq, not_true_eq_false, Bool.not_true, Bool.false_eq_true, or_self,
    not_false_eq_true])

/-- The interval timer starts a sweep of a module that is live outside a reset of its compute part (R395). -/
theorem sweepInterval_of_live {t : Nat} {s : State} (hlive : (s.tick t).live = true) (hcp : (s.tick t).ras.cpActive = false)
    (hinterval : (s.tick t).ras.interval ≠ 0) : exec (.sweepInterval t) s = .next (s.tick t).sweepStart := by
  change execSweepInterval t s = _
  exact congrArg Host.Outcome.next (if_pos (by simp only [hlive, hcp, hinterval, Bool.not_false, Bool.and_self, ne_eq,
    not_false_eq_true, decide_true]))

/-- A sweep starts at the first core unless one runs. -/
theorem sweepStart_of_none_runs {s : State} (h : s.ras.sweep = false) :
    s.sweepStart = State.sweepFrom { s with ras := { s.ras with sweep := true } } 0 :=
  if_neg (by rw [h]; exact Bool.false_ne_true)

/-- Settles O35: a write of PF0 by the condition of its page and what the write of that register does, the ends of tests and the
sweeps by `selftestDone_of_testing`, `sweepInterval_of_live` and `sweepStart_of_none_runs`. -/
theorem coreCommands : Obligations.CoreCommands := by
  refine ⟨fun fn core value => ⟨?drain, ?drainOn, ?test, ?testDrained, ?ftq, ?sweep, ?sweepNow⟩, fun core => ?passes,
    fun core => ?fails, ?interval, ?intervalNow, fun core => ?multiBit⟩
  case drain =>
    intro t s hopens
    exact congrArg Host.Outcome.next (if_pos hopens)
  case drainOn =>
    intro t s ⟨hopens, hdrain, htest⟩
    refine congrArg Host.Outcome.next ((if_pos hopens).trans ?_)
    simp only [State.writeCoreCtrl, State.setDrain, hdrain, htest, if_true, Bool.false_eq_true, if_false]
  case test =>
    intro t s hopens
    exact congrArg Host.Outcome.next (if_pos hopens)
  case testDrained =>
    intro t s ⟨hopens, hdrained⟩
    exact congrArg Host.Outcome.next ((if_pos hopens).trans (if_pos hdrained))
  case ftq =>
    intro t s hopens
    exact congrArg Host.Outcome.next (if_pos hopens)
  case sweep =>
    intro t s hopened
    exact congrArg Host.Outcome.next (if_pos (accepts_of_opened hopened))
  case sweepNow =>
    intro t s ⟨hopened, hstart, hnone⟩
    refine congrArg Host.Outcome.next ((if_pos (accepts_of_opened hopened)).trans ((if_pos hstart).trans ?_))
    exact sweepStart_of_none_runs hnone
  case passes =>
    intro t s ⟨htest, hrunning⟩
    exact selftestDone_of_testing htest hrunning
  case fails =>
    intro t s ⟨htest, hrunning⟩
    exact selftestDone_of_testing htest hrunning
  case interval =>
    intro t s ⟨hlive, hcp, hinterval⟩
    exact sweepInterval_of_live hlive hcp hinterval
  case intervalNow =>
    intro t s ⟨hlive, hcp, hinterval, hnone⟩
    exact (sweepInterval_of_live hlive hcp hinterval).trans (congrArg Host.Outcome.next (sweepStart_of_none_runs hnone))
  case multiBit =>
    intro t s ⟨hlive, hcore, hcp, hreset, hpresent⟩
    change execMultiBitError t core s = _
    exact if_neg (by simp only [hlive, hcp, hreset, hpresent, ge_iff_le, Nat.not_le.mpr hcore, Bool.not_true, Bool.or_self,
      decide_false, Bool.false_eq_true, not_false_eq_true])

end Sys2Proof.Machine
end

section
/-! PROOFS. What accesses to device memory leave beside their marks in memory, contexts and records (R181 to R190, R251 to R253, R310
to R318): cores, queues of the links, power, the sweep, and the rest of the module's state. -/

namespace Sys2Proof.Machine

@[simp] theorem beside_with_mem (s : State) (m : Mem) : ({ s with mem := m } : State).beside = s.beside := rfl

theorem foldl_beside {α : Type} {f : State → α → State} (hf : ∀ s a, (f s a).beside = s.beside) (l : List α) (s : State) :
    (l.foldl f s).beside = s.beside := foldl_kept State.beside hf l s

theorem untilStop_beside {α : Type} {f : State → α → State × Option Acc} (hf : ∀ s a, (f s a).1.beside = s.beside) (l : List α)
    (s : State) : (untilStop f l s).1.beside = s.beside :=
  untilStop_induction (P := fun u => u.beside = s.beside) rfl (fun u hu x _ => (hf u x).trans hu)

/-! ### Lines and held writes -/

@[simp] theorem setBytes_beside (s : State) (fa : Nat) (d : Bytes) : (s.setBytes fa d).beside = s.beside := by
  induction d generalizing s fa with
  | nil => rfl
  | cons b bs ih => exact ih (s.setByte fa b) (fa + 1)

@[simp] theorem setLine_beside (s : State) (ln : Nat) (l : Line) : (s.setLine ln l).beside = s.beside := rfl

@[simp] theorem countWrite_beside (s : State) (ln key : Nat) : (s.countWrite ln key).beside = s.beside :=
  beside_of_stored (countWrite_stored s ln key)

@[simp] theorem lineWrite_beside (s : State) (key fa : Nat) (replay : Bool) (d : Bytes) :
    (s.lineWrite key replay fa d).1.beside = s.beside := by
  unfold State.lineWrite
  dsimp only
  split
  · rfl
  · split
    · rfl
    · split
      · split
        · split <;> rfl
        · split <;> simp only [setBytes_beside, setLine_beside, countWrite_beside]
      · split <;> simp only [setBytes_beside, setLine_beside, countWrite_beside, beside_with_mem]

@[simp] theorem putHeld_beside (s : State) (w : HeldWrite) : (s.putHeld w).1.beside = s.beside := by
  unfold State.putHeld
  split
  · rfl
  · rfl
  · exact lineWrite_beside _ _ _ _ _

@[simp] theorem heldWrites_beside (s : State) (m : Migration) : (s.heldWrites m).beside = s.beside :=
  foldl_beside putHeld_beside _ s

/-! ### Frames, retired locations and migrations -/

@[simp] theorem startMoves_beside (s : State) : s.startMoves.beside = s.beside := by
  refine foldl_beside (fun u f => ?_) _ s
  split
  · rfl
  · split <;> rfl

@[simp] theorem raise_beside (s : State) (i bits : Nat) : (s.raise i bits).beside = s.beside := beside_of_stored (raise_stored s i bits)

@[simp] theorem logRas_beside (s : State) (page cls code : Nat) (ctx : Option Nat) (info : Nat) :
    (s.logRas page cls code ctx info).beside = s.beside := beside_of_stored (logRas_stored s page cls code ctx info)

@[simp] theorem draw_beside (s : State) : s.draw.2.beside = s.beside := rfl

@[simp] theorem setMc_beside (s : State) (c : Nat) (m : Mc) : (s.setMc c m).beside = s.beside := rfl

@[simp] theorem emit_beside (s : State) (o : Out) : (s.emit o).beside = s.beside := rfl

@[simp] theorem modCtx_beside (s : State) (c : Nat) (f : Ctx → Ctx) : (s.modCtx c f).beside = s.beside := rfl

@[simp] theorem retireLocation_beside (s : State) (mcx pg : Nat) (frame : Option Nat) :
    (s.retireLocation mcx pg frame).beside = s.beside := by
  unfold State.retireLocation
  split
  · dsimp only
    rw [raise_beside, raise_beside]
    split
    · split
      · exact startMoves_beside _
      · rfl
    · rfl
  · rw [logRas_beside, raise_beside]

@[simp] theorem correctedAt_beside (s : State) (mcx pg : Nat) (frame : Option Nat) : (s.correctedAt mcx pg frame).beside = s.beside := by
  unfold State.correctedAt
  dsimp only
  split
  · split <;> simp only [retireLocation_beside, logRas_beside, setMc_beside]
  · split <;> simp only [retireLocation_beside, logRas_beside, draw_beside, setMc_beside]

@[simp] theorem poison_beside (s : State) (ln : Nat) : (s.poison ln).beside = s.beside := beside_of_stored (poison_stored s ln)

@[simp] theorem uncorrectableAt_beside (s : State) (ctx : Option (Option Nat)) (ln : Nat) :
    (s.uncorrectableAt ctx ln).beside = s.beside := by
  unfold State.uncorrectableAt
  split
  · rfl
  · dsimp only
    rw [retireLocation_beside, poison_beside]
    split <;> simp only [logRas_beside, raise_beside, setMc_beside, beside_with_mem]

@[simp] theorem corrections_beside (s : State) (fa n : Nat) : (s.corrections fa n).beside = s.beside := by
  unfold State.corrections
  split
  · rfl
  · refine foldl_beside (fun u p => ?_) _ s
    dsimp only
    split
    · split
      · exact (correctedAt_beside _ _ _ _).trans (beside_with_mem _ _)
      · rfl
    · rfl

@[simp] theorem copyErrors_beside (s : State) (f : Nat) : (s.copyErrors f).beside = s.beside := by
  refine foldl_beside (fun u ln => ?_) _ s
  exact uncorrectableAt_beside u none ln

@[simp] theorem endMigration_beside (s : State) (m : Migration) : (s.endMigration m).beside = s.beside := by
  simp only [State.endMigration, startMoves_beside, heldWrites_beside, beside_of_stored (noteHold_stored _ m), beside_with_mem]

@[simp] theorem cancelMigration_beside (s : State) (m : Migration) : (s.cancelMigration m).beside = s.beside := by
  rw [State.cancelMigration, endMigration_beside, beside_with_mem]

@[simp] theorem place_beside (s : State) (f : Nat) (b : Backing) : (s.place f b).beside = s.beside :=
  beside_of_stored (place_stored s f b)

@[simp] theorem switchTo_beside (s : State) (m : Migration) : (s.switchTo m).beside = s.beside := by
  have hcopied : ((s.copyErrors m.frame).dropLines m.frame).beside = s.beside :=
    (beside_of_stored (dropLines_stored _ _)).trans (copyErrors_beside s _)
  unfold State.switchTo
  dsimp only
  split
  · exact hcopied
  · rw [endMigration_beside, beside_with_mem, place_beside, hcopied]

@[simp] theorem makeRoom_beside (s : State) (tier : Nat) : (s.makeRoom tier).beside = s.beside := by
  unfold State.makeRoom
  split
  · rfl
  · dsimp only
    split
    · simp only [switchTo_beside, draw_beside]
    · rfl

@[simp] theorem toTier_beside (s : State) (f tier : Nat) : (s.toTier f tier).beside = s.beside := by
  unfold State.toTier
  split
  · rfl
  · split
    · rfl
    · simp only [switchTo_beside, draw_beside, makeRoom_beside]
  · split
    · split
      · rfl
      · exact cancelMigration_beside _ _
    · split
      · exact switchTo_beside _ _
      · simp only [switchTo_beside, draw_beside, makeRoom_beside]

/-! ### Pins, and frames that are given back -/

@[simp] theorem notePin_beside (s : State) (c va f pin : Nat) : (s.notePin c va f pin).beside = s.beside := by
  unfold State.notePin
  extract_lets near
  split
  · rfl
  · split
    · rfl
    · split
      · exact (toTier_beside _ _ _).trans rfl
      · split
        · rfl
        · exact (raise_beside _ _ _).trans rfl

@[simp] theorem honourPins_beside (s : State) : s.honourPins.beside = s.beside := by
  refine foldl_beside (fun u p => ?_) _ s
  split
  · rw [toTier_beside, beside_with_mem]
  · rfl

@[simp] theorem dropPins_beside (s : State) (gone : Pin → Bool) : (s.dropPins gone).beside = s.beside := by
  unfold State.dropPins
  split
  · rw [honourPins_beside, beside_with_mem]
  · rfl

@[simp] theorem cancelMove_beside (s : State) (f : Nat) : (s.cancelMove f).beside = s.beside := by
  unfold State.cancelMove
  split
  · exact cancelMigration_beside _ _
  · rfl

@[simp] theorem dropCounts_beside (s : State) (f : Nat) : (s.dropCounts f).beside = s.beside := by
  unfold State.dropCounts
  split <;> rfl

@[simp] theorem unback_beside (s : State) (f : Nat) : (s.unback f).beside = s.beside := by
  simp only [State.unback, dropPins_beside, beside_with_mem, dropCounts_beside, cancelMove_beside]

/-! ### Writes and reads of a context -/

@[simp] theorem back_beside (s : State) (f key : Nat) (replay : Bool) : (s.back f key replay).beside = s.beside := by
  unfold State.back
  split
  · rfl
  · extract_lets k cls near s1 p tier v s2
    have hroom : s1.beside = s.beside := by
      unfold s1
      split
      · exact makeRoom_beside s 0
      · rfl
    have hplaced : s2.beside = s.beside := (place_beside _ _ _).trans hroom
    split
    · refine (beside_of_stored (bumpFver_stored _ _ _)).trans ((foldl_beside (fun u i => ?_) _ s2).trans hplaced)
      exact beside_of_stored (initBlock_stored u (4 * f + i) key)
    · exact hplaced

@[simp] theorem physPiece_beside (s : State) (key fa : Nat) (replay : Bool) (d : Bytes) :
    (s.physPiece key replay fa d).1.beside = s.beside := by
  unfold State.physPiece
  dsimp only
  split
  · exact (beside_with_mem _ _).trans (back_beside s _ _ _)
  · rw [lineWrite_beside, back_beside]

@[simp] theorem physWrite_beside (s : State) (key fa : Nat) (replay : Bool) (d : Bytes) :
    (s.physWrite key replay fa d).1.beside = s.beside :=
  untilStop_beside (fun u _ => physPiece_beside u _ _ _ _) _ s

@[simp] theorem noteClass_beside (s : State) (f pte : Nat) (desc : Option Nat) : (s.noteClass f pte desc).beside = s.beside := rfl

@[simp] theorem noteLines_beside (s : State) (replay write : Bool) (fa n : Nat) : (s.noteLines replay write fa n).beside = s.beside := by
  simp only [State.noteLines, beside_of_stored (fillAt_stored _ _ _ _ _), corrections_beside, beside_with_mem]

@[simp] theorem setHostBytes_beside (s : State) (x : Nat) (d : Bytes) : (s.setHostBytes x d).beside = s.beside :=
  beside_of_stored (setHostBytes_stored s x d)

@[simp] theorem storePiece_beside (s : State) (c va : Nat) (d : Bytes) (t : Nat × Nat × Xlat) :
    (s.storePiece c va d t).1.beside = s.beside := by
  unfold State.storePiece
  extract_lets chunk x k f w
  split
  · refine (foldl_beside (fun u p => ?_) _ _).trans (setHostBytes_beside s _ _)
    exact emit_beside u _
  · have hwritten : w.1.beside = s.beside := by simp only [w, physWrite_beside, noteClass_beside, notePin_beside]
    exact (modCtx_beside _ _ _).trans ((noteLines_beside _ _ _ _ _).trans hwritten)

@[simp] theorem vwriteAt_beside (s s0 : State) (c va : Nat) (d : Bytes) (u : HostUse) : (s.vwriteAt s0 c va d u).1.beside = s.beside := by
  unfold State.vwriteAt
  split
  · rfl
  · exact untilStop_beside (fun w t => storePiece_beside w c va d t) _ s

@[simp] theorem vwrite_beside (s : State) (c va : Nat) (d : Bytes) (u : HostUse) : (s.vwrite c va d u).1.beside = s.beside :=
  vwriteAt_beside s s c va d u

@[simp] theorem touchPiece_beside (s : State) (c : Nat) (desc : Option Nat) (written : Bool) (p : Nat × Nat) :
    (s.touchPiece c desc written p).beside = s.beside := by
  unfold State.touchPiece
  split
  · rfl
  · split
    · rfl
    · dsimp only
      split
      · rw [noteClass_beside, notePin_beside]
      · rw [modCtx_beside, noteLines_beside, noteClass_beside, notePin_beside]

@[simp] theorem meet_beside (s : State) (c va n : Nat) : (s.meet c va n).beside = s.beside :=
  foldl_beside (fun u p => touchPiece_beside u c none false p) _ s

end Sys2Proof.Machine
end

section
/-! PROOFS. What a quench (R250, R269, R270) and what follows from it on the cores, in the reductions and on the links leave: the
sweep, the power of the module, its security domain and what else no context's end reaches. -/

namespace Sys2Proof.Machine

/-- The state but for what accesses to device memory and the end of contexts reach: the host interface, the links, the reductions, the
cores, the schedule and the debug layer besides. -/
def State.apart (s : State) : State :=
  { s.beside with pcie := {}, ports := [], fab := {}, buckets := [], cores := [], sched := {}, dbg := {} }

theorem apart_of_beside {s u : State} (h : u.beside = s.beside) : u.apart = s.apart :=
  congrArg (fun v : State =>
    { v with pcie := {}, ports := [], fab := {}, buckets := [], cores := [], sched := {}, dbg := {} }) h

/-- No end of a context starts or ends a sweep. -/
theorem sweep_of_apart {s u : State} (h : u.apart = s.apart) : u.ras.sweep = s.ras.sweep :=
  (congrArg (fun v : State => v.ras.sweep) h : u.apart.ras.sweep = s.apart.ras.sweep)

theorem foldl_apart {α : Type} {f : State → α → State} (hf : ∀ s a, (f s a).apart = s.apart) (l : List α) (s : State) :
    (l.foldl f s).apart = s.apart := foldl_kept State.apart hf l s

/-- The same of a fold whose state is the first of a pair. -/
theorem foldl_fst_apart {α β : Type} {f : State × β → α → State × β} (hf : ∀ r a, (f r a).1.apart = r.1.apart) (l : List α)
    (r : State × β) : (l.foldl f r).1.apart = r.1.apart := foldl_kept (fun r : State × β => r.1.apart) hf l r

/-! ### Updates and accesses -/

@[simp] theorem setCore_apart (s : State) (k : Nat) (x : Core) : (s.setCore k x).apart = s.apart := rfl

@[simp] theorem modCtx_apart (s : State) (c : Nat) (f : Ctx → Ctx) : (s.modCtx c f).apart = s.apart := rfl

@[simp] theorem modQueue_apart (s : State) (q : QRef) (f : Queue → Queue) : (s.modQueue q f).apart = s.apart := rfl

@[simp] theorem modPort_apart (s : State) (q : Nat) (f : Port → Port) : (s.modPort q f).apart = s.apart := rfl

@[simp] theorem setPort_apart (s : State) (q : Nat) (x : Port) : (s.setPort q x).apart = s.apart := rfl

@[simp] theorem setBucket_apart (s : State) (b : Bucket) : (s.setBucket b).apart = s.apart := rfl

theorem apart_with_fab (s : State) (f : Fabric) : ({ s with fab := f } : State).apart = s.apart := rfl

@[simp] theorem emit_apart (s : State) (o : Out) : (s.emit o).apart = s.apart := rfl

@[simp] theorem draw_apart (s : State) : s.draw.2.apart = s.apart := rfl

@[simp] theorem tidyCores_apart (s : State) : s.tidyCores.apart = s.apart := rfl

@[simp] theorem raise_apart (s : State) (i bits : Nat) : (s.raise i bits).apart = s.apart := apart_of_beside (raise_beside s i bits)

@[simp] theorem meet_apart (s : State) (c va n : Nat) : (s.meet c va n).apart = s.apart := apart_of_beside (meet_beside s c va n)

@[simp] theorem vwrite_apart (s : State) (c va : Nat) (d : Bytes) (u : HostUse) : (s.vwrite c va d u).1.apart = s.apart :=
  apart_of_beside (vwrite_beside s c va d u)

/-- A write of a context, whose outcome is given, leaves what is apart. -/
theorem apart_of_vwrite {s u : State} {c va : Nat} {d : Bytes} {h : HostUse} {e : Option Acc} (hw : s.vwrite c va d h = (u, e)) :
    u.apart = s.apart := by
  have hkept := vwrite_apart s c va d h
  rw [hw] at hkept
  exact hkept

/-! ### Work on the cores (R150, R151, R168, R283, R293, R299) -/

@[simp] theorem saveWork_apart (s : State) (k c : Nat) : (s.saveWork k c).apart = s.apart := by
  unfold State.saveWork
  dsimp only
  split
  · rfl
  · split
    · next hw => rw [modCtx_apart, apart_of_vwrite hw, draw_apart, setCore_apart]
    · next hw => rw [modCtx_apart, apart_of_vwrite hw, draw_apart, setCore_apart]

@[simp] theorem readSave_apart (s : State) (k c va : Nat) (y : Core) : (s.readSave k c va y).apart = s.apart := by
  unfold State.readSave
  dsimp only
  split
  · rw [setCore_apart, meet_apart]
  · rw [modCtx_apart, meet_apart]

@[simp] theorem restoreWork_apart (s : State) (k c : Nat) : (s.restoreWork k c).apart = s.apart := by
  unfold State.restoreWork
  split
  · rfl
  · simp only [State.takeBack, readSave_apart, draw_apart, modCtx_apart]

@[simp] theorem endSprig_apart (s : State) (k : Nat) : (s.endSprig k).apart = s.apart := by
  unfold State.endSprig
  split
  · rfl
  · dsimp only
    split <;> simp only [restoreWork_apart, setCore_apart, saveWork_apart, modCtx_apart]

@[simp] theorem cutSprig_apart (s : State) (k c : Nat) : (s.cutSprig k c).apart = s.apart := rfl

@[simp] theorem freeCore_apart (s : State) (k : Nat) : (s.freeCore k).apart = s.apart := by
  unfold State.freeCore
  dsimp only
  split
  · rw [raise_apart, setCore_apart]
  · exact setCore_apart s k _

@[simp] theorem charge_apart (s : State) : s.charge.apart = s.apart := by
  unfold State.charge
  dsimp only
  refine (foldl_apart (fun u p => ?_) _ _).trans rfl
  split
  · exact modCtx_apart u _ _
  · rfl

@[simp] theorem freeCores_apart (s : State) (c : Nat) : (s.freeCores c).apart = s.apart := by
  refine (foldl_apart (fun u k => ?_) _ _).trans (charge_apart s)
  split
  · dsimp only
    rw [freeCore_apart]
    split
    · split
      · exact cutSprig_apart u k c
      · exact endSprig_apart u k
    · rfl
  · split
    · split
      · rw [restoreWork_apart, cutSprig_apart]
      · exact cutSprig_apart u k c
    · rfl

/-! ### Packets and reductions (R208, R216, R226 to R231, R358) -/

@[simp] theorem enqueue_apart (s : State) (q : Nat) (p : Packet) : (s.enqueue q p).apart = s.apart := rfl

@[simp] theorem sendOn_apart (s : State) (c : Nat) (p : Packet) : (s.sendOn c p).apart = s.apart := by
  have hsay (q job digest : Nat) : (s.sayDigest q job digest).apart = s.apart := by
    unfold State.sayDigest
    dsimp only
    split
    · rfl
    · exact (enqueue_apart _ _ _).trans (setPort_apart s q _)
  unfold State.sendOn
  split
  · rfl
  · exact enqueue_apart s _ p
  · dsimp only
    split
    · rw [enqueue_apart, hsay]
    · rw [modPort_apart, hsay]

@[simp] theorem sendFor_apart (s : State) (c : Nat) (p : Packet) : (s.sendFor c p).apart = s.apart := by
  unfold State.sendFor
  dsimp only
  split
  · rfl
  · rw [modCtx_apart, sendOn_apart]

@[simp] theorem sendAborts_apart (s : State) (c : Nat) : (s.sendAborts c).apart = s.apart := by
  refine foldl_apart (fun u m => ?_) _ s
  dsimp only
  rw [sendFor_apart, draw_apart]

@[simp] theorem sendPart_apart (s : State) (c : Nat) (p : Packet) (off fin : Nat) (d : Bytes) :
    (s.sendPart c p off fin d).apart = s.apart :=
  foldl_fst_apart (fun r _ => sendFor_apart r.1 c _) _ (s, off)

@[simp] theorem sendStream_apart (s : State) (c : Nat) (p : Packet) (off : Nat) (d : Bytes) : (s.sendStream c p off d).apart = s.apart :=
  sendPart_apart s c p off _ d

@[simp] theorem broadcast_apart (s : State) (b : Bucket) : (s.broadcast b).apart = s.apart := by
  refine foldl_apart (fun u i => ?_) _ s
  dsimp only
  rw [sendStream_apart]
  refine foldl_apart (fun w r => ?_) _ u
  exact foldl_fst_apart (fun x _ => sendFor_apart x.1 _ _) _ (w, r.1)

@[simp] theorem closeItems_apart (s : State) (b : Bucket) : (s.closeItems b).apart = s.apart := by
  refine foldl_apart (fun u k => ?_) _ s
  rfl

@[simp] theorem account_apart (s : State) (b : Bucket) : (s.account b).apart = s.apart := by
  unfold State.account
  exact modCtx_apart s _ _

@[simp] theorem closeBucket_apart (s : State) (b : Bucket) : (s.closeBucket b).apart = s.apart := by
  unfold State.closeBucket
  extract_lets f u src v w
  have hcounted : v.apart = s.apart := (apart_with_fab u _).trans ((closeItems_apart _ _).trans (setBucket_apart s _))
  have hclosed : w.apart = s.apart := by
    unfold w
    split
    · exact (raise_apart v _ _).trans hcounted
    · exact hcounted
  split
  · exact (account_apart w b).trans hclosed
  · split
    · exact (modCtx_apart w _ _).trans hclosed
    · exact hclosed

@[simp] theorem sendResult_apart (s : State) (b : Bucket) : (s.sendResult b).apart = s.apart := by
  simp only [State.sendResult, closeBucket_apart, broadcast_apart]

@[simp] theorem finishRoot_apart (s : State) (b : Bucket) : (s.finishRoot b).apart = s.apart := by
  unfold State.finishRoot
  split
  · rfl
  · split
    · extract_lets n b2 u v
      have hsent : v.apart = s.apart := by
        refine (foldl_apart (fun w i => ?_) _ u).trans rfl
        exact sendStream_apart w _ _ _ _
      split
      · rw [sendResult_apart, hsent]
      · exact hsent
    · exact sendResult_apart s b

@[simp] theorem sendReady_apart (s : State) (b : Bucket) (level q : Nat) : (s.sendReady b level q).apart = s.apart :=
  (sendStream_apart _ _ _ _ _).trans rfl

@[simp] theorem sendBlocks_apart (s : State) (b : Bucket) (level dst start fin : Nat) (ks : List Nat) (d : Bytes) :
    (s.sendBlocks b level dst start fin ks d).apart = s.apart := by
  refine foldl_apart (fun u r => ?_) _ s
  exact sendPart_apart u _ _ _ _ _

@[simp] theorem tryStream_apart (s : State) (b : Bucket) : (s.tryStream b).apart = s.apart := by
  unfold State.tryStream
  split
  · rfl
  · dsimp only
    split
    · rfl
    · rw [sendBlocks_apart, setBucket_apart]

@[simp] theorem settle_apart (s : State) (b : Bucket) : (s.settle b).apart = s.apart := by
  unfold State.settle
  dsimp only
  split
  · split
    · split
      · exact finishRoot_apart s _
      · split
        · exact finishRoot_apart s _
        · rfl
    · split
      · exact tryStream_apart s b
      · exact sendReady_apart s b _ _
  · split
    · split
      · exact finishRoot_apart s _
      · exact sendReady_apart s _ _ _
    · rfl

@[simp] theorem absentOwn_apart (s : State) (c : Nat) : (s.absentOwn c).apart = s.apart := by
  refine foldl_apart (fun u b => ?_) _ s
  split
  · split
    · exact settle_apart u _
    · rfl
  · rfl

/-! ### Fences, objects and the entries of a queue (R83, R86, R271, R274) -/

@[simp] theorem fenceVector_apart (s : State) (c v : Nat) : (s.fenceVector c v).apart = s.apart := by
  have hvector : (s.slotVector c v).apart = s.apart := by
    unfold State.slotVector
    split <;> rfl
  rw [State.fenceVector, apply_ite State.apart, hvector, ite_self]

@[simp] theorem notifyImporters_apart (s : State) (c h : Nat) : (s.notifyImporters c h).apart = s.apart := by
  refine foldl_apart (fun u c' => ?_) _ s
  split
  · rfl
  · refine foldl_apart (fun w h' => ?_) _ u
    dsimp only
    split
    · split
      · rw [fenceVector_apart, meet_apart]
      · exact meet_apart w _ _ _
    · exact meet_apart w _ _ _

@[simp] theorem abandonExports_apart (s : State) (c : Nat) : (s.abandonExports c).apart = s.apart := by
  refine foldl_apart (fun u h => ?_) _ s
  split
  · split
    · split
      · next hw =>
        dsimp only
        rw [notifyImporters_apart]
        split
        · exact (fenceVector_apart _ _ _).trans (apart_of_vwrite hw)
        · exact apart_of_vwrite hw
      · next hw => exact apart_of_vwrite hw
    · rfl
  · rfl

@[simp] theorem signalFence_apart (s : State) (c h v : Nat) (st : Status) : (s.signalFence c h v st).1.apart = s.apart := by
  unfold State.signalFence
  split
  · rfl
  · dsimp only
    split
    · exact meet_apart s _ _ _
    · split
      · exact meet_apart s _ _ _
      · split
        · next hw => exact (apart_of_vwrite hw).trans (meet_apart s _ _ _)
        · next u hw =>
          have hwritten : u.apart = s.apart := (apart_of_vwrite hw).trans (meet_apart s _ _ _)
          dsimp only
          split <;> split <;> simp only [notifyImporters_apart, fenceVector_apart, hwritten]

@[simp] theorem signalAll_apart (s : State) (c : Nat) (st : Status) (es : List Entry) : (s.signalAll c st es).apart = s.apart := by
  refine foldl_apart (fun u e => ?_) _ s
  split
  · exact signalFence_apart u _ _ _ _
  · rfl

@[simp] theorem pumpReads_apart (s : State) : s.pumpReads.apart = s.apart := by
  refine foldl_apart (fun u r => ?_) _ s
  split <;> rfl

@[simp] theorem retire_apart (s : State) (c a n : Nat) : (s.retire c a n).1.apart = s.apart := by
  have hedit : (s.retireEdit c a n).1.apart = s.apart := by
    unfold State.retireEdit
    dsimp only
    split
    · rfl
    · split
      · rfl
      · refine (apart_of_beside (dropPins_beside _ _)).trans (foldl_apart (fun u x => ?_) _ s)
        exact apart_of_beside (physWrite_beside u _ _ _ _)
  have hscrub (u : State) (fs : List Nat) : (u.scrubFrames fs).apart = u.apart :=
    foldl_apart (fun w f => apart_of_beside (unback_beside w f)) fs u
  unfold State.retire
  split
  · next h =>
    rw [h] at hedit
    rw [hscrub, hedit]
  · next h =>
    rw [h] at hedit
    exact hedit

@[simp] theorem addRef_apart (s : State) (c : Nat) (o : ObjRef) (up : Bool) : (s.addRef c o up).apart = s.apart := by
  have hunit (w : State) (d : Bytes) : (w.makeUnit c d).1.apart = w.apart := rfl
  unfold State.addRef
  extract_lets a u
  have hmet : u.apart = s.apart := meet_apart s c a.1 a.2
  split
  · rfl
  · split
    · exact (pumpReads_apart _).trans rfl
    · split
      · exact hmet
      · extract_lets old new unit w
        have hcounted : w.apart = s.apart := by
          unfold w
          split
          · rw [vwrite_apart, hmet]
          · rw [vwrite_apart, hunit, hmet]
        split
        · rw [retire_apart, hcounted]
        · exact hcounted

@[simp] theorem dropRefs_apart (s : State) (q : QRef) : (s.dropRefs q).apart = s.apart := by
  refine (foldl_apart (fun u o => ?_) _ _).trans (modCtx_apart s q.slot _)
  exact addRef_apart u q.slot o false

@[simp] theorem abortQueue_apart (s : State) (q : QRef) : (s.abortQueue q).apart = s.apart := by
  unfold State.abortQueue
  extract_lets y inner all u retired v
  have hcompleted : u.apart = s.apart := by
    refine foldl_apart (fun w e => ?_) _ s
    exact (modCtx_apart _ _ _).trans (emit_apart w _)
  rw [modQueue_apart, dropRefs_apart, signalAll_apart, hcompleted]

/-! ### Quenches (R250, R269, R270) -/

@[simp] theorem clearBreaks_apart (s : State) (c : Nat) : (s.clearBreaks c).apart = s.apart := by
  refine foldl_apart (fun u n => ?_) _ s
  rfl

@[simp] theorem dropSeqs_apart (s : State) (gone : Seq → Bool) : (s.dropSeqs gone).apart = s.apart := by
  refine (foldl_apart (fun u p => ?_) _ _).trans (apart_of_beside (beside_with_mem s _))
  split <;> rfl

@[simp] theorem releaseCps_apart (s : State) : s.releaseCps.apart = s.apart := rfl

@[simp] theorem quenchOne_apart (s : State) (c : Nat) : (s.quenchOne c).apart = s.apart := by
  have haborted (u : State) : ((List.range 16).foldl (fun s q => s.abortQueue ⟨c, q⟩) u).apart = u.apart :=
    foldl_apart (fun w q => abortQueue_apart w ⟨c, q⟩) _ u
  unfold State.quenchOne
  dsimp only
  split
  · rw [dropSeqs_apart, apart_of_beside (beside_with_mem _ _), clearBreaks_apart, abandonExports_apart, haborted, absentOwn_apart,
      tidyCores_apart, freeCores_apart, modCtx_apart, sendAborts_apart, releaseCps_apart]
    rfl
  · rfl

@[simp] theorem settleOwed_apart (s : State) : s.settleOwed.apart = s.apart := by
  have hquenches (n : Nat) (u : State) : (State.quenchOwed n u).apart = u.apart := by
    induction n generalizing u with
    | zero => rfl
    | succ n ih =>
      unfold State.quenchOwed
      split
      · rw [ih, quenchOne_apart]
      · rfl
  exact hquenches 64 s

/-- A core that saves its work and zeroes itself leaves what is apart, a quench that its save area makes due among what follows. -/
@[simp] theorem saveCore_apart (s : State) (k : Nat) : (s.saveCore k).apart = s.apart := by
  unfold State.saveCore
  dsimp only
  rw [settleOwed_apart, setCore_apart]
  split
  · rw [saveWork_apart, charge_apart, endSprig_apart]
  · rw [charge_apart, endSprig_apart]

end Sys2Proof.Machine
end

section
/-! PROOFS. The schedule (R150, R279 to R297): whose context a core holds while it saves and takes up work, and O33. -/

namespace Sys2Proof.Machine

open Claims

/-! ### Whose a core is while it saves and takes up work (R150, R293) -/

theorem core_of_beside {s u : State} (h : u.beside = s.beside) (k : Nat) : u.core k = s.core k := by
  have hcores : u.beside.cores = s.beside.cores := by rw [h]
  change u.cores = s.cores at hcores
  simp only [State.core, hcores]

/-- A change of a core that keeps its context keeps every core's. -/
theorem setCore_core_ctx {s : State} {k : Nat} {x : Core} (hx : x.ctx = (s.core k).ctx) (j : Nat) :
    ((s.setCore k x).core j).ctx = (s.core j).ctx := by
  by_cases hj : j = k
  · rw [hj, core_setCore_same, hx]
  · rw [core_setCore_other _ _ _ _ hj]

@[simp] theorem draw_core (s : State) (j : Nat) : s.draw.2.core j = s.core j := rfl

@[simp] theorem saveWork_core_ctx (s : State) (k c j : Nat) : ((s.saveWork k c).core j).ctx = (s.core j).ctx := by
  have hzeroed : ((s.setCore k (s.core k).zeroed).core j).ctx = (s.core j).ctx :=
    setCore_core_ctx (by rfl) j
  unfold State.saveWork
  dsimp only
  split
  · exact hzeroed
  · have hwritten {u : State} {a : Nat} {d : Bytes} {e : Option Acc}
        (hw : (s.setCore k (s.core k).zeroed).draw.2.vwrite c a d = (u, e)) : u.core j = (s.setCore k (s.core k).zeroed).core j := by
      refine core_of_beside ?_ j
      have hkept := vwrite_beside (s.setCore k (s.core k).zeroed).draw.2 c a d .no
      rw [hw] at hkept
      exact hkept.trans (draw_beside _)
    split
    · next hw => rw [modCtx_core, hwritten hw, hzeroed]
    · next hw => rw [modCtx_core, hwritten hw, hzeroed]

theorem readSave_core_ctx {s : State} {k : Nat} {y : Core} (hy : y.ctx = (s.core k).ctx) (c va j : Nat) :
    ((s.readSave k c va y).core j).ctx = (s.core j).ctx := by
  have hmet (i : Nat) : (s.meet c va y.saveBytes).core i = s.core i := core_of_beside (meet_beside s c va _) i
  unfold State.readSave
  dsimp only
  split
  · rw [setCore_core_ctx (by rw [hmet]; exact hy), hmet]
  · rw [modCtx_core, hmet]

@[simp] theorem restoreWork_core_ctx (s : State) (k c j : Nat) : ((s.restoreWork k c).core j).ctx = (s.core j).ctx := by
  unfold State.restoreWork
  split
  · exact setCore_core_ctx (by rfl) j
  · unfold State.takeBack
    dsimp only
    rw [readSave_core_ctx (by rfl), draw_core, draw_core, modCtx_core]

@[simp] theorem endSprig_core_ctx (s : State) (k j : Nat) : ((s.endSprig k).core j).ctx = (s.core j).ctx := by
  unfold State.endSprig
  split
  · rfl
  · extract_lets us u v src w
    have hended : (w.core j).ctx = (s.core j).ctx := by
      rw [setCore_core_ctx (by rfl), saveWork_core_ctx, modCtx_core]
    split
    · rw [restoreWork_core_ctx, hended]
    · exact hended

/-! ### Commands that a condition lets through -/

/-- What a change makes of a context depends on what it gives for it alone. -/
theorem modCtx_congr {s : State} {c : Nat} {f g : Ctx → Ctx} (h : f (s.ctx c) = g (s.ctx c)) : s.modCtx c f = s.modCtx c g :=
  congrArg (s.setCtx c) h

/-- PREEMPTION_POINT of a draining core (R154) while no sweep runs: it is drained, and no test begins. -/
theorem preemptionPoint_of_draining {t core : Nat} {s : State} (hlive : (s.tick t).live = true)
    (hcore : core < (s.tick t).ident.variant.cores) (hdrains : ((s.tick t).core core).st = 3) (hsweep : (s.tick t).ras.sweep = false) :
    exec (.preemptionPoint t core) s = .next (((s.tick t).saveCore core).raise (pgCore core) 2) := by
  have hnone : (((s.tick t).saveCore core).raise (pgCore core) 2).ras.sweep = false :=
    (sweep_of_apart ((raise_apart _ _ _).trans (saveCore_apart _ core))).trans hsweep
  change execPreemptionPoint t core s = _
  simp only [execPreemptionPoint, hlive, hdrains, hnone, ge_iff_le, Nat.not_le.mpr hcore, Bool.not_true, decide_false, Bool.or_self,
    Bool.false_and, Bool.false_eq_true, if_false, if_true]

/-- A core that yields ends its sprig and saves what it holds of its context, which it keeps. -/
theorem yieldCore_of_ctx {s : State} {core slot : Nat} (hctx : (s.core core).ctx = some slot) : s.yieldCore core =
    (let u := (s.endSprig core).saveWork core slot
     (u.setCore core { u.core core with preempt := false }).settleOwed) := by
  have hholds : ((s.endSprig core).core core).ctx = some slot := (endSprig_core_ctx s core core).trans hctx
  simp only [State.yieldCore, hholds]

/-- PREEMPTION_POINT of a core that was asked to stop (R284). -/
theorem preemptionPoint_of_marked {t core : Nat} {s : State} (hlive : (s.tick t).live = true)
    (hcore : core < (s.tick t).ident.variant.cores) (hserves : ((s.tick t).core core).st = 2)
    (hmarked : ((s.tick t).core core).preempt = true) :
    exec (.preemptionPoint t core) s = .next ((s.tick t).yieldCore core) := by
  change execPreemptionPoint t core s = _
  simp only [execPreemptionPoint, hlive, hserves, hmarked, ge_iff_le, Nat.not_le.mpr hcore, Bool.not_true, decide_false,
    Bool.or_self, Bool.false_eq_true, if_false, if_true, Bool.and_self, decide_true, Nat.reduceEqDiff]

/-- Settles O33: each command by its condition and the branch of its effect that holds there; a draining core by
`preemptionPoint_of_draining`, since what it saves starts no sweep, a marked one by `preemptionPoint_of_marked` and
`yieldCore_of_ctx`, since it keeps its context while it saves. -/
theorem scheduleCommands : Obligations.ScheduleCommands := by
  refine ⟨?boundary, ?request, fun core => ?drains, fun core slot => ?yields, fun slot hslot => ?transfer, fun core d c => ?sprig,
    fun core => ?sprigEnd, fun slot hslot => ?period, fun fn value => ?reload, fun fn value v r happly => ?reloadRead⟩
  case boundary =>
    intro t s ⟨hticking, hdue⟩
    exact congrArg Host.Outcome.next (if_pos (Bool.and_eq_true_iff.mpr ⟨hticking, decide_eq_true hdue⟩))
  case request =>
    intro t s ⟨hticking, hdue⟩
    change execPreemptRequest t s = _
    exact if_pos (Bool.and_eq_true_iff.mpr ⟨hticking, decide_eq_true hdue⟩)
  case drains =>
    intro t s ⟨hlive, hcore, hdrains, hsweep⟩
    exact preemptionPoint_of_draining hlive hcore hdrains hsweep
  case yields =>
    intro t s ⟨hlive, hcore, hserves, hmarked, hctx⟩
    exact (preemptionPoint_of_marked hlive hcore hserves hmarked).trans (congrArg Host.Outcome.next (yieldCore_of_ctx hctx))
  case transfer =>
    intro t s ⟨hticking, hshared, hrunnable⟩
    change execCoreTransfer t slot s = _
    simp only [execCoreTransfer, hticking, hshared, hrunnable, ge_iff_le, Nat.not_le.mpr hslot, Bool.not_true, decide_false, Bool.or_self,
      Bool.false_eq_true, if_false, if_true]
  case sprig =>
    intro t s ⟨hctx, hticking, hsprigs, hserves, hnone, hdonates, hsource⟩
    change execSprigStart t core s = _
    simp only [execSprigStart, hctx, hticking, hsprigs, hserves, hnone, hdonates, hsource, Option.isNone_none, Bool.and_self, decide_true,
      if_true]
    rfl
  case sprigEnd => exact fun t s _ => rfl
  case period =>
    intro t s ⟨hticking, hactive, hperiodic, hopen, hdue, hreload, hdone⟩
    have hlate : ((s.tick t).ctx slot).queues.any (fun p => p.2.overruns) = false := by
      simpa only [List.any_eq_false, Bool.not_eq_true] using hdone
    change execPeriodBoundary t slot s = _
    simp only [execPeriodBoundary, hticking, hslot, hactive, hperiodic, hopen, hdue, hlate, Bool.not_false, Bool.and_self, decide_true,
      if_true, Bool.false_eq_true, if_false]
    rw [modCtx_congr (s := s.tick t) (g := fun x => { x with periodAt := x.nextPeriod })]
    simp only [hreload]
  case reload =>
    intro t s hopened
    exact congrArg Host.Outcome.next (if_pos (accepts_of_opened hopened))
  case reloadRead =>
    intro t s ⟨hopened, hv, hread⟩
    refine congrArg Host.Outcome.next ((if_pos (accepts_of_opened hopened)).trans ?_)
    subst hv
    simp only [State.writeReload, happly, hread, if_true]

end Sys2Proof.Machine
end

section
/-! PROOFS. The epoch filter and the packets of a reduction (R223, R226, R227, R230, R232, R234): what the filter does with a packet
of each epoch, and what each handler does with one that it does not turn away, from which O19 and O18. -/

namespace Sys2Proof.Machine

open Claims

/-! ### The epoch filter (R234) -/

/-- A tag's layout epoch is an earlier one, the current one or a later one. -/
theorem epochOf_cases (s : State) (c tag : Nat) : s.epochOf c tag = -1 ∨ s.epochOf c tag = 0 ∨ s.epochOf c tag = 1 := by
  unfold State.epochOf
  dsimp only
  split
  · exact .inr (.inl rfl)
  · split
    · exact .inl rfl
    · exact .inr (.inr rfl)

theorem redFiltered_of_earlier {s : State} {c : Nat} {p : Packet} (htype : p.ptype ≤ 4) (hepoch : s.epochOf c p.tag = -1) :
    s.redFiltered c p = { s with fab := { s.fab with epochDrop := satAdd 32 s.fab.epochDrop 1 } } := by
  simp only [State.redFiltered, htype, hepoch, decide_true, Bool.and_self, if_true]

theorem redFiltered_of_later {s : State} {c : Nat} {p : Packet} (htype : p.ptype ≤ 4) (hepoch : s.epochOf c p.tag = 1) :
    s.redFiltered c p = { s with fab := { s.fab with heldPkts := s.fab.heldPkts ++ [p] } } := by
  have hlater : ¬ (1 : Int) = -1 := by decide
  simp only [State.redFiltered, htype, hepoch, hlater, decide_true, decide_false, Bool.and_false, Bool.and_self, Bool.false_eq_true,
    if_false, if_true]

/-- A packet of the current epoch, a result and a redo pass the filter. -/
theorem redFiltered_of_passes {s : State} {c : Nat} {p : Packet} (hpass : p.ptype ≤ 4 → s.epochOf c p.tag = 0) :
    s.redFiltered c p = s.redPacket c p := by
  unfold State.redFiltered
  by_cases htype : p.ptype ≤ 4
  · have hearlier : ¬ (0 : Int) = -1 := by decide
    have hlater : ¬ (0 : Int) = 1 := by decide
    simp only [hpass htype, hearlier, hlater, decide_false, Bool.and_false, Bool.false_eq_true, if_false]
  · simp only [htype, decide_false, Bool.false_and, Bool.false_eq_true, if_false]

/-- Settles O19 by what the filter does with each epoch and `epochOf_cases`. -/
theorem epochFilter : Obligations.EpochFilter := fun s c p htype =>
  ⟨redFiltered_of_earlier htype, redFiltered_of_later htype, epochOf_cases s c p.tag⟩

/-! ### The handler of a packet, by its type -/

theorem redPacket_of_ready (s : State) (c : Nat) {p : Packet} (htype : p.ptype = 2) : s.redPacket c p = s.redReady c p := by
  simp only [State.redPacket, htype, if_true]

theorem redPacket_of_pull (s : State) (c : Nat) {p : Packet} (htype : p.ptype = 3) : s.redPacket c p = s.redPull c p := by
  simp only [State.redPacket, htype, Nat.reduceEqDiff, if_false, if_true]

theorem redPacket_of_data (s : State) (c : Nat) {p : Packet} (htype : p.ptype = 4) : s.redPacket c p = s.redData c p := by
  simp only [State.redPacket, htype, Nat.reduceEqDiff, if_false, if_true]

theorem redPacket_of_result (s : State) (c : Nat) {p : Packet} (htype : p.ptype = 5) : s.redPacket c p = s.redResult c p := by
  simp only [State.redPacket, htype, Nat.reduceEqDiff, if_false, if_true]

theorem redPacket_of_redo (s : State) (c : Nat) {p : Packet} (htype : p.ptype = 6) : s.redPacket c p = s.redRedo c p := by
  simp only [State.redPacket, htype, Nat.reduceEqDiff, if_false]

/-- A reduction packet of the command's type that is accepted and passes the filter goes to its handler, and the entries that waited
look again. -/
theorem redCommand_of_passes {s v : State} {t port ptype c : Nat} {pkt : Packet} (htype : pkt.ptype = ptype)
    (hjob : (s.tick t).jobPacket port pkt = (v, some c)) (hpass : pkt.ptype ≤ 4 → v.epochOf c pkt.tag = 0) :
    s.redCommand t port ptype pkt = .next ((v.redPacket c pkt).wakeSums c) := by
  simp only [State.redCommand, hjob, htype, redFiltered_of_passes hpass, if_true]

/-- A command of a reduction packet with the handler `f` gives `E` where the packet is accepted, passes the filter and `f` comes to
`E`. -/
theorem gives_of_redCommand {cmd : Nat → Instr} {port ptype c : Nat} {pkt : Packet} {f : State → Nat → Packet → State}
    {G : State → Prop} {E : State → State} (hexec : ∀ t s, exec (cmd t) s = s.redCommand t port ptype pkt)
    (htype : pkt.ptype = ptype) (hhandler : ∀ s : State, s.redPacket c pkt = f s c pkt)
    (heffect : ∀ s, G s → ∃ v, s.jobPacket port pkt = (v, some c) ∧ (ptype ≤ 4 → v.epochOf c pkt.tag = 0)
      ∧ (f v c pkt).wakeSums c = E s) : Gives cmd G E := by
  intro t s hG
  obtain ⟨v, hjob, hpass, hE⟩ := heffect _ hG
  rw [hexec, redCommand_of_passes htype hjob (htype ▸ hpass), hhandler, hE]

/-! ### What a handler does with a packet that it does not turn away -/

/-- A complete summary of a right group that is waited for, in time, makes its input ready and settles the bucket (R226). -/
theorem redReady_of_open {s : State} {c : Nat} {p : Packet} {b b' : Bucket} {sm : Summary}
    (hbucket : s.bucketFor c p.tag = (s, some b))
    (hcollect : b.collect (groupKey p.level (s.posOfModule c p.src)) (s.ranks c 0).length p.offset p.payload = (b', some sm))
    (hready : b'.readySent = false)
    (hwaits : b'.inputs.any (fun i => i.level = p.level && i.rep = s.posOfModule c p.src && i.st = .waiting) = true)
    (htime : ∀ d, (s.itemDone c p).deadline b' (p.level + 1) = some d → (s.itemDone c p).clk.now ≤ d) :
    s.redReady c p = (s.itemDone c p).settle { b' with
      anchor := match b'.anchor with | some a => some a | none => some (s.itemDone c p).clk.now
      inputs := modFirst (fun i => i.level = p.level && i.rep = s.posOfModule c p.src) (fun i => { i with st := .ready sm })
        b'.inputs } := by
  have hmine : b'.inputs.any (fun i => i.level = p.level && i.rep = s.posOfModule c p.src) = true := by
    obtain ⟨i, hmem, hi⟩ := List.any_eq_true.mp hwaits
    exact List.any_eq_true.mpr ⟨i, hmem, (Bool.and_eq_true_iff.mp hi).1⟩
  simp only [State.redReady, hbucket, hcollect, hmine, hready, hwaits, Bool.not_true, Bool.false_or, Bool.or_false, if_true]
  refine if_neg ?_
  cases hdeadline : (s.itemDone c p).deadline b' (p.level + 1) with
  | none => exact Bool.false_ne_true
  | some d => exact fun hlate => Nat.not_lt.mpr (htime d hdeadline) (of_decide_eq_true hlate)

/-- A pull of an open bucket is noted; its stream starts once the partial is complete (R230). -/
theorem redPull_of_bucket {s : State} {c : Nat} {p : Packet} {b : Bucket} (hbucket : s.bucket c p.tag = some b) :
    s.redPull c p = (s.tryStream { b with
      pullFrom := some (p.src, fld p.payload 0 8, fld p.payload 8 8), sentBlk := [], streamed := false }).itemDone c p := by
  simp only [State.redPull, hbucket]

/-- Elements of a right group's partial are placed by offset, and the bucket is settled (R223). -/
theorem redData_of_bucket {s : State} {c : Nat} {p : Packet} {b : Bucket} (hbucket : s.bucket c p.tag = some b) :
    s.redData c p =
      let mine : Input → Bool := fun i => i.level = p.level && i.rep = s.posOfModule c p.src
      let x := { b with inputs := modFirst mine (fun i => { i with
        part := bput i.part p.offset p.payload, got := i.got + p.payload.length
        ranges := i.ranges ++ [(p.offset, p.payload.length)]
        full := decide (i.got + p.payload.length ≥ streamLen b.fmt b.elems) }) b.inputs }
      State.settle (if x.inputs.any (fun i => mine i && i.full) then s.itemDone c p else s) x := by
  simp only [State.redData, hbucket]

/-- Elements of the final sum are placed by offset (R227). -/
theorem redResult_of_elements {s u : State} {c : Nat} {p : Packet} {b : Bucket} (hkind : p.summary = false)
    (hbucket : s.bucketFor c p.tag = (u, some b)) :
    s.redResult c p = u.tryResult { b with
      lost := b.lost || p.lost, result := bput b.result p.offset p.payload, resGot := b.resGot + p.payload.length } := by
  simp only [State.redResult, hbucket, hkind, Bool.false_eq_true, if_false]

/-- The final summary is kept once all of it is there (R227). -/
theorem redResult_of_summary {s u : State} {c : Nat} {p : Packet} {b b' : Bucket} {sm : Summary} (hkind : p.summary = true)
    (hbucket : s.bucketFor c p.tag = (u, some b))
    (hcollect : { b with lost := b.lost || p.lost }.collect 0 (u.ranks c 0).length p.offset p.payload = (b', some sm)) :
    s.redResult c p = (u.itemDone c p).tryResult { b' with final := some sm } := by
  simp only [State.redResult, hbucket, hkind, hcollect, if_true]

/-- The summary of a second pass, once all of it is there, leaves the offenders out and goes on to every right group (R232). -/
theorem redRedo_of_summary {s : State} {c : Nat} {p : Packet} {b b' : Bucket} {sm : Summary} (hbucket : s.bucket c p.tag = some b)
    (hcollect : b.collect 1 (s.ranks c 0).length p.offset p.payload = (b', some sm)) :
    s.redRedo c p =
      let x := b'.redo sm.offenders
      let u := ((s.itemDone c p).setBucket x).forgetData x
      (u.children x).foldl (fun u i => u.sendStream c { ptype := 6, ctl := 16, dst := u.rankAt c i.2, tag := x.tag, level := i.1 } 0
        (sm.enc (s.ranks c 0).length x.elems)) u := by
  simp only [State.redRedo, hbucket, hcollect]

/-- Settles O18: every clause by `gives_of_redCommand`, the last six with what the packet's handler does there. A result and a redo
pass the filter whatever their epoch. -/
theorem reductionPackets : Obligations.ReductionPackets := by
  refine ⟨fun port c pkt htype => ?ready, fun port c pkt htype => ?pull, fun port c pkt htype => ?data,
    fun port c pkt htype => ?result, fun port c pkt htype => ?redo, fun port c pkt v b b' sm htype => ?readyOpen,
    fun port c pkt v b htype => ?pullNoted, fun port c pkt v b htype => ?dataPlaced,
    fun port c pkt v w b htype hkind => ?resultPlaced, fun port c pkt v w b b' sm htype hkind => ?resultSummed,
    fun port c pkt v b b' sm htype => ?redoPassed⟩
  case ready =>
    exact gives_of_redCommand (fun _ _ => rfl) htype (redPacket_of_ready · c htype)
      (fun _ ⟨hjob, hepoch⟩ => ⟨_, Prod.ext rfl hjob, fun _ => hepoch, rfl⟩)
  case pull =>
    exact gives_of_redCommand (fun _ _ => rfl) htype (redPacket_of_pull · c htype)
      (fun _ ⟨hjob, hepoch⟩ => ⟨_, Prod.ext rfl hjob, fun _ => hepoch, rfl⟩)
  case data =>
    exact gives_of_redCommand (fun _ _ => rfl) htype (redPacket_of_data · c htype)
      (fun _ ⟨hjob, hepoch⟩ => ⟨_, Prod.ext rfl hjob, fun _ => hepoch, rfl⟩)
  case result =>
    exact gives_of_redCommand (fun _ _ => rfl) htype (redPacket_of_result · c htype)
      (fun _ hjob => ⟨_, Prod.ext rfl hjob, fun h => absurd h (by decide), rfl⟩)
  case redo =>
    exact gives_of_redCommand (fun _ _ => rfl) htype (redPacket_of_redo · c htype)
      (fun _ hjob => ⟨_, Prod.ext rfl hjob, fun h => absurd h (by decide), rfl⟩)
  case readyOpen =>
    exact gives_of_redCommand (fun _ _ => rfl) htype (redPacket_of_ready · c htype)
      (fun _ ⟨hjob, hepoch, hbucket, hcollect, hready, hwaits, htime⟩ => ⟨v, hjob, fun _ => hepoch,
        congrArg (State.wakeSums · c) (redReady_of_open hbucket hcollect hready hwaits htime)⟩)
  case pullNoted =>
    exact gives_of_redCommand (fun _ _ => rfl) htype (redPacket_of_pull · c htype)
      (fun _ ⟨hjob, hepoch, hbucket⟩ => ⟨v, hjob, fun _ => hepoch, congrArg (State.wakeSums · c) (redPull_of_bucket hbucket)⟩)
  case dataPlaced =>
    exact gives_of_redCommand (fun _ _ => rfl) htype (redPacket_of_data · c htype)
      (fun _ ⟨hjob, hepoch, hbucket⟩ => ⟨v, hjob, fun _ => hepoch, congrArg (State.wakeSums · c) (redData_of_bucket hbucket)⟩)
  case resultPlaced =>
    exact gives_of_redCommand (fun _ _ => rfl) htype (redPacket_of_result · c htype)
      (fun _ ⟨hjob, hbucket⟩ => ⟨v, hjob, fun h => absurd h (by decide),
        congrArg (State.wakeSums · c) (redResult_of_elements hkind hbucket)⟩)
  case resultSummed =>
    exact gives_of_redCommand (fun _ _ => rfl) htype (redPacket_of_result · c htype)
      (fun _ ⟨hjob, hbucket, hcollect⟩ => ⟨v, hjob, fun h => absurd h (by decide),
        congrArg (State.wakeSums · c) (redResult_of_summary hkind hbucket hcollect)⟩)
  case redoPassed =>
    exact gives_of_redCommand (fun _ _ => rfl) htype (redPacket_of_redo · c htype)
      (fun _ ⟨hjob, hbucket, hcollect⟩ => ⟨v, hjob, fun h => absurd h (by decide),
        congrArg (State.wakeSums · c) (redRedo_of_summary hbucket hcollect)⟩)

end Sys2Proof.Machine
end

section
/-! PROOFS. Ports: bring-up and TRAIN (R200 to R202, R205, R214, R361), lanes and PORT_CTRL (R202 to R204, R239), from which O13 and
O15. -/

namespace Sys2Proof.Machine

open Claims

/-! ### Bring-up (R200, R201, R205) -/

/-- Settles O13: each command by the branch that its condition selects. A port is either moving or not, so the two ways to lock and the
two ways to run out of time exclude each other. -/
theorem bringupCommands : Obligations.BringupCommands := by
  refine ⟨fun port => ?light, fun port lanes => ?lock, fun port lanes => ?lockMoved, fun port => ?timeout, fun port => ?timeoutMoved,
    fun port => ?retry, fun port payload hlen hversion => ?train⟩
  case light =>
    intro t s ⟨hmay, hdown⟩
    exact congrArg Host.Outcome.next (if_pos (Bool.and_eq_true_iff.mpr ⟨hmay, decide_eq_true hdown⟩))
  case lock =>
    intro t s ⟨hlive, hst, hlocked, hmoving, hlight⟩
    change execCodewordLock t port lanes s = _
    simp only [execCodewordLock, hlive, hst, hlocked, hmoving, hlight, setPort_fab, Bool.not_true, ne_eq, not_true_eq_false,
      Bool.false_eq_true, or_self, if_false, if_true]
  case lockMoved =>
    intro t s ⟨hlive, hst, hlocked, hmoving⟩
    change execCodewordLock t port lanes s = _
    simp only [execCodewordLock, hlive, hst, hlocked, hmoving, Bool.not_true, ne_eq, not_true_eq_false, Bool.false_eq_true, or_self,
      if_false, if_true]
  case timeout =>
    intro t s ⟨hst, hmoving, hdue⟩
    exact if_pos ⟨hst, by rw [hmoving, Bool.not_false], hdue⟩
  case timeoutMoved =>
    intro t s ⟨hmoving, hdue⟩
    refine (if_neg (fun h => ?_)).trans (if_pos ⟨hmoving, hdue⟩)
    obtain ⟨_, hstays, _⟩ := h
    rw [hmoving, Bool.not_true] at hstays
    exact Bool.false_ne_true hstays
  case retry =>
    intro t s ⟨hst, hdue, hmay⟩
    refine (if_pos ⟨hst, hdue⟩).trans ?_
    exact congrArg Host.Outcome.next (if_pos hmay)
  case train =>
    intro t s ⟨hlive, hst, hlocked, hmoving, hpeer, hlanes⟩
    change execTrain t port payload s = _
    simp only [execTrain, hlen, hversion, hlive, hst, hlocked, hmoving, hpeer, Nat.not_lt.mpr hlanes, Bool.not_true, ne_eq,
      not_true_eq_false, Bool.false_eq_true, or_self, if_false]

/-! ### Lanes and PORT_CTRL (R202 to R204, R239) -/

/-- The pages 0x200 to 0x21F are PORT pages. -/
theorem pageOf_of_port_range {i : Nat} (hlow : 0x200 ≤ i) (hhigh : i ≤ 0x21F) : pageOf i = .port (i - 0x200) := by
  simp only [pageOf]
  repeat rw [if_neg (by omega)]
  rw [if_pos ⟨hlow, hhigh⟩]

/-- The page of a port is its PORT page. -/
theorem pageOf_pgPort {port : Nat} (hport : port < 32) : pageOf (pgPort port) = .port port := by
  rw [pgPort, pageOf_of_port_range (by omega) (by omega), Nat.add_sub_cancel_left]

/-- An access to a page opens and closes none. -/
@[simp] theorem access_opens (s : State) (fn page f i : Nat) : (s.access fn page).opens f i = s.opens f i := rfl

/-- Every function that reaches a PORT page may write it. -/
theorem mayWrite_port (s : State) (fn off : Nat) {port : Nat} (hport : port < 32) : s.mayWrite fn (pgPort port) off = true := by
  simp only [State.mayWrite, pageOf_pgPort hport]

/-- A write to PORT_CTRL of a port whose page is open to the function. -/
theorem regWrite_portCtrl_of_opens {s : State} {fn port : Nat} (value : Nat) (hport : port < 32)
    (hopens : s.opens fn (pgPort port) = true) :
    s.regWrite fn (pgPort port) 0x48 value = (s.access fn (pgPort port)).writePort port 0x48 (value % 2 ^ 32) := by
  rw [regWrite_of_opens value (by decide) (by decide) (mayWrite_port _ fn _ hport) hopens]
  simp only [State.applyWrite, pageOf_pgPort hport, Nat.reduceLT, if_false]

/-- A command that writes PORT_CTRL of a port whose page is open to the function gives what that write does. -/
theorem gives_of_portCtrl {c : Nat → Instr} {fn port value : Nat} (hport : port < 32)
    (hexec : ∀ t s, exec (c t) s =
      .next (if port < 32 then (s.tick t).regWrite fn (pgPort port) 0x48 value else s.tick t)) :
    Gives c (fun s => s.opens fn (pgPort port) = true)
      (fun s => (s.access fn (pgPort port)).writePort port 0x48 (value % 2 ^ 32)) := by
  intro t s hopens
  rw [hexec, if_pos hport, regWrite_portCtrl_of_opens value hport hopens]

/-- Settles O15: the three commands that write PORT_CTRL by `gives_of_portCtrl`, every other one by its condition; what a write to
PORT_CTRL does is its definition. -/
theorem laneCommands : Obligations.LaneCommands := by
  refine ⟨fun port lane hlane => ?fail, fun port lane hlane => ?retry, fun port lane margin hlane hmargin => ?marginLow,
    fun port lane hlane => ?recalStart, fun port lane margin hlane => ?good, fun port lane margin hlane => ?bad,
    fun port pkt hlen => ?laneMap, fun fn port value hport => ⟨?recal, ?enable, ?off⟩, fun s port value => ?portCtrl⟩
  case fail => exact fun t s hst => if_pos ⟨hlane, hst⟩
  case retry =>
    intro t s ⟨hup, hst, hdue, hnone, hmin, hmax⟩
    exact if_pos ⟨hlane, hup, hst, hdue, by rw [hnone, Bool.not_false], hmin, hmax⟩
  case marginLow => exact fun t s hst => if_pos ⟨hlane, hst, hmargin⟩
  case recalStart =>
    intro t s ⟨hup, hasked, hst, hcoming, hnone⟩
    exact if_pos ⟨hlane, hup, List.contains_iff_mem.mpr hasked, hst, hcoming, by rw [hnone, Bool.not_false]⟩
  case good => exact fun t s hst => if_pos ⟨hlane, hst⟩
  case bad => exact fun t s hst => if_pos ⟨hlane, hst⟩
  case laneMap =>
    intro t s hadmit
    change execLaneMap t port pkt s = _
    simp only [execLaneMap, hadmit, hlen, Bool.not_true, ne_eq, not_true_eq_false, Bool.false_eq_true, if_false]
  case recal => exact gives_of_portCtrl hport (fun _ _ => rfl)
  case enable => exact gives_of_portCtrl hport (fun _ _ => rfl)
  case off => exact gives_of_portCtrl hport (fun _ _ => rfl)
  case portCtrl => rfl

end Sys2Proof.Machine
end

section
/-! PROOFS. Translation (R251, R252): where a translation leads, from which O57. -/

namespace Sys2Proof.Machine

/-- A leaf translates to the offset in its 64 KiB page, and to device memory in a frame that the module has (R252). -/
theorem leaf_offset_and_frame {s : State} {va e off : Nat} {big write : Bool} {x : Xlat} (h : s.leaf va e off big write = .ok x) :
    x.addr % 65536 = off % 65536 ∧ (x.host = false → x.addr / 65536 < s.frameCount) := by
  unfold State.leaf at h
  dsimp only at h
  split at h
  · cases h
  split at h
  · cases h
  split at h
  case isTrue htarget =>
    split at h
    · cases h
    · cases h
      exact ⟨by dsimp only; omega, nofun⟩
  case isFalse htarget =>
    split at h
    · cases h
    split at h
    · cases h
    next hframe =>
    split at h
    · cases h
    · cases h
      exact ⟨by dsimp only; omega, fun _ => by dsimp only; omega⟩

/-- A walk that ends in a translation ends in a leaf: of a 64 KiB or of a 2 MiB page, whose offsets agree within 64 KiB (R251). -/
theorem walk_offset_and_frame {s : State} {va : Nat} {write : Bool} {x : Xlat} (level table : Nat)
    (h : s.walk va write level table = .ok x) :
    x.addr % 65536 = va % 65536 ∧ (x.host = false → x.addr / 65536 < s.frameCount) := by
  induction level generalizing table with
  | zero =>
    simp only [State.walk] at h
    split at h
    · cases h
    split at h
    · cases h
    split at h
    · cases h
    · have hleaf := leaf_offset_and_frame h
      rwa [Nat.mod_mod] at hleaf
  | succ level ih =>
    simp only [State.walk] at h
    split at h
    · cases h
    split at h
    · cases h
    split at h
    · have hleaf := leaf_offset_and_frame h
      rwa [Nat.mod_mod_of_dvd va (by decide : 65536 ∣ 2097152)] at hleaf
    split at h
    · cases h
    · exact ih _ h

/-- Settles O57: an address beyond 57 bits by the definition of `State.translate`, every other one by `walk_offset_and_frame`. -/
theorem translationKeepsTheOffset : Obligations.TranslationKeepsTheOffset := by
  refine ⟨fun s c va write hwide => if_pos hwide, fun s c va write x h => ?_⟩
  unfold State.translate at h
  split at h
  · cases h
  · exact walk_offset_and_frame 4 _ h

end Sys2Proof.Machine
end

section
/-! PROOFS. A quench (R247, R250, R269, R270): what it does to the state and the generation of every slot, and that the quenches it
makes due come to an end, from which O28. -/

namespace Sys2Proof.Machine

/-! ### One quench -/

theorem SlotKept.trans {k : Nat} {s u v : State} (h : SlotKept k s u) (h' : SlotKept k u v) : SlotKept k s v :=
  ⟨h'.state.trans h.state, h'.gen.trans h.gen⟩

/-- A context is LIVE or DRAINING by its state alone. -/
theorem active_of_slotKept {k : Nat} {s u : State} (h : SlotKept k s u) : (u.ctx k).active = (s.ctx k).active := by
  simp only [Ctx.active, h.state]

theorem active_iff (x : Ctx) : x.active = true ↔ x.state = 1 ∨ x.state = 4 := by
  simp only [Ctx.active, Bool.or_eq_true, decide_eq_true_eq]

/-- A slot whose context is neither LIVE nor DRAINING is not quenched (R269). -/
theorem quenchOne_of_not_active {s : State} {c : Nat} (h : (s.ctx c).active = false) : s.quenchOne c = s := by
  refine if_neg (fun hrun => ?_)
  rw [(active_iff _).mpr hrun] at h
  cases h

/-- The context of a slot once its quench has begun (R270). -/
def Ctx.quenching (x : Ctx) : Ctx :=
  { x with
    state := 2, gen := (x.gen + 1) % 256, parked := [], overflow := false, saved := [], owes := false
    carries := [], segs := [], resegs := [], gathers := [], msgs := [], reload := none, invalGo := false, drained := false }

/-- The quench of a LIVE or DRAINING context changes state and generation of its slot in one update; all it does before and after leaves
them, in every slot. -/
theorem quenchOne_of_active {s : State} {c : Nat} (h : (s.ctx c).active = true) :
    ∃ v : State, ∀ k, SlotKept k s v ∧ SlotKept k (v.modCtx c Ctx.quenching) (s.quenchOne c) := by
  have hrun : (s.ctx c).state = 1 ∨ (s.ctx c).state = 4 := (active_iff _).mp h
  let v : State := { s with pcie := { s.pcie with waiting := s.pcie.waiting.filter (fun r => r.slot ≠ c) } }
  refine ⟨v.releaseCps.sendAborts c, fun k => ⟨?before, ?after⟩⟩
  case before =>
    have hwaiting : SlotKept k s v := ⟨rfl, rfl⟩
    exact State.sendAborts_slot (State.releaseCps_slot hwaiting) c
  case after =>
    unfold State.quenchOne
    extract_lets x src w released aborted quenching cores own queues exported breaks
    rw [if_pos hrun]
    have hcores : SlotKept k quenching cores := State.tidyCores_slot (State.freeCores_slot (SlotKept.refl k quenching) c)
    have hqueues : SlotKept k quenching queues :=
      SlotKept.foldl (fun u q hu => State.abortQueue_slot hu ⟨c, q⟩) (State.absentOwn_slot hcores c)
    have hbreaks : SlotKept k quenching breaks := State.clearBreaks_slot (State.abandonExports_slot hqueues c) c
    exact State.dropSeqs_slot (slot_mk_iff.mpr hbreaks.upd) _

/-- A LIVE or DRAINING context that is quenched is QUENCHING, one generation on (R247, R270). -/
theorem quenchOne_slot_same {s : State} {c : Nat} (h : (s.ctx c).active = true) :
    ((s.quenchOne c).ctx c).state = 2 ∧ ((s.quenchOne c).ctx c).gen = ((s.ctx c).gen + 1) % 256 := by
  obtain ⟨v, hv⟩ := quenchOne_of_active h
  obtain ⟨hbefore, hafter⟩ := hv c
  rw [hafter.state, hafter.gen, ctx_modCtx_same, ← hbefore.gen]
  exact ⟨rfl, rfl⟩

/-- A quench leaves state and generation of every other slot. -/
theorem quenchOne_slot_other (s : State) {c k : Nat} (hk : k ≠ c) : SlotKept k s (s.quenchOne c) := by
  cases h : (s.ctx c).active with
  | false => rw [quenchOne_of_not_active h]; exact SlotKept.refl k s
  | true =>
    obtain ⟨v, hv⟩ := quenchOne_of_active h
    obtain ⟨hbefore, hafter⟩ := hv k
    have hmod : SlotKept k v (v.modCtx c Ctx.quenching) := by
      constructor <;> rw [ctx_modCtx_other _ _ _ _ hk]
    exact hbefore.trans (hmod.trans hafter)

/-! ### The quenches that follow (R250) -/

/-- The first slot for which a quench is due. -/
def State.owed (s : State) : Option Nat :=
  (List.range 64).find? (fun c => (s.ctx c).owes && ((s.ctx c).state = 1 || (s.ctx c).state = 4))

theorem owed_spec {s : State} {c : Nat} (h : s.owed = some c) : c < 64 ∧ (s.ctx c).active = true := by
  obtain ⟨hdue, hmem⟩ := And.intro (List.find?_some h) (List.mem_of_find?_eq_some h)
  exact ⟨List.mem_range.mp hmem, (Bool.and_eq_true_iff.mp hdue).2⟩

theorem quenchOwed_of_none {s : State} (h : s.owed = none) (n : Nat) : State.quenchOwed n s = s := by
  cases n with
  | zero => rfl
  | succ n =>
    change (match s.owed with | some c => State.quenchOwed n (s.quenchOne c) | none => s) = s
    rw [h]

theorem quenchOwed_of_some {s : State} {c : Nat} (h : s.owed = some c) (n : Nat) :
    State.quenchOwed (n + 1) s = State.quenchOwed n (s.quenchOne c) := by
  change (match s.owed with | some c => State.quenchOwed n (s.quenchOne c) | none => s) = _
  rw [h]

/-- The quenches that follow leave a slot that is neither LIVE nor DRAINING. -/
theorem quenchOwed_slot {k : Nat} (n : Nat) {s : State} (hk : (s.ctx k).active = false) : SlotKept k s (State.quenchOwed n s) := by
  induction n generalizing s with
  | zero => exact SlotKept.refl k s
  | succ n ih =>
    cases h : s.owed with
    | none => rw [quenchOwed_of_none h]; exact SlotKept.refl k s
    | some c =>
      have hne : k ≠ c := by
        rintro rfl
        rw [(owed_spec h).2] at hk
        cases hk
      have hone := quenchOne_slot_other s hne
      rw [quenchOwed_of_some h]
      exact hone.trans (ih ((active_of_slotKept hone).trans hk))

/-- The slots that a quench may yet take. -/
def State.activeSlots (s : State) : List Nat := (List.range 64).filter (fun c => (s.ctx c).active)

theorem mem_activeSlots {s : State} {k : Nat} : k ∈ s.activeSlots ↔ k < 64 ∧ (s.ctx k).active = true := by
  rw [State.activeSlots, List.mem_filter, List.mem_range]

/-- A quench takes its own slot from them and leaves the others. -/
theorem activeSlots_quenchOne {s : State} {c : Nat} (hc : (s.ctx c).active = true) :
    (s.quenchOne c).activeSlots = s.activeSlots.filter (fun k => decide (k ≠ c)) := by
  rw [State.activeSlots, State.activeSlots, List.filter_filter]
  refine List.filter_congr (fun k _ => ?_)
  by_cases hk : k = c
  · have hstate := (quenchOne_slot_same hc).1
    rw [hk, Ctx.active, hstate, decide_eq_false (not_not_intro rfl), Bool.false_and]
    rfl
  · rw [active_of_slotKept (quenchOne_slot_other s hk), decide_eq_true hk, Bool.true_and]

/-- Each quench takes one of them and adds none. -/
theorem length_activeSlots_quenchOne {s : State} {c : Nat} (hc : c ∈ s.activeSlots) :
    (s.quenchOne c).activeSlots.length < s.activeSlots.length := by
  rw [activeSlots_quenchOne (mem_activeSlots.mp hc).2]
  exact List.length_filter_lt_length_iff_exists.mpr ⟨c, hc, fun h => of_decide_eq_true h rfl⟩

/-- With a step for each slot that a quench may take, no quench is due at the end. -/
theorem owed_quenchOwed (n : Nat) {s : State} (hn : s.activeSlots.length ≤ n) : (State.quenchOwed n s).owed = none := by
  induction n generalizing s with
  | zero =>
    cases h : s.owed with
    | none => exact h
    | some c =>
      have hmem : c ∈ s.activeSlots := mem_activeSlots.mpr (owed_spec h)
      exact absurd hn (Nat.not_le.mpr (List.length_pos_of_mem hmem))
  | succ n ih =>
    cases h : s.owed with
    | none => rw [quenchOwed_of_none h]; exact h
    | some c =>
      rw [quenchOwed_of_some h]
      have := length_activeSlots_quenchOne (mem_activeSlots.mpr (owed_spec h))
      exact ih (by omega)

/-- No quench is due after the 64 that may follow one another. -/
theorem owed_settleOwed (s : State) : s.settleOwed.owed = none :=
  owed_quenchOwed 64 (Nat.le_trans (List.length_filter_le _ _) (Nat.le_of_eq List.length_range))

/-- Settles O28: the state and the generation by `quenchOne_slot_same`, which the quenches that follow leave; a second quench finds the
context neither LIVE nor DRAINING, and no other quench due. -/
theorem quenchRaisesTheGeneration : Obligations.QuenchRaisesTheGeneration := by
  intro s c hrun
  obtain ⟨hstate, hgen⟩ := quenchOne_slot_same ((active_iff _).mpr hrun)
  have hended : ((s.quenchOne c).ctx c).active = false := by rw [Ctx.active, hstate]; rfl
  have hkept : SlotKept c (s.quenchOne c) (s.quench c) := quenchOwed_slot 64 hended
  refine ⟨hkept.state.trans hstate, hkept.gen.trans hgen, ?_⟩
  have hsame : (s.quench c).quenchOne c = s.quench c := quenchOne_of_not_active ((active_of_slotKept hkept).trans hended)
  rw [State.quench, hsame]
  exact quenchOwed_of_none (owed_settleOwed _) 64

end Sys2Proof.Machine
end

section
/-! PROOFS. What accesses to device memory leave of the keys (R301 to R304, R310 to R318): no read, write, migration or pin changes
them. -/

namespace Sys2Proof.Machine

/-- The keys of memory: those of the key slots, the table key and the reserve key (R301). -/
def Mem.keyring (m : Mem) : SMap Nat × Nat × Nat := (m.keySlots, m.tableKey, m.reserveKey)

/-- The counts of migrations and the pause after a cancelled one are no keys. -/
theorem keyring_with_migrations (m : Mem) (done cancelled : Nat) (cooldown : SMap Nat) :
    ({ m with migDone := done, migCancel := cancelled, cooldown } : Mem).keyring = m.keyring := rfl

/-- An operation that leaves the keys, done for each element of a list, leaves them. -/
theorem foldl_keyring {α : Type} {f : State → α → State} (hf : ∀ s a, (f s a).mem.keyring = s.mem.keyring) (l : List α)
    (s : State) : (l.foldl f s).mem.keyring = s.mem.keyring := foldl_kept (fun u : State => u.mem.keyring) hf l s

/-! ### Flags and records leave memory -/

theorem foldl_mem {α : Type} {f : State → α → State} (hf : ∀ s a, (f s a).mem = s.mem) (l : List α) (s : State) :
    (l.foldl f s).mem = s.mem := foldl_kept State.mem hf l s

@[simp] theorem raise_mem (s : State) (i bits : Nat) : (s.raise i bits).mem = s.mem := by
  unfold State.raise
  split
  · simp only [State.sendRise]
    split
    · refine foldl_mem (fun u v => ?_) _ _
      split
      · unfold State.slotVector
        split <;> rfl
      · rfl
    · split <;> rfl
  · rfl

@[simp] theorem push_mem (s : State) (kind value : Nat) : (s.push kind value).mem = s.mem := by
  refine foldl_mem (fun u c => ?_) _ s
  split <;> rfl

@[simp] theorem latchErr_mem (s : State) (i cls code : Nat) (ctx : Option (Nat × Nat)) (info : Nat) :
    (s.latchErr i cls code ctx info).mem = s.mem := by
  unfold State.latchErr
  split <;> rfl

@[simp] theorem logRas_mem (s : State) (page cls code : Nat) (ctx : Option Nat) (info : Nat) :
    (s.logRas page cls code ctx info).mem = s.mem := by
  unfold State.logRas
  split
  · rfl
  · simp only [push_mem, raise_mem, latchErr_mem]

@[simp] theorem perf_mem (s : State) (ev slot op tag n : Nat) : (s.perf ev slot op tag n).mem = s.mem := by
  unfold State.perf
  split
  · rfl
  · refine foldl_mem (fun u i => ?_) _ s
    dsimp only
    split
    · split
      · exact raise_mem _ _ _
      · rfl
    · rfl

/-! ### Lines, counters and their caches -/

@[simp] theorem evict_keyring (m : Mem) (e : Cstr × Bool) : (m.evict e).keyring = m.keyring := by
  unfold Mem.evict
  dsimp only
  split
  · rfl
  · split
    · split <;> rfl
    · split <;> rfl
    · rfl

@[simp] theorem bring_keyring (s : State) (c : Cstr) (dirty : Bool) : (s.bring c dirty).mem.keyring = s.mem.keyring := by
  unfold State.bring
  split
  · split <;> rfl
  · extract_lets mine v v2 u src
    have hroom : u.mem.keyring = s.mem.keyring := by
      unfold u
      split
      · rfl
      · split
        · exact evict_keyring _ _
        · rfl
    exact hroom

@[simp] theorem fill_keyring (s : State) (replay write : Bool) (ln : Nat) : (s.fill replay write ln).mem.keyring = s.mem.keyring := by
  have hpath : ∀ (l : List Cstr) (u : State), (l.foldl (fun s c => s.bring c false) u).mem.keyring = u.mem.keyring :=
    foldl_keyring (fun u c => bring_keyring u c false)
  unfold State.fill
  dsimp only
  split
  · exact bring_keyring _ _ _
  · split <;> simp only [bring_keyring, hpath]

@[simp] theorem fillAt_keyring (s : State) (replay write : Bool) (fa n : Nat) :
    (s.fillAt replay write fa n).mem.keyring = s.mem.keyring := by
  refine foldl_keyring (fun u p => ?_) _ s
  exact fill_keyring u replay write (p.1 / 128)

@[simp] theorem setLine_keyring (s : State) (ln : Nat) (l : Line) : (s.setLine ln l).mem.keyring = s.mem.keyring := rfl

@[simp] theorem setBlock_keyring (s : State) (b : Nat) (x : Block) : (s.setBlock b x).mem.keyring = s.mem.keyring := rfl

@[simp] theorem bumpFver_keyring (s : State) (f n : Nat) : (s.bumpFver f n).mem.keyring = s.mem.keyring := rfl

@[simp] theorem setBytes_keyring (s : State) (fa : Nat) (d : Bytes) : (s.setBytes fa d).mem.keyring = s.mem.keyring := by
  induction d generalizing s fa with
  | nil => rfl
  | cons b bs ih => exact ih (s.setByte fa b) (fa + 1)

@[simp] theorem annealKey_keyring (s : State) (key : Nat) : (s.annealKey key).mem.keyring = s.mem.keyring := by
  refine foldl_keyring (fun u c => foldl_keyring (fun v r => ?_) _ u) _ s
  unfold State.queueAnneal
  dsimp only
  split <;> rfl

@[simp] theorem poisonFailing_keyring (s : State) (b key : Nat) : (s.poisonFailing b key).mem.keyring = s.mem.keyring := by
  refine foldl_keyring (fun u ln => ?_) _ s
  split
  · split <;> rfl
  · rfl

@[simp] theorem reencrypt_keyring (s : State) (b key : Nat) : (s.reencrypt b key).mem.keyring = s.mem.keyring := by
  have hpoisoned := poisonFailing_keyring s b key
  unfold State.reencrypt
  generalize s.poisonFailing b key = u at hpoisoned ⊢
  dsimp only
  split
  · rw [annealKey_keyring, logRas_mem, raise_mem]
    exact hpoisoned
  · exact hpoisoned

@[simp] theorem initBlock_keyring (s : State) (b key : Nat) : (s.initBlock b key).mem.keyring = s.mem.keyring := by
  unfold State.initBlock
  dsimp only
  rw [setBlock_keyring]
  split
  · exact reencrypt_keyring s b key
  · rfl

@[simp] theorem countWrite_keyring (s : State) (ln key : Nat) : (s.countWrite ln key).mem.keyring = s.mem.keyring := by
  unfold State.countWrite
  dsimp only
  rw [bumpFver_keyring, setBlock_keyring]
  split
  · exact reencrypt_keyring s _ key
  · rfl

@[simp] theorem lineWrite_keyring (s : State) (key fa : Nat) (replay : Bool) (d : Bytes) :
    (s.lineWrite key replay fa d).1.mem.keyring = s.mem.keyring := by
  unfold State.lineWrite
  dsimp only
  split
  · rfl
  · split
    · rfl
    · split
      · split
        · split <;> rfl
        · split <;> simp only [setBytes_keyring, setLine_keyring, countWrite_keyring]
      · split <;> simp only [setBytes_keyring, setLine_keyring, countWrite_keyring] <;> rfl

@[simp] theorem putHeld_keyring (s : State) (w : HeldWrite) : (s.putHeld w).1.mem.keyring = s.mem.keyring := by
  unfold State.putHeld
  split
  · rfl
  · rfl
  · exact lineWrite_keyring _ _ _ _ _

@[simp] theorem heldWrites_keyring (s : State) (m : Migration) : (s.heldWrites m).mem.keyring = s.mem.keyring :=
  foldl_keyring putHeld_keyring _ s

@[simp] theorem poison_keyring (s : State) (ln : Nat) : (s.poison ln).mem.keyring = s.mem.keyring := by
  unfold State.poison
  split <;> rfl

/-! ### Frames, retired locations and migrations -/

@[simp] theorem place_keyring (s : State) (f : Nat) (b : Backing) : (s.place f b).mem.keyring = s.mem.keyring := by
  unfold State.place
  dsimp only
  split <;> split <;> rfl

@[simp] theorem startMoves_keyring (s : State) : s.startMoves.mem.keyring = s.mem.keyring := by
  refine foldl_keyring (fun u f => ?_) _ s
  split
  · rfl
  · split <;> rfl

@[simp] theorem retireLocation_keyring (s : State) (mcx pg : Nat) (frame : Option Nat) :
    (s.retireLocation mcx pg frame).mem.keyring = s.mem.keyring := by
  unfold State.retireLocation
  split
  · dsimp only
    rw [raise_mem, raise_mem]
    split
    · split
      · exact startMoves_keyring _
      · rfl
    · rfl
  · rw [logRas_mem, raise_mem]

@[simp] theorem correctedAt_keyring (s : State) (mcx pg : Nat) (frame : Option Nat) :
    (s.correctedAt mcx pg frame).mem.keyring = s.mem.keyring := by
  unfold State.correctedAt
  dsimp only
  split
  · split <;> simp only [retireLocation_keyring, logRas_mem, setMc_mem]
  · split <;> simp only [retireLocation_keyring, logRas_mem, setMc_mem, State.draw]

@[simp] theorem uncorrectableAt_keyring (s : State) (ctx : Option (Option Nat)) (ln : Nat) :
    (s.uncorrectableAt ctx ln).mem.keyring = s.mem.keyring := by
  unfold State.uncorrectableAt
  split
  · rfl
  · dsimp only
    rw [retireLocation_keyring, poison_keyring]
    split <;> simp only [logRas_mem, raise_mem, setMc_mem] <;> rfl

@[simp] theorem corrections_keyring (s : State) (fa n : Nat) : (s.corrections fa n).mem.keyring = s.mem.keyring := by
  unfold State.corrections
  split
  · rfl
  · refine foldl_keyring (fun u p => ?_) _ s
    dsimp only
    split
    · split
      · exact correctedAt_keyring _ _ _ _
      · rfl
    · rfl

@[simp] theorem noteHold_keyring (s : State) (m : Migration) : (s.noteHold m).mem.keyring = s.mem.keyring := by
  unfold State.noteHold
  split
  · rfl
  · rw [perf_mem]
    rfl

@[simp] theorem copyErrors_keyring (s : State) (f : Nat) : (s.copyErrors f).mem.keyring = s.mem.keyring :=
  foldl_keyring (fun u ln => uncorrectableAt_keyring u none ln) _ s

@[simp] theorem dropLines_keyring (s : State) (f : Nat) : (s.dropLines f).mem.keyring = s.mem.keyring :=
  foldl_kept Mem.keyring evict_keyring _ s.mem

@[simp] theorem endMigration_keyring (s : State) (m : Migration) : (s.endMigration m).mem.keyring = s.mem.keyring := by
  simp only [State.endMigration, startMoves_keyring, heldWrites_keyring, noteHold_keyring]
  rfl

@[simp] theorem cancelMigration_keyring (s : State) (m : Migration) : (s.cancelMigration m).mem.keyring = s.mem.keyring :=
  (endMigration_keyring _ m).trans (keyring_with_migrations s.mem s.mem.migDone _ _)

@[simp] theorem switchTo_keyring (s : State) (m : Migration) : (s.switchTo m).mem.keyring = s.mem.keyring := by
  unfold State.switchTo
  extract_lets u
  have hcopied : u.mem.keyring = s.mem.keyring := by rw [dropLines_keyring, copyErrors_keyring]
  split
  · exact hcopied
  · extract_lets v
    have hplaced : v.mem.keyring = s.mem.keyring := (place_keyring _ _ _).trans hcopied
    have hcounted := keyring_with_migrations v.mem (wrapAdd 64 v.mem.migDone 1) v.mem.migCancel v.mem.cooldown
    exact (endMigration_keyring _ m).trans (hcounted.trans hplaced)

@[simp] theorem makeRoom_keyring (s : State) (tier : Nat) : (s.makeRoom tier).mem.keyring = s.mem.keyring := by
  unfold State.makeRoom
  split
  · rfl
  · dsimp only
    split
    · exact switchTo_keyring _ _
    · rfl

@[simp] theorem toTier_keyring (s : State) (f tier : Nat) : (s.toTier f tier).mem.keyring = s.mem.keyring := by
  have hdraw (u : State) : u.draw.2.mem = u.mem := rfl
  unfold State.toTier
  split
  · rfl
  · split
    · rfl
    · simp only [switchTo_keyring, hdraw, makeRoom_keyring]
  · split
    · split
      · rfl
      · exact cancelMigration_keyring _ _
    · split
      · exact switchTo_keyring _ _
      · simp only [switchTo_keyring, hdraw, makeRoom_keyring]

/-! ### Pins, and frames that are given back -/

@[simp] theorem notePin_keyring (s : State) (c va f pin : Nat) : (s.notePin c va f pin).mem.keyring = s.mem.keyring := by
  unfold State.notePin
  extract_lets near
  split
  · rfl
  · split
    · rfl
    · split
      · exact toTier_keyring _ _ _
      · split
        · rfl
        · rw [raise_mem]
          rfl

@[simp] theorem honourPins_keyring (s : State) : s.honourPins.mem.keyring = s.mem.keyring := by
  refine foldl_keyring (fun u p => ?_) _ s
  split
  · exact toTier_keyring _ _ _
  · rfl

@[simp] theorem honourPins_ctxs (s : State) : s.honourPins.ctxs = s.ctxs := by
  refine foldl_ctxs (fun u p => ?_) _ s
  split
  · exact toTier_ctxs _ _ _
  · rfl

@[simp] theorem dropPins_keyring (s : State) (gone : Pin → Bool) : (s.dropPins gone).mem.keyring = s.mem.keyring := by
  unfold State.dropPins
  split
  · exact honourPins_keyring _
  · rfl

@[simp] theorem dropPins_ctxs (s : State) (gone : Pin → Bool) : (s.dropPins gone).ctxs = s.ctxs := by
  unfold State.dropPins
  split
  · exact honourPins_ctxs _
  · rfl

@[simp] theorem cancelMove_keyring (s : State) (f : Nat) : (s.cancelMove f).mem.keyring = s.mem.keyring := by
  unfold State.cancelMove
  split
  · exact cancelMigration_keyring _ _
  · rfl

@[simp] theorem cancelMove_ctxs (s : State) (f : Nat) : (s.cancelMove f).ctxs = s.ctxs := by
  unfold State.cancelMove
  split
  · exact cancelMigration_ctxs _ _
  · rfl

@[simp] theorem dropCounts_mem (s : State) (f : Nat) : (s.dropCounts f).mem = s.mem := by
  unfold State.dropCounts
  split <;> rfl

@[simp] theorem dropCounts_ctxs (s : State) (f : Nat) : (s.dropCounts f).ctxs = s.ctxs := by
  unfold State.dropCounts
  split <;> rfl

@[simp] theorem unback_keyring (s : State) (f : Nat) : (s.unback f).mem.keyring = s.mem.keyring := by
  have hreleased : ((s.cancelMove f).dropCounts f).mem.keyring = s.mem.keyring := by rw [dropCounts_mem, cancelMove_keyring]
  exact (dropPins_keyring _ _).trans hreleased

@[simp] theorem unback_ctxs (s : State) (f : Nat) : (s.unback f).ctxs = s.ctxs := by
  simp only [State.unback, dropPins_ctxs, dropCounts_ctxs, cancelMove_ctxs]

/-! ### Writes to device memory -/

@[simp] theorem back_keyring (s : State) (f key : Nat) (replay : Bool) : (s.back f key replay).mem.keyring = s.mem.keyring := by
  unfold State.back
  split
  · rfl
  · extract_lets k cls near s1 p tier v s2
    have hroom : s1.mem.keyring = s.mem.keyring := by
      unfold s1
      split
      · exact makeRoom_keyring s 0
      · rfl
    have hplaced : s2.mem.keyring = s.mem.keyring := (place_keyring _ _ _).trans hroom
    split
    · refine (bumpFver_keyring _ _ _).trans ((foldl_keyring (fun u i => ?_) _ s2).trans hplaced)
      exact initBlock_keyring u (4 * f + i) key
    · exact hplaced

@[simp] theorem physPiece_keyring (s : State) (key fa : Nat) (replay : Bool) (d : Bytes) :
    (s.physPiece key replay fa d).1.mem.keyring = s.mem.keyring := by
  unfold State.physPiece
  dsimp only
  split
  · exact back_keyring s _ _ _
  · rw [lineWrite_keyring, back_keyring]

@[simp] theorem physWrite_keyring (s : State) (key fa : Nat) (replay : Bool) (d : Bytes) :
    (s.physWrite key replay fa d).1.mem.keyring = s.mem.keyring :=
  untilStop_induction (P := fun u => u.mem.keyring = s.mem.keyring) rfl (fun u hu _ _ => (physPiece_keyring u _ _ _ _).trans hu)

@[simp] theorem setHostBytes_keyring (s : State) (x : Nat) (d : Bytes) : (s.setHostBytes x d).mem.keyring = s.mem.keyring := by
  induction d generalizing s x with
  | nil => rfl
  | cons b bs ih => exact ih _ (x + 1)

@[simp] theorem noteClass_keyring (s : State) (f pte : Nat) (desc : Option Nat) :
    (s.noteClass f pte desc).mem.keyring = s.mem.keyring := rfl

@[simp] theorem noteLines_keyring (s : State) (replay write : Bool) (fa n : Nat) :
    (s.noteLines replay write fa n).mem.keyring = s.mem.keyring := by
  rw [State.noteLines, fillAt_keyring, corrections_keyring]
  rfl

end Sys2Proof.Machine
end

section
/-! PROOFS. What a quench (R250, R269, R270), and with it every end of a context, leaves of what the module holds against the host: the
endpoint's functions and sessions, the keys of memory and the sessions that slots are bound to (R301, R341 to R344). -/

namespace Sys2Proof.Machine

/-- The endpoint but for the requests it makes of the host and the transfers it keeps, the keys of memory, and the session each slot is
bound to. -/
def State.secured (s : State) : Pcie × (SMap Nat × Nat × Nat) × (Nat → Option Nat) :=
  ({ s.pcie with reads := [], waiting := [], xfers := [] }, s.mem.keyring, fun c => (s.ctx c).session)

/-- What leaves the endpoint and the contexts, and the keys of memory, leaves what is secured. -/
theorem secured_of_beside {s u : State} (hbeside : u.beside = s.beside) (hctxs : u.ctxs = s.ctxs)
    (hkeys : u.mem.keyring = s.mem.keyring) : u.secured = s.secured := by
  have hpcie : u.pcie = s.pcie := (congrArg State.pcie hbeside : u.beside.pcie = s.beside.pcie)
  simp only [State.secured, State.ctx, hpcie, hctxs, hkeys]

theorem foldl_secured {α : Type} {f : State → α → State} (hf : ∀ s a, (f s a).secured = s.secured) (l : List α) (s : State) :
    (l.foldl f s).secured = s.secured := foldl_kept State.secured hf l s

/-- The same of a fold whose state is the first of a pair. -/
theorem foldl_fst_secured {α β : Type} {f : State × β → α → State × β} (hf : ∀ r a, (f r a).1.secured = r.1.secured) (l : List α)
    (r : State × β) : (l.foldl f r).1.secured = r.1.secured := foldl_kept (fun r : State × β => r.1.secured) hf l r

/-! ### Updates and accesses -/

/-- A change of a context that keeps its binding leaves what is secured. -/
theorem modCtx_secured (s : State) (c : Nat) {f : Ctx → Ctx} (hf : ∀ x, (f x).session = x.session) :
    (s.modCtx c f).secured = s.secured := by
  refine Prod.ext rfl (Prod.ext rfl (funext fun k => ?_))
  change ((s.modCtx c f).ctx k).session = (s.ctx k).session
  by_cases hk : k = c
  · rw [hk, ctx_modCtx_same, hf]
  · rw [ctx_modCtx_other _ _ _ _ hk]

/-- A step's statistics are booked beside the binding. -/
@[simp] theorem book_session (x : Ctx) (n : Nat) (f : Stats → Stats) : (x.book n f).session = x.session := by
  unfold Ctx.book
  split <;> rfl

@[simp] theorem modQueue_secured (s : State) (q : QRef) (f : Queue → Queue) : (s.modQueue q f).secured = s.secured := by
  rw [State.modQueue, State.setQueue, modCtx_secured]
  exact fun _ => rfl

@[simp] theorem setCore_secured (s : State) (k : Nat) (x : Core) : (s.setCore k x).secured = s.secured := rfl

@[simp] theorem modPort_secured (s : State) (q : Nat) (f : Port → Port) : (s.modPort q f).secured = s.secured := rfl

@[simp] theorem setPort_secured (s : State) (q : Nat) (x : Port) : (s.setPort q x).secured = s.secured := rfl

@[simp] theorem setBucket_secured (s : State) (b : Bucket) : (s.setBucket b).secured = s.secured := rfl

@[simp] theorem emit_secured (s : State) (o : Out) : (s.emit o).secured = s.secured := rfl

@[simp] theorem draw_secured (s : State) : s.draw.2.secured = s.secured := rfl

@[simp] theorem tidyCores_secured (s : State) : s.tidyCores.secured = s.secured := rfl

/-- A change of memory that leaves its keys. -/
theorem secured_with_mem (s : State) {m : Mem} (hkeys : m.keyring = s.mem.keyring) : ({ s with mem := m } : State).secured = s.secured := by
  simp only [State.secured, State.ctx, hkeys]

theorem secured_with_waiting (s : State) (l : List HostRead) :
    ({ s with pcie := { s.pcie with waiting := l } } : State).secured = s.secured := rfl

theorem secured_with_fab (s : State) (f : Fabric) : ({ s with fab := f } : State).secured = s.secured := rfl

@[simp] theorem raise_secured (s : State) (i bits : Nat) : (s.raise i bits).secured = s.secured :=
  secured_of_beside (raise_beside s i bits) (raise_ctxs s i bits) (congrArg Mem.keyring (raise_mem s i bits))

@[simp] theorem notePin_secured (s : State) (c va f pin : Nat) : (s.notePin c va f pin).secured = s.secured :=
  secured_of_beside (notePin_beside s c va f pin) (notePin_ctxs s c va f pin) (notePin_keyring s c va f pin)

@[simp] theorem noteClass_secured (s : State) (f pte : Nat) (desc : Option Nat) : (s.noteClass f pte desc).secured = s.secured := rfl

@[simp] theorem noteLines_secured (s : State) (replay write : Bool) (fa n : Nat) : (s.noteLines replay write fa n).secured = s.secured :=
  secured_of_beside (noteLines_beside s replay write fa n) (noteLines_ctxs s replay write fa n) (noteLines_keyring s replay write fa n)

@[simp] theorem physWrite_secured (s : State) (key fa : Nat) (replay : Bool) (d : Bytes) :
    (s.physWrite key replay fa d).1.secured = s.secured :=
  secured_of_beside (physWrite_beside s key fa replay d) (physWrite_ctxs s key fa replay d) (physWrite_keyring s key fa replay d)

@[simp] theorem unback_secured (s : State) (f : Nat) : (s.unback f).secured = s.secured :=
  secured_of_beside (unback_beside s f) (unback_ctxs s f) (unback_keyring s f)

@[simp] theorem dropPins_secured (s : State) (gone : Pin → Bool) : (s.dropPins gone).secured = s.secured :=
  secured_of_beside (dropPins_beside s gone) (dropPins_ctxs s gone) (dropPins_keyring s gone)

@[simp] theorem setHostBytes_secured (s : State) (x : Nat) (d : Bytes) : (s.setHostBytes x d).secured = s.secured :=
  secured_of_beside (setHostBytes_beside s x d) (setHostBytes_ctxs s x d) (setHostBytes_keyring s x d)

/-- The lines a context has read and written are counted beside its binding. -/
theorem tally_secured (s : State) (c i n : Nat) : (s.modCtx c (fun x => x.tally i n)).secured = s.secured := by
  rw [modCtx_secured]
  exact fun _ => rfl

@[simp] theorem touchPiece_secured (s : State) (c : Nat) (desc : Option Nat) (written : Bool) (p : Nat × Nat) :
    (s.touchPiece c desc written p).secured = s.secured := by
  unfold State.touchPiece
  split
  · rfl
  · split
    · rfl
    · dsimp only
      split
      · rw [noteClass_secured, notePin_secured]
      · rw [tally_secured, noteLines_secured, noteClass_secured, notePin_secured]

@[simp] theorem meet_secured (s : State) (c va n : Nat) : (s.meet c va n).secured = s.secured :=
  foldl_secured (fun u p => touchPiece_secured u c none false p) _ s

@[simp] theorem storePiece_secured (s : State) (c va : Nat) (d : Bytes) (t : Nat × Nat × Xlat) :
    (s.storePiece c va d t).1.secured = s.secured := by
  unfold State.storePiece
  extract_lets chunk x k f w
  split
  · refine (foldl_secured (fun u p => ?_) _ _).trans (setHostBytes_secured s _ _)
    exact emit_secured u _
  · have hwritten : w.1.secured = s.secured := by simp only [w, physWrite_secured, noteClass_secured, notePin_secured]
    exact (tally_secured _ _ _ _).trans ((noteLines_secured _ _ _ _ _).trans hwritten)

@[simp] theorem vwrite_secured (s : State) (c va : Nat) (d : Bytes) (u : HostUse) : (s.vwrite c va d u).1.secured = s.secured := by
  unfold State.vwrite State.vwriteAt
  split
  · rfl
  · exact untilStop_induction (P := fun w => w.secured = s.secured) rfl (fun w hw t _ => (storePiece_secured w c va d t).trans hw)

/-- A write of a context, whose outcome is given, leaves what is secured. -/
theorem secured_of_vwrite {s u : State} {c va : Nat} {d : Bytes} {h : HostUse} {e : Option Acc} (hw : s.vwrite c va d h = (u, e)) :
    u.secured = s.secured := by
  have hkept := vwrite_secured s c va d h
  rw [hw] at hkept
  exact hkept

/-! ### Work on the cores (R150, R151, R168, R283, R293, R299) -/

@[simp] theorem saveWork_secured (s : State) (k c : Nat) : (s.saveWork k c).secured = s.secured := by
  unfold State.saveWork
  dsimp only
  split
  · rfl
  · split
    · next hw =>
      rw [modCtx_secured, secured_of_vwrite hw, draw_secured, setCore_secured]
      exact fun _ => rfl
    · next hw =>
      rw [modCtx_secured, secured_of_vwrite hw, draw_secured, setCore_secured]
      exact fun _ => rfl

@[simp] theorem readSave_secured (s : State) (k c va : Nat) (y : Core) : (s.readSave k c va y).secured = s.secured := by
  unfold State.readSave
  dsimp only
  split
  · rw [setCore_secured, meet_secured]
  · rw [modCtx_secured, meet_secured]
    exact fun _ => rfl

@[simp] theorem restoreWork_secured (s : State) (k c : Nat) : (s.restoreWork k c).secured = s.secured := by
  unfold State.restoreWork
  split
  · rfl
  · rw [State.takeBack, readSave_secured, draw_secured, draw_secured, modCtx_secured]
    exact fun _ => rfl

@[simp] theorem endSprig_secured (s : State) (k : Nat) : (s.endSprig k).secured = s.secured := by
  unfold State.endSprig
  split
  · rfl
  · dsimp only
    split
    · rw [restoreWork_secured, setCore_secured, saveWork_secured, modCtx_secured]
      exact fun _ => rfl
    · rw [setCore_secured, saveWork_secured, modCtx_secured]
      exact fun _ => rfl

@[simp] theorem cutSprig_secured (s : State) (k c : Nat) : (s.cutSprig k c).secured = s.secured :=
  (setCore_secured _ k _).trans (modCtx_secured s c (fun _ => by rfl))

@[simp] theorem freeCore_secured (s : State) (k : Nat) : (s.freeCore k).secured = s.secured := by
  unfold State.freeCore
  dsimp only
  split
  · rw [raise_secured, setCore_secured]
  · exact setCore_secured s k _

@[simp] theorem charge_secured (s : State) : s.charge.secured = s.secured := by
  unfold State.charge
  dsimp only
  refine (foldl_secured (fun u p => ?_) _ _).trans rfl
  split
  · exact modCtx_secured u _ (fun _ => by rfl)
  · rfl

@[simp] theorem freeCores_secured (s : State) (c : Nat) : (s.freeCores c).secured = s.secured := by
  refine (foldl_secured (fun u k => ?_) _ _).trans (charge_secured s)
  split
  · dsimp only
    rw [freeCore_secured]
    split
    · split
      · exact cutSprig_secured u k c
      · exact endSprig_secured u k
    · rfl
  · split
    · split
      · rw [restoreWork_secured, cutSprig_secured]
      · exact cutSprig_secured u k c
    · rfl

/-! ### Packets and reductions (R208, R216, R226 to R231, R358) -/

@[simp] theorem enqueue_secured (s : State) (q : Nat) (p : Packet) : (s.enqueue q p).secured = s.secured := rfl

@[simp] theorem sendOn_secured (s : State) (c : Nat) (p : Packet) : (s.sendOn c p).secured = s.secured := by
  have hsay (q job digest : Nat) : (s.sayDigest q job digest).secured = s.secured := by
    unfold State.sayDigest
    dsimp only
    split
    · rfl
    · exact (enqueue_secured _ _ _).trans (setPort_secured s q _)
  unfold State.sendOn
  split
  · rfl
  · exact enqueue_secured s _ p
  · dsimp only
    split
    · rw [enqueue_secured, hsay]
    · rw [modPort_secured, hsay]

@[simp] theorem sendFor_secured (s : State) (c : Nat) (p : Packet) : (s.sendFor c p).secured = s.secured := by
  unfold State.sendFor
  dsimp only
  split
  · rfl
  · rw [modCtx_secured, sendOn_secured]
    exact fun _ => rfl

@[simp] theorem sendAborts_secured (s : State) (c : Nat) : (s.sendAborts c).secured = s.secured := by
  refine foldl_secured (fun u m => ?_) _ s
  dsimp only
  rw [sendFor_secured, draw_secured]

@[simp] theorem sendPart_secured (s : State) (c : Nat) (p : Packet) (off fin : Nat) (d : Bytes) :
    (s.sendPart c p off fin d).secured = s.secured :=
  foldl_fst_secured (fun r _ => sendFor_secured r.1 c _) _ (s, off)

@[simp] theorem sendStream_secured (s : State) (c : Nat) (p : Packet) (off : Nat) (d : Bytes) : (s.sendStream c p off d).secured = s.secured :=
  sendPart_secured s c p off _ d

@[simp] theorem broadcast_secured (s : State) (b : Bucket) : (s.broadcast b).secured = s.secured := by
  refine foldl_secured (fun u i => ?_) _ s
  dsimp only
  rw [sendStream_secured]
  refine foldl_secured (fun w r => ?_) _ u
  exact foldl_fst_secured (fun x _ => sendFor_secured x.1 _ _) _ (w, r.1)

@[simp] theorem closeItems_secured (s : State) (b : Bucket) : (s.closeItems b).secured = s.secured := by
  refine foldl_secured (fun u k => ?_) _ s
  rfl

@[simp] theorem account_secured (s : State) (b : Bucket) : (s.account b).secured = s.secured := by
  unfold State.account
  exact modCtx_secured s _ (fun _ => book_session _ _ _)

@[simp] theorem closeBucket_secured (s : State) (b : Bucket) : (s.closeBucket b).secured = s.secured := by
  unfold State.closeBucket
  extract_lets f u src v w
  have hcounted : v.secured = s.secured := (secured_with_fab u _).trans ((closeItems_secured _ _).trans (setBucket_secured s _))
  have hclosed : w.secured = s.secured := by
    unfold w
    split
    · exact (raise_secured v _ _).trans hcounted
    · exact hcounted
  split
  · exact (account_secured w b).trans hclosed
  · split
    · exact (modCtx_secured w _ (fun _ => book_session _ _ _)).trans hclosed
    · exact hclosed

@[simp] theorem sendResult_secured (s : State) (b : Bucket) : (s.sendResult b).secured = s.secured := by
  simp only [State.sendResult, closeBucket_secured, broadcast_secured]

@[simp] theorem finishRoot_secured (s : State) (b : Bucket) : (s.finishRoot b).secured = s.secured := by
  unfold State.finishRoot
  split
  · rfl
  · split
    · extract_lets n b2 u v
      have hsent : v.secured = s.secured := by
        refine (foldl_secured (fun w i => ?_) _ u).trans rfl
        exact sendStream_secured w _ _ _ _
      split
      · rw [sendResult_secured, hsent]
      · exact hsent
    · exact sendResult_secured s b

@[simp] theorem sendReady_secured (s : State) (b : Bucket) (level q : Nat) : (s.sendReady b level q).secured = s.secured :=
  (sendStream_secured _ _ _ _ _).trans rfl

@[simp] theorem sendBlocks_secured (s : State) (b : Bucket) (level dst start fin : Nat) (ks : List Nat) (d : Bytes) :
    (s.sendBlocks b level dst start fin ks d).secured = s.secured := by
  refine foldl_secured (fun u r => ?_) _ s
  exact sendPart_secured u _ _ _ _ _

@[simp] theorem tryStream_secured (s : State) (b : Bucket) : (s.tryStream b).secured = s.secured := by
  unfold State.tryStream
  split
  · rfl
  · dsimp only
    split
    · rfl
    · rw [sendBlocks_secured, setBucket_secured]

@[simp] theorem settle_secured (s : State) (b : Bucket) : (s.settle b).secured = s.secured := by
  unfold State.settle
  dsimp only
  split
  · split
    · split
      · exact finishRoot_secured s _
      · split
        · exact finishRoot_secured s _
        · rfl
    · split
      · exact tryStream_secured s b
      · exact sendReady_secured s b _ _
  · split
    · split
      · exact finishRoot_secured s _
      · exact sendReady_secured s _ _ _
    · rfl

@[simp] theorem absentOwn_secured (s : State) (c : Nat) : (s.absentOwn c).secured = s.secured := by
  refine foldl_secured (fun u b => ?_) _ s
  split
  · split
    · exact settle_secured u _
    · rfl
  · rfl

/-! ### Fences, objects and the entries of a queue (R83, R86, R271, R274) -/

@[simp] theorem fenceVector_secured (s : State) (c v : Nat) : (s.fenceVector c v).secured = s.secured := by
  have hvector : (s.slotVector c v).secured = s.secured := by
    unfold State.slotVector
    split <;> rfl
  rw [State.fenceVector, apply_ite State.secured, hvector, ite_self]

@[simp] theorem notifyImporters_secured (s : State) (c h : Nat) : (s.notifyImporters c h).secured = s.secured := by
  refine foldl_secured (fun u c' => ?_) _ s
  split
  · rfl
  · refine foldl_secured (fun w h' => ?_) _ u
    dsimp only
    split
    · split
      · rw [fenceVector_secured, meet_secured]
      · exact meet_secured w _ _ _
    · exact meet_secured w _ _ _

@[simp] theorem abandonExports_secured (s : State) (c : Nat) : (s.abandonExports c).secured = s.secured := by
  refine foldl_secured (fun u h => ?_) _ s
  split
  · split
    · split
      · next hw =>
        dsimp only
        rw [notifyImporters_secured]
        split
        · exact (fenceVector_secured _ _ _).trans (secured_of_vwrite hw)
        · exact secured_of_vwrite hw
      · next hw => exact secured_of_vwrite hw
    · rfl
  · rfl

@[simp] theorem signalFence_secured (s : State) (c h v : Nat) (st : Status) : (s.signalFence c h v st).1.secured = s.secured := by
  unfold State.signalFence
  split
  · rfl
  · dsimp only
    split
    · exact meet_secured s _ _ _
    · split
      · exact meet_secured s _ _ _
      · split
        · next hw => exact (secured_of_vwrite hw).trans (meet_secured s _ _ _)
        · next u hw =>
          have hwritten : u.secured = s.secured := (secured_of_vwrite hw).trans (meet_secured s _ _ _)
          dsimp only
          split <;> split <;> simp only [notifyImporters_secured, fenceVector_secured, hwritten]

@[simp] theorem signalAll_secured (s : State) (c : Nat) (st : Status) (es : List Entry) : (s.signalAll c st es).secured = s.secured := by
  refine foldl_secured (fun u e => ?_) _ s
  split
  · exact signalFence_secured u _ _ _ _
  · rfl

@[simp] theorem pumpReads_secured (s : State) : s.pumpReads.secured = s.secured := by
  refine foldl_secured (fun u r => ?_) _ s
  split <;> rfl

@[simp] theorem retire_secured (s : State) (c a n : Nat) : (s.retire c a n).1.secured = s.secured := by
  have hedit : (s.retireEdit c a n).1.secured = s.secured := by
    unfold State.retireEdit
    dsimp only
    split
    · rfl
    · split
      · rfl
      · refine (dropPins_secured _ _).trans (foldl_secured (fun u x => ?_) _ s)
        exact physWrite_secured u _ _ _ _
  have hscrub (u : State) (fs : List Nat) : (u.scrubFrames fs).secured = u.secured :=
    foldl_secured unback_secured fs u
  unfold State.retire
  split
  · next h =>
    rw [h] at hedit
    rw [hscrub, hedit]
  · next h =>
    rw [h] at hedit
    exact hedit

@[simp] theorem addRef_secured (s : State) (c : Nat) (o : ObjRef) (up : Bool) : (s.addRef c o up).secured = s.secured := by
  have hunit (w : State) (d : Bytes) : (w.makeUnit c d).1.secured = w.secured := rfl
  unfold State.addRef
  extract_lets a u
  have hmet : u.secured = s.secured := meet_secured s c a.1 a.2
  split
  · rfl
  · split
    · exact (pumpReads_secured _).trans rfl
    · split
      · exact hmet
      · extract_lets old new unit w
        have hcounted : w.secured = s.secured := by
          unfold w
          split
          · rw [vwrite_secured, hmet]
          · rw [vwrite_secured, hunit, hmet]
        split
        · rw [retire_secured, hcounted]
        · exact hcounted

@[simp] theorem dropRefs_secured (s : State) (q : QRef) : (s.dropRefs q).secured = s.secured := by
  refine (foldl_secured (fun u o => ?_) _ _).trans (modCtx_secured s q.slot (fun _ => by rfl))
  exact addRef_secured u q.slot o false

@[simp] theorem abortQueue_secured (s : State) (q : QRef) : (s.abortQueue q).secured = s.secured := by
  unfold State.abortQueue
  extract_lets y inner all u retired v
  have hcompleted : u.secured = s.secured := by
    refine foldl_secured (fun w e => ?_) _ s
    exact (tally_secured _ _ _ _).trans (emit_secured w _)
  rw [modQueue_secured, dropRefs_secured, signalAll_secured, hcompleted]

/-! ### Quenches (R250, R269, R270) -/

@[simp] theorem clearBreaks_secured (s : State) (c : Nat) : (s.clearBreaks c).secured = s.secured := by
  refine foldl_secured (fun u n => ?_) _ s
  rfl

@[simp] theorem dropSeqs_secured (s : State) (gone : Seq → Bool) : (s.dropSeqs gone).secured = s.secured := by
  refine (foldl_secured (fun u p => ?_) _ _).trans rfl
  split <;> rfl

theorem keyring_with_queues (m : Mem) (anneals seqs : List (Nat × Nat)) :
    ({ m with annealQ := anneals, seqWait := seqs } : Mem).keyring = m.keyring := rfl

@[simp] theorem releaseCps_secured (s : State) : s.releaseCps.secured = s.secured := rfl

@[simp] theorem quenchOne_secured (s : State) (c : Nat) : (s.quenchOne c).secured = s.secured := by
  have haborted (u : State) : ((List.range 16).foldl (fun s q => s.abortQueue ⟨c, q⟩) u).secured = u.secured :=
    foldl_secured (fun w q => abortQueue_secured w ⟨c, q⟩) _ u
  unfold State.quenchOne
  extract_lets x src w released aborted quenching cores own queues exported breaks mem queued
  split
  · have hreleased : released.secured = s.secured := (releaseCps_secured w).trans (secured_with_waiting s _)
    have hbegun : quenching.secured = s.secured :=
      (modCtx_secured aborted c (fun _ => by rfl)).trans ((sendAborts_secured released c).trans hreleased)
    have hbroken : breaks.secured = s.secured := by
      rw [clearBreaks_secured, abandonExports_secured, haborted, absentOwn_secured, tidyCores_secured, freeCores_secured, hbegun]
    exact (dropSeqs_secured queued _).trans ((secured_with_mem breaks (keyring_with_queues mem _ _)).trans hbroken)
  · rfl

@[simp] theorem settleOwed_secured (s : State) : s.settleOwed.secured = s.secured := by
  have hquenches (n : Nat) (u : State) : (State.quenchOwed n u).secured = u.secured := by
    induction n generalizing u with
    | zero => rfl
    | succ n ih =>
      unfold State.quenchOwed
      split
      · rw [ih, quenchOne_secured]
      · rfl
  exact hquenches 64 s

@[simp] theorem quench_secured (s : State) (c : Nat) : (s.quench c).secured = s.secured := by
  rw [State.quench, settleOwed_secured, quenchOne_secured]

end Sys2Proof.Machine
end

section
/-! PROOFS. The end of a quench or a drain (R270, R275, R304, R342): what the slot holds then, from which O29. -/

namespace Sys2Proof.Machine

/-- A table in which the entries of chosen keys are zeroed reads zero at those keys. -/
theorem tget_map_zeroed (chosen : Nat → Bool) (m : SMap Nat) {k : Nat} (hk : chosen k = true) :
    tget 0 (m.map (fun (p : Nat × Nat) => if chosen p.1 then (p.1, 0) else p)) k = 0 := by
  induction m with
  | nil => rfl
  | cons p m ih =>
    obtain ⟨i, a⟩ := p
    by_cases hki : k = i
    · subst hki
      simp only [List.map_cons, hk, if_true, tget]
    · cases hi : chosen i <;> simpa only [List.map_cons, hi, Bool.false_eq_true, if_false, if_true, tget, hki] using ih

/-- Once its keys are zeroed, every key slot that a context holds reads zero (R304). -/
theorem keySlot_zeroSlots (s : State) (c : Nat) {k : Nat} (hk : k ∈ s.heldSlots c) : tget 0 (s.zeroSlots c).mem.keySlots k = 0 :=
  tget_map_zeroed (fun i => (s.heldSlots c).contains i) s.mem.keySlots (List.contains_iff_mem.mpr hk)

/-- The keys of a charter zeroed (R358). -/
def Charter.zeroed (ch : Charter) : Charter := { ch with keys := ch.keys.map (fun (k : CharterKey) => { k with key := 0 }) }

theorem key_of_mem_zeroed {ch : Charter} {k : CharterKey} (hk : k ∈ ch.zeroed.keys) : k.key = 0 := by
  obtain ⟨o, _, rfl⟩ := List.mem_map.mp hk
  rfl

/-- A context that is QUENCHED now: its charter holds no key. -/
def Ctx.ended (x : Ctx) : Ctx := { x with state := 3, charter := x.charter.map Charter.zeroed }

/-- The slot's cores given back, its keys zeroed and its binding ended. -/
def State.emptied (s : State) (c : Nat) : State := (((s.zeroSlots c).unbind c).freeCores c).tidyCores

theorem quenched_eq (s : State) (c : Nat) : s.quenched c = ((s.emptied c).modCtx c Ctx.ended).raise (pgCtx c) 4 := rfl

/-- Giving back the cores changes neither keys nor bindings. -/
theorem emptied_secured (s : State) (c : Nat) : (s.emptied c).secured = ((s.zeroSlots c).unbind c).secured := by
  rw [State.emptied, tidyCores_secured, freeCores_secured]

theorem keySlots_of_secured {s u : State} (h : u.secured = s.secured) : u.mem.keySlots = s.mem.keySlots :=
  congrArg (fun p : Pcie × (SMap Nat × Nat × Nat) × (Nat → Option Nat) => p.2.1.1) h

theorem session_of_secured {s u : State} (h : u.secured = s.secured) (c : Nat) : (u.ctx c).session = (s.ctx c).session :=
  congrArg (fun p : Pcie × (SMap Nat × Nat × Nat) × (Nat → Option Nat) => p.2.2 c) h

/-- The context of a slot that is QUENCHED now. -/
theorem ctx_quenched (s : State) (c : Nat) : (s.quenched c).ctx c = ((s.emptied c).ctx c).ended := by
  rw [quenched_eq, State.ctx, raise_ctxs]
  exact ctx_modCtx_same _ _ _

theorem session_quenched (s : State) (c : Nat) : ((s.quenched c).ctx c).session = none := by
  rw [ctx_quenched]
  refine (session_of_secured (emptied_secured s c) c).trans ?_
  rw [State.unbind, ctx_modCtx_same]

theorem gen_quenched (s : State) (c : Nat) : ((s.quenched c).ctx c).gen = (s.ctx c).gen := by
  have hzeroed : SlotKept c s (s.zeroSlots c) := ⟨rfl, rfl⟩
  have hunbound : SlotKept c s ((s.zeroSlots c).unbind c) := State.modCtx_slot hzeroed c (fun _ => ⟨by rfl, by rfl⟩)
  rw [ctx_quenched]
  exact (State.tidyCores_slot (State.freeCores_slot hunbound c)).gen

theorem keySlots_quenched (s : State) (c : Nat) : (s.quenched c).mem.keySlots = (s.zeroSlots c).mem.keySlots := by
  rw [quenched_eq, raise_mem, modCtx_mem, keySlots_of_secured (emptied_secured s c)]
  rfl

/-- Settles O29: the context by `ctx_quenched`, the key slots by `keySlots_quenched`, since neither the cores' return nor the message
changes what the end of the context has zeroed and ended. -/
theorem quenchedHoldsNoKey : Obligations.QuenchedHoldsNoKey := by
  intro s c
  refine ⟨by rw [ctx_quenched]; rfl, session_quenched s c, gen_quenched s c, fun ch hch k hk => ?charter, fun k hk => ?slots⟩
  case charter =>
    rw [ctx_quenched] at hch
    obtain ⟨o, _, rfl⟩ := Option.map_eq_some_iff.mp hch
    exact key_of_mem_zeroed hk
  case slots =>
    rw [keySlots_quenched]
    exact keySlot_zeroSlots s c hk

end Sys2Proof.Machine
end

section
/-! PROOFS. The controls of a context (R249, R269 to R275, R367): what each command of a CTX page does, from which O27. -/

namespace Sys2Proof.Machine

open Claims

/-! ### What a control does where it is let through -/

/-- CREATE of PF0 outside an activation creates (R249). -/
theorem ctlCreate_of_idle {s : State} {fn slot : Nat} (hpf0 : pf0 fn = true) (hopens : s.ctxOpens fn slot false = true)
    (hact : s.fw.act = none) : s.ctlCreate fn slot = s.createCtx slot := by
  simp only [State.ctlCreate, hpf0, hopens, hact, Option.isSome_none, Bool.and_self, Bool.false_eq_true, if_true, if_false]

/-- CREATE of PF0 during an activation waits for its end (R367). -/
theorem ctlCreate_of_activation {s : State} {fn slot : Nat} (hpf0 : pf0 fn = true) (hopens : s.ctxOpens fn slot false = true)
    (hact : s.fw.act ≠ none) (hnew : slot ∉ s.fw.creates) :
    s.ctlCreate fn slot = { s with fw := { s.fw with creates := s.fw.creates ++ [slot] } } := by
  have hsome : s.fw.act.isSome = true := Option.isSome_iff_ne_none.mpr hact
  simp only [State.ctlCreate, hpf0, hopens, hsome, List.contains_iff_mem, hnew, Bool.and_self, if_true, if_false]

/-- A CREATE whose record, tables and charter are good makes the context, with fresh keys in its key slots (R249, R303). -/
theorem createCtx_of_built {s : State} {slot : Nat} {b : Built} (hbuilt : s.buildCtx slot = .ok b) (hfresh : s.sec.trngOk = true) :
    s.createCtx slot = ((s.assignSlots b.ranges).2.modCtx slot
      (fun x => x.created b (s.assignSlots b.ranges).1 s.round)).matchCharters slot := by
  simp only [State.createCtx, hbuilt, hfresh, Bool.not_true, Bool.false_eq_true, if_false]

/-- A context is drained where every queue is dry (R275). -/
theorem execDrainComplete_of_dry {t slot : Nat} {s : State} (hstate : ((s.tick t).ctx slot).state = 4)
    (hdry : ∀ p ∈ ((s.tick t).ctx slot).queues, p.2.dry = true) :
    exec (.drainComplete t slot) s = .next ((s.tick t).quenched slot).settleOwed := by
  have hall : ((s.tick t).ctx slot).queues.all (fun p => p.2.dry) = true := List.all_eq_true.mpr hdry
  refine congrArg Host.Outcome.next (if_pos ?_)
  rw [hall, Bool.and_true, decide_eq_true hstate]

/-- Settles O27: each control of a CTX page by the condition that lets it through; CREATE by whether an activation runs and by what it
reads. -/
theorem contextCommands : Obligations.ContextCommands := by
  refine ⟨fun fn slot hpf0 => ?create, fun fn slot b hpf0 => ?built, fun fn slot hpf0 => ?waits, fun fn slot => ?quench,
    fun slot => ?quenchDone, fun fn slot hpf0 => ?release, fun fn slot => ?drain, fun slot => ?drained⟩
  case create =>
    intro t s ⟨hopens, hact⟩
    exact congrArg Host.Outcome.next (ctlCreate_of_idle hpf0 hopens hact)
  case built =>
    intro t s ⟨hopens, hact, hfresh, hbuilt⟩
    exact congrArg Host.Outcome.next ((ctlCreate_of_idle hpf0 hopens hact).trans (createCtx_of_built hbuilt hfresh))
  case waits =>
    intro t s ⟨hopens, hact, hnew⟩
    exact congrArg Host.Outcome.next (ctlCreate_of_activation hpf0 hopens hact hnew)
  case quench => exact fun t s hopens => congrArg Host.Outcome.next (if_pos hopens)
  case quenchDone => exact fun t s hstate => congrArg Host.Outcome.next (if_pos hstate)
  case release =>
    intro t s hopens
    exact congrArg Host.Outcome.next (if_pos (Bool.and_eq_true_iff.mpr ⟨hpf0, hopens⟩))
  case drain =>
    intro t s ⟨hopens, hstate, hmode⟩
    refine congrArg Host.Outcome.next (if_pos ?_)
    rw [Bool.and_eq_true_iff, Bool.and_eq_true_iff]
    exact ⟨⟨hopens, decide_eq_true hstate⟩, hmode⟩
  case drained => exact fun t s ⟨hstate, hdry⟩ => execDrainComplete_of_dry hstate hdry

end Sys2Proof.Machine
end

section
/-! PROOFS. The host interface (R243, R246, R341 to R344, R369, R379, R413): windows, functions, sessions and bindings, from which O31. -/

namespace Sys2Proof.Machine

open Claims

/-! ### The window (R246, R379) -/

/-- A window access that can be made and that no engine reset holds is made. -/
theorem windowReq_of_free {s : State} {r : WinReq} (hopen : s.windowOpen r.fn r.off r.len = true) (hfree : s.windowHeld r = false) :
    s.windowReq r = s.windowGo r := by
  simp only [State.windowReq, hopen, hfree, Bool.not_true, Bool.false_eq_true, if_false]

/-- A window access to a frame that an engine reset keeps is held (R379). -/
theorem windowReq_of_held {s : State} {r : WinReq} (hopen : s.windowOpen r.fn r.off r.len = true) (hheld : s.windowHeld r = true) :
    s.windowReq r = { s with pcie := { s.pcie with held := s.pcie.held ++ [r] } } := by
  simp only [State.windowReq, hopen, hheld, Bool.not_true, Bool.false_eq_true, if_false, if_true]

/-- A window read of one piece that translates and verifies answers its bytes (R246). -/
theorem windowRead_of_piece {s : State} {fn off n a k : Nat} {m flag : Bool} {b : Bytes} (hpiece : piecesOf 128 off n = [(off, n)])
    (hat : s.windowAt fn off false = (some (a, k, m), flag)) (hread : (s.windowTouch fn off n).physRead k m a n = .ok b) :
    s.windowRead fn off n = ((s.windowTouch fn off n).noteLines m false a n).emit (.window fn b) := by
  simp only [State.windowRead, hpiece, List.foldl_cons, List.foldl_nil, hat, hread, List.nil_append]

/-! ### Functions that go (R243, R341, R344) -/

/-- What each element of a fold keeps, and one of them brings about, holds after it. -/
theorem foldl_of_mem {σ α : Type} {J P : σ → Prop} {f : σ → α → σ} {l : List α} {a : α} {s : σ} (hJ : ∀ s b, J s → J (f s b))
    (hP : ∀ s b, P s → P (f s b)) (ha : ∀ s, J s → P (f s a)) (hmem : a ∈ l) (hs : J s) : P (l.foldl f s) := by
  induction l generalizing s with
  | nil => exact absurd hmem List.not_mem_nil
  | cons b l ih =>
    rcases List.mem_cons.mp hmem with rfl | hlater
    · exact List.foldlRecOn l f (ha s hs) (fun u hu x _ => hP u x hu)
    · exact ih hlater (hJ s b hs)

theorem pcie_of_secured {s u : State} (h : u.secured = s.secured) :
    u.pcie.sriov = s.pcie.sriov ∧ u.pcie.numVfs = s.pcie.numVfs ∧ u.pcie.tdi = s.pcie.tdi ∧ u.pcie.ide = s.pcie.ide := by
  have hpcie : u.secured.1 = s.secured.1 := by rw [h]
  have hsriov : u.secured.1.sriov = s.secured.1.sriov := by rw [hpcie]
  have hvfs : u.secured.1.numVfs = s.secured.1.numVfs := by rw [hpcie]
  have htdi : u.secured.1.tdi = s.secured.1.tdi := by rw [hpcie]
  have hide : u.secured.1.ide = s.secured.1.ide := by rw [hpcie]
  exact ⟨hsriov, hvfs, htdi, hide⟩

/-- A TDI's new state is all that it changes of the endpoint: the quench of its slot leaves the rest (R344). -/
theorem setTdi_secured (s : State) (c v : Nat) :
    (s.setTdi c v).secured = ({ s with pcie := { s.pcie with tdi := tput 0 s.pcie.tdi c v } } : State).secured
      ∨ s.setTdi c v = s ∧ tget 0 s.pcie.tdi c = v := by
  unfold State.setTdi
  extract_lets old src u w
  split
  · next hsame => exact .inr ⟨rfl, hsame.symm⟩
  · refine .inl ?_
    split
    · rw [quench_secured, raise_secured]
    · exact raise_secured u _ _

/-- A virtual function goes: its TDI is UNLOCKED, its IDE stream ends (R243, R344). -/
def State.dropFn (s : State) (c : Nat) : State :=
  let u := s.setTdi c 0
  { u with pcie := { u.pcie with ide := tput false u.pcie.ide c false } }

/-- The function of a slot holds neither a locked TDI nor an IDE stream. -/
def State.fnGone (c : Nat) (s : State) : Prop := tget 0 s.pcie.tdi c = 0 ∧ tget false s.pcie.ide c = false

/-- What a function that goes leaves of the endpoint's settings, TDIs and streams. -/
theorem pcie_dropFn (s : State) (c : Nat) :
    (s.dropFn c).pcie.sriov = s.pcie.sriov ∧ (s.dropFn c).pcie.numVfs = s.pcie.numVfs ∧ (s.dropFn c).fnGone c
      ∧ ∀ k, k ≠ c → tget 0 (s.dropFn c).pcie.tdi k = tget 0 s.pcie.tdi k
        ∧ tget false (s.dropFn c).pcie.ide k = tget false s.pcie.ide k := by
  have hide (m : SMap Bool) : tget false (tput false m c false) c = false := tget_tput_same _ _ _ _
  have hother (m : SMap Bool) {k : Nat} (hk : k ≠ c) : tget false (tput false m c false) k = tget false m k :=
    tget_tput_other _ _ _ _ _ hk
  rcases setTdi_secured s c 0 with hset | ⟨hsame, hold⟩
  · obtain ⟨hsriov, hvfs, htdi, hstream⟩ := pcie_of_secured hset
    refine ⟨hsriov, hvfs, ⟨?_, hide _⟩, fun k hk => ⟨?_, ?_⟩⟩
    · change tget 0 (s.setTdi c 0).pcie.tdi c = 0
      rw [htdi, tget_tput_same]
    · change tget 0 (s.setTdi c 0).pcie.tdi k = _
      rw [htdi, tget_tput_other _ _ _ _ _ hk]
    · change tget false (tput false (s.setTdi c 0).pcie.ide c false) k = _
      rw [hother _ hk, hstream]
  · unfold State.dropFn
    rw [hsame]
    exact ⟨rfl, rfl, ⟨hold, hide _⟩, fun k hk => ⟨rfl, hother _ hk⟩⟩

/-- A function that has gone stays so while others go. -/
theorem fnGone_dropFn {s : State} {c : Nat} (d : Nat) (h : s.fnGone c) : (s.dropFn d).fnGone c := by
  obtain ⟨_, _, hgone, hother⟩ := pcie_dropFn s d
  by_cases hc : c = d
  · exact hc ▸ hgone
  · obtain ⟨htdi, hide⟩ := hother c hc
    exact ⟨htdi.trans h.1, hide.trans h.2⟩

/-- SR-IOV is set, and every function that is no longer there goes (R243). -/
theorem execSriovEnable_of_configUp {t n : Nat} {enable : Bool} {s : State} (hn : n ≤ 64) (hup : (s.tick t).configUp = true) :
    exec (.sriovEnable t enable n) s = .next
      (((List.range 64).filter (fun c => (s.tick t).bound c && !(enable && decide (c < n)))).foldl State.dropFn
        { s.tick t with pcie := { (s.tick t).pcie with sriov := enable, numVfs := n } }) := by
  refine if_neg ?_
  simp only [hup, gt_iff_lt, Nat.not_lt.mpr hn, Bool.not_true, decide_false, Bool.or_self, Bool.false_eq_true, not_false_eq_true]

theorem sriovEnable_reaches {enable : Bool} {n : Nat} (hn : n ≤ 64) :
    Reaches (.sriovEnable · enable n) (fun s => s.configUp = true) (fun s u =>
      u.pcie.sriov = enable ∧ u.pcie.numVfs = n
      ∧ ∀ c, c < 64 → s.bound c = true → (enable && decide (c < n)) = false → tget 0 u.pcie.tdi c = 0 ∧ tget false u.pcie.ide c = false) := by
  intro t s hup
  refine ⟨_, execSriovEnable_of_configUp hn hup, ?_, ?_, fun c hc hbound hgoes => ?_⟩
  · exact foldl_kept (fun u : State => u.pcie.sriov) (fun u c => (pcie_dropFn u c).1) _ _
  · exact foldl_kept (fun u : State => u.pcie.numVfs) (fun u c => (pcie_dropFn u c).2.1) _ _
  · have hmem : c ∈ (List.range 64).filter (fun c => (s.tick t).bound c && !(enable && decide (c < n))) :=
      List.mem_filter.mpr ⟨List.mem_range.mpr hc, by rw [hbound, hgoes]; rfl⟩
    exact foldl_of_mem (J := fun _ => True) (P := State.fnGone c) (fun _ _ _ => trivial) (fun _ d h => fnGone_dropFn d h)
      (fun u _ => (pcie_dropFn u c).2.2.1) hmem trivial

/-! ### Sessions and bindings (R341, R342, R369) -/

/-- The binding of a slot to a session ends. -/
def State.endBinding (session : Nat) (s : State) (c : Nat) : State :=
  if (s.ctx c).session = some session then s.unbind c else s

/-- The end of a binding of one slot leaves that of another, and a slot bound to the session is bound no more. -/
theorem session_endBinding (session : Nat) (s : State) (c k : Nat) :
    ((s.endBinding session c).ctx k).session = if k = c ∧ (s.ctx c).session = some session then none else (s.ctx k).session := by
  unfold State.endBinding
  by_cases hbound : (s.ctx c).session = some session
  · rw [if_pos hbound, State.unbind]
    by_cases hk : k = c
    · rw [if_pos ⟨hk, hbound⟩, hk, ctx_modCtx_same]
    · rw [if_neg (fun h => hk h.1), ctx_modCtx_other _ _ _ _ hk]
  · rw [if_neg hbound, if_neg (fun h => hbound h.2)]

/-- After the bindings of a session have ended in every slot, a slot that was bound to it is not bound. -/
theorem session_endBindings {session : Nat} {s : State} {c : Nat} (hc : c < 64) (hbound : (s.ctx c).session = some session) :
    (((List.range 64).foldl (State.endBinding session) s).ctx c).session = none := by
  refine foldl_of_mem (J := fun u : State => (u.ctx c).session = some session ∨ (u.ctx c).session = none)
    (P := fun u : State => (u.ctx c).session = none) (fun u d h => ?_) (fun u d h => ?_) (fun u h => ?_) (List.mem_range.mpr hc)
    (.inl hbound)
  · rw [session_endBinding]
    split
    · exact .inr rfl
    · exact h
  · rw [session_endBinding, h, ite_self]
  · rw [session_endBinding]
    split
    · rfl
    · next hnot => exact h.resolve_left (fun hs => hnot ⟨rfl, hs⟩)

/-- The state but for the endpoint and the contexts. -/
def State.offHost (s : State) : State := { s with pcie := {}, ctxs := [] }

/-- What leaves all but the endpoint and the contexts differs in these alone, whatever becomes of the endpoint. -/
theorem with_pcie_of_offHost {s v : State} (h : v.offHost = s.offHost) (p : Pcie) :
    ({ v with pcie := p } : State) = { s with pcie := p, ctxs := v.ctxs } :=
  congrArg (fun u : State => { u with pcie := p, ctxs := v.ctxs }) h

/-- The bindings that end change neither the endpoint nor anything off the host interface. -/
theorem endBindings_frame (session : Nat) (l : List Nat) (s : State) :
    (l.foldl (State.endBinding session) s).pcie = s.pcie ∧ (l.foldl (State.endBinding session) s).offHost = s.offHost := by
  have hone (u : State) (c : Nat) : (u.endBinding session c).pcie = u.pcie ∧ (u.endBinding session c).offHost = u.offHost := by
    unfold State.endBinding
    split <;> exact ⟨rfl, rfl⟩
  exact ⟨foldl_kept State.pcie (fun u c => (hone u c).1) l s, foldl_kept State.offHost (fun u c => (hone u c).2) l s⟩

/-- A session and the transfers of it go. -/
def State.dropSession (s : State) (session : Nat) : State :=
  { s with pcie := { s.pcie with
    sessions := s.pcie.sessions.filter (fun p => p.1 ≠ session), xfers := s.pcie.xfers.filter (fun p => p.1 ≠ session) } }

/-- SPDM_SESSION_END ends the bindings of the session, then the session (R342). -/
theorem exec_spdmSessionEnd (t session : Nat) (s : State) : exec (.spdmSessionEnd t session) s =
    .next (((List.range 64).foldl (State.endBinding session) (s.tick t)).dropSession session) := by
  have hfold : (List.range 64).foldl (State.endBinding session) (s.tick t)
      = (List.range 64).foldl (fun u c => if (u.ctx c).session = some session then u.unbind c else u) (s.tick t) := rfl
  change execSpdmSessionEnd t session s = _
  rw [hfold]
  unfold State.dropSession execSpdmSessionEnd
  rfl

theorem spdmSessionEnd_reaches (session : Nat) : Reaches (.spdmSessionEnd · session) (fun _ => True) (fun s u =>
    u = { s with pcie := u.pcie, ctxs := u.ctxs } ∧ (∀ p ∈ u.pcie.xfers, p.1 ≠ session)
    ∧ u.pcie.sessions = s.pcie.sessions.filter (fun p => p.1 ≠ session)
    ∧ ∀ c, c < 64 → (s.ctx c).session = some session → (u.ctx c).session = none) := by
  intro t s _
  have hbindings (c : Nat) := session_endBindings (session := session) (s := s.tick t) (c := c)
  obtain ⟨hpcie, hoff⟩ := endBindings_frame session (List.range 64) (s.tick t)
  refine ⟨_, exec_spdmSessionEnd t session s, ?_⟩
  generalize (List.range 64).foldl (State.endBinding session) (s.tick t) = v at hbindings hpcie hoff ⊢
  refine ⟨with_pcie_of_offHost hoff _, fun p hp => of_decide_eq_true (List.mem_filter.mp hp).2, ?_, hbindings⟩
  exact congrArg (fun x : Pcie => x.sessions.filter (fun p => p.1 ≠ session)) hpcie

/-- A request for a hallmark by SPDM of a running module that signs is answered at once (R369, R370). -/
theorem askHallmark_none_of_running {s : State} (req : HallmarkRequest) (hsigns : s.signs = true) (hact : s.fw.act = none)
    (hrunning : s.running = true) : s.askHallmark none req =
      (s.hallmark req.nonce req.report req.slot).2.emit
        (.hallmark (hallmarkBlock (s.hallmark req.nonce req.report req.slot).1) s.company) := by
  simp only [State.askHallmark, hsigns, hact, hrunning, Bool.not_true, Option.isSome_none, Bool.or_self, Bool.false_eq_true, if_false]

/-- Settles O31: windows by `windowReq_of_free` and `windowReq_of_held`, SRIOV_ENABLE by `sriovEnable_reaches`, the end of a session by
`spdmSessionEnd_reaches`, every other command by its condition. -/
theorem hostInterfaceCommands : Obligations.HostInterfaceCommands := by
  refine ⟨fun fn off a k m b => ?read, fun fn off data => ?write, fun fn off data => ?writeHeld, fun slot x hslot => ?tdi,
    fun enable n hn => sriovEnable_reaches hn, fun speed width flit hlow hhigh hwidth => ?retrain, fun session transcript => ?start,
    fun session => spdmSessionEnd_reaches session, fun session slot hslot => ?ide, fun session req => ?bound,
    fun session req => ?notBound, fun session req => ?unbind, fun req => ?measure⟩
  case read =>
    intro t s ⟨hopen, hfree, hpiece, hat, hread⟩
    exact congrArg Host.Outcome.next ((windowReq_of_free hopen hfree).trans (windowRead_of_piece hpiece hat hread))
  case write => exact fun t s ⟨hopen, hfree⟩ => congrArg Host.Outcome.next (windowReq_of_free hopen hfree)
  case writeHeld => exact fun t s ⟨hopen, hheld⟩ => congrArg Host.Outcome.next (windowReq_of_held hopen hheld)
  case tdi =>
    intro t s ⟨hup, hbound⟩
    refine congrArg Host.Outcome.next (if_pos ?_)
    rw [hup, hbound, decide_eq_true hslot]
    rfl
  case retrain =>
    intro t s hup
    have hlanes : [1, 2, 4, 8, 16].contains width = true := List.contains_iff_mem.mpr hwidth
    refine if_pos ?_
    simp only [hup, hlow, hhigh, hlanes, decide_true, Bool.and_self]
  case start =>
    intro t s ⟨hup, hrunning, hsigns, hnew⟩
    have hnone : (s.tick t).pcie.sessions.any (fun p => p.1 = session) = false := by
      simpa only [List.any_eq_false, decide_eq_true_eq] using hnew
    refine congrArg Host.Outcome.next (if_pos ?_)
    rw [hup, hrunning, hsigns, hnone]
    rfl
  case ide =>
    intro t s ⟨hsession, hbound⟩
    refine congrArg Host.Outcome.next (if_pos ?_)
    rw [hsession, hbound, decide_eq_true hslot]
    rfl
  case bound =>
    intro t s ⟨hsession, hresult⟩
    change execBindSlot t session req s = _
    simp only [execBindSlot, hsession, hresult, Bool.not_true, Bool.false_eq_true, if_false, if_true]
  case notBound =>
    intro t s ⟨hsession, hresult⟩
    change execBindSlot t session req s = _
    simp only [execBindSlot, hsession, hresult, Bool.not_true, Bool.false_eq_true, if_false]
  case unbind =>
    intro t s ⟨hsession, hstate, hgen, hbound⟩
    change execUnbind t session req s = _
    simp only [execUnbind, hsession, hstate, hgen, hbound, ne_eq, not_true_eq_false, or_self, Bool.not_true, Bool.false_eq_true, if_false,
      if_true]
  case measure =>
    intro t s ⟨hup, hsigns, hact, hrunning⟩
    exact congrArg Host.Outcome.next ((if_pos hup).trans (askHallmark_none_of_running req hsigns hact hrunning))

end Sys2Proof.Machine
end

section
/-! PROOFS. Administration through Oliastor (R218, R221, R353, R354, R357, R366 to R368, R372, R387): what each function does that may be
called, from which O41. -/

namespace Sys2Proof.Machine

open Claims

/-! ### Answers and connections -/

@[simp] theorem flushLine_conns (conn fuel : Nat) (s : State) : (State.flushLine conn fuel s).mgmt.conns = s.mgmt.conns := by
  induction fuel generalizing s with
  | zero => rfl
  | succ fuel ih =>
    unfold State.flushLine
    split
    · exact ih _
    · rfl

/-- An answer closes no connection. -/
@[simp] theorem respond_conns (s : State) (m : Call) (result : Nat) : (s.respond m result).mgmt.conns = s.mgmt.conns :=
  flushLine_conns m.conn _ _

/-! ### Firmware (R366 to R368) -/

/-- A moment within 200 ms of the start of the running activation. -/
theorem actDue_of_within {s : State} {t0 : Nat} (hact : s.fw.act = some t0) (hdue : s.clk.now ≤ t0 + 200000000) : s.actDue = true := by
  simp only [State.actDue, hact, hdue, decide_true]

theorem execActivationComplete_of_due {t : Nat} {s : State} (hdue : (s.tick t).actDue = true) (hrunning : (s.tick t).running = true) :
    exec (.activationComplete t) s = .next
      (let u : State := { s.tick t with fw := { (s.tick t).fw with
        mgmt := (s.tick t).fw.mgmt.swap, ctrl := (s.tick t).fw.ctrl.swap, lastOk := true } }
      ((List.range 64).foldl (fun v c => match (v.ctx c).charter with
        | some ch => if ch.touchmarks.contains u.fw.composite then v else v.quench c
        | none => v) u).endActivation) := by
  refine if_neg ?_
  simp only [hdue, hrunning, Bool.not_true, Bool.or_self, Bool.false_eq_true, not_false_eq_true]

theorem execActivationFail_of_late {t t0 : Nat} {s : State} (hact : (s.tick t).fw.act = some t0)
    (hlate : t0 + 200000000 ≤ (s.tick t).clk.now) (hrunning : (s.tick t).running = true) :
    exec (.activationFail t) s = .next
      (State.endActivation { s.tick t with fw := { (s.tick t).fw with failed := true, lastOk := false } }) := by
  refine if_neg ?_
  simp only [hact, hrunning, Option.isNone_some, Option.getD_some, Nat.not_lt.mpr hlate, decide_false, Bool.not_true, Bool.or_self,
    Bool.false_eq_true, not_false_eq_true]

/-! ### The life cycle (R353, R354) -/

/-- An open connection's SET_LIFECYCLE takes its effect on the module in its present state. -/
theorem execSetLifecycle_of_conn {t anchor : Nat} {m : Call} {dest : Lifecycle} {c : Conn} {s : State}
    (hconn : (s.tick t).conn m = some c) :
    exec (.setLifecycle t m dest anchor) s = .next ((s.tick t).setLifecycle m c dest anchor) := by
  change execSetLifecycle t m dest anchor s = _
  simp only [execSetLifecycle, hconn]

/-- The administrator's move to RETURNED or RETIRED of a DEPLOYED module without contexts waits for a package reset (R353). -/
theorem setLifecycle_of_leaving {s : State} {m : Call} {c : Conn} {dest : Lifecycle} {anchor : Nat}
    (hdest : dest = .returned ∨ dest = .retired) (hrole : c.role = .admin) (hact : s.fw.act = none)
    (hdeployed : s.sec.lifecycle = .deployed) (hfree : s.allFree = true) : s.setLifecycle m c dest anchor =
      ({ s with sec := { s.sec with pending := some dest } } : State).respond m resOk := by
  have hcontexts : s.hasContexts = true := by simp only [State.hasContexts, hdeployed, true_or, decide_true]
  rcases hdest with rfl | rfl <;>
    simp [State.setLifecycle, hrole, hact, hdeployed, hfree, hcontexts]

/-- The first deployment of a PROVISIONED module, by any client (R354). -/
theorem setLifecycle_of_provisioned {s : State} {m : Call} {c : Conn} {anchor : Nat} (hact : s.fw.act = none)
    (hprovisioned : s.sec.lifecycle = .provisioned) : s.setLifecycle m c .deployed anchor = s.deploy m anchor := by
  simp [State.setLifecycle, hact, hprovisioned]

/-- Only the administrator moves a DEPLOYED module (R372). -/
theorem setLifecycle_of_denied {s : State} {m : Call} {c : Conn} {dest : Lifecycle} {anchor : Nat} (hrole : c.role ≠ .admin)
    (hdeployed : s.sec.lifecycle = .deployed) : s.setLifecycle m c dest anchor = s.respond m resDenied := by
  simp [State.setLifecycle, hrole, hdeployed]

/-! ### The fabric (R218, R221, R357) -/

/-- What a change makes of a port depends on what it gives for it alone. -/
theorem modPort_congr {s : State} {p : Nat} {f g : Port → Port} (h : f (s.port p) = g (s.port p)) : s.modPort p f = s.modPort p g :=
  congrArg (s.setPort p) h

/-- What TIME_TREE sets where it names a parent port that exists. -/
theorem timeTree_parent {t port : Nat} {m : Call} {s : State} (hserves : Serves (s.tick t) m .fabric)
    (hport : port < (s.tick t).ident.variant.ports) : exec (.timeTree t m false (some port)) s = .next
      (let v := s.tick t
      let keeps := v.clk.locked && (v.port port).carries
      let w : State := { v.draw.2 with clk := { v.clk with
        root := false, parent := some port
        hops := if keeps && decide (v.clk.parent ≠ some port) then 1 + v.draw.1 % 15 else v.clk.hops
        free := false, locked := keeps, stepNext := v.clk.stepNext || !keeps } }
      (if v.clk.locked && !keeps then w.raise pgRoute 1 else w).respond m resOk) := by
  refine congrArg Host.Outcome.next ((serve_of_serves _ hserves).trans (if_neg ?_))
  simpa only [ge_iff_le, decide_eq_true_eq, Nat.not_le] using hport

/-- Settles O41: each function of the service by `gives_of_serve` and the branch of its effect that the condition selects, the ends of
an activation and SET_LIFECYCLE by their conditions. -/
theorem oliastorAdministration : Obligations.OliastorAdministration := by
  refine ⟨fun m image => ?stagePart, fun m image => ?stage, fun m => ?activate, ?complete, ?fail, fun m anchor c dest hdest => ?leave,
    fun m anchor c => ?deploy, fun m anchor c dest => ?denied, fun m anchor => ?anchor, fun m anchor => ?anchorConns,
    fun m => ?domainCreate, fun m port => ?domainJoin, fun m composites hlen => ?allowlist, fun m ident hident => ?moduleId,
    fun m entries hentries => ?routes, fun m port => ?unlocked, fun m port => ?sameParent, fun m port => ?lost,
    fun m job positions => ?notice⟩
  case stagePart =>
    refine gives_of_serve (fun _ _ => rfl) (fun _ h => h.1) (fun s ⟨_, hact, hpart⟩ => ?_)
    simp only [hact, hpart, Option.isSome_none, Bool.not_false, Bool.false_eq_true, if_false, if_true]
  case stage =>
    refine gives_of_serve (fun _ _ => rfl) (fun _ h => h.1) (fun s ⟨_, hact, hwhole⟩ => ?_)
    simp only [hact, hwhole, Option.isSome_none, Bool.not_true, Bool.false_eq_true, if_false]
  case activate =>
    refine gives_of_serve (fun _ _ => rfl) (fun _ h => h.1) (fun s ⟨_, hact, hstaged⟩ => ?_)
    have hsome : ¬ (!s.fw.mgmt.staged && !s.fw.ctrl.staged) = true := by
      rcases hstaged with h | h <;> simp only [h, Bool.not_true, Bool.false_and, Bool.and_false, Bool.false_eq_true, not_false_eq_true]
    rw [hact]
    exact if_neg hsome
  case complete => exact fun t s ⟨hrunning, t0, hact, hdue⟩ => execActivationComplete_of_due (actDue_of_within hact hdue) hrunning
  case fail => exact fun t s ⟨hrunning, t0, hact, hlate⟩ => execActivationFail_of_late hact hlate hrunning
  case leave =>
    intro t s ⟨hconn, hrole, hact, hdeployed, hfree⟩
    exact (execSetLifecycle_of_conn hconn).trans
      (congrArg Host.Outcome.next (setLifecycle_of_leaving hdest hrole hact hdeployed hfree))
  case deploy =>
    intro t s ⟨hconn, hact, hprovisioned, hfresh⟩
    refine (execSetLifecycle_of_conn hconn).trans
      (congrArg Host.Outcome.next ((setLifecycle_of_provisioned hact hprovisioned).trans (if_neg ?_)))
    rw [hfresh]
    exact Bool.false_ne_true
  case denied =>
    intro t s ⟨hconn, hrole, hdeployed⟩
    exact (execSetLifecycle_of_conn hconn).trans (congrArg Host.Outcome.next (setLifecycle_of_denied hrole hdeployed))
  case anchor => exact gives_of_serve (fun _ _ => rfl) (fun _ h => h) (fun _ _ => rfl)
  case anchorConns =>
    intro t s hserves
    refine ⟨_, congrArg Host.Outcome.next (serve_of_serves _ hserves), rfl, ?_⟩
    exact congrArg (List.filter fun c => c.anchor = anchor) (respond_conns (s.tick t) m resOk)
  case domainCreate =>
    refine gives_of_serve (fun _ _ => rfl) (fun _ h => h.1) (fun s ⟨_, hnone, hdeployed, hfresh⟩ => ?_)
    simp only [hnone, hdeployed, hfresh, Option.isSome_none, Bool.false_eq_true, ne_eq, not_true_eq_false, or_self, Bool.not_true,
      if_false]
  case domainJoin =>
    refine gives_of_serve (fun _ _ => rfl) (fun _ h => h.1) (fun s ⟨_, hport, hnone, hdeployed, hdown⟩ => ?_)
    have hjoin : s.modPort port (fun p => { p with joinReq := true, link := { p.link with join := decide (p.st ≠ 3) } })
        = s.modPort port (fun p => { p with joinReq := true, link := { p.link with join := true } }) :=
      modPort_congr (by simp only [hdown, ne_eq, not_false_eq_true, decide_true])
    simp only [hjoin, ge_iff_le, Nat.not_le.mpr hport, hnone, hdeployed, hdown, port_modPort_same, Option.isSome_none,
      Bool.false_eq_true, ne_eq, not_true_eq_false, or_self, if_false]
  case allowlist => exact gives_of_serve (fun _ _ => rfl) (fun _ h => h) (fun _ _ => if_neg (Nat.not_lt.mpr hlen))
  case moduleId => exact gives_of_serve (fun _ _ => rfl) (fun _ h => h) (fun _ _ => if_neg (Nat.not_le.mpr hident))
  case routes =>
    refine gives_of_serve (fun _ _ => rfl) (fun _ h => h.1) (fun s ⟨_, hports⟩ => ?_)
    have hpresent : ¬ entries.any (fun e => e.ports.any (fun p => p ≥ s.ident.variant.ports)) = true := by
      simpa [List.any_eq_true] using hports
    have hform : ¬ entries.any (fun e => e.index ≥ 16384 || e.ports.length > 4) = true := by
      simpa [List.any_eq_true] using hentries
    exact (if_neg hpresent).trans (if_neg hform)
  case unlocked =>
    intro t s ⟨hserves, hport, hunlocked⟩
    rw [timeTree_parent hserves hport]
    simp only [hunlocked, Bool.false_and, Bool.false_eq_true, if_false, Bool.not_false, Bool.or_true]
  case sameParent =>
    intro t s ⟨hserves, hport, hlocked, hparent, hcarries⟩
    rw [timeTree_parent hserves hport]
    simp only [hlocked, hparent, hcarries, Bool.and_self, ne_eq, not_true_eq_false, decide_false, Bool.and_false, Bool.not_true,
      Bool.false_eq_true, if_false, Bool.or_false]
  case lost =>
    intro t s ⟨hserves, hport, hlocked, hdark⟩
    rw [timeTree_parent hserves hport]
    simp only [hlocked, hdark, Bool.and_false, Bool.false_and, Bool.false_eq_true, if_false, Bool.not_false, Bool.or_true, Bool.and_self,
      if_true]
  case notice => exact gives_of_serve (fun _ _ => rfl) (fun _ h => h) (fun _ _ => rfl)

end Sys2Proof.Machine
end

section
/-! PROOFS. Debug and the test port (R352, R353, R416 to R428): control processors, work-list breakpoints, the frame view, scans and
factory operations, from which O42. -/

namespace Sys2Proof.Machine

open Claims

/-! ### The DEBUG page -/

/-- The DEBUG page with a control processor selected. -/
def State.selectCp (s : State) (n : Nat) : State := { s with dbg := { s.dbg with cpSel := n } }

/-- HALT stops a processor that runs (R424). -/
theorem writeCpCtrl_of_halt {s : State} {value : Nat} (hhalt : bit value 31 = true) (hrun : bit value 30 = false)
    (hruns : (s.cp (sl value 3 0)).halt = false) : s.writeCpCtrl value =
      (s.selectCp (sl value 3 0)).draw.2.cpStop (sl value 3 0) ((s.selectCp (sl value 3 0)).draw.1 % 2 ^ 24) := by
  have hselected : ((s.selectCp (sl value 3 0)).cp (sl value 3 0)).halt = false := hruns
  change (if bit value 30 then _ else if bit value 31 && !((s.selectCp (sl value 3 0)).cp (sl value 3 0)).halt then _ else _) = _
  rw [hrun, hhalt, hselected]
  rfl

/-- STEP runs one instruction of a processor that is halted (R424). -/
theorem writeCpCtrl_of_step {s : State} {value : Nat} (hhalt : bit value 31 = true) (hstep : bit value 30 = true)
    (hhalted : (s.cp (sl value 3 0)).halt = true) : s.writeCpCtrl value =
      ((s.selectCp (sl value 3 0)).draw.2.setCp (sl value 3 0)
        { (s.selectCp (sl value 3 0)).draw.2.cp (sl value 3 0) with words := [] }).cpStop (sl value 3 0)
          ((s.selectCp (sl value 3 0)).draw.1 % 2 ^ 24) := by
  have hselected : ((s.selectCp (sl value 3 0)).cp (sl value 3 0)).halt = true := hhalted
  have hkept : s.writeCpCtrl value = (s.selectCp (sl value 3 0)).cpStepOne (sl value 3 0) := by
    unfold State.writeCpCtrl
    change (if bit value 30 then State.cpStepOne (if bit value 31 && !((s.selectCp (sl value 3 0)).cp (sl value 3 0)).halt then _ else
      if !bit value 31 && _ then _ else _) _ else _) = _
    rw [hstep, hhalt, hselected]
    rfl
  rw [hkept, State.cpStepOne, if_pos hselected]

/-- A held entry that is let go starts; with STEP the next entry of its list is the one to hold (R426). -/
theorem wlResume_of_held {s : State} {bp : Nat} {q : QRef} (hheld : (s.wl bp).held = some q) (hphase : (s.queue q).phase = .held bp) :
    s.wlResume bp = ((s.setWl bp { s.wl bp with
      held := none
      next := if (s.wl bp).step && (s.wl bp).enable then ((s.queue q).stack.head?.map (·.addr)).map (fun a => (q, a)) else none
      }).setQueue q { s.queue q with phase := .ready }).start q := by
  simp only [State.wlResume, hheld, hphase, if_true]

/-- A read of the frame view of a line of a backed frame (R428). -/
theorem viewRead_of_line {s : State} {l : Line} (hline : (s.view (s.dbg.fvAddr / 128 / 512)).line (s.dbg.fvAddr / 128) = some l) :
    s.viewRead =
      let v := s.view (s.dbg.fvAddr / 128 / 512)
      { s with dbg := { s.dbg with
        fvValid := true, fvReplay := l.replay, fvData := (l.raw.getD (v.lineStored (s.dbg.fvAddr / 128) l)).1
        fvTag := (l.raw.getD (v.lineStored (s.dbg.fvAddr / 128) l)).2, fvPoison := l.poison
        fvMinor := if l.replay then v.minor (s.dbg.fvAddr / 128) else 0 } } := by
  simp only [State.viewRead, hline]

/-- A write of the frame view to a line of a backed frame that is not migrating (R428). -/
theorem viewWrite_of_line {s : State} {l : Line} (hline : s.line (s.dbg.fvAddr / 128) = some l)
    (hstays : s.migrating (s.dbg.fvAddr / 128 / 512) = none) : s.viewWrite =
      let new := (bslice s.dbg.fvData 0 128, s.dbg.fvTag)
      let w := s.setLine (s.dbg.fvAddr / 128) { l with
        raw := if new = s.lineStored (s.dbg.fvAddr / 128) l then none else some new, poison := s.dbg.fvPoison }
      { w with dbg := { w.dbg with fvValid := true, fvReplay := l.replay } } := by
  simp only [State.viewWrite, hline, hstays, Option.isSome_none, Bool.false_eq_true, if_false]

theorem writeFvCtrl_read (s : State) :
    s.writeFvCtrl 0x80000000 = ({ s with dbg := { s.dbg with fvWrite := false } } : State).viewRead := by
  have hgo : bit 0x80000000 31 = true := by decide
  have hread : bit 0x80000000 30 = false := by decide
  simp only [State.writeFvCtrl, hgo, hread, Bool.false_eq_true, if_true, if_false]

theorem writeFvCtrl_write (s : State) :
    s.writeFvCtrl 0xC0000000 = ({ s with dbg := { s.dbg with fvWrite := true } } : State).viewWrite := by
  have hgo : bit 0xC0000000 31 = true := by decide
  have hwrite : bit 0xC0000000 30 = true := by decide
  simp only [State.writeFvCtrl, hgo, hwrite, if_true]

/-! ### Scans (R418 to R422) -/

/-- The TAP as a scan of the data register finds it: it leaves EXTEST, and the response to the request before goes out. -/
def State.scanned (s : State) : State := s.noDrive.emit (.tap (dalBits s.dbg.dal))

/-- A scan of a powered module answers its own request. -/
theorem scan_of_powered {s : State} (f : State → (Nat × Nat × Nat) × State) (hpowered : s.powered = true) :
    s.scan f = { (f s.scanned).2 with dbg := { (f s.scanned).2.dbg with dal := (f s.scanned).1 } } := by
  refine if_neg ?_
  rw [hpowered]
  exact Bool.false_ne_true

/-- A command that scans with the request `f` reaches what `f` answers and does. -/
theorem reaches_of_scan {c : Nat → Instr} {f : State → (Nat × Nat × Nat) × State} {G : State → Prop} {P : State → State → Prop}
    (hexec : ∀ t s, exec (c t) s = .next ((s.tick t).scan f)) (hpowered : ∀ s, G s → s.powered = true)
    (hP : ∀ s, G s → P s { (f s.scanned).2 with dbg := { (f s.scanned).2.dbg with dal := (f s.scanned).1 } }) : Reaches c G P := by
  intro t s hG
  exact ⟨_, (hexec t s).trans (congrArg Host.Outcome.next (scan_of_powered f (hpowered _ hG))), hP _ hG⟩

/-- Messages and flags change neither the debug layer nor the security controller. -/
theorem dbg_sec_raise (s : State) (i bits : Nat) : (s.raise i bits).dbg = s.dbg ∧ (s.raise i bits).sec = s.sec := by
  have hbeside := raise_beside s i bits
  have hdbg : (s.raise i bits).beside.dbg = s.beside.dbg := by rw [hbeside]
  have hsec : (s.raise i bits).beside.sec = s.beside.sec := by rw [hbeside]
  exact ⟨hdbg, hsec⟩

/-- A DAL_OPEN of a powered module opens a session and counts as an attachment (R369, R421, R423). -/
theorem dalOpen_reaches : Reaches .dalOpen (fun s => s.powered = true) (fun s u =>
    u.dbg.session = true ∧ u.dbg.dal = (statusOk, 0, 0) ∧ u.sec.debugBoot = wrapAdd 32 s.sec.debugBoot 1
      ∧ u.sec.debugLife = wrapAdd 32 s.sec.debugLife 1 ∧ (s.sec.debugBoot = 0 → u.sec.debugFirst = s.clk.time)) := by
  refine reaches_of_scan (fun _ _ => rfl) (fun _ h => h) (fun s _ => ?_)
  dsimp only
  obtain ⟨hdbg, hsec⟩ :=
    dbg_sec_raise ({ s.scanned with dbg := { s.scanned.dbg with session := true } } : State).attach pgDebug 4
  rw [hdbg, hsec]
  exact ⟨rfl, rfl, rfl, rfl, fun hfirst => if_pos hfirst⟩

/-! ### Factory operations (R352, R353, R421) -/

theorem provision_of_blank {s : State} (hblank : s.sec.lifecycle = .blank) (hfuse : s.sec.fuse = false) (hlatch : s.sec.latch = false)
    (hfresh : s.sec.trngOk = true) : s.provision = ((statusOk, 0, 0), { s.secret.2 with sec := { s.secret.2.sec with
      lifecycle := .provisioned, root := some s.secret.1, certs := [⟨.provisioned, s.secret.1⟩] } }) := by
  simp only [State.provision, hblank, hfuse, hlatch, hfresh, ne_eq, not_true_eq_false, decide_false, Bool.or_self, Bool.not_true,
    Bool.false_eq_true, if_false]

/-- A tampered module is retired at once (R352, R353). -/
theorem retireModule_of_fuse {s : State} (hretired : s.sec.lifecycle ≠ .retired) (hfuse : s.sec.fuse = true) :
    s.retireModule = ((statusOk, 0, 0), s.retireNow) := by
  simp only [State.retireModule, hretired, hfuse, Bool.true_or, if_false, if_true]

/-- A module whose contexts have all been released is retired at its next package reset (R353). -/
theorem retireModule_of_free {s : State} (hcontexts : s.hasContexts = true) (hfuse : s.sec.fuse = false) (hlatch : s.sec.latch = false)
    (hboot : s.boot ≠ .recovery) (hfree : s.allFree = true) :
    s.retireModule = ((statusOk, 0, 0), { s with sec := { s.sec with pending := some .retired } }) := by
  have hretired : s.sec.lifecycle ≠ .retired := by
    rcases of_decide_eq_true hcontexts with h | h <;> rw [h] <;> decide
  simp only [State.retireModule, hretired, hfuse, hlatch, hboot, hcontexts, hfree, decide_false, Bool.or_self, Bool.not_true,
    Bool.false_eq_true, if_false, if_true]

/-- Without the factory credential every factory operation is denied and does nothing (R421). -/
theorem exec_dalFactoryOp_denied (t : Nat) (op : FactoryOp) (s : State) :
    exec (.dalFactoryOp t op false) s = .next ((s.tick t).scan (fun s => ((statusDenied, 0, 0), s))) := by
  cases op <;> rfl

/-- Settles O42: the writes of the DEBUG page by what the write does where the page is open, scans by `scan_of_powered` and
`reaches_of_scan`, every other command by its condition. -/
theorem debugCommands : Obligations.DebugCommands := by
  refine ⟨fun value => ⟨?halt, ?step⟩, fun value hhalt hrun => ?halts, fun value hhalt hstep => ?steps, fun cp bp b hcp hset => ?cpHit,
    fun q bp e hbp => ?wlHit, fun bp hbp => ?resume, fun bp q u hbp => ?resumeHeld, ?viewRead, fun u v l => ?viewReadLine, ?viewWrite,
    fun u v l => ?viewWriteLine, fun bits => ?extest, fun bits => ?sample, ?idcode, fun addr data haddr => ⟨?dalRead, ?dalWrite⟩,
    dalOpen_reaches, ?dalClose, ?provision, ?retireNow, ?retireLater, fun op => ?denied⟩
  case halt => exact fun t s hopens => congrArg Host.Outcome.next (if_pos hopens)
  case step => exact fun t s hopens => congrArg Host.Outcome.next (if_pos hopens)
  case halts =>
    intro t s ⟨hopens, hruns⟩
    exact congrArg Host.Outcome.next ((if_pos hopens).trans (writeCpCtrl_of_halt hhalt hrun hruns))
  case steps =>
    intro t s ⟨hopens, hhalted⟩
    exact congrArg Host.Outcome.next ((if_pos hopens).trans (writeCpCtrl_of_step hhalt hstep hhalted))
  case cpHit =>
    intro t s ⟨hbp, hlive, hruns⟩
    change execCpBreakpointHit t cp bp s = _
    simp only [execCpBreakpointHit, hbp, hlive, hruns, hcp, hset, decide_true, Bool.not_false, Bool.and_self, if_true, State.cpStop]
  case wlHit =>
    intro t s ⟨hentry, hserves, hperiod, hphase, hnew, hhits⟩
    change execWlBreakpointHit t q bp s = _
    simp only [execWlBreakpointHit, hentry, hserves, hperiod, hphase, hnew, hhits, hbp, decide_true, Bool.not_false, Bool.and_self, if_true]
  case resume =>
    intro t s hopens
    refine congrArg Host.Outcome.next (if_pos ?_)
    rw [hopens, decide_eq_true hbp]
    rfl
  case resumeHeld =>
    rintro t s ⟨rfl, hopens, hheld, hphase⟩
    refine congrArg Host.Outcome.next ((if_pos ?_).trans (wlResume_of_held hheld hphase))
    rw [hopens, decide_eq_true hbp]
    rfl
  case viewRead =>
    intro t s hopens
    exact congrArg Host.Outcome.next ((if_pos hopens).trans (writeFvCtrl_read _))
  case viewReadLine =>
    rintro t s ⟨rfl, hopens, rfl, hline⟩
    exact congrArg Host.Outcome.next ((if_pos hopens).trans ((writeFvCtrl_read _).trans (viewRead_of_line hline)))
  case viewWrite =>
    intro t s hopens
    exact congrArg Host.Outcome.next ((if_pos hopens).trans (writeFvCtrl_write _))
  case viewWriteLine =>
    rintro t s ⟨rfl, hopens, rfl, hline, hstays⟩
    exact congrArg Host.Outcome.next ((if_pos hopens).trans ((writeFvCtrl_write _).trans (viewWrite_of_line hline hstays)))
  case extest =>
    intro t s hpowered
    refine if_neg ?_
    rw [hpowered]
    exact Bool.false_ne_true
  case sample => exact fun t s hpowered => congrArg Host.Outcome.next (if_pos hpowered)
  case idcode => exact fun t s hpowered => congrArg Host.Outcome.next (if_pos hpowered)
  case dalRead =>
    intro t s hpowered
    refine congrArg Host.Outcome.next ((scan_of_powered _ hpowered).trans ?_)
    rw [Nat.mod_eq_of_lt haddr]
    rfl
  case dalWrite =>
    intro t s hpowered
    refine congrArg Host.Outcome.next ((scan_of_powered _ hpowered).trans ?_)
    rw [Nat.mod_eq_of_lt haddr]
    rfl
  case dalClose => exact reaches_of_scan (fun _ _ => rfl) (fun _ h => h) (fun _ _ => ⟨rfl, rfl⟩)
  case provision =>
    refine reaches_of_scan (fun _ _ => rfl) (fun _ h => h.1) (fun s ⟨_, hblank, hfuse, hlatch, hfresh⟩ => ?_)
    have hdone : s.scanned.provision = _ := provision_of_blank hblank hfuse hlatch hfresh
    simp only [if_true, hdone]
    exact ⟨trivial, ⟨_, rfl⟩, trivial⟩
  case retireNow =>
    refine reaches_of_scan (fun _ _ => rfl) (fun _ h => h.1) (fun s ⟨_, hretired, hfuse⟩ => ?_)
    have hdone : s.scanned.retireModule = _ := retireModule_of_fuse hretired hfuse
    simp only [if_true, hdone]
    refine ⟨rfl, rfl, rfl, rfl, rfl, rfl, rfl, fun p hp => ?_⟩
    obtain ⟨o, _, rfl⟩ := List.mem_map.mp hp
    rfl
  case retireLater =>
    refine reaches_of_scan (fun _ _ => rfl) (fun _ h => h.1) (fun s ⟨_, hcontexts, hfuse, hlatch, hboot, hfree⟩ => ?_)
    have hdone : s.scanned.retireModule = _ := retireModule_of_free hcontexts hfuse hlatch hboot hfree
    simp only [if_true, hdone]
    exact ⟨rfl, trivial⟩
  case denied => exact reaches_of_scan (fun t s => exec_dalFactoryOp_denied t op s) (fun _ h => h) (fun _ _ => ⟨rfl, rfl⟩)

end Sys2Proof.Machine
end

section
/-! PROOFS. Lines of device memory (R305 to R307, R310, R314 to R318): what the check of a line, a read and a write of it come to, from
which O53, O54 and O55. -/

namespace Sys2Proof.Machine

/-! ### The check and the read of one line -/

/-- The check of a line whose counters verify fails in one way only: by the tag (R315). -/
theorem checkLine_eq_tag_of_ne_none {s : State} {key ln : Nat} {replay : Bool} {l : Line} (hline : s.line ln = some l)
    (hcounters : replay = true → s.counterFailed (ln / 128) = false) (hfails : s.checkLine key replay ln ≠ none) :
    s.checkLine key replay ln = some (.tag (ln * 128)) := by
  have hpass : ¬(replay && s.counterFailed (ln / 128)) = true := by
    cases replay with
    | false => exact Bool.false_ne_true
    | true => rw [hcounters rfl]; exact Bool.false_ne_true
  simp only [State.checkLine, hline, if_neg hpass] at hfails ⊢
  split at hfails
  · next hbad => rw [if_pos hbad]
  · exact absurd rfl hfails

/-- A line that is poisoned, or was written through another key or in the other mode, fails its tag (R305, R315). -/
theorem checkLine_of_foreign {s : State} {key ln : Nat} {replay : Bool} {l : Line} (hline : s.line ln = some l)
    (hcounters : replay = true → s.counterFailed (ln / 128) = false) (hforeign : l.poison = true ∨ l.key ≠ key ∨ l.replay ≠ replay) :
    s.checkLine key replay ln = some (.tag (ln * 128)) := by
  refine checkLine_eq_tag_of_ne_none hline hcounters (fun hnone => ?_)
  simp only [State.checkLine, hline] at hnone
  split at hnone
  · cases hnone
  · split at hnone
    · cases hnone
    · next hgood =>
      simp only [Bool.or_eq_true, decide_eq_true_eq] at hgood
      rcases hforeign with hpoison | hkey | hmode
      · exact hgood (.inl (.inl (.inl (.inl (.inl hpoison)))))
      · exact hgood (.inl (.inl (.inl (.inr hkey))))
      · exact hgood (.inl (.inl (.inr hmode)))

/-- A line is one piece of itself. -/
theorem piecesOf_line (ln : Nat) : piecesOf 128 (128 * ln) 128 = [(128 * ln, 128)] := by
  have hsome : (128 : Nat) ≠ 0 := by decide
  simp only [piecesOf, pieces, Nat.mul_mod_right, Nat.reduceDiv, Nat.sub_zero, Nat.min_self, Nat.sub_self, if_true, if_neg hsome]

/-- Where no migration of a frame is under way, a read finds memory as it is. -/
theorem view_of_still {s : State} {f : Nat} (hstill : ∀ m ∈ s.mem.migr, m.frame ≠ f) : s.view f = s := by
  have hnone : s.migrating f = none := List.find?_eq_none.mpr (fun m hm => by simpa only [decide_eq_true_eq] using hstill m hm)
  simp only [State.view, hnone]

/-- A read of a line whose check fails ends so. -/
theorem physRead_line_of_failed {s : State} {key ln : Nat} {replay : Bool} {e : Acc} (hstill : ∀ m ∈ s.mem.migr, m.frame ≠ ln / 512)
    (hfails : s.checkLine key replay ln = some e) : s.physRead key replay (128 * ln) 128 = .error e := by
  have hframe : 128 * ln / 65536 = ln / 512 := by omega
  have hline : 128 * ln / 128 = ln := by omega
  simp only [State.physRead, hframe, view_of_still hstill, piecesOf_line, List.findSome?_cons, hline, hfails]

/-! ### What counting a write and storing bytes leave -/

/-- Storing bytes changes the cells of memory alone. -/
theorem setBytes_eq_with_cells (s : State) (fa : Nat) (d : Bytes) :
    s.setBytes fa d = { s with mem := { s.mem with cells := (s.setBytes fa d).mem.cells } } := by
  induction d generalizing s fa with
  | nil => rfl
  | cons b bs ih => exact ih (s.setByte fa b) (fa + 1)

theorem setBytes_migr (s : State) (fa : Nat) (d : Bytes) : (s.setBytes fa d).mem.migr = s.mem.migr := by
  rw [setBytes_eq_with_cells]

theorem setBytes_line (s : State) (fa : Nat) (d : Bytes) : (s.setBytes fa d).line = s.line := by
  rw [setBytes_eq_with_cells]
  rfl

theorem byteAt_setBytes_outside {s : State} {fa a : Nat} {d : Bytes} (hmiss : misses a fa d.length) :
    (s.setBytes fa d).byteAt a = s.byteAt a := by
  induction d generalizing s fa with
  | nil => rfl
  | cons b bs ih =>
    simp only [misses, List.length_cons] at hmiss
    refine (ih (s := s.setByte fa b) (by unfold misses; omega)).trans ?_
    exact tget_tput_other 0 s.mem.cells fa a b (by omega)

theorem foldl_backing {α : Type} {f : State → α → State} (hf : ∀ s a, (f s a).backing = s.backing) (l : List α) (s : State) :
    (l.foldl f s).backing = s.backing := foldl_kept State.backing hf l s

/-- Where frames lie depends on the placement table alone. -/
theorem backing_of_frames {s u : State} (h : u.mem.frames = s.mem.frames) : u.backing = s.backing := by
  unfold State.backing
  rw [h]

@[simp] theorem setLine_backing (s : State) (ln : Nat) (l : Line) : (s.setLine ln l).backing = s.backing := rfl

@[simp] theorem setBlock_backing (s : State) (b : Nat) (x : Block) : (s.setBlock b x).backing = s.backing := rfl

@[simp] theorem bumpFver_backing (s : State) (f n : Nat) : (s.bumpFver f n).backing = s.backing := rfl

@[simp] theorem annealKey_backing (s : State) (key : Nat) : (s.annealKey key).backing = s.backing := by
  refine foldl_backing (fun u c => foldl_backing (fun v r => ?_) _ u) _ s
  unfold State.queueAnneal
  dsimp only
  split <;> rfl

@[simp] theorem poisonFailing_backing (s : State) (b key : Nat) : (s.poisonFailing b key).backing = s.backing := by
  refine foldl_backing (fun u ln => ?_) _ s
  split
  · split <;> rfl
  · rfl

@[simp] theorem reencrypt_backing (s : State) (b key : Nat) : (s.reencrypt b key).backing = s.backing := by
  have hpoisoned := poisonFailing_backing s b key
  unfold State.reencrypt
  generalize s.poisonFailing b key = u at hpoisoned ⊢
  dsimp only
  split
  · refine (annealKey_backing _ key).trans (Eq.trans (backing_of_frames ?_) hpoisoned)
    rw [logRas_mem, raise_mem]
    rfl
  · exact hpoisoned

@[simp] theorem countWrite_backing (s : State) (ln key : Nat) : (s.countWrite ln key).backing = s.backing := by
  unfold State.countWrite
  dsimp only
  rw [bumpFver_backing, setBlock_backing]
  split
  · exact reencrypt_backing s _ key
  · rfl

theorem backing_of_line {s : State} {ln : Nat} {l : Line} (hline : s.line ln = some l) : s.backing (ln / 512) ≠ none := by
  intro hnone
  simp only [State.line, hnone] at hline
  cases hline

/-- A line of a frame that has a location is what was last put there of it. -/
theorem line_setLine_same {s : State} {ln : Nat} (l : Line) (hbacked : s.backing (ln / 512) ≠ none) :
    (s.setLine ln l).line ln = some l := by
  obtain ⟨b, hb⟩ := Option.ne_none_iff_exists'.mp hbacked
  have hkept : (s.setLine ln l).backing (ln / 512) = some b := hb
  have hput : tget none (s.setLine ln l).mem.lines ln = some l := tget_tput_same none s.mem.lines ln (some l)
  simp only [State.line, hkept, hput]

/-! ### A write within a line -/

/-- The state with a write within a line counted in a replay-protected range (R310). -/
def State.counted (s : State) (key : Nat) (replay : Bool) (ln : Nat) : State := if replay then s.countWrite ln key else s

@[simp] theorem counted_stored (s : State) (key : Nat) (replay : Bool) (ln : Nat) : (s.counted key replay ln).stored = s.stored := by
  unfold State.counted
  split
  · exact countWrite_stored s ln key
  · rfl

@[simp] theorem counted_backing (s : State) (key : Nat) (replay : Bool) (ln : Nat) : (s.counted key replay ln).backing = s.backing := by
  unfold State.counted
  split
  · exact countWrite_backing s ln key
  · rfl

/-- The state with a write within a line made: counted, the line its writer's, the bytes stored (R305, R310). -/
def State.lineWritten (s : State) (key : Nat) (replay : Bool) (fa : Nat) (d : Bytes) : State :=
  ((s.counted key replay (fa / 128)).setLine (fa / 128) { key, replay }).setBytes fa d

theorem byteAt_of_stored {s u : State} (h : u.stored = s.stored) (a : Nat) : u.byteAt a = s.byteAt a := by
  have hcells : u.stored.mem.cells = s.stored.mem.cells := by rw [h]
  exact congrArg (fun m => tget 0 m a) hcells

theorem migr_of_stored {s u : State} (h : u.stored = s.stored) : u.mem.migr = s.mem.migr := by
  have hmigr : u.stored.mem.migr = s.stored.mem.migr := by rw [h]
  exact hmigr

theorem byteAt_lineWritten_outside {s : State} {key fa a : Nat} {replay : Bool} {d : Bytes} (hmiss : misses a fa d.length) :
    (s.lineWritten key replay fa d).byteAt a = s.byteAt a :=
  (byteAt_setBytes_outside hmiss).trans (byteAt_of_stored ((setLine_stored _ _ _).trans (counted_stored s _ _ _)) a)

@[simp] theorem lineWritten_migr (s : State) (key fa : Nat) (replay : Bool) (d : Bytes) :
    (s.lineWritten key replay fa d).mem.migr = s.mem.migr := by
  rw [State.lineWritten, setBytes_migr]
  exact migr_of_stored ((setLine_stored _ _ _).trans (counted_stored s key replay (fa / 128)))

/-- A line that has been written is its writer's, and not poisoned. -/
theorem line_lineWritten {s : State} {key fa : Nat} {replay : Bool} {d : Bytes} (hbacked : s.backing (fa / 128 / 512) ≠ none) :
    (s.lineWritten key replay fa d).line (fa / 128) = some { key, replay } := by
  rw [State.lineWritten, setBytes_line]
  exact line_setLine_same _ (by rwa [counted_backing])

/-- The same of a write that begins with the line. -/
theorem line_lineWritten_start {s : State} {key ln : Nat} {replay : Bool} {d : Bytes} (hbacked : s.backing (ln / 512) ≠ none) :
    (s.lineWritten key replay (128 * ln) d).line ln = some { key, replay } := by
  have hln : 128 * ln / 128 = ln := by omega
  simpa only [hln] using line_lineWritten (s := s) (key := key) (fa := 128 * ln) (replay := replay) (d := d) (by rwa [hln])

/-- The counters of a line's block verify, and the block takes writes (R316, R318), where its range is protected against replay. -/
def State.takesWrites (s : State) (replay : Bool) (ln : Nat) : Prop :=
  replay = true → s.counterFailed (ln / 128) = false ∧ ln / 128 ∉ s.mem.readonly

/-- The same of the block's number, as an access at a frame address gives it. -/
theorem takesWrites_of_block {s : State} {replay : Bool} {fa : Nat}
    (h : replay = true → s.counterFailed (fa / 16384) = false ∧ fa / 16384 ∉ s.mem.readonly) : s.takesWrites replay (fa / 128) := by
  have hblock : fa / 128 / 128 = fa / 16384 := by omega
  simpa only [State.takesWrites, hblock] using h

theorem counters_of_takesWrites {s : State} {replay : Bool} {ln : Nat} (h : s.takesWrites replay ln) :
    (replay && s.counterFailed (ln / 128)) = false ∧ (replay && s.mem.readonly.contains (ln / 128)) = false := by
  cases replay with
  | false => exact ⟨rfl, rfl⟩
  | true =>
    obtain ⟨hcounters, hlimit⟩ := h rfl
    exact ⟨hcounters, (List.contains_eq_mem _ _).trans (decide_eq_false hlimit)⟩

/-- A write of part of a line that fails its check poisons the line and stores nothing (R314). -/
theorem lineWrite_part_of_failed {s : State} {key fa : Nat} {replay : Bool} {d : Bytes} {l : Line} (hpart : d.length < 128)
    (hline : s.line (fa / 128) = some l) (htakes : s.takesWrites replay (fa / 128)) (hfails : s.checkLine key replay (fa / 128) ≠ none) :
    s.lineWrite key replay fa d = (s.setLine (fa / 128) { l with poison := true }, some (.tag (fa / 128 * 128))) := by
  obtain ⟨hcounters, hlimit⟩ := counters_of_takesWrites htakes
  have htag := checkLine_eq_tag_of_ne_none hline (fun h => (htakes h).1) hfails
  simp only [State.lineWrite, hcounters, hlimit, hpart, htag, hline, Bool.false_eq_true, if_false, if_true]

/-- A write of part of a line that verifies is made (R314). -/
theorem lineWrite_part_of_verified {s : State} {key fa : Nat} {replay : Bool} {d : Bytes} (hpart : d.length < 128)
    (htakes : s.takesWrites replay (fa / 128)) (hverifies : s.checkLine key replay (fa / 128) = none) :
    s.lineWrite key replay fa d = (s.lineWritten key replay fa d, none) := by
  obtain ⟨hcounters, hlimit⟩ := counters_of_takesWrites htakes
  simp only [State.lineWrite, hcounters, hlimit, hpart, hverifies, Bool.false_eq_true, if_false, if_true]
  rfl

/-- A write of a whole line needs no check of it, and leaves no error in its cells (R314, R315). -/
theorem lineWrite_whole {s : State} {key fa : Nat} {replay : Bool} {d : Bytes} (hwhole : d.length = 128)
    (htakes : s.takesWrites replay (fa / 128)) :
    s.lineWrite key replay fa d =
      (State.lineWritten { s with mem := { s.mem with latent := tput 0 s.mem.latent (fa / 128) 0 } } key replay fa d, none) := by
  obtain ⟨hcounters, hlimit⟩ := counters_of_takesWrites htakes
  simp only [State.lineWrite, hcounters, hlimit, hwhole, Nat.lt_irrefl, Bool.false_eq_true, if_false]
  rfl

/-- A write within a line that does not stop was let through, and is made; of a whole line with no error left in its cells. -/
theorem lineWrite_of_none {s u : State} {key fa : Nat} {replay : Bool} {d : Bytes} (hdone : s.lineWrite key replay fa d = (u, none)) :
    ∃ latent : SMap Nat, u = State.lineWritten { s with mem := { s.mem with latent } } key replay fa d := by
  unfold State.lineWrite at hdone
  dsimp only at hdone
  split at hdone
  · cases hdone
  · split at hdone
    · cases hdone
    · split at hdone
      · split at hdone
        · split at hdone <;> cases hdone
        · exact ⟨s.mem.latent, (Prod.mk.inj hdone).1.symm⟩
      · exact ⟨_, (Prod.mk.inj hdone).1.symm⟩

/-! ### The three statements -/

/-- Settles O53: a line that has been written is its writer's, and fails the check of every other. -/
theorem lineReadsOnlyThroughItsWriter : Obligations.LineReadsOnlyThroughItsWriter := by
  intro s u key key' ln replay replay' d _ hbacked hstill hdone hcounters hother
  obtain ⟨latent, rfl⟩ := lineWrite_of_none hdone
  have hline : (State.lineWritten { s with mem := { s.mem with latent } } key replay (128 * ln) d).line ln = some { key, replay } :=
    line_lineWritten_start hbacked
  rw [physRead_line_of_failed (by rw [lineWritten_migr]; exact hstill)
    (checkLine_of_foreign hline hcounters (.inr (hother.imp Ne.symm Ne.symm))), Nat.mul_comm]

/-- Settles O54 by what a write of part of a line comes to where the line fails its check and where it verifies. -/
theorem partialWriteVerifiesFirst : Obligations.PartialWriteVerifiesFirst := by
  intro s key fa replay d l hpart _ hline hcounts
  have htakes := takesWrites_of_block hcounts
  refine ⟨fun hfails => ⟨lineWrite_part_of_failed hpart hline htakes hfails, rfl, fun a => rfl⟩, fun hverifies => ?_⟩
  exact ⟨_, lineWrite_part_of_verified hpart htakes hverifies, fun a hmiss => byteAt_lineWritten_outside hmiss⟩

/-- Settles O55: a poisoned line, and one of another writer, fails its check, whether it is read or written in part; a failed tag is no
fault of translation, so that its entry is done; a line written whole is its writer's. -/
theorem poisonedLines : Obligations.PoisonedLines := by
  refine ⟨fun s key ln replay l hline hstill hcounters hbad => ?read, fun s q tag source fa back => ?entry,
    fun s key ln replay d l hlen hline _ hcounts => ?whole, fun s key fa replay d l hpart hline hpoison hcounts => ?part⟩
  case read =>
    rw [physRead_line_of_failed hstill (checkLine_of_foreign hline hcounters hbad), Nat.mul_comm]
  case entry =>
    change (((s.noteAcc (some q.slot) (.tag fa)).modQueue q _).queue q).phase = _
    rw [queue_modQueue_same]
    rfl
  case whole =>
    have hln : 128 * ln / 128 = ln := by omega
    have htakes : s.takesWrites replay (128 * ln / 128) := by rw [hln]; exact hcounts
    exact ⟨_, lineWrite_whole hlen htakes, _, line_lineWritten_start (backing_of_line hline), rfl, rfl⟩
  case part =>
    have htakes := takesWrites_of_block hcounts
    have hfails := checkLine_of_foreign (key := key) hline (fun h => (htakes h).1) (.inl hpoison)
    rw [lineWrite_part_of_failed hpart hline htakes (by rw [hfails]; exact Option.some_ne_none _)]

end Sys2Proof.Machine
end

section
/-! PROOFS. A write across two frames (R181, R186 to R190), from which the refutation of O52: the write that backs the first frame makes
room for it in the near tier, and with the move that makes it the second frame's own move begins, so that the rest of the write is held
behind that migration. -/

namespace Sys2Proof.Machine

/-- Frames of a tier that the placement engine may move out of it: they may be moved, and no honoured pin keeps them (R187). -/
def State.yieldable (s : State) (tier : Nat) : SMap (Option Backing) :=
  (s.mem.frames.filter (fun p => match p.2 with | some b => b.tier = tier && s.movable p.1 | none => false)).filter
    (fun p => !(s.pinnedFrames (tier = 0)).contains p.1)

/-- A full tier that only one frame can leave gives up that frame, whatever the engine draws. -/
theorem makeRoom_of_one_yieldable {s : State} {tier : Nat} {p : Nat × Option Backing} (hfull : s.room tier = false)
    (hone : s.yieldable tier = [p]) :
    s.makeRoom tier = s.draw.2.draw.2.switchTo
      { frame := p.1, tier := 1 - tier, stack := s.draw.2.draw.1 % s.draw.2.draw.2.stacks (1 - tier) } := by
  have hpick : (s.yieldable tier)[s.draw.1 % max (s.yieldable tier).length 1]? = some p := by
    rw [hone, List.length_singleton, Nat.max_self, Nat.mod_one]
    rfl
  unfold State.makeRoom
  rw [if_neg (by rw [hfull]; exact Bool.false_ne_true)]
  dsimp only
  split
  · next q hq => rw [Option.some.inj (hq.symm.trans hpick)]
  · next hnone => cases hnone.symm.trans hpick

/-- A frame with a near pin that has no location gets one in the near tier, which makes room for it (R181, R187). -/
theorem back_of_near_pin {s : State} {f key : Nat} (hunbacked : s.backing f = none) (hpin : (s.pinnedFrames true).contains f = true) :
    s.back f key false = (s.makeRoom 0).draw.2.place f
      { tier := 0, stack := (s.makeRoom 0).draw.1 % (s.makeRoom 0).stacks 0, key, replay := false } := by
  simp only [State.back, hunbacked, hpin, if_true, Bool.true_or, Bool.false_eq_true, if_false]

/-- Frame 1 fills the near tier, all of whose other locations are retired. Frame 2, without a location, has a near pin. Frame 3 lies in
the bulk tier, in a location that has retired, and waits to move to another. -/
def crowded : State :=
  { ident := { retired := [(0, 7790591)] }
    mem :=
      { frames := [(1, some { tier := 0, stack := 0, key := 5, replay := false }),
                   (3, some { tier := 1, stack := 0, key := 9, replay := false, bad := true })]
        pins := [{ slot := 0, va := 0x20000, frame := 2, near := true, ok := true }] } }

/-- It, once a write has given frame 2 a location: frame 1 has gone to the bulk tier, and the move of frame 3 has begun. The stacks are
the engine's choices. -/
def crowdedBacked : State :=
  { crowded with
    free := 4
    mem := { crowded.mem with
      frames := [(1, some { tier := 1, stack := Config.value 1 % 16, key := 5, replay := false }),
                 (2, some { tier := 0, stack := Config.value 3 % 8, key := 9, replay := false }),
                 (3, some { tier := 1, stack := 0, key := 9, replay := false, bad := true })]
      migr := [{ frame := 3, tier := 1, stack := Config.value 2 % 16 }]
      migDone := 1 } }

theorem back_crowded : crowded.back 2 9 false = crowdedBacked := by
  have hone : crowded.yieldable 0 = [(1, some { tier := 0, stack := 0, key := 5, replay := false })] := rfl
  rw [back_of_near_pin rfl rfl, makeRoom_of_one_yieldable rfl hone]
  rfl

/-! ### The write and the read -/

theorem back_of_backed {s : State} {f : Nat} (key : Nat) (replay : Bool) (hbacked : s.backing f ≠ none) : s.back f key replay = s := by
  obtain ⟨b, hb⟩ := Option.ne_none_iff_exists'.mp hbacked
  simp only [State.back, hb]

/-- A piece of a write first gives its frame a location. -/
theorem physPiece_of_back {s u : State} {key fa : Nat} {replay : Bool} (d : Bytes) (hback : s.back (fa / 65536) key replay = u)
    (hbacked : u.backing (fa / 65536) ≠ none) : s.physPiece key replay fa d = u.physPiece key replay fa d := by
  simp only [State.physPiece, hback, back_of_backed key replay hbacked]

theorem untilStop_congr_head {α : Type} {f : State → α → State × Option Acc} {a : α} {l : List α} {s u : State} (h : f s a = f u a) :
    untilStop f (a :: l) s = untilStop f (a :: l) u := by
  simp only [untilStop, List.foldl_cons, h]

/-- The last byte of frame 2 and the first of frame 3 are written. -/
theorem physWrite_crowded : crowded.physWrite 9 false 0x2FFFF [7, 7] = crowdedBacked.physWrite 9 false 0x2FFFF [7, 7] :=
  untilStop_congr_head (l := [(0x30000, 1)]) (physPiece_of_back [7] back_crowded (Option.some_ne_none _))

/-- Refutes O52: the write of two bytes of `crowded`, in whose state no frame migrates, completes, and a read of the two bytes through
the same key and mode answers 7 and 0. The second byte is held behind the migration of frame 3 that began meanwhile (R189),
and the read waits behind the writes held for its first frame alone. -/
theorem not_readReturnsWhatWasWritten : ¬ Obligations.ReadReturnsWhatWasWritten := by
  intro h
  have hdone : crowded.physWrite 9 false 0x2FFFF [7, 7] = ((crowdedBacked.physWrite 9 false 0x2FFFF [7, 7]).1, none) :=
    physWrite_crowded.trans rfl
  have hread : (crowdedBacked.physWrite 9 false 0x2FFFF [7, 7]).1.physRead 9 false 0x2FFFF 2 = .ok [7, 0] := rfl
  have hsame : (.ok [7, 0] : Except Acc Bytes) = .ok [7, 7] :=
    hread.symm.trans (h crowded _ 9 0x2FFFF false [7, 7] (by decide) (fun m hm => absurd hm List.not_mem_nil) hdone)
  cases hsame

end Sys2Proof.Machine
end

section
/-! PROOFS. The key slots of a context (R303, R304) and the keys of a boot (R301, R350): what the end of a context, RELEASE and
BOOT_COMPLETE make of the keys, from which O49. -/

namespace Sys2Proof.Machine

/-- The passing of time changes no memory. -/
@[simp] theorem tick_mem (s : State) (t : Nat) : (s.tick t).mem = s.mem := by rw [(tickMovesOnlyTheClocks t s).1]

@[simp] theorem tick_ctxs (s : State) (t : Nat) : (s.tick t).ctxs = s.ctxs := by rw [(tickMovesOnlyTheClocks t s).1]

/-- The key slots that a context holds depend on contexts and memory alone. -/
theorem heldSlots_tick (s : State) (t c : Nat) : (s.tick t).heldSlots c = s.heldSlots c := by
  simp only [State.heldSlots, State.ctx, tick_mem, tick_ctxs]

/-! ### The end of a context, and RELEASE -/

/-- A slot that is QUENCHED now holds zeroed keys, in the key slots that the context held before the command. -/
theorem keySlot_quenched_tick (s : State) (t c : Nat) {k : Nat} (hk : k ∈ s.heldSlots c) :
    tget 0 ((s.tick t).quenched c).mem.keySlots k = 0 := by
  rw [keySlots_quenched]
  exact keySlot_zeroSlots _ c (by rwa [heldSlots_tick])

theorem state_quenched (s : State) (c : Nat) : ((s.quenched c).ctx c).state = 3 := by
  rw [ctx_quenched]
  rfl

/-- The quenches that follow leave a slot that is QUENCHED. -/
theorem state_settleOwed_quenched (s : State) (c : Nat) : ((s.quenched c).settleOwed.ctx c).state = 3 := by
  have hended : ((s.quenched c).ctx c).active = false := by rw [Ctx.active, state_quenched]; rfl
  exact (quenchOwed_slot 64 hended).state.trans (state_quenched s c)

@[simp] theorem sayDigest_secured (s : State) (q job digest : Nat) : (s.sayDigest q job digest).secured = s.secured := by
  unfold State.sayDigest
  dsimp only
  split
  · rfl
  · rw [enqueue_secured, setPort_secured]

theorem state_releaseSlot {s : State} {c : Nat} (hstate : (s.ctx c).state = 3) : ((s.releaseSlot c).ctx c).state = 0 := by
  unfold State.releaseSlot
  rw [if_pos hstate]
  exact congrArg Ctx.state (ctx_modCtx_same _ _ _)

/-- RELEASE gives back the key slots that the context holds, and changes no other (R303). -/
theorem keySlots_releaseSlot {s : State} {c : Nat} (hstate : (s.ctx c).state = 3) :
    (s.releaseSlot c).mem.keySlots = s.mem.keySlots.filter (fun p => !(s.heldSlots c).contains p.1) := by
  unfold State.releaseSlot
  rw [if_pos hstate]
  extract_lets held fab mem u v job w
  have hpins : v.mem.keySlots = u.mem.keySlots := keySlots_of_secured ((dropPins_secured _ _).trans (dropSeqs_secured _ _))
  have htold : w.mem.keySlots = v.mem.keySlots := by
    refine keySlots_of_secured (foldl_secured (fun x q => ?_) _ v)
    split
    · exact sayDigest_secured x q job 0
    · rfl
  exact htold.trans hpins

/-! ### Boot -/

@[simp] theorem flushLine_mem (conn fuel : Nat) (s : State) : (State.flushLine conn fuel s).mem = s.mem := by
  induction fuel generalizing s with
  | zero => rfl
  | succ fuel ih =>
    unfold State.flushLine
    split
    · exact ih _
    · rfl

@[simp] theorem reply_mem (s : State) (m : Call) (result : Nat) (payload : Bytes) : (s.reply m result payload).mem = s.mem :=
  flushLine_mem _ _ _

@[simp] theorem owe_mem (s : State) (m : Call) : (s.owe m).mem = s.mem := by
  unfold State.owe
  split <;> rfl

/-- A hallmark is answered or held beside memory. -/
@[simp] theorem askHallmark_mem (s : State) (call : Option Call) (r : HallmarkRequest) : (s.askHallmark call r).mem = s.mem := by
  unfold State.askHallmark
  split
  · rfl
  · split
    · cases call with
      | none => rfl
      | some m => exact owe_mem s m
    · cases call with
      | none => rfl
      | some m => exact reply_mem _ _ _ _

@[simp] theorem answerHeld_mem (s : State) : s.answerHeld.mem = s.mem := by
  unfold State.answerHeld
  rw [foldl_mem]
  exact fun u p => askHallmark_mem u p.1 p.2

@[simp] theorem tellBattery_mem (s : State) : s.tellBattery.mem = s.mem := by
  unfold State.tellBattery
  split
  · exact logRas_mem _ _ _ _ _ _
  · rfl

@[simp] theorem enterPool_mem (s : State) : s.enterPool.mem = s.mem := by
  refine foldl_mem (fun u c => ?_) _ s
  dsimp only
  split <;> rfl

@[simp] theorem railsBack_mem (s : State) (p : Nat → Bool) : (s.railsBack p).mem = s.mem := by
  refine foldl_mem (fun u r => ?_) _ s
  split <;> rfl

/-- A boot whose firmware starts takes the next two fresh values as table key and reserve key (R301). -/
theorem execBootComplete_of_boots {t : Nat} {s : State} {f : Firmware} (hboot : (s.tick t).boot = .booting)
    (hpin : (s.tick t).pins.modResetN = true) (hover : (s.tick t).resetOver = true) (hfw : (s.tick t).fw.boot = some f)
    (hfresh : (s.tick t).sec.trngOk = true) : ∃ u, exec (.bootComplete t) s = .next u
      ∧ u.mem = { (s.tick t).mem with tableKey := (s.tick t).sec.nextSecret, reserveKey := (s.tick t).sec.nextSecret + 1 } := by
  change ∃ u, execBootComplete t s = .next u ∧ _
  simp only [execBootComplete, hboot, hpin, hover, hfw, hfresh, ne_eq, not_true_eq_false, Bool.not_true, Bool.false_eq_true, or_self,
    if_false]
  refine ⟨_, rfl, ?_⟩
  rw [answerHeld_mem, tellBattery_mem]
  split <;> simp only [logRas_mem, State.linkTrains, railsBack_mem, enterPool_mem] <;> rfl

/-- Settles O49: the end of a context by `keySlot_quenched_tick`, RELEASE by `keySlots_releaseSlot`, a boot by
`execBootComplete_of_boots`; a package reset leaves no key. -/
theorem keySlotsOfAContext : Obligations.KeySlotsOfAContext := by
  refine ⟨fun t c s hstate => ?quench, fun t c s hstate hdry => ?drain,
    fun s c hstate => ⟨state_releaseSlot hstate, keySlots_releaseSlot hstate⟩, fun s cause k => ⟨rfl, rfl⟩,
    fun t s f hboot hpin hover hfw hfresh => ?boot⟩
  case quench =>
    exact ⟨_, congrArg Host.Outcome.next (if_pos hstate), state_quenched _ c, fun k hk => keySlot_quenched_tick s t c hk⟩
  case drain =>
    refine ⟨_, execDrainComplete_of_dry hstate hdry, state_settleOwed_quenched _ c, fun k hk => ?_⟩
    rw [keySlots_of_secured (settleOwed_secured _)]
    exact keySlot_quenched_tick s t c hk
  case boot =>
    obtain ⟨htick, -⟩ := tickMovesOnlyTheClocks t s
    have hsec : (s.tick t).sec = s.sec := by rw [htick]
    have hpins : (s.tick t).pins = s.pins := by rw [htick]
    have hnow : (s.tick t).clk.now = max s.clk.now t := by rw [htick]
    obtain ⟨u, hexec, hmem⟩ := execBootComplete_of_boots (t := t) (s := s) (f := f) (by rw [htick, hboot]) (by rw [hpins, hpin])
      (by rw [State.resetOver, hpins, hnow, decide_eq_true hover]) (by rw [htick, hfw]) (by rw [hsec, hfresh])
    rw [hsec] at hmem
    exact ⟨u, hexec, congrArg Mem.reserveKey hmem, congrArg Mem.tableKey hmem⟩

end Sys2Proof.Machine
end

section
/-! PROOFS. The link session (R328, R350, R361 to R363): what each command of its exchange and REKEY come to, from which O14. -/

namespace Sys2Proof.Machine

open Claims

/-- REKEY is due on a port in session (R328, R363): it starts the exchange of that direction's key. -/
theorem execRekeyTimer_of_due {t port : Nat} {s : State} (hlive : (s.tick t).live = true) (hup : ((s.tick t).port port).st = 3)
    (hsession : ((s.tick t).port port).link.established = true) (hnone : ((s.tick t).port port).link.rekeySent = false)
    (hdue : ((s.tick t).port port).link.ctrNear = true
      ∨ ((s.tick t).port port).link.at_ + 86400000000000 ≤ (s.tick t).clk.now) :
    exec (.rekeyTimer t port) s = .next ((s.tick t).startRekey port) :=
  if_pos ⟨hlive, hup, hsession, by rw [hnone, Bool.not_false], hdue⟩

theorem startRekey_of_fresh {s : State} (port : Nat) (hfresh : s.sec.trngOk = true) :
    s.startRekey port = (s.secret.2.setPort port { s.secret.2.port port with link := { (s.secret.2.port port).link with
      rekeySent := true, at_ := s.clk.now, ephNew := s.secret.1 } }).sendSession port 5 0
        (pubOf (ephScalar s.secret.1) ++ ephNonce s.secret.1) := by
  unfold State.startRekey
  rw [hfresh]
  rfl

theorem startRekey_of_no_fresh {s : State} (port : Nat) (hfresh : s.sec.trngOk = false) :
    s.startRekey port = s.waitFresh (.rekey port) := by
  unfold State.startRekey
  rw [hfresh]
  rfl

/-- Settles O14: HELLO, CERT, PROOF, FINISH and REKEY by the branch that the port's session and the payload select, REKEY_TIMER by
`execRekeyTimer_of_due` and whether fresh values are at hand. -/
theorem sessionCommands : Obligations.SessionCommands := by
  refine ⟨fun port payload hlen => ?hello, fun port offset payload => ?cert, fun port payload peer verdict => ?proof,
    fun port payload => ?finish, fun port pkt htype hlen hcode => ?rekey, fun port => ?timer, fun port => ?timerWaits⟩
  case hello =>
    intro t s ⟨hlive, hst, hsent, hnew⟩
    change execHello t port payload s = _
    simp only [execHello, hlive, hst, hsent, hnew, hlen, Option.isSome_none, Bool.not_true, ne_eq, not_true_eq_false,
      Bool.false_eq_true, or_self, if_false]
  case cert => exact fun t s ⟨hlive, hst, hproof⟩ => if_pos ⟨hlive, hst, by rw [hproof, Bool.not_false]⟩
  case proof =>
    intro t s ⟨hlive, hst, hproof, hpeer, hverifies⟩
    change execProof t port payload verdict s = _
    simp only [execProof, hpeer, hlive, hst, hproof, hverifies, Bool.not_true, ne_eq, not_true_eq_false, Bool.false_eq_true, or_self,
      if_false, if_true]
  case finish =>
    intro t s ⟨hlive, hst, hsent, hnone, hmac⟩
    change execFinish t port payload s = _
    simp only [execFinish, hlive, hst, hsent, hnone, hmac, Bool.not_true, ne_eq, not_true_eq_false, Bool.false_eq_true, or_self,
      if_false, if_true]
  case rekey =>
    intro t s hadmit
    change execRekey t port pkt s = _
    simp only [execRekey, hadmit, htype, hlen, hcode, Bool.not_true, ne_eq, not_true_eq_false, Bool.false_eq_true, or_self, if_false]
  case timer =>
    intro t s ⟨hlive, hup, hsession, hnone, hfresh, hdue⟩
    rw [execRekeyTimer_of_due hlive hup hsession hnone hdue, startRekey_of_fresh port hfresh]
  case timerWaits =>
    intro t s ⟨hlive, hup, hsession, hnone, hfresh, hdue⟩
    rw [execRekeyTimer_of_due hlive hup hsession hnone hdue, startRekey_of_no_fresh port hfresh]

end Sys2Proof.Machine
end

section
/-! PROOFS. The result of a binding request (R342, log 20): one rule for each test in the order 1, 2, 4, 3, from which O32. -/

namespace Sys2Proof.Machine

variable {s : State} {session : Nat} {r : BindRequest}

theorem bindResult_of_other_context (hother : (s.ctx r.slot).state ≠ 1 ∨ (s.ctx r.slot).gen ≠ r.gen) :
    s.bindResult session r = 1 :=
  if_pos hother

theorem bindResult_of_bound {b : Nat} (hlive : (s.ctx r.slot).state = 1) (hgen : (s.ctx r.slot).gen = r.gen)
    (hbound : (s.ctx r.slot).session = some b) : s.bindResult session r = 2 := by
  simp only [State.bindResult, hlive, hgen, hbound, ne_eq, not_true_eq_false, or_self, if_false, Option.isSome_some, if_true]

theorem bindResult_of_charter {ch : Charter} (hlive : (s.ctx r.slot).state = 1) (hgen : (s.ctx r.slot).gen = r.gen)
    (hfree : (s.ctx r.slot).session = none) (hch : (s.ctx r.slot).charter = some ch) :
    s.bindResult session r = if ch.owners ≤ r.owner then 4 else if s.bindSigOk session ch r = true then 0 else 3 := by
  cases hsig : s.bindSigOk session ch r <;>
    simp only [State.bindResult, hlive, hgen, hfree, hch, hsig, ne_eq, not_true_eq_false, or_self, if_false, Option.isSome_none,
      Bool.not_true, Bool.not_false, Bool.false_eq_true, if_true, ge_iff_le]

theorem bindResult_of_no_charter (hlive : (s.ctx r.slot).state = 1) (hgen : (s.ctx r.slot).gen = r.gen)
    (hfree : (s.ctx r.slot).session = none) (hch : (s.ctx r.slot).charter = none) :
    s.bindResult session r = if r.owner = 0xFF then if allZero r.sig = true then 0 else 3 else 4 := by
  cases hsig : allZero r.sig <;>
    simp only [State.bindResult, hlive, hgen, hfree, hch, hsig, ne_eq, not_true_eq_false, or_self, if_false, Option.isSome_none,
      Bool.not_true, Bool.not_false, Bool.false_eq_true, if_true, ite_not]

/-- On a live slot of the generation asked for no later test answers 1. -/
theorem bindResult_ne_one (hlive : (s.ctx r.slot).state = 1) (hgen : (s.ctx r.slot).gen = r.gen) : s.bindResult session r ≠ 1 := by
  cases hses : (s.ctx r.slot).session with
  | some b =>
    rw [bindResult_of_bound hlive hgen hses]
    decide
  | none =>
    cases hch : (s.ctx r.slot).charter with
    | some ch =>
      rw [bindResult_of_charter hlive hgen hses hch]
      by_cases howner : ch.owners ≤ r.owner
      · rw [if_pos howner]
        decide
      · rw [if_neg howner]
        split <;> decide
    | none =>
      rw [bindResult_of_no_charter hlive hgen hses hch]
      by_cases howner : r.owner = 0xFF
      · rw [if_pos howner]
        split <;> decide
      · rw [if_neg howner]
        decide

theorem bindResult_eq_one_iff : s.bindResult session r = 1 ↔ (s.ctx r.slot).state ≠ 1 ∨ (s.ctx r.slot).gen ≠ r.gen := by
  refine ⟨fun hone => Decidable.byContradiction fun hcurrent => ?_, bindResult_of_other_context⟩
  obtain ⟨hlive, hgen⟩ := not_or.mp hcurrent
  exact bindResult_ne_one (Decidable.not_not.mp hlive) (Decidable.not_not.mp hgen) hone

/-- On a free live slot of the generation asked for, 0 is left to what owner and signature have to be. -/
theorem bindResult_eq_zero_iff_of_free (hlive : (s.ctx r.slot).state = 1) (hgen : (s.ctx r.slot).gen = r.gen)
    (hfree : (s.ctx r.slot).session = none) : s.bindResult session r = 0
      ↔ (∃ ch, (s.ctx r.slot).charter = some ch ∧ r.owner < ch.owners ∧ s.bindSigOk session ch r = true)
        ∨ ((s.ctx r.slot).charter = none ∧ r.owner = 0xFF ∧ allZero r.sig = true) := by
  cases hch : (s.ctx r.slot).charter with
  | some ch =>
    rw [bindResult_of_charter hlive hgen hfree hch]
    simp only [Option.some.injEq, exists_eq_left', reduceCtorEq, false_and, or_false]
    by_cases howner : ch.owners ≤ r.owner
    · simp only [if_pos howner, Nat.not_lt.mpr howner, false_and, Nat.reduceEqDiff]
    · cases s.bindSigOk session ch r <;>
        simp only [if_neg howner, Nat.not_le.mp howner, true_and, Bool.false_eq_true, if_true, if_false, Nat.reduceEqDiff]
  | none =>
    rw [bindResult_of_no_charter hlive hgen hfree hch]
    simp only [reduceCtorEq, false_and, exists_false, false_or, true_and]
    by_cases howner : r.owner = 0xFF
    · cases allZero r.sig <;>
        simp only [howner, true_and, Bool.false_eq_true, if_true, if_false, Nat.reduceEqDiff]
    · simp only [howner, if_false, false_and, Nat.reduceEqDiff]

/-- Settles O32: 1 by `bindResult_eq_one_iff`; 0 rules out 1 and, by `bindResult_of_bound`, 2, and what is left is
`bindResult_eq_zero_iff_of_free`. -/
theorem bindingOutcome : Obligations.BindingOutcome := by
  refine fun s session r => ⟨⟨fun hzero => ?accepted, fun ⟨hlive, hgen, hfree, hright⟩ =>
    (bindResult_eq_zero_iff_of_free hlive hgen hfree).mpr hright⟩, bindResult_eq_one_iff⟩
  have hone : s.bindResult session r ≠ 1 := by rw [hzero]; decide
  rw [Ne, bindResult_eq_one_iff, not_or, Decidable.not_not, Decidable.not_not] at hone
  obtain ⟨hlive, hgen⟩ := hone
  have hfree : (s.ctx r.slot).session = none := Option.eq_none_iff_forall_ne_some.mpr fun b hbound => by
    rw [bindResult_of_bound hlive hgen hbound] at hzero
    exact absurd hzero (by decide)
  exact ⟨hlive, hgen, hfree, (bindResult_eq_zero_iff_of_free hlive hgen hfree).mp hzero⟩

end Sys2Proof.Machine
end

section
/-! PROOFS. What every command keeps (R351 to R353, log 1 to 3): the relation a command's answer stands in, and the rules by which it
is put together. -/

namespace Sys2Proof.Machine

/-- The command ends in a next state that keeps, against `s`, what no operation undoes; it stops only where `may` lets it. -/
def Answers (s : State) (may : Bool) : Res → Prop
  | .next u => Keeps s u
  | .fault _ => may = true
  | .refused _ => may = true

variable {s x y : State} {may : Bool}

theorem Answers.next (hx : Keeps s x) : Answers s may (.next x) := hx

theorem Answers.ite {c : Prop} [Decidable c] {a b : Res} (ha : Answers s may a) (hb : Answers s may b) :
    Answers s may (if c then a else b) := by
  split
  · exact ha
  · exact hb

theorem Keeps.ite {c : Prop} [Decidable c] (hx : Keeps s x) (hy : Keeps s y) : Keeps s (if c then x else y) := by
  split
  · exact hx
  · exact hy

theorem Keeps.iteOf {c : Prop} [Decidable c] (hx : c → Keeps s x) (hy : Keeps s y) : Keeps s (if c then x else y) := by
  split
  next h => exact hx h
  · exact hy

/-- The clock that every command brings to its moment first (log 2). -/
theorem Keeps.ticked (s : State) (t : Nat) : Keeps s (s.tick t) := State.tick_keeps (.refl s) t

/-- A command that acts under a condition, and without it only brings the clock to its moment (log 3). -/
theorem Answers.when {c : Prop} [Decidable c] {t : Nat} (hx : Keeps s x) :
    Answers s may (if c then .next x else .next (s.tick t)) :=
  .ite (.next hx) (.next (.ticked s t))

theorem Keeps.when {c : Prop} [Decidable c] {t : Nat} (hx : Keeps s x) : Keeps s (if c then x else s.tick t) :=
  .ite hx (.ticked s t)

/-- The access that a command on a register page begins with (R404). -/
theorem Keeps.accessed (s : State) (t fn page : Nat) : Keeps s ((s.tick t).access fn page) := State.access_keeps (.ticked s t) fn page

theorem Keeps.whenOpen {c : Prop} [Decidable c] {t fn page : Nat} (hx : Keeps s x) :
    Keeps s (if c then x else (s.tick t).access fn page) :=
  .ite hx (.accessed s t fn page)

/-- An update of the security controller beside the latch, the fuse, the life-cycle state, the root and the waiting transition. -/
theorem Sec.Kept.of_eq {a b : Sec} (hlatch : b.latch = a.latch) (hfuse : b.fuse = a.fuse) (hlife : b.lifecycle = a.lifecycle)
    (hroot : b.root = a.root) (hpending : b.pending = a.pending) : a.Kept b := by
  refine ⟨fun hshut hgone => ?_, fun h => hfuse.trans h, fun _ _ => .inl hlife⟩
  rw [hlatch, hfuse, hlife] at hgone
  exact ⟨hroot.trans (hshut hgone).1, hpending.trans (hshut hgone).2⟩

section
variable {clk : Clock} {boot : Boot} {pins : Pins} {pcie : Pcie} {sec : Sec} {fw : Firmware} {mgmt : Mgmt} {ras : Ras} {pwr : Pwr}
  {lasers ports} {fab : Fabric} {buckets} {mem : Mem} {mcs ctxs cores} {sched : Sched} {hdrs} {num : Numeric} {test : Test}
  {dbg : Debug} {epoch : Epoch} {free : Nat} {out : List Out}

/-- An update that names neither the identity, the clock, the security controller, memory nor the queue. -/
theorem Keeps.aside (hx : Keeps s x) : Keeps s ⟨x.ident, x.clk, boot, pins, pcie, x.sec, fw, mgmt, ras, pwr, lasers, ports, fab,
    buckets, x.mem, mcs, ctxs, cores, sched, hdrs, num, test, dbg, epoch, free, out, x.pending⟩ :=
  keeps_mk_iff.2 hx.upd

/-- An update that names the clock as well, as a rule not the interval clock. -/
theorem Keeps.withClk (hx : Keeps s x) (hclk : clk.now = x.clk.now := by dsimp only) :
    Keeps s ⟨x.ident, clk, boot, pins, pcie, x.sec, fw, mgmt, ras, pwr, lasers, ports, fab, buckets, x.mem, mcs, ctxs, cores, sched,
      hdrs, num, test, dbg, epoch, free, out, x.pending⟩ :=
  keeps_mk_iff.2 (hx.updClk hclk.ge)

/-- An update that names the security controller as well, as a rule none of the fields that `Sec.Kept` speaks of. -/
theorem Keeps.withSec (hx : Keeps s x) (hsec : x.sec.Kept sec := by refine .of_eq ?_ ?_ ?_ ?_ ?_ <;> dsimp only) :
    Keeps s ⟨x.ident, x.clk, boot, pins, pcie, sec, fw, mgmt, ras, pwr, lasers, ports, fab, buckets, x.mem, mcs, ctxs, cores, sched,
      hdrs, num, test, dbg, epoch, free, out, x.pending⟩ :=
  keeps_mk_iff.2 (hx.updSec hsec)

/-- An update that names memory as well, as a rule none of the tables that `Mem.wf` speaks of. -/
theorem Keeps.withMem (hx : Keeps s x) (hmem : x.mem.wf = true → mem.wf = true := by
      refine Mem.wf_same ?_ ?_ ?_ ?_ ?_ ?_ <;> dsimp only) :
    Keeps s ⟨x.ident, x.clk, boot, pins, pcie, x.sec, fw, mgmt, ras, pwr, lasers, ports, fab, buckets, mem, mcs, ctxs, cores, sched,
      hdrs, num, test, dbg, epoch, free, out, x.pending⟩ :=
  keeps_mk_iff.2 (hx.updMem hmem)

/-- An update that names the security controller and memory, as `Keeps.withSec` and `Keeps.withMem`. -/
theorem Keeps.withSecMem (hx : Keeps s x) (hsec : x.sec.Kept sec := by refine .of_eq ?_ ?_ ?_ ?_ ?_ <;> dsimp only)
    (hmem : x.mem.wf = true → mem.wf = true := by refine Mem.wf_same ?_ ?_ ?_ ?_ ?_ ?_ <;> dsimp only) :
    Keeps s ⟨x.ident, x.clk, boot, pins, pcie, sec, fw, mgmt, ras, pwr, lasers, ports, fab, buckets, mem, mcs, ctxs, cores, sched,
      hdrs, num, test, dbg, epoch, free, out, x.pending⟩ :=
  keeps_mk_iff.2 (hx.updAll rfl rfl (Nat.le_refl _) hmem hsec)

end

end Sys2Proof.Machine
end

section
/-! PROOFS. Power, pins, security events, lasers and reference clocks (R16 to R41, R269, R350, R351): what each command keeps. -/

namespace Sys2Proof.Machine

open State

variable (s : State) (t : Nat) {may : Bool}

/-! ### Power and pins -/

theorem execPowerUp_answers (mv : Nat) : Answers s (Instr.powerUp t mv).mayStop (execPowerUp t mv s) := by
  unfold execPowerUp
  dsimp only
  split
  · exact .next (.ticked s t)
  split
  next hlimit => exact decide_eq_true hlimit
  · refine Keeps.iteOf (fun hlatch => tamperRest_keeps ?_ (Bool.and_eq_true_iff.mp hlatch).1) ?_ <;>
      exact .foldl (fun _ _ h => setLaser_keeps h _ _) (.aside (.ticked s t))

theorem execInputLow_answers (mv : Nat) : Answers s may (execInputLow t mv s) :=
  .when (relimit_keeps (logRas_keeps (.aside (.ticked s t)) _ _ _ _ _) _)

theorem execInputLowClear_answers : Answers s may (execInputLowClear t s) :=
  .when (relimit_keeps (.aside (.ticked s t)) _)

theorem execPowerLoss_answers : Answers s may (execPowerLoss t s) :=
  .when (.aside (.foldl (fun _ _ h => setLaser_keeps h _ _) (packageReset_keeps
    (.withSec (.ticked s t) (by exact ⟨fun h k => ⟨(h k).1, rfl⟩, id, fun _ _ => .inl rfl⟩)) _)))

theorem execModResetAssert_answers : Answers s may (execModResetAssert t s) :=
  .when (.ite (.aside (packageReset_keeps (.aside (.ticked s t)) _)) (packageReset_keeps (.aside (.ticked s t)) _))

theorem execModResetRelease_answers (strap : Nat) : Answers s may (execModResetRelease t strap s) :=
  .when (linkTrains_keeps (.aside (.ticked s t)))

theorem execPerstAssert_answers : Answers s may (execPerstAssert t s) :=
  .when (.ite (endpointReset_keeps (.aside (.ticked s t))) (.aside (.ticked s t)))

theorem execPerstRelease_answers : Answers s may (execPerstRelease t s) :=
  .when (linkTrains_keeps (.aside (.ticked s t)))

theorem execEndpointConfigReady_answers : Answers s may (execEndpointConfigReady t s) :=
  .next (.ite (.aside (linkTrains_keeps (.ticked s t))) (linkTrains_keeps (.ticked s t)))

theorem execFlrVf_answers (slot : Nat) : Answers s may (execFlrVf t slot s) :=
  .when (quench_keeps (setHdr_keeps (.ticked s t) _ _) _)

theorem execFlrPf0_answers : Answers s may (execFlrPf0 t s) :=
  .next (.when (hostReset_keeps (.ticked s t)))

/-! ### Tamper, battery, entropy -/

theorem execTamper_answers (src : TamperSource) : Answers s may (execTamper t src s) :=
  have hroots := tamperRoots_keeps (.ticked s t) src
  .next (.ite (tamperRest_keeps hroots rfl) hroots)

theorem execBatteryLow_answers (months : Nat) : Answers s may (execBatteryLow t months s) :=
  .when (tellBattery_keeps (.withSec (.ticked s t)))

theorem execTrngHealthFail_answers : Answers s may (execTrngHealthFail t s) :=
  .when (logRas_keeps (.withSec (.ticked s t)) _ _ _ _ _)

theorem execFreshValueTimeout_answers (wait : Nat) : Answers s may (execFreshValueTimeout t wait s) := by
  unfold execFreshValueTimeout
  dsimp only
  split
  · exact .next (.ticked s t)
  · exact .ite (.next (.ticked s t)) (.next (failFresh_keeps (.withSec (.ticked s t)) _))

/-! ### Lasers and reference clocks -/

theorem execLaserUnitFail_answers (unit : Nat) : Answers s may (execLaserUnitFail t unit s) :=
  .when (darken_keeps (draw_keeps (.ticked s t)) _ _)

theorem execLaserLatchOpen_answers (unit : Nat) : Answers s may (execLaserLatchOpen t unit s) :=
  .when (darken_keeps (.ticked s t) _ _)

theorem execLaserSafeToRemove_answers (unit : Nat) : Answers s may (execLaserSafeToRemove t unit s) :=
  .when (setLaser_keeps (.ticked s t) _ _)

theorem execLaserUnitInsert_answers (unit : Nat) (healthy : Bool) : Answers s may (execLaserUnitInsert t unit healthy s) :=
  .when (shiftLight_keeps (setLaser_keeps (pinLight_keeps (.ticked s t)) _ _))

theorem execRefclkLinkLost_answers : Answers s may (execRefclkLinkLost t s) :=
  .when (logRas_keeps (raise_keeps (.withClk (portsDown_keeps (.ticked s t))) _ _) _ _ _ _ _)

theorem execRefclkLinkReturn_answers : Answers s may (execRefclkLinkReturn t s) :=
  .when (logRas_keeps (raise_keeps (.withClk (.ticked s t)) _ _) _ _ _ _ _)

theorem execRefclkPcieLost_answers : Answers s may (execRefclkPcieLost t s) :=
  .when (logRas_keeps (raise_keeps (endpointReset_keeps (.withClk (.ticked s t))) _ _) _ _ _ _ _)

theorem execRefclkPcieReturn_answers : Answers s may (execRefclkPcieReturn t s) :=
  .when (logRas_keeps (raise_keeps (linkTrains_keeps (.withClk (.ticked s t))) _ _) _ _ _ _ _)

end Sys2Proof.Machine
end

section
/-! PROOFS. Rails, regions, temperature and power (R388 to R394): what each command keeps. -/

namespace Sys2Proof.Machine

open State

variable (s : State) (t : Nat) {may : Bool}

theorem execRailExcursion_answers (rail mv : Nat) : Answers s may (execRailExcursion t rail mv s) :=
  .ite (.ite (.next (setRail_keeps (.ticked s t) _ _))
    (.next (raise_keeps (noteThrottle_keeps (.aside (setRail_keeps (.ticked s t) _ _))) _ _))) (.next (.ticked s t))

theorem execRailExcursionEnd_answers (rail mv : Nat) : Answers s may (execRailExcursionEnd t rail mv s) :=
  .when (logRas_keeps (noteThrottle_keeps (.aside (setRail_keeps (.ticked s t) _ _))) _ _ _ _ _)

theorem execRailResetLevel_answers (rail : Nat) : Answers s may (execRailResetLevel t rail s) :=
  have hlow := regulate_keeps (setRail_keeps (logRas_keeps (.ticked s t) _ _ _ _ _) _ _)
  .ite (.ite (.next (cpStart_keeps hlow _)) (.ite (.next (portsDown_keeps hlow)) (.next (packageReset_keeps hlow _))))
    (.next (.ticked s t))

theorem execPhotonicRailRecover_answers : Answers s may (execPhotonicRailRecover t s) := .next (railsBack_keeps (.ticked s t) _)

theorem execSkewCheck_answers (meas : List RegionMeasure) : Answers s may (execSkewCheck t meas s) := by
  refine .when (.foldl (fun _ _ h => .ite h (pullBack_keeps h _ _ _)) (.foldl (fun _ _ h => ?_)
    (.foldl (fun _ _ h => .ite (setRegion_keeps h _ _) h) (.ticked s t))))
  dsimp only
  split
  · exact .ite (setRegion_keeps h _ _) h
  split
  · exact setRegion_keeps h _ _
  split
  · exact h
  · exact logRas_keeps (setRegion_keeps h _ _) _ _ _ _ _

theorem execSkewDrain_answers (region : Nat) : Answers s may (execSkewDrain t region s) := by
  unfold execSkewDrain
  dsimp only
  split
  · exact .when (drainRegion_keeps (.ticked s t) _ _)
  · exact .next (.ticked s t)

theorem execRegionRejoin_answers (region : Nat) : Answers s may (execRegionRejoin t region s) :=
  .when (rejoinRegion_keeps (.ticked s t) _)

theorem execThermalRegionThrottle_answers (region temp : Nat) : Answers s may (execThermalRegionThrottle t region temp s) :=
  .when (setRegion_keeps (.ticked s t) _ _)

theorem execThermalClockStep_answers (region temp : Nat) : Answers s may (execThermalClockStep t region temp s) :=
  have hset := fun x => setRegion_keeps (.ticked s t) region x
  .ite (.ite (.next (hset _)) (.ite (.next (lowerClock_keeps (hset _) _ _))
    (.ite (.next (setRegion_keeps (hset _) _ _)) (.next (hset _))))) (.next (.ticked s t))

theorem execThermalRegionDrain_answers (region temp : Nat) : Answers s may (execThermalRegionDrain t region temp s) :=
  .when (drainRegion_keeps (lowerClock_keeps (setRegion_keeps (.ticked s t) _ _) _ _) _ _)

theorem execThermalSysdieLimit_answers (temp : Nat) : Answers s may (execThermalSysdieLimit t temp s) :=
  .when (relimit_keeps (.aside (.ticked s t)) _)

theorem execThermalStackAction_answers (stack temp : Nat) : Answers s may (execThermalStackAction t stack temp s) :=
  .when (.aside (.ticked s t))

theorem execThermalCoolantLimit_answers (inlet outlet : Nat) : Answers s may (execThermalCoolantLimit t inlet outlet s) :=
  .when (relimit_keeps (.aside (.ticked s t)) _)

theorem execThermalInletLimit_answers (inlet : Nat) : Answers s may (execThermalInletLimit t inlet s) :=
  .when (relimit_keeps (.aside (.ticked s t)) _)

theorem execThermalRelease_answers (action : ThermalAction) : Answers s may (execThermalRelease t action s) := by
  have hclock := Keeps.ticked s t
  refine .ite (.next hclock) ?_
  cases action with
  | region r temp => exact .when (setRegion_keeps hclock _ _)
  | regionDrain r temp => exact .when (rejoinRegion_keeps (setRegion_keeps hclock _ _) _)
  | sysdie temp => exact .when (relimit_keeps (.aside hclock) _)
  | stackRefresh k temp => exact .when (.aside hclock)
  | stackHalf k temp => exact .when (.aside hclock)
  | coolant inlet outlet => exact .when (relimit_keeps (.aside hclock) _)
  | inlet inlet => exact .when (relimit_keeps (.aside hclock) _)

theorem execThermalTrip_answers (temp : Nat) : Answers s may (execThermalTrip t temp s) :=
  .next (.when (packageReset_keeps (.ticked s t) _))

theorem execThermalTripRailsOn_answers (temp : Nat) : Answers s may (execThermalTripRailsOn t temp s) :=
  .when (linkTrains_keeps (regulate_keeps (.aside (.ticked s t))))

theorem execPowerMeasure_answers (watts : Nat) : Answers s may (execPowerMeasure t watts s) :=
  .ite (.ite (.next (noteThrottle_keeps (.foldl (fun _ _ h => setRegion_keeps h _ _) (.aside (.aside (.ticked s t))))))
    (.ite (.next (noteThrottle_keeps (.foldl (fun _ _ h => .ite h (setRegion_keeps h _ _)) (.aside (.aside (.ticked s t))))))
      (.next (.aside (.ticked s t))))) (.next (.ticked s t))

end Sys2Proof.Machine
end

section
/-! PROOFS. Ports, sessions, lanes, flits and time (R198 to R222, R328, R361 to R363): what each command keeps. -/

namespace Sys2Proof.Machine

open State

variable (s : State) (t : Nat) {may : Bool}

/-! ### Bring-up and sessions -/

theorem execLightDetected_answers (port : Nat) : Answers s may (execLightDetected t port s) :=
  .next (.when (startBringup_keeps (.ticked s t) _))

theorem execCodewordLock_answers (port lanes : Nat) : Answers s may (execCodewordLock t port lanes s) :=
  .ite (.next (.ticked s t)) (.ite (.next (resumeTraffic_keeps (.ticked s t) _ _))
    (.when (enqueue_keeps (setPort_keeps (.ticked s t) _ _) _ _)))

theorem execBringupTimeout_answers (port : Nat) : Answers s may (execBringupTimeout t port s) :=
  .ite (.next (bringupFail_keeps (.ticked s t) _)) (.when (portDown_keeps (.ticked s t) _))

theorem execBringupRetry_answers (port : Nat) : Answers s may (execBringupRetry t port s) :=
  .when (.ite (startBringup_keeps (setPort_keeps (.ticked s t) _ _) _) (setPort_keeps (.ticked s t) _ _))

theorem execTrain_answers (port : Nat) (payload : Bytes) : Answers s may (execTrain t port payload s) :=
  .ite (.next (.ticked s t)) (.ite (.next (dropBad_keeps (.ticked s t) _)) (.ite (.next (bringupFail_keeps (.ticked s t) _))
    (.next (startSession_keeps (setPort_keeps (draw_keeps (.ticked s t)) _ _) _))))

theorem execHello_answers (port : Nat) (payload : Bytes) : Answers s may (execHello t port payload s) :=
  .ite (.next (.ticked s t)) (.ite (.next (dropBad_keeps (.ticked s t) _)) (.next (sendSession_keeps (hallmark_keeps
    (draw_keeps (sendChain_keeps (setPort_keeps (.ticked s t) _ _) _)) _ _ _) _ _ _ _)))

theorem execCert_answers (port offset : Nat) (payload : Bytes) : Answers s may (execCert t port offset payload s) :=
  .when (setPort_keeps (.ticked s t) _ _)

theorem execProof_answers (port : Nat) (payload : Bytes) (verdict : ProofVerdict) :
    Answers s may (execProof t port payload verdict s) := by
  unfold execProof
  dsimp only
  split
  · exact .next (.ticked s t)
  · exact .ite (.next (.ticked s t)) (.ite (.next (sendSession_keeps (setPort_keeps (.ticked s t) _ _) _ _ _ _))
      (.next (bringupFail_keeps (.ticked s t) _)))

theorem execFinish_answers (port : Nat) (payload : Bytes) : Answers s may (execFinish t port payload s) :=
  .ite (.next (.ticked s t)) (.ite (.next (establish_keeps (setPort_keeps (.ticked s t) _ _) _))
    (.next (bringupFail_keeps (.ticked s t) _)))

theorem execRekey_answers (port : Nat) (pkt : Packet) : Answers s may (execRekey t port pkt s) :=
  have hpacket := admitPacket_keeps (.ticked s t) port pkt
  .ite (.next hpacket) (.ite (.next (dropBad_keeps hpacket _)) (.next (setPort_keeps hpacket _ _)))

theorem execRekeyTimer_answers (port : Nat) : Answers s may (execRekeyTimer t port s) :=
  .when (startRekey_keeps (.ticked s t) _)

theorem execDomain_answers (port : Nat) (pkt : Packet) : Answers s may (execDomain t port pkt s) :=
  have hpacket := admitPacket_keeps (.ticked s t) port pkt
  .ite (.next (restartPort_keeps (joinsNone_keeps (.withSec hpacket)) _)) (.next hpacket)

/-! ### Lanes -/

theorem execLaneFail_answers (port lane : Nat) : Answers s may (execLaneFail t port lane s) :=
  .when (laneFails_keeps (.ticked s t) _ _)

theorem execLaneRetry_answers (port lane : Nat) : Answers s may (execLaneRetry t port lane s) :=
  .when (setPort_keeps (.ticked s t) _ _)

theorem execLaneMarginLow_answers (port lane margin : Nat) : Answers s may (execLaneMarginLow t port lane margin s) :=
  .when (askRecal_keeps (setPort_keeps (.ticked s t) _ _) _ _)

theorem execRecalStart_answers (port lane : Nat) : Answers s may (execRecalStart t port lane s) :=
  .when (announceLanes_keeps (setPort_keeps (.ticked s t) _ _) _)

theorem execRecalDone_answers (port lane : Nat) (good : Bool) (margin : Nat) :
    Answers s may (execRecalDone t port lane good margin s) :=
  .when (sweepEnd_keeps (.ite (announceLanes_keeps (setPort_keeps (.ticked s t) _ _) _)
    (.ite (setPort_keeps (.ticked s t) _ _) (laneFails_keeps (setPort_keeps (.ticked s t) _ _) _ _))))

theorem execLaneMap_answers (port : Nat) (pkt : Packet) : Answers s may (execLaneMap t port pkt s) :=
  have hpacket := admitPacket_keeps (.ticked s t) port pkt
  .ite (.next hpacket) (.ite (.next (dropBad_keeps hpacket _)) (.next (modPort_keeps hpacket _ _)))

/-! ### Device time -/

theorem execTimeSyncTick_answers : Answers s may (execTimeSyncTick t s) := by
  unfold execTimeSyncTick
  dsimp only
  split
  · exact .next (.when (askTime_keeps (.ticked s t) _))
  · exact .next (.ticked s t)

theorem execTimeSync_answers (port : Nat) (pkt : Packet) (rx : Nat) : Answers s may (execTimeSync t port pkt rx s) :=
  have hpacket := admitPacket_keeps (.ticked s t) port pkt
  have hup := portUp_keeps hpacket port
  .ite (.next hpacket) (.ite (.next (dropBad_keeps hpacket _)) (.ite (.next (enqueue_keeps hpacket _ _))
    (.ite (.next hpacket) (.next (.ite (followParent_keeps hup _) hup)))))

/-! ### Flits and packets of a port -/

theorem execFlitSend_answers (port : Nat) : Answers s may (execFlitSend t port s) :=
  .next (.when (sendFlit_keeps (.ticked s t) _))

theorem takeEarly_keeps {s₀ s : State} (h : Keeps s₀ s) (n port : Nat) : Keeps s₀ (takeEarly n s port) := by
  induction n generalizing s with
  | zero => exact h
  | succ n ih =>
    unfold takeEarly
    dsimp only
    split
    · exact h
    · exact ih (takeFlit_keeps (setPort_keeps h _ _) _ _)

theorem execFlitReceive_answers (port : Nat) (flit : Bytes) : Answers s may (execFlitReceive t port flit s) :=
  .ite (.next (.ticked s t)) (.ite (.next (setPort_keeps (.ticked s t) _ _))
    (.ite (.next (takeEarly_keeps (takeFlit_keeps (.ticked s t) _ _) _ _)) (.next (setPort_keeps (.ticked s t) _ _))))

theorem execPacketTransit_answers (port : Nat) (pkt : Packet) : Answers s may (execPacketTransit t port pkt s) :=
  have hpacket := admitPacket_keeps (.ticked s t) port pkt
  .ite (.next (.ticked s t)) (.ite (.next hpacket) (.ite (.next (dropBad_keeps hpacket _))
    (.ite (.next (.aside hpacket)) (.next (send_keeps hpacket _)))))

theorem execDuplicateRecordExpire_answers (port : Nat) : Answers s may (execDuplicateRecordExpire t port s) :=
  .next (.when (.aside (.ticked s t)))

theorem execPortDownDetect_answers (port : Nat) : Answers s may (execPortDownDetect t port s) := by
  unfold execPortDownDetect
  dsimp only
  split
  · exact .next (.ticked s t)
  · exact .next (noteRoutes_keeps (.foldl (fun _ _ h => resend_keeps h _)
      (setPort_keeps (setPort_keeps (.ticked s t) _ _) _ _)) _)

theorem execCharter_answers (port : Nat) (pkt : Packet) : Answers s may (execCharter t port pkt s) := by
  have hpacket := admitPacket_keeps (.ticked s t) port pkt
  refine .ite (.next hpacket) (.ite (.next (dropBad_keeps hpacket _)) ?_)
  dsimp only
  split
  · exact .next (letGo_keeps (sayDigest_keeps (setPort_keeps hpacket _ _) _ _ _) _ _)
  · exact .next (letGo_keeps (.ite (.aside (sayDigest_keeps (setPort_keeps hpacket _ _) _ _ _))
      (shutOut_keeps (sayDigest_keeps (setPort_keeps hpacket _ _) _ _ _) _ _)) _ _)

end Sys2Proof.Machine
end

section
/-! PROOFS. Packets of a job and reductions (R80, R211, R216, R223 to R238): what each command keeps. -/

namespace Sys2Proof.Machine

open State

variable (s : State) (t : Nat) {may : Bool}

theorem execBucketStart_answers (slot tag : Nat) : Answers s may (execBucketStart t slot tag s) := by
  have hbucket := startBucket_keeps (.ticked s t) slot tag
  refine .ite ?_ (.next (.ticked s t))
  split
  · exact .next (.ite hbucket (wakeSums_keeps (settle_keeps hbucket _) _))
  · exact .next hbucket

theorem execContributionReady_answers (slot tag : Nat) : Answers s may (execContributionReady t slot tag s) := by
  unfold execContributionReady
  dsimp only
  split
  · exact .next (.ticked s t)
  split
  · refine .ite (.next (.ticked s t)) ?_
    have hfail := fun q tag back a => failEntry_keeps (.ticked s t) q tag 6 back a
    split
    · exact .next (.ite (wakeSums_keeps (settle_keeps (hfail _ _ _ _) _) _) (hfail _ _ _ _))
    · exact .next (wakeSums_keeps (loseBuckets_keeps (hfail _ _ _ _) _ _) _)
    · exact .next (wakeSums_keeps (contribute_keeps (.ticked s t) _ _) _)
  · exact .next (.ticked s t)

theorem execRedDeadline_answers (slot tag : Nat) : Answers s may (execRedDeadline t slot tag s) := by
  unfold execRedDeadline
  dsimp only
  split
  · exact .next (.ticked s t)
  · exact .next (.when (wakeSums_keeps (settle_keeps (.ticked s t) _) _))

theorem execRedPullIssue_answers (slot tag level : Nat) : Answers s may (execRedPullIssue t slot tag level s) := by
  unfold execRedPullIssue
  dsimp only
  split
  · exact .next (.ticked s t)
  split
  · exact .next (.ticked s t)
  · exact .when (sendFor_keeps (.aside (setBucket_keeps (.ticked s t) _)) _ _)

theorem redCommand_answers (port ptype : Nat) (pkt : Packet) : Answers s may (s.redCommand t port ptype pkt) := by
  have hpacket := jobPacket_keeps (.ticked s t) port pkt
  unfold redCommand
  dsimp only
  split
  next u hjob => exact .next (.ofFst hjob hpacket)
  next u c hjob =>
    have hu := Keeps.ofFst hjob hpacket
    exact .next (.ite (wakeSums_keeps (redFiltered_keeps hu _ _) _) (dropBad_keeps hu _))

theorem execData_answers (port : Nat) (pkt : Packet) : Answers s may (execData t port pkt s) := by
  have hpacket := jobPacket_keeps (.ticked s t) port pkt
  unfold execData
  dsimp only
  split
  next u hjob => exact .next (.ofFst hjob hpacket)
  next u c hjob =>
    have hu := Keeps.ofFst hjob hpacket
    exact .ite (.next (dropBad_keeps hu _)) (.ite (.next hu)
      (.next (wakeData_keeps (.ite (itemDone_keeps (modCtx_keeps hu _ _) _ _) (modCtx_keeps hu _ _)) _)))

theorem execAbort_answers (port : Nat) (pkt : Packet) : Answers s may (execAbort t port pkt s) := by
  have hpacket := jobPacket_keeps (.ticked s t) port pkt
  unfold execAbort
  dsimp only
  split
  next u hjob => exact .next (.ofFst hjob hpacket)
  next u c hjob =>
    have hu := Keeps.ofFst hjob hpacket
    exact .ite (.next (dropBad_keeps hu _)) (.next (lostPeer_keeps (modCtx_keeps (itemDone_keeps hu _ _) _ _) _ _))

theorem execGatherReq_answers (port : Nat) (pkt : Packet) : Answers s may (execGatherReq t port pkt s) := by
  have hpacket := jobPacket_keeps (.ticked s t) port pkt
  unfold execGatherReq
  dsimp only
  split
  next u hjob => exact .next (.ofFst hjob hpacket)
  next u c hjob =>
    have hu := Keeps.ofFst hjob hpacket
    exact .ite (.next (dropBad_keeps hu _))
      (.next (.ite (serveGather_keeps (itemDone_keeps hu _ _) _ _) (itemDone_keeps hu _ _)))

theorem execGatherReqServe_answers (slot : Nat) : Answers s may (execGatherReqServe t slot s) :=
  .when (.foldl (fun _ _ h => serveGather_keeps h _ _) (modCtx_keeps (.ticked s t) _ _))

end Sys2Proof.Machine
end

section
/-! PROOFS. The entries of a queue, and the commands that fetch, resume and complete them (R53 to R122, R235 to R260, R323 to R337):
what each command keeps. -/

namespace Sys2Proof.Machine

open State

variable (s : State) (t : Nat) (q : QRef) {may : Bool}

/-- A command that runs the current entry keeps what the entry's effect keeps. -/
theorem runEntry_answers {op : Nat} {f : State → Entry → State} (hf : ∀ x e, Keeps s x → Keeps s (f x e)) :
    Answers s may (s.runEntry t q op f) := by
  unfold runEntry
  dsimp only
  split
  · exact .next (.ticked s t)
  · exact .next (hf _ _ (touch_keeps (start_keeps (.ticked s t) q) q _))

theorem runCompute_answers {op : Nat} {f : State → Queue → Entry → Except Acc Done} : Answers s may (s.runCompute t q op f) :=
  runEntry_answers s t q fun _ _ h => compute_keeps h q _ _

/-! ### Fetch, lists and completion -/

theorem execQueueFetch_answers : Answers s may (execQueueFetch t q s) := by
  refine .ite (.ite (.next (.ticked s t)) (.ite (.next (askHost_keeps (.ticked s t) _ _)) ?_)) (.next (.ticked s t))
  have hread := fun base k len => ringRead_keeps (.ticked s t) q.slot base k len
  dsimp only
  split
  · exact .ite (.next (queueError_keeps (hread _ _ _) _ _)) (.next (modQueue_keeps (hread _ _ _) _ _))
  · exact .next (failEntry_keeps (hread _ _ _) _ _ _ _ _)
  · exact .next (queueError_keeps (fault_keeps (hread _ _ _) _ _ _ _ _ _ _ _) _ _)
  · exact .next (queueError_keeps (noteAcc_keeps (hread _ _ _) _ _) _ _)

theorem execNop_answers : Answers s may (execNop t q s) := runEntry_answers s t q fun _ _ h => finishEntry_keeps h _ _

theorem execListEnd_answers : Answers s may (execListEnd t q s) := runEntry_answers s t q fun _ _ h => finishEntry_keeps h _ _

theorem execListHead_answers : Answers s may (execListHead t q s) :=
  runEntry_answers s t q fun _ _ h => finishEntry_keeps (modCtx_keeps h _ _) _ _

theorem execCall_answers : Answers s may (execCall t q s) := by
  refine runEntry_answers s t q fun x e h => .ite ?_ (setQueue_keeps h _ _)
  split
  · exact failEntry_keeps h _ _ _ _ _
  · refine .ite (askHost_keeps h _ _) ?_
    split
    · exact failEntry_keeps (.aside h) _ _ _ _ _
    · exact failEntry_keeps h _ _ _ _ _
    · have htree := fun tr f => modQueue_keeps (meetTree_keeps h q.slot tr) q f
      exact .ite (htree _ _) (startTree_keeps (htree _ _) _ _)

theorem execTreeAdmitResume_answers : Answers s may (execTreeAdmitResume t q s) := by
  unfold execTreeAdmitResume
  dsimp only
  split
  · exact .next (.when (startTree_keeps (.ticked s t) _ _))
  · exact .next (.ticked s t)

theorem execLoopBegin_answers : Answers s may (execLoopBegin t q s) := by
  refine runEntry_answers s t q fun x e h => ?_
  dsimp only
  split
  · exact h
  · exact finishEntry_keeps (setQueue_keeps h _ _) _ _

theorem execLoopEnd_answers : Answers s may (execLoopEnd t q s) := by
  refine runEntry_answers s t q fun x e h => ?_
  dsimp only
  split
  · exact h
  · exact finishEntry_keeps (setQueue_keeps h _ _) _ _

theorem execEntryComplete_answers : Answers s may (execEntryComplete t q s) :=
  .next (.when (completeEntry_keeps (.ticked s t) _))

theorem execWlBreakpointHit_answers (bp : Nat) : Answers s may (execWlBreakpointHit t q bp s) := by
  unfold execWlBreakpointHit
  dsimp only
  split
  · exact .next (.ticked s t)
  · exact .when (raise_keeps (setWl_keeps (setQueue_keeps (.ticked s t) _ _) _ _) _ _)

/-! ### Barriers and fences -/

theorem execBarrier_answers : Answers s may (execBarrier t q s) :=
  runEntry_answers s t q fun _ _ h => .ite (finishEntry_keeps h _ _) (.ite (finishEntry_keeps h _ _) (modQueue_keeps h _ _))

theorem execBarrierComplete_answers : Answers s may (execBarrierComplete t q s) := by
  unfold execBarrierComplete
  dsimp only
  split
  · exact .ite (.next (.ticked s t)) (.ite (.next (finishEntry_keeps (.ticked s t) _ _))
      (.when (.foldl (fun _ _ h => finishEntry_keeps h _ _) (.ticked s t))))
  · exact .next (.ticked s t)

theorem execBarrierPatience_answers : Answers s may (execBarrierPatience t q s) := by
  unfold execBarrierPatience
  dsimp only
  split
  · exact .next (.when (finishEntry_keeps (.ticked s t) _ _))
  · exact .next (.ticked s t)

theorem execFenceWait_answers : Answers s may (execFenceWait t q s) := runEntry_answers s t q fun _ _ h => modQueue_keeps h _ _

theorem execFenceWaitSatisfied_answers : Answers s may (execFenceWaitSatisfied t q s) :=
  .next (.when (wake_keeps (.ticked s t) _))

theorem execFenceSignal_answers : Answers s may (execFenceSignal t q s) := by
  refine runEntry_answers s t q fun x e h => ?_
  have hsignal := signalFence_keeps h q.slot e.signalFence e.signalValue .ok
  split
  next u heq => exact finishEntry_keeps (.ofFst heq hsignal) _ _
  next u a heq => exact failEntry_keeps (.ofFst heq hsignal) _ _ _ _ _

theorem execPeriodMark_answers : Answers s may (execPeriodMark t q s) :=
  runEntry_answers s t q fun _ _ h => .ite (modQueue_keeps h _ _) (finishEntry_keeps h _ _)

/-! ### Steps -/

theorem execStepBegin_answers : Answers s may (execStepBegin t q s) :=
  runEntry_answers s t q fun _ _ h => finishEntry_keeps (.ite h (modCtx_keeps h _ _)) _ _

theorem execRetire_answers : Answers s may (execRetire t q s) := runEntry_answers s t q fun _ _ h => startRetire_keeps h _ _

theorem execStepEnd_answers : Answers s may (execStepEnd t q s) := by
  refine runEntry_answers s t q fun x e h => .ite (finishEntry_keeps h _ _) ?_
  split
  · exact failEntry_keeps h _ _ _ _ _
  · split
    next u a hmask => exact failEntry_keeps (.ofFst hmask (vwrites_keeps h _ _ _)) _ _ _ _ _
    next u hmask =>
      have hu := Keeps.ofFst hmask (vwrites_keeps h _ _ _)
      split
      next v a hring => exact failEntry_keeps (.ofFst hring (ringWrite_keeps hu _ _ _ _)) _ _ _ _ _
      next v hring => exact finishEntry_keeps (stepClosed_keeps (.ofFst hring (ringWrite_keeps hu _ _ _ _)) _ _) _ _

theorem execScaleUpdate_answers : Answers s may (execScaleUpdate t q s) :=
  runEntry_answers s t q fun _ _ h => .ite (modCtx_keeps (compute_keeps h _ _ _) _ _) (compute_keeps h _ _ _)

theorem execLog_answers : Answers s may (execLog t q s) := by
  refine runEntry_answers s t q fun x e h => ?_
  dsimp only
  split
  · exact failEntry_keeps h _ _ _ _ _
  · exact finishEntry_keeps (modCtx_keeps h _ _) _ _

/-! ### Collectives and messages -/

theorem execAllReduce_answers : Answers s may (execAllReduce t q s) := runEntry_answers s t q fun _ _ h => sumEntry_keeps h _ _

theorem execReduceScatter_answers : Answers s may (execReduceScatter t q s) := runEntry_answers s t q fun _ _ h => sumEntry_keeps h _ _

theorem execAllGather_answers : Answers s may (execAllGather t q s) := runEntry_answers s t q fun _ _ h => startGather_keeps h _ _

theorem execGatherShard_answers : Answers s may (execGatherShard t q s) := runEntry_answers s t q fun _ _ h => startGather_keeps h _ _

theorem execReshard_answers : Answers s may (execReshard t q s) := runEntry_answers s t q fun _ _ h => startReshard_keeps h _ _

theorem execAllToAll_answers : Answers s may (execAllToAll t q s) := runEntry_answers s t q fun _ _ h => startExchange_keeps h _ _

theorem execAllToAllPatience_answers : Answers s may (execAllToAllPatience t q s) := by
  unfold execAllToAllPatience
  dsimp only
  split
  · exact .when (tryExchange_keeps (setQueue_keeps (.ticked s t) _ _) _)
  · exact .next (.ticked s t)

theorem execPeerWaitTimeout_answers : Answers s may (execPeerWaitTimeout t q s) := by
  unfold execPeerWaitTimeout
  dsimp only
  split
  · exact .next (.when (finishEntry_keeps (.ticked s t) _ _))
  · exact .next (.when (finishEntry_keeps (.ticked s t) _ _))
  · exact .next (.ticked s t)

theorem execSend_answers : Answers s may (execSend t q s) := by
  refine runEntry_answers s t q fun x e h => ?_
  dsimp only
  split
  · exact finishEntry_keeps h _ _
  split
  · exact failEntry_keeps h _ _ _ _ _
  · exact wakeData_keeps (finishEntry_keeps (sendMsg_keeps h _ _ _ _) _ _) _

theorem execRecv_answers : Answers s may (execRecv t q s) := by
  refine runEntry_answers s t q fun x e h => ?_
  split
  · exact finishEntry_keeps h _ _
  · exact tryRecv_keeps (modQueue_keeps h _ _) _

theorem execDropShard_answers : Answers s may (execDropShard t q s) := by
  refine runEntry_answers s t q fun x e h => ?_
  have hdrop := dropView_keeps h q.slot ((x.queue q).d 0)
  split
  next u a heq => exact failEntry_keeps (.ofFst heq hdrop) _ _ _ _ _
  next u heq => exact finishEntry_keeps (.ofFst heq hdrop) _ _

/-! ### Operators -/

theorem execMatmul_answers : Answers s may (execMatmul t q s) := runCompute_answers s t q

theorem execMatmulBwdPair_answers : Answers s may (execMatmulBwdPair t q s) := runCompute_answers s t q

theorem execGroupedMatmul_answers : Answers s may (execGroupedMatmul t q s) := runCompute_answers s t q

theorem execGroupedBwdPair_answers : Answers s may (execGroupedBwdPair t q s) := runCompute_answers s t q

theorem execAttnFwd_answers : Answers s may (execAttnFwd t q s) := runCompute_answers s t q

theorem execAttnBwd_answers : Answers s may (execAttnBwd t q s) := runCompute_answers s t q

theorem execNormFwd_answers : Answers s may (execNormFwd t q s) := runCompute_answers s t q

theorem execNormBwd_answers : Answers s may (execNormBwd t q s) := runCompute_answers s t q

theorem execLossXent_answers : Answers s may (execLossXent t q s) := runCompute_answers s t q

theorem execElementwise_answers : Answers s may (execElementwise t q s) := runCompute_answers s t q

theorem execRowreduce_answers : Answers s may (execRowreduce t q s) := runCompute_answers s t q

theorem execConvert_answers : Answers s may (execConvert t q s) := runCompute_answers s t q

theorem execEmbed_answers : Answers s may (execEmbed t q s) := runCompute_answers s t q

theorem execRouteTopk_answers : Answers s may (execRouteTopk t q s) := runCompute_answers s t q

theorem execCompress_answers : Answers s may (execCompress t q s) := runCompute_answers s t q

theorem execExpand_answers : Answers s may (execExpand t q s) := runCompute_answers s t q

theorem execOptAdam_answers : Answers s may (execOptAdam t q s) := runCompute_answers s t q

theorem execOptMomentum_answers : Answers s may (execOptMomentum t q s) := runCompute_answers s t q

/-! ### Services -/

theorem execCopy_answers : Answers s may (execCopy t q s) := runEntry_answers s t q fun _ _ h => copy_keeps h _ _

theorem execIngest_answers : Answers s may (execIngest t q s) := by
  refine runEntry_answers s t q fun x e h => ?_
  dsimp only
  split
  next u a heq => exact halt_keeps (.ofFst heq (ingest_keeps h _ _ _ _ _ _)) _ _ _ _
  next u rest heq =>
    have hu := Keeps.ofFst heq (ingest_keeps h _ _ _ _ _ _)
    split
    next v a hw => exact failEntry_keeps (.ofFst hw (vwrites_keeps hu _ _ _)) _ _ _ _ _
    next v hw => exact finishEntry_keeps (.ofFst hw (vwrites_keeps hu _ _ _)) _ _

theorem execCheckpoint_answers : Answers s may (execCheckpoint t q s) := by
  refine runEntry_answers s t q fun x e h => ?_
  dsimp only
  split
  · exact failEntry_keeps h _ _ _ _ _
  split
  next u a hw => exact failEntry_keeps (.ofFst hw (vwrites_keeps (.withSec h) _ _ _)) _ _ _ _ _
  next u hw => exact finishEntry_keeps (modCtx_keeps (.ofFst hw (vwrites_keeps (.withSec h) _ _ _)) _ _) _ _

theorem execRestore_answers : Answers s may (execRestore t q s) := by
  refine runEntry_answers s t q fun x e h => ?_
  dsimp only
  split
  · exact finishEntry_keeps h _ _
  split
  next u k heq =>
    have hu := Keeps.ofFst heq (restoreAll_keeps h _ _ _ _ _ _)
    refine halt_keeps ?_ _ _ _ _
    split
    exacts [hu, hu, modCtx_keeps hu _ _]
  next u r heq =>
    have hu := Keeps.ofFst heq (restoreAll_keeps h _ _ _ _ _ _)
    split
    · refine halt_keeps ?_ _ _ _ _
      split
      exacts [hu, hu, modCtx_keeps hu _ _]
    · exact finishEntry_keeps (modCtx_keeps hu _ _) _ _

theorem execRelease_answers : Answers s may (execRelease t q s) := by
  refine runEntry_answers s t q fun x e h => ?_
  have hdenied := finishEntry_keeps h q .charterDenied
  dsimp only
  split
  · exact hdenied
  split
  · exact hdenied
  refine .ite hdenied (.ite hdenied ?_)
  split
  · exact failEntry_keeps h _ _ _ _ _
  split
  next u a hw => exact failEntry_keeps (.ofFst hw (vwrites_keeps (.withSec h) _ _ _)) _ _ _ _ _
  next u hw => exact finishEntry_keeps (modCtx_keeps (.ofFst hw (vwrites_keeps (.withSec h) _ _ _)) _ _) _ _

theorem execHostCompletion_answers (tag : Nat) (data : Bytes) : Answers s may (execHostCompletion t tag data s) := by
  have hfree := freeRead_keeps (.ticked s t) tag
  unfold execHostCompletion
  dsimp only
  split
  · exact .next (.ticked s t)
  split
  · exact .next (added_keeps hfree _ _ _)
  · exact .next (.ite (readArrived_keeps hfree _ _) hfree)

theorem execHostCplTimeout_answers (tag : Nat) : Answers s may (execHostCplTimeout t tag s) := by
  have hfree := freeRead_keeps (.ticked s t) tag
  unfold execHostCplTimeout
  dsimp only
  split
  · exact .next (.ticked s t)
  · exact .ite (.next (failEntry_keeps (.aside hfree) _ _ _ _ _)) (.next (.aside hfree))

end Sys2Proof.Machine
end

section
/-! PROOFS. Contexts, the host interface and address translation (R243 to R278, R341 to R344, R367): what each command keeps. -/

namespace Sys2Proof.Machine

open State

variable (s : State) (t : Nat) {may : Bool}

theorem execQuenchDone_answers (slot : Nat) : Answers s may (execQuenchDone t slot s) :=
  .next (.when (quenched_keeps (.ticked s t) _))

theorem execDrainComplete_answers (slot : Nat) : Answers s may (execDrainComplete t slot s) :=
  .next (.when (settleOwed_keeps (quenched_keeps (.ticked s t) _)))

theorem execDoorbell_answers (fn slot off value : Nat) : Answers s may (execDoorbell t fn slot off value s) :=
  .when (.ite (queueError_keeps (modQueue_keeps (.ticked s t) _ _) _ _) (modQueue_keeps (.ticked s t) _ _))

theorem execQueueEnable_answers (fn slot value : Nat) : Answers s may (execQueueEnable t fn slot value s) :=
  .next (.whenOpen (writeQcfg_keeps (.accessed s t _ _) _ _))

theorem execHostModeWrite_answers (fn slot value : Nat) : Answers s may (execHostModeWrite t fn slot value s) :=
  .next (.whenOpen (writeHostMode_keeps (.accessed s t _ _) _ _))

theorem execResume_answers (fn slot value : Nat) : Answers s may (execResume t fn slot value s) :=
  .next (.whenOpen (writeResume_keeps (.accessed s t _ _) _ _))

theorem execFaultConsWrite_answers (fn slot value : Nat) : Answers s may (execFaultConsWrite t fn slot value s) :=
  .next (.whenOpen (writeFaultCons_keeps (.accessed s t _ _) _ _))

theorem execInvalidate_answers (fn slot value : Nat) : Answers s may (execInvalidate t fn slot value s) :=
  .next (.whenOpen (writeInval_keeps (.accessed s t _ _) _ _))

theorem execInvalidateDone_answers (slot : Nat) : Answers s may (execInvalidateDone t slot s) :=
  .ite (.next (.ticked s t)) (.next (dropPins_keeps (modCtx_keeps (.ticked s t) _ _) _))

theorem execScrub_answers (fn value : Nat) : Answers s may (execScrub t fn value s) :=
  .next (.whenOpen (writeScrub_keeps (.accessed s t _ _) _))

theorem execScrubDone_answers : Answers s may (execScrubDone t s) := by
  unfold execScrubDone
  dsimp only
  split
  · exact .next (.ticked s t)
  · exact .next (raise_keeps (.withMem (.foldl (fun _ _ h => unback_keeps h _) (.ticked s t))) _ _)

theorem execTdiStateChange_answers (slot : Nat) (state : TdiState) : Answers s may (execTdiStateChange t slot state s) :=
  .next (.when (setTdi_keeps (.ticked s t) _ _))

theorem execSriovEnable_answers (enable : Bool) (numVfs : Nat) : Answers s may (execSriovEnable t enable numVfs s) :=
  .ite (.next (.ticked s t)) (.next (.foldl (fun _ _ h => .aside (setTdi_keeps h _ _)) (.aside (.ticked s t))))

theorem execPcieLinkRetrain_answers (speed width : Nat) (flit : Bool) : Answers s may (execPcieLinkRetrain t speed width flit s) :=
  .when (raise_keeps (.aside (.ticked s t)) _ _)

theorem execSpdmSessionStart_answers (session transcript : Nat) : Answers s may (execSpdmSessionStart t session transcript s) :=
  .next (.when (.aside (.ticked s t)))

theorem execSpdmSessionEnd_answers (session : Nat) : Answers s may (execSpdmSessionEnd t session s) :=
  .next (.aside (.foldl (fun _ _ h => .ite (unbind_keeps h _) h) (.ticked s t)))

theorem execIdeKm_answers (session slot : Nat) : Answers s may (execIdeKm t session slot s) :=
  .next (.when (.aside (.ticked s t)))

theorem execBindSlot_answers (session : Nat) (req : BindRequest) : Answers s may (execBindSlot t session req s) :=
  .ite (.next (.ticked s t)) (.next (emit_keeps (.when (bind_keeps (.ticked s t) _ _)) _))

theorem execUnbind_answers (session : Nat) (req : BindRequest) : Answers s may (execUnbind t session req s) :=
  .ite (.next (.ticked s t)) (.ite (.next (emit_keeps (.ticked s t) _)) (.ite (.next (emit_keeps (unbind_keeps (.ticked s t) _) _))
    (.next (emit_keeps (draw_keeps (.ticked s t)) _))))

theorem execGetMeasurements_answers (req : HallmarkRequest) : Answers s may (execGetMeasurements t req s) :=
  .next (.when (askHallmark_keeps (.ticked s t) _ _))

end Sys2Proof.Machine
end

section
/-! PROOFS. Placement, key slots, the schedule and the cores (R150 to R155, R180 to R195, R279 to R303, R395, R396): what each command
keeps. -/

namespace Sys2Proof.Machine

open State

variable (s : State) (t : Nat) {may : Bool}

/-! ### Placement and key slots -/

theorem execMigrationStart_answers (frame tier stack : Nat) : Answers s may (execMigrationStart t frame tier stack s) :=
  .next (.ite (.withMem (placeWaiting_keeps (.ticked s t))) (placeWaiting_keeps (.ticked s t)))

theorem execMigrationSwitch_answers (frame : Nat) : Answers s may (execMigrationSwitch t frame s) := by
  unfold execMigrationSwitch
  dsimp only
  split
  · exact .next (honourPins_keeps (.ite (switchTo_keeps (.ticked s t) _) (cancelMigration_keeps (.ticked s t) _)))
  · exact .next (.ticked s t)

theorem execMigrationCancel_answers (frame : Nat) : Answers s may (execMigrationCancel t frame s) := by
  unfold execMigrationCancel
  dsimp only
  split
  · exact .next (honourPins_keeps (cancelMigration_keeps (.ticked s t) _))
  · exact .next (.ticked s t)

theorem execStallMaxClear_answers (fn value : Nat) : Answers s may (execStallMaxClear t fn value s) :=
  .next (.whenOpen (writeStallMax_keeps (.accessed s t _ _) _))

theorem execPatrolRead_answers (tier stack : Nat) (outcome : PatrolOutcome) :
    Answers s may (execPatrolRead t tier stack outcome s) := by
  have hclock := Keeps.ticked s t
  refine .ite (.next hclock) ?_
  cases outcome with
  | clean => exact .next (setMc_keeps (draw_keeps hclock) _ _)
  | corrected f => exact .next (.when (correctedAt_keeps hclock _ _ _))
  | uncorrectable f line =>
    refine .ite (.next hclock) (.next (retireLocation_keeps ?_ _ _ _))
    dsimp only
    split
    · exact poison_keeps (raise_keeps (setMc_keeps hclock _ _) _ _) _
    · exact raise_keeps (setMc_keeps hclock _ _) _ _
  | reserve level index => exact .ite (.next hclock) (.next (raise_keeps (.withMem (setMc_keeps hclock _ _)) _ _))
  | passDone => exact .next (setMc_keeps hclock _ _)

theorem execSeqSlotRelease_answers (slot tensor : Nat) : Answers s may (execSeqSlotRelease t slot tensor s) :=
  .next (dropSeqs_keeps (.ticked s t) _)

theorem execAnnealReq_answers (fn value : Nat) : Answers s may (execAnnealReq t fn value s) :=
  .next (.whenOpen (writeAnnealReq_keeps (.accessed s t _ _) _))

theorem execAnnealStart_answers : Answers s may (execAnnealStart t s) := by
  unfold execAnnealStart
  dsimp only
  split
  · exact .next (.ticked s t)
  · exact .ite (.next (.ticked s t)) (.ite (.next (.withMem (.ticked s t))) (.ite (.next (.ticked s t))
      (.ite (.next (waitFresh_keeps (.ticked s t) _)) (.next (.withMem (takeSlot_keeps (.ticked s t)))))))

theorem execAnnealBlock_answers (slot range : Nat) : Answers s may (execAnnealBlock t slot range s) := by
  unfold execAnnealBlock
  dsimp only
  split
  · exact .next (.ticked s t)
  split
  · exact .next (.ticked s t)
  · exact .ite (.next (.ticked s t))
      (.next (honourPins_keeps (startMoves_keeps (.withMem (annealLines_keeps (.ticked s t) _ _ _ _ _)))))

theorem execAnnealDone_answers (slot range : Nat) : Answers s may (execAnnealDone t slot range s) := by
  have hclock := Keeps.ticked s t
  unfold execAnnealDone
  dsimp only
  generalize s.tick t = u at *
  split
  · exact .next hclock
  · refine .ite ?_ ?_
    · exact .next hclock
    · refine .next (raise_keeps ?_ _ _)
      refine modCtx_keeps ?_ _ _
      exact .withMem hclock

/-! ### The schedule -/

theorem execQuantumBoundary_answers : Answers s may (execQuantumBoundary t s) := .next (.when (nextQuantum_keeps (.ticked s t)))

theorem execPreemptRequest_answers : Answers s may (execPreemptRequest t s) :=
  .when (.foldl (fun _ _ h => setCore_keeps h _ _) (.ticked s t))

theorem execPreemptionPoint_answers (core : Nat) : Answers s may (execPreemptionPoint t core s) :=
  have hsaved := raise_keeps (saveCore_keeps (.ticked s t) core) (pgCore core) 2
  .ite (.next (.ticked s t)) (.ite (.next (.ite (startTest_keeps hsaved _) hsaved)) (.when (yieldCore_keeps (.ticked s t) _)))

theorem execCoreTransfer_answers (slot : Nat) : Answers s may (execCoreTransfer t slot s) :=
  .ite (.next (.ticked s t)) (.ite (.next (tidyCores_keeps (topUp_keeps (.ticked s t) _)))
    (.next (tidyCores_keeps (.foldl (fun _ _ h => topUp_keeps h _) (.foldl (fun _ _ h => saveCore_keeps h _) (.ticked s t))))))

theorem execSprigStart_answers (core : Nat) : Answers s may (execSprigStart t core s) := by
  unfold execSprigStart
  dsimp only
  split
  · exact .next (.ticked s t)
  · refine .ite ?_ (.next (.ticked s t))
    split
    · exact .next (beginSprig_keeps (.ticked s t) _ _ _)
    · exact .next (.ticked s t)

theorem execPeriodBoundary_answers (slot : Nat) : Answers s may (execPeriodBoundary t slot s) :=
  .when (closePeriod_keeps (modCtx_keeps (.ite (overrun_keeps (modCtx_keeps (.ticked s t) _ _) _) (modCtx_keeps (.ticked s t) _ _))
    _ _) _)

theorem execReload_answers (fn value : Nat) : Answers s may (execReload t fn value s) :=
  .next (.whenOpen (writeReload_keeps (.accessed s t _ _) _))

/-! ### Cores -/

theorem execCoreDrain_answers (fn core value : Nat) : Answers s may (execCoreDrain t fn core value s) :=
  .next (.whenOpen (writeCoreCtrl_keeps (.accessed s t _ _) _ _))

theorem execSelftest_answers (fn core : Nat) : Answers s may (execSelftest t fn core s) :=
  .next (.whenOpen (startTest_keeps (.accessed s t _ _) _))

theorem execSelftestDone_answers (core : Nat) (pass : Bool) : Answers s may (execSelftestDone t core pass s) :=
  have htold := fun x => raise_keeps (setCore_keeps (.ticked s t) core x) (pgCore core) 4
  .ite (.next (.ticked s t)) (.next (sweepPast_keeps (.ite (returnCore_keeps (htold _) _)
    (logRas_keeps (raise_keeps (.aside (setCore_keeps (htold _) _ _)) _ _) _ _ _ _ _)) _ _))

theorem execFtqClear_answers (fn core : Nat) : Answers s may (execFtqClear t fn core s) :=
  .next (.whenOpen (clearFtq_keeps (.accessed s t _ _) _))

theorem execSweep_answers (fn value : Nat) : Answers s may (execSweep t fn value s) :=
  .next (.whenOpen (writeSelftest_keeps (.accessed s t _ _) _))

theorem execSweepInterval_answers : Answers s may (execSweepInterval t s) := .next (.when (sweepStart_keeps (.ticked s t)))

theorem execMultiBitError_answers (core : Nat) : Answers s may (execMultiBitError t core s) :=
  .ite (.next (.ticked s t)) (.next (sweepAfterReset_keeps (modHdr_keeps (engineStart_keeps (raise_keeps (.ticked s t) _ _) _ _) _ _) _))

end Sys2Proof.Machine
end

section
/-! PROOFS. Recovery, boot and register accesses (R346, R375 to R386, R403 to R409): what each command keeps. -/

namespace Sys2Proof.Machine

open State

variable (s : State) (t : Nat) {may : Bool}

theorem execEngineReset_answers (page reason : Nat) : Answers s may (execEngineReset t page reason s) :=
  .next (.when (sweepAfterReset_keeps (engineStart_keeps (.ticked s t) _ _) _))

theorem execEngineResetDone_answers (page : Nat) : Answers s may (execEngineResetDone t page s) := by
  have hwoken : Keeps s ((List.range 64).foldl (fun s c => s.wakeData c) ((s.tick t).engineEnd page).windowResume) :=
    .foldl (fun _ _ h => wakeData_keeps h _) (windowResume_keeps (engineEnd_keeps (.ticked s t) _))
  refine .ite (.next (.ticked s t)) (.next ?_)
  split
  · exact sweepPast_keeps hwoken _ _
  · exact hwoken

theorem execHangWatchdog_answers (page : Nat) : Answers s may (execHangWatchdog t page s) :=
  .when (sweepAfterReset_keeps (engineStart_keeps (setHdr_keeps (.ticked s t) _ _) _ _) _)

theorem execEngineResetWatchdog_answers (page : Nat) : Answers s may (execEngineResetWatchdog t page s) := by
  have hcount := fun x => setHdr_keeps (.ticked s t) page x
  refine .ite (.next (.ticked s t)) ?_
  dsimp only
  split
  · exact .next (cpStart_keeps (setHdr_keeps (hcount _) _ _) _)
  · exact .ite (.next (packageReset_keeps (draw_keeps (hcount _)) _))
      (.next (setPort_keeps (portDown_keeps (setHdr_keeps (draw_keeps (hcount _)) _ _) _) _ _))
  · exact .ite (.next (cpStart_keeps (hcount _) _)) (.next (packageReset_keeps (hcount _) _))

theorem execComputePartReset_answers (cause : Nat) : Answers s may (execComputePartReset t cause s) :=
  .next (.when (cpStart_keeps (.ticked s t) _))

theorem execComputePartResetDone_answers : Answers s may (execComputePartResetDone t s) :=
  have hresumed := resume_keeps (cpDone_keeps (.ticked s t))
  .when (.ite (sweepFrom_keeps hresumed _) hresumed)

theorem execCpReset_answers (fn value : Nat) : Answers s may (execCpReset t fn value s) :=
  .next (.whenOpen (writeResetCtrl_keeps (.accessed s t _ _) _))

theorem execCpResetWatchdog_answers : Answers s may (execCpResetWatchdog t s) := .next (.when (packageReset_keeps (.ticked s t) _))

theorem execControlProcessorWatchdog_answers (cp : Nat) : Answers s may (execControlProcessorWatchdog t cp s) :=
  .ite (.next (.ticked s t)) (.ite (.next (packageReset_keeps (.ticked s t) _))
    (.next (loseServices_keeps (setCp_keeps (.ticked s t) _ _) _)))

theorem execMgmtWatchdog_answers : Answers s may (execMgmtWatchdog t s) := .next (.when (closeConns_keeps (.ticked s t) _))

theorem execSecurityWatchdog_answers : Answers s may (execSecurityWatchdog t s) := .next (.when (packageReset_keeps (.ticked s t) _))

theorem execPackageReset_answers (cause : Nat) : Answers s may (execPackageReset t cause s) :=
  .next (.when (packageReset_keeps (.ticked s t) _))

theorem execBootComplete_answers : Answers s may (execBootComplete t s) := by
  refine .ite (.next (.ticked s t)) ?_
  split
  · exact .next (linkTrains_keeps (railsBack_keeps (.aside (.ticked s t)) _))
  next f _ =>
    refine .ite (.next (waitFresh_keeps (.ticked s t) _)) (.next (answerHeld_keeps (tellBattery_keeps ?_)))
    have hkeys := secret_keeps (secret_keeps (.ticked s t))
    exact .ite
      (logRas_keeps (logRas_keeps (.aside (linkTrains_keeps (railsBack_keeps (enterPool_keeps (.withSecMem hkeys)) _))) _ _ _ _ _)
        _ _ _ _ _)
      (logRas_keeps (.aside (linkTrains_keeps (railsBack_keeps (enterPool_keeps (.withSecMem hkeys)) _))) _ _ _ _ _)

theorem execHistClear_answers (fn : Nat) : Answers s may (execHistClear t fn s) :=
  .next (.whenOpen (.aside (.accessed s t _ _)))

/-- A command that writes a register keeps what every write of one keeps (R403, R404). -/
theorem regWrite_answers (fn page off value : Nat) : Answers s may (.next ((s.tick t).regWrite fn page off value)) :=
  .next (regWrite_keeps (.ticked s t) _ _ _ _)

theorem portCtrl_answers {port : Nat} (fn value : Nat) :
    Answers s may (.next (if port < 32 then (s.tick t).regWrite fn (pgPort port) 0x48 value else s.tick t)) :=
  .next (.when (regWrite_keeps (.ticked s t) _ _ _ _))

theorem execLoReadLatch_answers (fn page off : Nat) : Answers s may (execLoReadLatch t fn page off s) :=
  .when (emit_keeps (hostRead_keeps (.ticked s t) _ _ _) _)

theorem execObsLatch_answers : Answers s may (execObsLatch t s) :=
  .ite (.next (.ticked s t)) (.next (.aside (charge_keeps (.ticked s t))))

theorem execEpochEnd_answers (watts temp throttle : Nat) : Answers s may (execEpochEnd t watts temp throttle s) :=
  .ite (.next (.ticked s t)) (.next (.aside (.ticked s t)))

end Sys2Proof.Machine
end

section
/-! PROOFS. The Oliastor service, debug and the test port (R352 to R357, R366 to R372, R416 to R428): what each command keeps. -/

namespace Sys2Proof.Machine

open State

variable (s : State) (t : Nat) {may : Bool}

/-! ### The Oliastor service -/

theorem execOliastorConnect_answers (cert : ClientCert) : Answers s may (execOliastorConnect t cert s) :=
  .next (.when (.aside (.ticked s t)))

/-- A request on a connection keeps what the function asked for keeps. -/
theorem serve_answers {msg : Call} {a : Allowed} {f : State → State} (hf : ∀ x, Keeps s x → Keeps s (f x)) :
    Answers s may (.next ((s.tick t).serve msg a f)) :=
  .next (serve_keeps (.ticked s t) _ _ hf)

theorem execGetStatus_answers (msg : Call) : Answers s may (execGetStatus t msg s) :=
  serve_answers s t fun _ h => reply_keeps h _ _ _

theorem execGetHallmark_answers (msg : Call) (req : HallmarkRequest) : Answers s may (execGetHallmark t msg req s) :=
  serve_answers s t fun _ h => askHallmark_keeps h _ _

theorem execSubscribe_answers (msg : Call) : Answers s may (execSubscribe t msg s) :=
  serve_answers s t fun _ h => respond_keeps (.aside h) _ _

theorem execAckEvent_answers (msg : Call) (seq : Nat) : Answers s may (execAckEvent t msg seq s) :=
  serve_answers s t fun _ h => .ite (respond_keeps (.aside h) _ _) (respond_keeps h _ _)

theorem execReadPage_answers (msg : Call) (page : Nat) : Answers s may (execReadPage t msg page s) := by
  refine serve_answers s t fun _ h => .ite (respond_keeps h _ _) (reply_keeps ?_ _ _ _)
  split
  · exact mgmtPageFrom_keeps h _ _ _
  · exact readPageFrom_keeps h _ _ _

theorem execStageImage_answers (msg : Call) (image : Image) : Answers s may (execStageImage t msg image s) :=
  serve_answers s t fun _ h => .ite (respond_keeps h _ _)
    (.ite (respond_keeps (.aside h) _ _) (respond_keeps (.aside h) _ _))

theorem execActivate_answers (msg : Call) : Answers s may (execActivate t msg s) :=
  serve_answers s t fun _ h => .ite (respond_keeps h _ _) (.ite (respond_keeps h _ _)
    (respond_keeps (.aside (tidyCores_keeps (.foldl (fun _ _ h => saveCore_keeps h _) (releaseCps_keeps h)))) _ _))

theorem execActivationComplete_answers : Answers s may (execActivationComplete t s) := by
  refine .ite (.next (.ticked s t)) (.next (endActivation_keeps (.foldl (fun _ _ h => ?_) (.aside (.ticked s t)))))
  split
  · exact .ite h (quench_keeps h _)
  · exact h

theorem execActivationFail_answers : Answers s may (execActivationFail t s) :=
  .ite (.next (.ticked s t)) (.next (endActivation_keeps (.aside (.ticked s t))))

theorem execCommit_answers (msg : Call) : Answers s may (execCommit t msg s) :=
  serve_answers s t fun _ h => .ite (respond_keeps h _ _) (respond_keeps (.aside h) _ _)

theorem execDiscardStaged_answers (msg : Call) : Answers s may (execDiscardStaged t msg s) :=
  serve_answers s t fun _ h => respond_keeps (.aside h) _ _

theorem serviceUp_of_conn {s : State} {msg : Call} {c : Conn} (hconn : s.conn msg = some c) : s.serviceUp = true :=
  Decidable.by_contra fun hdown => by rw [conn, if_neg hdown] at hconn; exact nomatch hconn

theorem execSetLifecycle_answers (msg : Call) (state : Lifecycle) (anchor : Nat) :
    Answers s may (execSetLifecycle t msg state anchor s) := by
  unfold execSetLifecycle
  dsimp only
  split
  · exact .next (.ticked s t)
  next c hconn => exact .next (setLifecycle_keeps (.ticked s t) (serviceUp_of_conn hconn) _ _ _ _)

theorem execSetAnchor_answers (msg : Call) (anchor : Nat) : Answers s may (execSetAnchor t msg anchor s) :=
  serve_answers s t fun _ h => closeConns_keeps (.withSec (respond_keeps h _ _)) _

theorem execDomainCreate_answers (msg : Call) : Answers s may (execDomainCreate t msg s) :=
  serve_answers s t fun _ h => .ite (respond_keeps h _ _) (.ite (waitFresh_keeps (owe_keeps h _) _)
    (respond_keeps (joinsNone_keeps (.withSec (secret_keeps h))) _ _))

theorem execDomainJoin_answers (msg : Call) (port : Nat) : Answers s may (execDomainJoin t msg port s) :=
  serve_answers s t fun _ h => .ite (respond_keeps h _ _) (.ite (respond_keeps h _ _)
    (respond_keeps (.ite (restartPort_keeps (modPort_keeps h _ _) _) (modPort_keeps h _ _)) _ _))

theorem execSetAllowlist_answers (msg : Call) (composites : List Nat) : Answers s may (execSetAllowlist t msg composites s) :=
  serve_answers s t fun _ h => .ite (respond_keeps h _ _) (respond_keeps (.aside h) _ _)

theorem execSetModuleId_answers (msg : Call) (ident : Nat) : Answers s may (execSetModuleId t msg ident s) :=
  serve_answers s t fun _ h => .ite (respond_keeps h _ _) (respond_keeps (.aside h) _ _)

theorem execRouteWrite_answers (msg : Call) (entries : List RouteEntry) : Answers s may (execRouteWrite t msg entries s) :=
  serve_answers s t fun _ h => .ite (respond_keeps h _ _) (.ite (respond_keeps h _ _)
    (respond_keeps (raise_keeps (noteRoutes_keeps (.aside h) _) _ _) _ _))

theorem execTimeTree_answers (msg : Call) (root : Bool) (parent : Option Nat) :
    Answers s may (execTimeTree t msg root parent s) :=
  serve_answers s t fun _ h => .ite (respond_keeps h _ _) (.ite (respond_keeps h _ _)
    (respond_keeps (.ite (raise_keeps (.withClk (draw_keeps h)) _ _) (.withClk (draw_keeps h))) _ _))

theorem execPeerNotice_answers (msg : Call) (job : Nat) (positions : List Nat) (kind : NoticeKind) :
    Answers s may (execPeerNotice t msg job positions kind s) :=
  serve_answers s t fun _ h =>
    have htold := .foldl (fun _ _ h => notice_keeps h _ _ _) h
    respond_keeps (.ite (.foldl (fun _ _ h => logRas_keeps h _ _ _ _ _) htold) htold) _ _

theorem execLaserRelease_answers (msg : Call) (unit : Nat) : Answers s may (execLaserRelease t msg unit s) :=
  serve_answers s t fun _ h => .ite (respond_keeps h _ _)
    (respond_keeps (shiftLight_keeps (setLaser_keeps (pinLight_keeps h) _ _)) _ _)

theorem execQuenchContext_answers (msg : Call) (slot : Nat) : Answers s may (execQuenchContext t msg slot s) :=
  serve_answers s t fun _ h => .ite (respond_keeps h _ _) (respond_keeps (quench_keeps h _) _ _)

theorem execAnneal_answers (msg : Call) (slot range : Nat) : Answers s may (execAnneal t msg slot range s) :=
  serve_answers s t fun _ h => .ite (respond_keeps h _ _) (respond_keeps (queueAnneal_keeps h _ _) _ _)

theorem execSetBar4_answers (msg : Call) (enable : Bool) : Answers s may (execSetBar4 t msg enable s) :=
  serve_answers s t fun _ h => respond_keeps (.aside h) _ _

/-! ### Debug and the test port -/

theorem execCpHalt_answers (fn value : Nat) : Answers s may (execCpHalt t fn value s) :=
  .next (.whenOpen (writeCpCtrl_keeps (.accessed s t _ _) _))

theorem execCpStep_answers (fn value : Nat) : Answers s may (execCpStep t fn value s) :=
  .next (.whenOpen (writeCpCtrl_keeps (.accessed s t _ _) _))

theorem execCpBreakpointHit_answers (cp bp : Nat) : Answers s may (execCpBreakpointHit t cp bp s) := by
  unfold execCpBreakpointHit
  dsimp only
  split
  · exact .next (.when (cpStop_keeps (.ticked s t) _ _))
  · exact .next (.ticked s t)

theorem execWlResume_answers (fn bp : Nat) : Answers s may (execWlResume t fn bp s) :=
  .next (.whenOpen (wlResume_keeps (.accessed s t _ _) _))

theorem execFrameViewRead_answers (fn : Nat) : Answers s may (execFrameViewRead t fn s) :=
  .next (.whenOpen (writeFvCtrl_keeps (.accessed s t _ _) _))

theorem execFrameViewWrite_answers (fn : Nat) : Answers s may (execFrameViewWrite t fn s) :=
  .next (.whenOpen (writeFvCtrl_keeps (.accessed s t _ _) _))

theorem execPtArm_answers (fn value : Nat) : Answers s may (execPtArm t fn value s) :=
  .next (.whenOpen (writePtArm_keeps (.accessed s t _ _) _))

theorem execPcClear_answers (fn value : Nat) : Answers s may (execPcClear t fn value s) :=
  .next (.whenOpen (writePcCtrl_keeps (.accessed s t _ _) _))

theorem execExtest_answers (bits : Nat) : Answers s may (execExtest t bits s) :=
  .ite (.next (.ticked s t)) (.next (.aside (sample_keeps (.ticked s t) _)))

theorem execSamplePreload_answers (bits : Nat) : Answers s may (execSamplePreload t bits s) :=
  .next (.when (sample_keeps (.ticked s t) _))

theorem execIdcode_answers : Answers s may (execIdcode t s) := .next (.when (emit_keeps (noDrive_keeps (.ticked s t)) _))

/-- A scan of the debug access layer keeps what the access keeps. -/
theorem scan_answers {f : State → (Nat × Nat × Nat) × State} (hf : ∀ x, Keeps s x → Keeps s (f x).2) :
    Answers s may (.next ((s.tick t).scan f)) :=
  .next (scan_keeps (.ticked s t) hf)

theorem execDalRead_answers (addr : Nat) : Answers s may (execDalRead t addr s) := scan_answers s t fun _ h => dalReadAt_keeps h _

theorem execDalWrite_answers (addr data : Nat) : Answers s may (execDalWrite t addr data s) :=
  scan_answers s t fun _ h => dalWriteAt_keeps h _ _

theorem execDalClose_answers : Answers s may (execDalClose t s) := scan_answers s t fun _ h => .aside h

theorem execDalOpen_answers : Answers s may (execDalOpen t s) := by
  refine scan_answers s t fun _ h => ?_
  dsimp only
  exact raise_keeps (attach_keeps (.aside h)) _ _

theorem execDalFactoryOp_answers (op : FactoryOp) (credential : Bool) :
    Answers s (Instr.dalFactoryOp t op credential).mayStop (execDalFactoryOp t op credential s) := by
  cases op with
  | provision =>
    refine scan_answers s t fun _ h => ?_
    split
    · exact provision_keeps h
    · exact h
  | retire =>
    refine scan_answers s t fun _ h => ?_
    split
    · exact retireModule_keeps h
    · exact h
  | other code =>
    unfold execDalFactoryOp
    dsimp only
    split
    next hstop => exact (Bool.and_eq_true_iff.mp hstop).1
    · exact scan_answers s t fun _ h => h

end Sys2Proof.Machine
end

section
/-! PROOFS. Every step (log 1 to 3): the whole of the commands, from which O45, O46, O3 and O1. -/

namespace Sys2Proof.Machine

open State

/-- Every command ends in a next state that keeps what no operation undoes, but for the two that may stop. -/
theorem exec_answers (c : Instr) (s : State) : Answers s c.mayStop (exec c s) := by
  cases c with
  | powerUp t mv => exact execPowerUp_answers s t mv
  | inputLow t mv => exact execInputLow_answers s t mv
  | inputLowClear t => exact execInputLowClear_answers s t
  | powerLoss t => exact execPowerLoss_answers s t
  | modResetAssert t => exact execModResetAssert_answers s t
  | modResetRelease t strap => exact execModResetRelease_answers s t strap
  | perstAssert t => exact execPerstAssert_answers s t
  | perstRelease t => exact execPerstRelease_answers s t
  | endpointConfigReady t => exact execEndpointConfigReady_answers s t
  | flrVf t slot => exact execFlrVf_answers s t slot
  | flrPf0 t => exact execFlrPf0_answers s t
  | tamper t src => exact execTamper_answers s t src
  | batteryLow t months => exact execBatteryLow_answers s t months
  | trngHealthFail t => exact execTrngHealthFail_answers s t
  | freshValueTimeout t wait => exact execFreshValueTimeout_answers s t wait
  | laserUnitFail t unit => exact execLaserUnitFail_answers s t unit
  | laserLatchOpen t unit => exact execLaserLatchOpen_answers s t unit
  | laserSafeToRemove t unit => exact execLaserSafeToRemove_answers s t unit
  | laserUnitInsert t unit healthy => exact execLaserUnitInsert_answers s t unit healthy
  | refclkLinkLost t => exact execRefclkLinkLost_answers s t
  | refclkLinkReturn t => exact execRefclkLinkReturn_answers s t
  | refclkPcieLost t => exact execRefclkPcieLost_answers s t
  | railExcursion t rail mv => exact execRailExcursion_answers s t rail mv
  | railExcursionEnd t rail mv => exact execRailExcursionEnd_answers s t rail mv
  | railResetLevel t rail => exact execRailResetLevel_answers s t rail
  | photonicRailRecover t => exact execPhotonicRailRecover_answers s t
  | skewCheck t meas => exact execSkewCheck_answers s t meas
  | skewDrain t region => exact execSkewDrain_answers s t region
  | regionRejoin t region => exact execRegionRejoin_answers s t region
  | thermalRegionThrottle t region temp => exact execThermalRegionThrottle_answers s t region temp
  | thermalClockStep t region temp => exact execThermalClockStep_answers s t region temp
  | thermalRegionDrain t region temp => exact execThermalRegionDrain_answers s t region temp
  | thermalSysdieLimit t temp => exact execThermalSysdieLimit_answers s t temp
  | thermalStackAction t stack temp => exact execThermalStackAction_answers s t stack temp
  | thermalCoolantLimit t inlet outlet => exact execThermalCoolantLimit_answers s t inlet outlet
  | thermalInletLimit t inlet => exact execThermalInletLimit_answers s t inlet
  | thermalRelease t action => exact execThermalRelease_answers s t action
  | thermalTrip t temp => exact execThermalTrip_answers s t temp
  | powerMeasure t watts => exact execPowerMeasure_answers s t watts
  | lightDetected t port => exact execLightDetected_answers s t port
  | bringupTimeout t port => exact execBringupTimeout_answers s t port
  | bringupRetry t port => exact execBringupRetry_answers s t port
  | train t port payload => exact execTrain_answers s t port payload
  | hello t port payload => exact execHello_answers s t port payload
  | cert t port offset payload => exact execCert_answers s t port offset payload
  | proof t port payload verdict => exact execProof_answers s t port payload verdict
  | finish t port payload => exact execFinish_answers s t port payload
  | rekey t port pkt => exact execRekey_answers s t port pkt
  | rekeyTimer t port => exact execRekeyTimer_answers s t port
  | charter t port pkt => exact execCharter_answers s t port pkt
  | domain t port pkt => exact execDomain_answers s t port pkt
  | laneFail t port lane => exact execLaneFail_answers s t port lane
  | laneRetry t port lane => exact execLaneRetry_answers s t port lane
  | laneMarginLow t port lane margin => exact execLaneMarginLow_answers s t port lane margin
  | recalStart t port lane => exact execRecalStart_answers s t port lane
  | recalDone t port lane good margin => exact execRecalDone_answers s t port lane good margin
  | laneMap t port pkt => exact execLaneMap_answers s t port pkt
  | flitReceive t port flit => exact execFlitReceive_answers s t port flit
  | flitSend t port => exact execFlitSend_answers s t port
  | packetTransit t port pkt => exact execPacketTransit_answers s t port pkt
  | duplicateRecordExpire t port => exact execDuplicateRecordExpire_answers s t port
  | portDownDetect t port => exact execPortDownDetect_answers s t port
  | timeSyncTick t => exact execTimeSyncTick_answers s t
  | timeSync t port pkt rx => exact execTimeSync_answers s t port pkt rx
  | data t port pkt => exact execData_answers s t port pkt
  | redReady t port pkt => exact redCommand_answers s t port _ pkt
  | redPull t port pkt => exact redCommand_answers s t port _ pkt
  | redData t port pkt => exact redCommand_answers s t port _ pkt
  | redResult t port pkt => exact redCommand_answers s t port _ pkt
  | redRedo t port pkt => exact redCommand_answers s t port _ pkt
  | abort t port pkt => exact execAbort_answers s t port pkt
  | gatherReq t port pkt => exact execGatherReq_answers s t port pkt
  | gatherReqServe t slot => exact execGatherReqServe_answers s t slot
  | bucketStart t slot tag => exact execBucketStart_answers s t slot tag
  | contributionReady t slot tag => exact execContributionReady_answers s t slot tag
  | redDeadline t slot tag => exact execRedDeadline_answers s t slot tag
  | redPullIssue t slot tag level => exact execRedPullIssue_answers s t slot tag level
  | allToAllPatience t q => exact execAllToAllPatience_answers s t q
  | peerWaitTimeout t q => exact execPeerWaitTimeout_answers s t q
  | nop t q => exact execNop_answers s t q
  | listHead t q => exact execListHead_answers s t q
  | listEnd t q => exact execListEnd_answers s t q
  | call t q => exact execCall_answers s t q
  | treeAdmitResume t q => exact execTreeAdmitResume_answers s t q
  | loopBegin t q => exact execLoopBegin_answers s t q
  | loopEnd t q => exact execLoopEnd_answers s t q
  | barrier t q => exact execBarrier_answers s t q
  | barrierComplete t q => exact execBarrierComplete_answers s t q
  | barrierPatience t q => exact execBarrierPatience_answers s t q
  | fenceWait t q => exact execFenceWait_answers s t q
  | fenceWaitSatisfied t q => exact execFenceWaitSatisfied_answers s t q
  | fenceSignal t q => exact execFenceSignal_answers s t q
  | periodMark t q => exact execPeriodMark_answers s t q
  | stepBegin t q => exact execStepBegin_answers s t q
  | stepEnd t q => exact execStepEnd_answers s t q
  | retire t q => exact execRetire_answers s t q
  | matmul t q => exact execMatmul_answers s t q
  | matmulBwdPair t q => exact execMatmulBwdPair_answers s t q
  | groupedMatmul t q => exact execGroupedMatmul_answers s t q
  | groupedBwdPair t q => exact execGroupedBwdPair_answers s t q
  | attnFwd t q => exact execAttnFwd_answers s t q
  | attnBwd t q => exact execAttnBwd_answers s t q
  | normFwd t q => exact execNormFwd_answers s t q
  | normBwd t q => exact execNormBwd_answers s t q
  | lossXent t q => exact execLossXent_answers s t q
  | elementwise t q => exact execElementwise_answers s t q
  | rowreduce t q => exact execRowreduce_answers s t q
  | convert t q => exact execConvert_answers s t q
  | copy t q => exact execCopy_answers s t q
  | embed t q => exact execEmbed_answers s t q
  | routeTopk t q => exact execRouteTopk_answers s t q
  | compress t q => exact execCompress_answers s t q
  | expand t q => exact execExpand_answers s t q
  | allReduce t q => exact execAllReduce_answers s t q
  | reduceScatter t q => exact execReduceScatter_answers s t q
  | allGather t q => exact execAllGather_answers s t q
  | allToAll t q => exact execAllToAll_answers s t q
  | send t q => exact execSend_answers s t q
  | recv t q => exact execRecv_answers s t q
  | gatherShard t q => exact execGatherShard_answers s t q
  | dropShard t q => exact execDropShard_answers s t q
  | reshard t q => exact execReshard_answers s t q
  | optAdam t q => exact execOptAdam_answers s t q
  | optMomentum t q => exact execOptMomentum_answers s t q
  | scaleUpdate t q => exact execScaleUpdate_answers s t q
  | ingest t q => exact execIngest_answers s t q
  | checkpoint t q => exact execCheckpoint_answers s t q
  | restore t q => exact execRestore_answers s t q
  | release t q => exact execRelease_answers s t q
  | log t q => exact execLog_answers s t q
  | entryComplete t q => exact execEntryComplete_answers s t q
  | wlBreakpointHit t q bp => exact execWlBreakpointHit_answers s t q bp
  | create t _ _ => exact .next (ctlCreate_keeps (.accessed s t _ _) _ _)
  | quench t _ _ => exact .next (ctlQuench_keeps (.accessed s t _ _) _ _)
  | quenchDone t slot => exact execQuenchDone_answers s t slot
  | ctxRelease t _ _ => exact .next (ctlRelease_keeps (.accessed s t _ _) _ _)
  | ctxDrain t _ _ => exact .next (ctlDrain_keeps (.accessed s t _ _) _ _)
  | drainComplete t slot => exact execDrainComplete_answers s t slot
  | hostCplTimeout t tag => exact execHostCplTimeout_answers s t tag
  | doorbell t fn slot off value => exact execDoorbell_answers s t fn slot off value
  | queueFetch t q => exact execQueueFetch_answers s t q
  | queueEnable t fn slot value => exact execQueueEnable_answers s t fn slot value
  | resume t fn slot value => exact execResume_answers s t fn slot value
  | faultConsWrite t fn slot value => exact execFaultConsWrite_answers s t fn slot value
  | invalidate t fn slot value => exact execInvalidate_answers s t fn slot value
  | invalidateDone t slot => exact execInvalidateDone_answers s t slot
  | scrub t fn value => exact execScrub_answers s t fn value
  | scrubDone t => exact execScrubDone_answers s t
  | hostModeWrite t fn slot value => exact execHostModeWrite_answers s t fn slot value
  | windowRead t _ _ _ => exact .next (windowReq_keeps (.ticked s t) _)
  | windowWrite t _ _ _ => exact .next (windowReq_keeps (.ticked s t) _)
  | tdiStateChange t slot state => exact execTdiStateChange_answers s t slot state
  | bindSlot t session req => exact execBindSlot_answers s t session req
  | unbind t session req => exact execUnbind_answers s t session req
  | spdmSessionEnd t session => exact execSpdmSessionEnd_answers s t session
  | getMeasurements t req => exact execGetMeasurements_answers s t req
  | quantumBoundary t => exact execQuantumBoundary_answers s t
  | preemptRequest t => exact execPreemptRequest_answers s t
  | preemptionPoint t core => exact execPreemptionPoint_answers s t core
  | coreTransfer t slot => exact execCoreTransfer_answers s t slot
  | sprigStart t core => exact execSprigStart_answers s t core
  | sprigEnd t _ => exact .next (settleOwed_keeps (endSprig_keeps (.ticked s t) _))
  | periodBoundary t slot => exact execPeriodBoundary_answers s t slot
  | reload t fn value => exact execReload_answers s t fn value
  | migrationStart t frame tier stack => exact execMigrationStart_answers s t frame tier stack
  | migrationSwitch t frame => exact execMigrationSwitch_answers s t frame
  | migrationCancel t frame => exact execMigrationCancel_answers s t frame
  | patrolRead t tier stack outcome => exact execPatrolRead_answers s t tier stack outcome
  | seqSlotRelease t slot tensor => exact execSeqSlotRelease_answers s t slot tensor
  | annealReq t fn value => exact execAnnealReq_answers s t fn value
  | annealStart t => exact execAnnealStart_answers s t
  | annealBlock t slot range => exact execAnnealBlock_answers s t slot range
  | annealDone t slot range => exact execAnnealDone_answers s t slot range
  | coreDrain t fn core value => exact execCoreDrain_answers s t fn core value
  | selftest t fn core => exact execSelftest_answers s t fn core
  | selftestDone t core pass => exact execSelftestDone_answers s t core pass
  | ftqClear t fn core => exact execFtqClear_answers s t fn core
  | sweep t fn value => exact execSweep_answers s t fn value
  | sweepInterval t => exact execSweepInterval_answers s t
  | multiBitError t core => exact execMultiBitError_answers s t core
  | engineReset t page reason => exact execEngineReset_answers s t page reason
  | engineResetDone t page => exact execEngineResetDone_answers s t page
  | hangWatchdog t page => exact execHangWatchdog_answers s t page
  | engineResetWatchdog t page => exact execEngineResetWatchdog_answers s t page
  | computePartReset t cause => exact execComputePartReset_answers s t cause
  | computePartResetDone t => exact execComputePartResetDone_answers s t
  | cpResetWatchdog t => exact execCpResetWatchdog_answers s t
  | controlProcessorWatchdog t cp => exact execControlProcessorWatchdog_answers s t cp
  | mgmtWatchdog t => exact execMgmtWatchdog_answers s t
  | securityWatchdog t => exact execSecurityWatchdog_answers s t
  | packageReset t cause => exact execPackageReset_answers s t cause
  | bootComplete t => exact execBootComplete_answers s t
  | cpReset t fn value => exact execCpReset_answers s t fn value
  | histClear t fn => exact execHistClear_answers s t fn
  | recal t fn _ value => exact portCtrl_answers s t fn value
  | portEnable t fn _ value => exact portCtrl_answers s t fn value
  | laneOff t fn _ value => exact portCtrl_answers s t fn value
  | stallMaxClear t fn value => exact execStallMaxClear_answers s t fn value
  | pcClear t fn value => exact execPcClear_answers s t fn value
  | irqStatClear t fn page value => exact regWrite_answers s t fn page _ value
  | irqSet t fn page value => exact regWrite_answers s t fn page _ value
  | errFirstClear t fn page value => exact regWrite_answers s t fn page _ value
  | hiWriteCommit t fn page off value => exact regWrite_answers s t fn page off value
  | loReadLatch t fn page off => exact execLoReadLatch_answers s t fn page off
  | registerWrite t fn page off value => exact regWrite_answers s t fn page off value
  | obsLatch t => exact execObsLatch_answers s t
  | epochEnd t watts temp throttle => exact execEpochEnd_answers s t watts temp throttle
  | oliastorConnect t cert => exact execOliastorConnect_answers s t cert
  | getStatus t msg => exact execGetStatus_answers s t msg
  | getHallmark t msg req => exact execGetHallmark_answers s t msg req
  | subscribe t msg => exact execSubscribe_answers s t msg
  | ackEvent t msg seq => exact execAckEvent_answers s t msg seq
  | readPage t msg page => exact execReadPage_answers s t msg page
  | stageImage t msg image => exact execStageImage_answers s t msg image
  | activate t msg => exact execActivate_answers s t msg
  | activationComplete t => exact execActivationComplete_answers s t
  | activationFail t => exact execActivationFail_answers s t
  | commit t msg => exact execCommit_answers s t msg
  | discardStaged t msg => exact execDiscardStaged_answers s t msg
  | setLifecycle t msg state anchor => exact execSetLifecycle_answers s t msg state anchor
  | setAnchor t msg anchor => exact execSetAnchor_answers s t msg anchor
  | domainCreate t msg => exact execDomainCreate_answers s t msg
  | domainJoin t msg port => exact execDomainJoin_answers s t msg port
  | setAllowlist t msg composites => exact execSetAllowlist_answers s t msg composites
  | setModuleId t msg ident => exact execSetModuleId_answers s t msg ident
  | routeWrite t msg entries => exact execRouteWrite_answers s t msg entries
  | timeTree t msg root parent => exact execTimeTree_answers s t msg root parent
  | peerNotice t msg job positions kind => exact execPeerNotice_answers s t msg job positions kind
  | laserRelease t msg unit => exact execLaserRelease_answers s t msg unit
  | quenchContext t msg slot => exact execQuenchContext_answers s t msg slot
  | anneal t msg slot range => exact execAnneal_answers s t msg slot range
  | setBar4 t msg enable => exact execSetBar4_answers s t msg enable
  | extest t bits => exact execExtest_answers s t bits
  | samplePreload t bits => exact execSamplePreload_answers s t bits
  | idcode t => exact execIdcode_answers s t
  | dalRead t addr => exact execDalRead_answers s t addr
  | dalWrite t addr data => exact execDalWrite_answers s t addr data
  | dalOpen t => exact execDalOpen_answers s t
  | dalClose t => exact execDalClose_answers s t
  | dalFactoryOp t op credential => exact execDalFactoryOp_answers s t op credential
  | cpHalt t fn value => exact execCpHalt_answers s t fn value
  | cpStep t fn value => exact execCpStep_answers s t fn value
  | cpBreakpointHit t cp bp => exact execCpBreakpointHit_answers s t cp bp
  | wlResume t fn bp => exact execWlResume_answers s t fn bp
  | frameViewRead t fn => exact execFrameViewRead_answers s t fn
  | frameViewWrite t fn => exact execFrameViewWrite_answers s t fn
  | ptArm t fn value => exact execPtArm_answers s t fn value
  | refclkPcieReturn t => exact execRefclkPcieReturn_answers s t
  | codewordLock t port lanes => exact execCodewordLock_answers s t port lanes
  | hostCompletion t tag data => exact execHostCompletion_answers s t tag data
  | pcieLinkRetrain t speed width flit => exact execPcieLinkRetrain_answers s t speed width flit
  | sriovEnable t enable numVfs => exact execSriovEnable_answers s t enable numVfs
  | thermalTripRailsOn t temp => exact execThermalTripRailsOn_answers s t temp
  | spdmSessionStart t session transcript => exact execSpdmSessionStart_answers s t session transcript
  | ideKm t session slot => exact execIdeKm_answers s t session slot

/-- What a command that answers a next state keeps. -/
theorem keeps_of_exec {c : Instr} {s u : State} (hexec : exec c s = .next u) : Keeps s u := by
  have hanswers := exec_answers c s
  rw [hexec] at hanswers
  exact hanswers

/-- Settles O1: `step` looks at the queue first. -/
theorem stepRunsTheFrontCommand : Obligations.StepRunsTheFrontCommand :=
  ⟨fun _ _ _ hqueue => by rw [step, hqueue], fun _ hqueue => by rw [step, hqueue]⟩

/-- Settles O3: of what a command may end in, the stops are left to those that `mayStop` names. -/
theorem everyOtherCommandCompletes : Obligations.EveryOtherCommandCompletes := by
  intro c s hmay
  have hanswers := exec_answers c s
  rw [hmay] at hanswers
  cases hexec : exec c s with
  | next u => exact ⟨u, rfl⟩
  | fault r =>
    rw [hexec] at hanswers
    exact nomatch hanswers
  | refused r =>
    rw [hexec] at hanswers
    exact nomatch hanswers

/-- Settles O45: an empty queue leaves the security controller, and the front command keeps its invariant. -/
theorem stepKeepsTheTamperedModuleShut : Obligations.StepKeepsTheTamperedModuleShut := by
  intro s u hstep
  cases hqueue : s.pending with
  | nil =>
    rw [stepRunsTheFrontCommand.2 s hqueue] at hstep
    cases hstep
    exact .rfl _
  | cons c rest =>
    rw [stepRunsTheFrontCommand.1 c rest s hqueue] at hstep
    exact (keeps_of_exec hstep).sec

/-- Settles O46: the front command runs on the queue's rest and keeps it, the identity and the direction of the clock. -/
theorem stepTakesOneCommand : Obligations.StepTakesOneCommand := by
  intro c rest s u hqueue hstep
  rw [stepRunsTheFrontCommand.1 c rest s hqueue] at hstep
  have hkeeps := keeps_of_exec hstep
  exact ⟨hkeeps.pending, hkeeps.variant, hkeeps.serial, hkeeps.clock⟩

end Sys2Proof.Machine
end

section
/-! PROOFS. Reset, the tampered module and the standby logic (R352, R382, R405, R416 to R418): O43, O47, O48, O50. -/

namespace Sys2Proof.Machine

/-! ### What the passing of time leaves -/

@[simp] theorem tick_sec (s : State) (t : Nat) : (s.tick t).sec = s.sec := by rw [(tickMovesOnlyTheClocks t s).1]

@[simp] theorem tick_pins (s : State) (t : Nat) : (s.tick t).pins = s.pins := by rw [(tickMovesOnlyTheClocks t s).1]

@[simp] theorem tick_powered (s : State) (t : Nat) : (s.tick t).powered = s.powered := by rw [(tickMovesOnlyTheClocks t s).1]; rfl

/-! ### The package reset -/

/-- Settles O43: each field by its reset column, memory by `reset_mem_wf`; its controller is neither tampered nor RETIRED. -/
theorem resetState : Obligations.ResetState :=
  ⟨rfl, rfl, reset_mem_wf, fun hgone => absurd hgone (by decide), rfl, rfl, rfl, rfl, fun _ => rfl, fun _ => ⟨rfl, rfl⟩⟩

/-- A life-cycle transition that waited changes nothing but the security controller, and no fuse of it. -/
theorem transition_eq (s : State) : s.transition = { s with sec := s.transition.sec } ∧ s.transition.sec.fuse = s.sec.fuse := by
  unfold State.transition
  split <;> exact ⟨rfl, rfl⟩

theorem transition_of_none {s : State} (hpending : s.sec.pending = none) : s.transition = s := by
  simp only [State.transition, hpending]

/-- Settles O47: the reset writes the fields that it clears, and what it keeps it reads after the transition (`transition_eq`). -/
theorem packageResetLeaves : Obligations.PackageResetLeaves := by
  intro s cause
  obtain ⟨hbeside, hfuse⟩ := transition_eq s
  have hhost : s.transition.mem.host = s.mem.host := congrArg (·.mem.host) hbeside
  have hlasers : s.transition.lasers = s.lasers := congrArg (·.lasers) hbeside
  refine ⟨rfl, rfl, rfl, rfl, congrArg (fun h => ({ host := h } : Mem)) hhost, fun _ => rfl, rfl, hfuse, hlasers, fun hpending => ?_⟩
  rw [State.packageReset, transition_of_none hpending]
  exact ⟨rfl, rfl, rfl, rfl⟩

/-! ### A module whose tamper fuse is blown -/

section
variable {s : State} (hfuse : s.sec.fuse = true)
include hfuse

theorem dead_of_fuse : s.dead = true := by rw [State.dead, hfuse, Bool.true_or]

theorem live_of_fuse : s.live = false := by rw [State.live, dead_of_fuse hfuse, Bool.not_true, Bool.and_false]

theorem serviceUp_of_fuse : s.serviceUp = false := by
  simp only [State.serviceUp, live_of_fuse hfuse, Bool.false_and]

theorem conn_of_fuse (msg : Call) : s.conn msg = none :=
  if_neg (by rw [serviceUp_of_fuse hfuse]; exact Bool.false_ne_true)

theorem ctxOpens_of_fuse (fn slot : Nat) : s.ctxOpens fn slot false = false := by
  simp only [State.ctxOpens, State.opens, live_of_fuse hfuse, Bool.and_false, Bool.false_and]

end

/-- Settles O48: the module is not live (`live_of_fuse`), so its service is down and no port starts; CREATE opens no slot. -/
theorem tamperedModuleServesNothing : Obligations.TamperedModuleServesNothing := by
  intro s hfuse
  refine ⟨?_, fun p => ?_, fun k => ?_, conn_of_fuse hfuse, fun t fn slot => ?_, fun msg a f => ?_⟩
  · simp only [State.signs, dead_of_fuse hfuse, Bool.not_true, Bool.false_and]
  · simp only [State.mayBringUp, live_of_fuse hfuse, Bool.false_and]
  · simp only [State.accepts, serviceUp_of_fuse hfuse, Bool.false_and]
  · have htamper : ((s.tick t).access fn (pgCtx slot)).sec.fuse = true := by rw [access_sec, tick_sec, hfuse]
    refine congrArg Host.Outcome.next (if_neg ?_)
    rw [ctxOpens_of_fuse htamper, Bool.and_false]
    exact Bool.false_ne_true
  · simp only [State.serve, conn_of_fuse hfuse]

/-! ### The test port -/

/-- EXTEST of a powered module shifts as SAMPLE/PRELOAD does, and drives the pins while MOD_RESET_N is low. -/
theorem execExtest_of_powered {s : State} (t bits : Nat) (hpowered : s.powered = true) :
    exec (.extest t bits) s = .next { (s.tick t).sample bits with
      dbg := { ((s.tick t).sample bits).dbg with driven := !s.pins.modResetN } } := by
  rw [← tick_pins s t]
  refine if_neg ?_
  rw [tick_powered, hpowered]
  exact Bool.false_ne_true

theorem execSamplePreload_of_powered {s : State} (t bits : Nat) (hpowered : s.powered = true) :
    exec (.samplePreload t bits) s = .next ((s.tick t).sample bits) :=
  congrArg Host.Outcome.next (if_pos ((tick_powered s t).trans hpowered))

/-- A read of the debug access layer answers the address that it was asked for, whatever it finds there. -/
theorem dalReadAt_addr (s : State) (addr : Nat) : (s.dalReadAt addr).1.2.1 = addr := by
  have hite {c : Prop} [Decidable c] {a b : (Nat × Nat × Nat) × State} (ha : a.1.2.1 = addr) (hb : b.1.2.1 = addr) :
      (if c then a else b).1.2.1 = addr := by
    split
    · exact ha
    · exact hb
  refine hite rfl (hite rfl ?_)
  dsimp only
  split
  · exact hite rfl rfl
  · split
    · rfl
    · exact hite rfl rfl
  · exact hite rfl rfl
  · exact hite rfl rfl

/-- Settles O50: with the input on, EXTEST is `execExtest_of_powered`, and a scan answers its own request (`scan_of_powered`). -/
theorem testPortOnStandbyPower : Obligations.TestPortOnStandbyPower := by
  refine ⟨fun t bits s hpowered hhigh => ?_, fun t bits s hpowered => ?_, fun t addr s hpowered => ?_⟩
  · rw [execExtest_of_powered t bits hpowered, execSamplePreload_of_powered t bits hpowered, hhigh]
    rfl
  · exact ⟨_, execExtest_of_powered t bits hpowered, rfl⟩
  · have hon := (tick_powered s t).trans hpowered
    refine ⟨⟨_, congrArg Host.Outcome.next (if_pos hon), ?_⟩,
      _, congrArg Host.Outcome.next (scan_of_powered _ hon), dalReadAt_addr _ _⟩
    rw [(tickMovesOnlyTheClocks t s).1]
    rfl

end Sys2Proof.Machine
end

section
/-! PROOFS. The register pages (R403, R408, R409): the first error of a page, and the messages of a page other than a CTX page; O39
and O59. -/

namespace Sys2Proof.Machine

/-! ### The first error -/

theorem latchErr_of_class {page cls code info : Nat} {ctx : Option (Nat × Nat)} (s : State) (hcls : cls ≠ 0) :
    s.latchErr page cls code ctx info = s.modHdr page (fun h =>
      if h.errValid then { h with errCount := satAdd 32 h.errCount 1 }
      else { h with
        errValid := true, errClass := cls, errCode := code, errCtx := ctx, errInfo := info % 2 ^ 32
        errCount := satAdd 32 h.errCount 1 }) :=
  if_neg hcls

/-- Settles O39: an error of a class writes its own page's header (`latchErr_of_class`), by whether it holds an error. -/
theorem firstErrorIsLatched : Obligations.FirstErrorIsLatched := by
  refine ⟨fun _ _ _ _ _ => if_pos rfl, fun s page cls code info ctx hcls => ?_⟩
  rw [latchErr_of_class s hcls]
  refine ⟨fun p hp => hdr_modHdr_other s page p _ hp, fun hheld => ?_, fun hfree => ?_⟩
  · rw [hdr_modHdr_same, if_pos hheld]
  · rw [hdr_modHdr_same, hfree]
    rfl

/-! ### The messages of a page other than a CTX page -/

section
variable {page : Nat} (hpage : ∀ c, pageOf page ≠ .ctx c)
include hpage

/-- On such a page one message tells that the enabled value turned non-zero (R408). -/
theorem sendRise_of_not_ctx (s : State) (old new : Nat) :
    s.sendRise page old new =
      if old = 0 ∧ new ≠ 0 ∧ bit (s.hdr page).route 31 = true then s.emit (.msix 0 (512 + sl (s.hdr page).route 8 0)) else s := by
  unfold State.sendRise
  split
  next c hctx => exact absurd hctx (hpage c)
  · rfl

theorem raise_of_not_ctx {s : State} (hpresent : s.present (pageOf page) = true) (bits : Nat) :
    s.raise page bits =
      let st := (s.hdr page).stat ||| (bits &&& irqMask (pageOf page))
      let u := s.modHdr page (fun h => { h with stat := st })
      if (s.hdr page).stat &&& s.irqEn page = 0 ∧ st &&& s.irqEn page ≠ 0 ∧ bit (s.hdr page).route 31 = true then
        u.emit (.msix 0 (512 + sl (s.hdr page).route 8 0))
      else u := by
  rw [State.raise, if_pos hpresent]
  dsimp only
  rw [sendRise_of_not_ctx hpage, hdr_modHdr_same]

theorem clearStat_of_not_ctx (s : State) (v : Nat) :
    s.clearStat page v =
      let st := (s.hdr page).stat - ((s.hdr page).stat &&& v)
      let u := s.modHdr page (fun h => { h with stat := st })
      if st &&& s.irqEn page ≠ 0 ∧ bit (s.hdr page).route 31 = true then
        u.emit (.msix 0 (512 + sl (s.hdr page).route 8 0))
      else u := by
  unfold State.clearStat
  dsimp only
  split
  next c hctx => exact absurd hctx (hpage c)
  · rfl

end

/-- A message changes no page header. -/
theorem hdr_ite_emit {c : Prop} [Decidable c] (s : State) (o : Out) (page : Nat) :
    (if c then s.emit o else s).hdr page = s.hdr page := by
  split <;> rfl

theorem out_ite_emit {c : Prop} [Decidable c] (s : State) (o : Out) :
    (if c then s.emit o else s).out = if c then o :: s.out else s.out := by
  split <;> rfl

/-- Settles O59: both write `IRQ_STAT` of the page and then send at most one message (`raise_of_not_ctx`, `clearStat_of_not_ctx`). -/
theorem pageInterrupts : Obligations.PageInterrupts := by
  intro s page v hpresent hpage
  rw [raise_of_not_ctx hpage hpresent, clearStat_of_not_ctx hpage]
  dsimp only
  simp only [hdr_ite_emit, out_ite_emit, hdr_modHdr_same, modHdr_out, and_self]

end Sys2Proof.Machine
end

section
/-! PROOFS. The clock and power regions (R390, R391): a skew check, a drain for skew and the way back; O10. -/

namespace Sys2Proof.Machine

open Claims

/-! ### The parts of a skew check -/

/-- The state with the controller's measurements of a skew check. -/
def State.measured (s : State) (meas : List RegionMeasure) : State :=
  meas.foldl (fun s m =>
    if s.regions.contains m.region then s.setRegion m.region { s.region m.region with mhz := m.mhz, mv := m.mv, temp := m.temp }
    else s) s

/-- Each pair beyond a limit, as the outlier, the kind of limit and the other region. -/
def State.beyondLimits (s : State) : List (Nat × Nat × Nat) :=
  (pairsOf s).flatMap (fun p => ([0, 1, 2].filter (fun k => beyond (s.region p.1) (s.region p.2) k)).map (fun k =>
    let o := s.outlier k p.1 p.2
    (o, k, if o = p.1 then p.2 else p.1)))

/-- What a skew check does to one region, given the outliers: a drained one keeps or loses its time within limits, one that was
pulled and is no outlier any more is left alone. -/
def State.settleRegion (out : List Nat) (s : State) (r : Nat) : State :=
  let g := s.region r
  if out.contains r then (if g.drained ≠ 0 then s.setRegion r { g with okAt := none } else s)
  else if g.drained ≠ 0 then s.setRegion r { g with okAt := match g.okAt with | some a => some a | none => some s.clk.now }
  else
    match g.pulling with
    | none => s
    | some p => (s.setRegion r { g with pulling := none }).logRas pgPwrclk 5 0x53 none (r + 256 * p.2)

def State.pullOutlier (s : State) (b : Nat × Nat × Nat) : State :=
  if (s.region b.1).drained ≠ 0 then s else s.pullBack b.2.1 b.1 b.2.2

/-- A skew check stores the measurements, settles every region and pulls the outliers. -/
theorem execSkewCheck_of_running {s : State} {t : Nat} (meas : List RegionMeasure) (hrunning : (s.tick t).running = true) :
    exec (.skewCheck t meas) s =
      let v := (s.tick t).measured meas
      .next (v.beyondLimits.foldl State.pullOutlier (v.regions.foldl (State.settleRegion (v.beyondLimits.map (·.1))) v)) :=
  if_pos hrunning

/-! ### What the supply leaves -/

/-- The part of the state that a skew check leaves. -/
def State.unsupplied (s : State) : Mem × SMap Ctx × SMap Core × SMap Port × Sec := (s.mem, s.ctxs, s.cores, s.ports, s.sec)

theorem unsupplied_iff {s u : State} : u.unsupplied = s.unsupplied ↔
    u.mem = s.mem ∧ u.ctxs = s.ctxs ∧ u.cores = s.cores ∧ u.ports = s.ports ∧ u.sec = s.sec := by
  simp only [State.unsupplied, Prod.mk.injEq]

theorem unsupplied_of_beside {s u : State} (hmem : u.mem = s.mem) (hctxs : u.ctxs = s.ctxs) (hbeside : u.beside = s.beside) :
    u.unsupplied = s.unsupplied :=
  unsupplied_iff.mpr ⟨hmem, hctxs, congrArg (·.cores) hbeside, congrArg (·.ports) hbeside, congrArg (·.sec) hbeside⟩

theorem logRas_unsupplied (s : State) (page cls code : Nat) (ctx : Option Nat) (info : Nat) :
    (s.logRas page cls code ctx info).unsupplied = s.unsupplied :=
  unsupplied_of_beside (logRas_mem ..) (logRas_ctxs ..) (logRas_beside ..)

theorem measured_unsupplied (s : State) (meas : List RegionMeasure) : (s.measured meas).unsupplied = s.unsupplied :=
  foldl_kept State.unsupplied (fun _ _ => by dsimp only; split <;> rfl) meas s

theorem settleRegion_unsupplied (out : List Nat) (s : State) (r : Nat) : (s.settleRegion out r).unsupplied = s.unsupplied := by
  unfold State.settleRegion
  dsimp only
  split
  · split <;> rfl
  · split
    · rfl
    · split
      · rfl
      · exact (logRas_unsupplied ..).trans rfl

theorem pullOutlier_unsupplied (s : State) (b : Nat × Nat × Nat) : (s.pullOutlier b).unsupplied = s.unsupplied := by
  unfold State.pullOutlier
  split <;> rfl

/-! ### A skew check that finds nothing -/

theorem beyondLimits_eq_nil {s : State} (hwithin : ∀ p ∈ pairsOf s, ∀ k < 3, beyond (s.region p.1) (s.region p.2) k = false) :
    s.beyondLimits = [] := by
  refine List.flatMap_eq_nil_iff.mpr fun p hp => ?_
  rw [List.map_eq_nil_iff, List.filter_eq_nil_iff]
  intro k hk
  have hkind : k < 3 := by
    simp only [List.mem_cons, List.not_mem_nil, or_false] at hk
    omega
  rw [hwithin p hp k hkind]
  exact Bool.false_ne_true

/-- A region that is neither drained nor pulled, and no outlier, is left as it is. -/
theorem settleRegion_of_calm {s : State} {r : Nat} (hdrained : (s.region r).drained = 0)
    (hpulling : (s.region r).pulling = none) : s.settleRegion [] r = s := by
  simp only [State.settleRegion, hdrained, hpulling, List.contains_nil, Bool.false_eq_true, ne_eq, not_true_eq_false,
    if_false]

/-- A fold whose every step leaves the state leaves it. -/
theorem foldl_fixed {α : Type} {f : State → α → State} {s : State} {l : List α} (hfix : ∀ a ∈ l, f s a = s) : l.foldl f s = s := by
  induction l with
  | nil => rfl
  | cons a l ih =>
    rw [List.foldl_cons, hfix a List.mem_cons_self]
    exact ih fun b hb => hfix b (List.mem_cons_of_mem a hb)

theorem skewCheck_reaches (meas : List RegionMeasure) : Reaches (.skewCheck · meas) (fun s => s.running = true) (fun s u =>
    (u.mem = s.mem ∧ u.ctxs = s.ctxs ∧ u.cores = s.cores ∧ u.ports = s.ports ∧ u.sec = s.sec)
    ∧ ∀ v : State, v = s.measured meas → (∀ p ∈ pairsOf v, ∀ k < 3, beyond (v.region p.1) (v.region p.2) k = false) →
        (∀ r ∈ v.regions, (v.region r).drained = 0 ∧ (v.region r).pulling = none) → u = v) := by
  intro t s hrunning
  refine ⟨_, execSkewCheck_of_running meas hrunning, ?_, ?_⟩
  · refine unsupplied_iff.mp ?_
    rw [foldl_kept State.unsupplied pullOutlier_unsupplied, foldl_kept State.unsupplied (settleRegion_unsupplied _),
      measured_unsupplied]
  · rintro v rfl hwithin hcalm
    rw [beyondLimits_eq_nil hwithin]
    exact foldl_fixed fun r hr => settleRegion_of_calm (hcalm r hr).1 (hcalm r hr).2

/-! ### Drain and rejoin -/

theorem skewDrain_gives (region : Nat) : Gives (.skewDrain · region) (fun s => s.running = true ∧ region ∈ s.regions
    ∧ (s.region region).drained = 0 ∧ ∃ p : Nat × Nat, (s.region region).pulling = some p ∧ p.1 + 1000000 ≤ s.clk.now)
    (fun s => s.drainRegion region 1) := by
  rintro t s ⟨hrunning, hregion, hdrained, p, hpulling, hlate⟩
  change execSkewDrain t region s = _
  simp only [execSkewDrain, hpulling]
  exact if_pos ⟨hrunning, List.contains_iff_mem.mpr hregion, hdrained, hlate⟩

theorem regionRejoin_gives (region : Nat) : Gives (.regionRejoin · region) (fun s => s.running = true ∧ region ∈ s.regions
    ∧ (((s.region region).drained = 1 ∧ ∃ a : Nat, (s.region region).okAt = some a ∧ a + 100000000 ≤ s.clk.now)
      ∨ ((s.region region).drained = 2 ∧ (s.region region).temp < 90))) (fun s => s.rejoinRegion region) := by
  rintro t s ⟨hrunning, hregion, hback⟩
  refine if_pos ⟨hrunning, List.contains_iff_mem.mpr hregion, hback.imp_left ?_⟩
  rintro ⟨hskew, a, hokAt, hlong⟩
  rw [hokAt]
  exact ⟨hskew, decide_eq_true hlong⟩

/-- Settles O10, from what each of the three commands does. -/
theorem regionCommands : Obligations.RegionCommands :=
  ⟨skewCheck_reaches, skewDrain_gives, regionRejoin_gives⟩

end Sys2Proof.Machine
end

section
/-! PROOFS. Temperature, trip and power (R393, R394, R398): each limit and each release, the clock steps of a region and of the whole
module; O11 and O12. -/

namespace Sys2Proof.Machine

open Claims

/-! ### The limits of temperature -/

section
variable (region temp : Nat)

theorem thermalRegionThrottle_gives (hhot : 95 ≤ temp) : Gives (.thermalRegionThrottle · region temp)
    (fun s => s.running = true ∧ region ∈ s.regions) (fun s => s.setRegion region { s.region region with throttle := true, temp }) :=
  fun _ _ ⟨hrunning, hregion⟩ => if_pos ⟨hrunning, List.contains_iff_mem.mpr hregion, hhot⟩

theorem thermalRegionDrain_gives (hhot : 105 ≤ temp) : Gives (.thermalRegionDrain · region temp)
    (fun s => s.running = true ∧ region ∈ s.regions ∧ (s.region region).drained ≠ 2)
    (fun s => ((s.setRegion region { s.region region with throttle := true, temp }).lowerClock region 400).drainRegion region 2) :=
  fun _ _ ⟨hrunning, hregion, hdrained⟩ => if_pos ⟨hrunning, List.contains_iff_mem.mpr hregion, hhot, hdrained⟩

/-- At or above 93 °C the clock of a throttled region falls. -/
theorem thermalClockStep_falls (hhot : 93 ≤ temp) : Gives (.thermalClockStep · region temp)
    (fun s => s.running = true ∧ region ∈ s.regions ∧ (s.region region).drained ≠ 2 ∧ (s.region region).throttle = true)
    (fun s => (s.setRegion region { s.region region with temp }).lowerClock region ((s.region region).mhz - 25)) :=
  fun _ _ ⟨hrunning, hregion, hdrained, hthrottle⟩ =>
    (if_pos ⟨hrunning, List.contains_iff_mem.mpr hregion⟩).trans ((if_neg hdrained).trans (if_pos ⟨hthrottle, hhot⟩))

/-- Below 90 °C the clock of a region below its highest clock rises by at most 25 MHz, and not beyond that clock. -/
theorem thermalClockStep_rises (hcool : temp < 90) : Reaches (.thermalClockStep · region temp)
    (fun s => s.running = true ∧ region ∈ s.regions ∧ (s.region region).drained ≠ 2 ∧ (s.region region).mhz < s.clockCap region)
    (fun s u => u = { s with pwr := { s.pwr with regions := u.pwr.regions } } ∧ (∀ r, r ≠ region → u.region r = s.region r)
      ∧ (u.region region).temp = temp
      ∧ (s.region region).mhz ≤ (u.region region).mhz ∧ (u.region region).mhz ≤ (s.region region).mhz + 25
      ∧ (u.region region).mhz ≤ s.clockCap region) := by
  rintro t s ⟨hrunning, hregion, hdrained, hbelow⟩
  refine ⟨_, (if_pos ⟨hrunning, List.contains_iff_mem.mpr hregion⟩).trans ((if_neg hdrained).trans
    ((if_neg fun hfalls => absurd hfalls.2 (by omega)).trans (if_pos ⟨hcool, hbelow⟩))), rfl, fun r hr => ?_, ?_⟩
  · rw [region_setRegion_other _ _ _ _ hr, region_setRegion_other _ _ _ _ hr]
  · rw [region_setRegion_same]
    have hcap (x : Region) : ((s.tick t).setRegion region x).clockCap region = (s.tick t).clockCap region := rfl
    dsimp only
    rw [hcap]
    exact ⟨rfl, Nat.le_max_right _ _, by omega, by omega⟩

end

theorem thermalSysdieLimit_gives (temp : Nat) (hhot : 100 ≤ temp) : Gives (.thermalSysdieLimit · temp) (fun s => s.running = true)
    (fun s => State.relimit { s with pwr := { s.pwr with limSys := true, sysdie := temp } } s.limit) :=
  fun _ _ hrunning => if_pos ⟨hrunning, hhot⟩

theorem thermalStackAction_gives (stack temp : Nat) (hhot : 95 ≤ temp) : Gives (.thermalStackAction · stack temp)
    (fun s => s.running = true ∧ stack < s.ident.variant.near) (fun s => { s with pwr := { s.pwr with
      refresh := tput false s.pwr.refresh stack true
      halved := if 105 ≤ temp then tput false s.pwr.halved stack true else s.pwr.halved } }) :=
  fun _ _ ⟨hrunning, hstack⟩ => if_pos ⟨hrunning, hstack, hhot⟩

theorem thermalCoolantLimit_gives (inlet outlet : Nat) (hhot : inlet + 15 < outlet ∨ 60 < outlet) :
    Gives (.thermalCoolantLimit · inlet outlet) (fun s => s.running = true)
      (fun s => State.relimit { s with pwr := { s.pwr with limCool := true, inlet := inlet, outlet := outlet } } s.limit) :=
  fun _ _ hrunning => if_pos ⟨hrunning, hhot⟩

theorem thermalInletLimit_gives (inlet : Nat) (hhot : 40 < inlet) : Gives (.thermalInletLimit · inlet) (fun s => s.running = true)
    (fun s => State.relimit { s with pwr := { s.pwr with limInlet := true, inlet := inlet } } s.limit) :=
  fun _ _ hrunning => if_pos ⟨hrunning, hhot⟩

/-! ### The releases, the trip -/

/-- A command that acts where `b` holds, written with the other case first. -/
theorem ite_not_of_true {b : Bool} {α : Type} (hb : b = true) (x y : α) : (if !b then x else y) = y := by
  rw [hb]
  rfl

section
variable (region stack inlet outlet temp : Nat)

theorem thermalRelease_region_gives (hcool : temp < 90) : Gives (.thermalRelease · (.region region temp))
    (fun s => s.running = true ∧ region ∈ s.regions) (fun s => s.setRegion region { s.region region with throttle := false, temp }) :=
  fun _ _ ⟨hrunning, hregion⟩ => (ite_not_of_true hrunning _ _).trans (if_pos ⟨hcool, List.contains_iff_mem.mpr hregion⟩)

theorem thermalRelease_regionDrain_gives (hcool : temp < 90) : Gives (.thermalRelease · (.regionDrain region temp))
    (fun s => s.running = true ∧ (s.region region).drained = 2)
    (fun s => (s.setRegion region { s.region region with throttle := false, temp }).rejoinRegion region) :=
  fun _ _ ⟨hrunning, hdrained⟩ => (ite_not_of_true hrunning _ _).trans (if_pos ⟨hcool, hdrained⟩)

theorem thermalRelease_stackRefresh_gives (hcool : temp < 90) : Gives (.thermalRelease · (.stackRefresh stack temp))
    (fun s => s.running = true) (fun s => { s with pwr := { s.pwr with refresh := tput false s.pwr.refresh stack false } }) :=
  fun _ _ hrunning => (ite_not_of_true hrunning _ _).trans (if_pos hcool)

theorem thermalRelease_stackHalf_gives (hcool : temp < 100) : Gives (.thermalRelease · (.stackHalf stack temp))
    (fun s => s.running = true) (fun s => { s with pwr := { s.pwr with halved := tput false s.pwr.halved stack false } }) :=
  fun _ _ hrunning => (ite_not_of_true hrunning _ _).trans (if_pos hcool)

theorem thermalRelease_coolant_gives (hrise : outlet < inlet + 12) (hcool : outlet < 55) :
    Gives (.thermalRelease · (.coolant inlet outlet)) (fun s => s.running = true)
      (fun s => State.relimit { s with pwr := { s.pwr with limCool := false, inlet := inlet, outlet := outlet } } s.limit) :=
  fun _ _ hrunning => (ite_not_of_true hrunning _ _).trans (if_pos ⟨hrise, hcool⟩)

theorem thermalRelease_sysdie_gives (hcool : temp < 95) : Gives (.thermalRelease · (.sysdie temp)) (fun s => s.running = true)
    (fun s => State.relimit { s with pwr := { s.pwr with limSys := false, sysdie := temp } } s.limit) :=
  fun _ _ hrunning => (ite_not_of_true hrunning _ _).trans (if_pos hcool)

theorem thermalRelease_inlet_gives (hcool : inlet ≤ 38) : Gives (.thermalRelease · (.inlet inlet)) (fun s => s.running = true)
    (fun s => State.relimit { s with pwr := { s.pwr with limInlet := false, inlet := inlet } } s.limit) :=
  fun _ _ hrunning => (ite_not_of_true hrunning _ _).trans (if_pos hcool)

end

/-- The trip resets the package, which then waits with its rails off and tells so on the trip pin. -/
theorem thermalTrip_reaches (temp : Nat) (hhot : 115 ≤ temp) : Reaches (.thermalTrip · temp) (fun s => s.powered = true)
    (fun s u => u = s.packageReset causeTrip ∧ u.boot = .tripHeld ∧ u.pins.tripAlert = true) :=
  fun _ _ hpowered => ⟨_, congrArg Host.Outcome.next (if_pos ⟨hpowered, hhot⟩), rfl, rfl, rfl⟩

theorem thermalTripRailsOn_gives (temp : Nat) (hcool : temp < 85) : Gives (.thermalTripRailsOn · temp)
    (fun s => s.boot = .tripHeld)
    (fun s => (State.regulate { s with boot := if s.pins.modResetN then .booting else .resetHeld }).linkTrains) :=
  fun _ _ hheld => if_pos ⟨hheld, hcool⟩

/-- Settles O11, from what each of the thermal commands does. -/
theorem thermalCommands : Obligations.ThermalCommands :=
  ⟨thermalRegionThrottle_gives, thermalClockStep_falls, thermalClockStep_rises, thermalRegionDrain_gives, thermalSysdieLimit_gives,
    thermalStackAction_gives, thermalCoolantLimit_gives, thermalInletLimit_gives, thermalRelease_region_gives,
    thermalRelease_regionDrain_gives, thermalRelease_stackRefresh_gives, thermalRelease_stackHalf_gives,
    thermalRelease_coolant_gives, thermalRelease_sysdie_gives, thermalRelease_inlet_gives, thermalTrip_reaches,
    thermalTripRailsOn_gives⟩

/-! ### The power measurement -/

/-- The state beside the clocks of its regions and the measure of its throttling. -/
def State.offClocks (s : State) : State :=
  { s with pwr := { s.pwr with regions := [], thrAt := none, throttleNs := 0 }, epoch := {} }

theorem noteEpoch_eq (s : State) : s.noteEpoch = { s with epoch := s.noteEpoch.epoch } := by
  unfold State.noteEpoch
  dsimp only
  split <;> split <;> rfl

/-- What notes the throttling changes neither the regions nor what is beside the clocks. -/
theorem noteThrottle_leaves (s : State) : s.noteThrottle.offClocks = s.offClocks ∧ ∀ r, s.noteThrottle.region r = s.region r := by
  unfold State.noteThrottle
  dsimp only
  rw [noteEpoch_eq]
  split
  · split <;> exact ⟨rfl, fun _ => rfl⟩
  · split <;> exact ⟨rfl, fun _ => rfl⟩

/-- One step down of a clock (R394). -/
def Region.lowered (g : Region) : Region := { g with mhz := max 400 (g.mhz - 25) }

def State.lowerRegion (s : State) (r : Nat) : State := s.setRegion r (s.region r).lowered

theorem lowerRegion_offClocks (s : State) (r : Nat) : (s.lowerRegion r).offClocks = s.offClocks := by
  unfold State.lowerRegion
  rfl

theorem region_foldl_lowerRegion_of_notMem {l : List Nat} {r : Nat} (hr : r ∉ l) (s : State) :
    (l.foldl State.lowerRegion s).region r = s.region r := by
  induction l generalizing s with
  | nil => rfl
  | cons a l ih =>
    obtain ⟨ha, hl⟩ := not_or.mp (mt List.mem_cons.mpr hr)
    exact (ih hl _).trans (region_setRegion_other s a r _ ha)

theorem regions_nodup (s : State) : s.regions.Nodup := List.nodup_range

/-- Every region of a list without repetition is lowered once. -/
theorem region_foldl_lowerRegion {l : List Nat} (hl : l.Nodup) {r : Nat} (hr : r ∈ l) (s : State) :
    (l.foldl State.lowerRegion s).region r = (s.region r).lowered := by
  induction l generalizing s with
  | nil => exact absurd hr List.not_mem_nil
  | cons a l ih =>
    obtain ⟨ha, hnodup⟩ := List.nodup_cons.mp hl
    rw [List.foldl_cons]
    rcases List.mem_cons.mp hr with rfl | hr
    · rw [region_foldl_lowerRegion_of_notMem ha]
      exact region_setRegion_same s r _
    · rw [ih hnodup hr]
      exact congrArg Region.lowered (region_setRegion_other s a r _ fun h => ha (h ▸ hr))

/-- One step up of a region's clock, where neither throttle nor drain holds it. -/
def State.raiseRegion (s : State) (r : Nat) : State :=
  let g := s.region r
  if g.throttle || decide (g.drained = 2) then s
  else s.setRegion r { g with mhz := max g.mhz (min (g.mhz + 25) (min (s.clockCap r) (s.ratioCap r))) }

theorem raiseRegion_offClocks (s : State) (r : Nat) : (s.raiseRegion r).offClocks = s.offClocks := by
  unfold State.raiseRegion
  dsimp only
  split <;> rfl

/-- The state with a power measurement and the clock that it allows. -/
def State.metered (s : State) (watts allowed : Nat) : State := { s with pwr := { s.pwr with watts := watts, allowed := allowed } }

section
variable {s : State} {t watts : Nat} (hrunning : (s.tick t).running = true)
include hrunning

theorem execPowerMeasure_of_above (habove : watts > (s.tick t).limit) :
    exec (.powerMeasure t watts) s =
      .next ((s.tick t).regions.foldl State.lowerRegion
        ((s.tick t).metered watts (max 400 ((s.tick t).pwr.allowed - 25)))).noteThrottle :=
  (if_pos hrunning).trans (if_pos habove)

theorem execPowerMeasure_of_below (hwithin : watts ≤ (s.tick t).limit) (hbelow : watts * 100 < (s.tick t).limit * 95) :
    exec (.powerMeasure t watts) s =
      .next ((s.tick t).regions.foldl State.raiseRegion
        ((s.tick t).metered watts (min 1600 ((s.tick t).pwr.allowed + 25)))).noteThrottle :=
  (if_pos hrunning).trans ((if_neg (Nat.not_lt.mpr hwithin)).trans (if_pos hbelow))

theorem execPowerMeasure_of_between (hwithin : watts ≤ (s.tick t).limit) (hnear : (s.tick t).limit * 95 ≤ watts * 100) :
    exec (.powerMeasure t watts) s = .next { s.tick t with pwr := { (s.tick t).pwr with watts } } :=
  (if_pos hrunning).trans ((if_neg (Nat.not_lt.mpr hwithin)).trans (if_neg (Nat.not_lt.mpr hnear)))

end

/-- What a measurement leaves, where the state beside the clocks has that measurement and the allowed clock. -/
theorem metered_of_offClocks {s u : State} {watts allowed : Nat} (hu : u.offClocks = (s.metered watts allowed).offClocks) :
    u.pwr.watts = watts ∧ u.mem = s.mem ∧ u.ctxs = s.ctxs ∧ u.ports = s.ports ∧ u.pwr.allowed = allowed :=
  ⟨congrArg (·.pwr.watts) hu, congrArg (·.mem) hu, congrArg (·.ctxs) hu, congrArg (·.ports) hu, congrArg (·.pwr.allowed) hu⟩

/-- Settles O12, by where the measurement lies: above the limit, below 95 % of it, or between. -/
theorem powerMeasureCommand : Obligations.PowerMeasureCommand := by
  intro watts t s hrunning
  rcases Nat.lt_or_ge (s.tick t).limit watts with habove | hwithin
  · refine ⟨_, execPowerMeasure_of_above hrunning habove, ?_⟩
    obtain ⟨hoff, hregion⟩ := noteThrottle_leaves ((s.tick t).regions.foldl State.lowerRegion
      ((s.tick t).metered watts (max 400 ((s.tick t).pwr.allowed - 25))))
    rw [foldl_kept State.offClocks lowerRegion_offClocks] at hoff
    obtain ⟨hwatts, hmem, hctxs, hports, hallowed⟩ := metered_of_offClocks hoff
    refine ⟨hwatts, hmem, hctxs, hports, fun _ => ⟨hallowed, fun r hr => ?_⟩, fun h => absurd habove (Nat.not_lt.mpr h),
      fun h => absurd habove (Nat.not_lt.mpr h)⟩
    rw [hregion, region_foldl_lowerRegion (regions_nodup _) hr]
    rfl
  rcases Nat.lt_or_ge (watts * 100) ((s.tick t).limit * 95) with hbelow | hnear
  · refine ⟨_, execPowerMeasure_of_below hrunning hwithin hbelow, ?_⟩
    have hoff := (noteThrottle_leaves ((s.tick t).regions.foldl State.raiseRegion
      ((s.tick t).metered watts (min 1600 ((s.tick t).pwr.allowed + 25))))).1
    rw [foldl_kept State.offClocks raiseRegion_offClocks] at hoff
    obtain ⟨hwatts, hmem, hctxs, hports, hallowed⟩ := metered_of_offClocks hoff
    exact ⟨hwatts, hmem, hctxs, hports, fun h => absurd h (Nat.not_lt.mpr hwithin), fun _ _ => hallowed,
      fun _ h => absurd hbelow (Nat.not_lt.mpr h)⟩
  · exact ⟨_, execPowerMeasure_of_between hrunning hwithin hnear, rfl, rfl, rfl, rfl, fun h => absurd h (Nat.not_lt.mpr hwithin),
      fun _ h => absurd h (Nat.not_lt.mpr hnear), fun _ _ => rfl⟩

end Sys2Proof.Machine
end

section
/-! PROOFS. Every step keeps the canonical form of memory (R181, R310): O44. -/

namespace Sys2Proof.Machine

/-- Settles O44: an empty queue leaves memory, and the front command keeps its form (`exec_answers`). -/
theorem stepKeepsMemoryForm : Obligations.StepKeepsMemoryForm := by
  intro s u hwf hstep
  cases hqueue : s.pending with
  | nil =>
    rw [stepRunsTheFrontCommand.2 s hqueue] at hstep
    cases hstep
    exact hwf
  | cons c rest =>
    rw [stepRunsTheFrontCommand.1 c rest s hqueue] at hstep
    exact (keeps_of_exec hstep).mem hwf

end Sys2Proof.Machine
end

section
/-! PROOFS. The two commands that may stop the machine (R43, R418, R421): O4. -/

namespace Sys2Proof.Machine

/-- Settles O4: beyond 65 V the input also lies above the 47 V that it rises through; the operation is looked at where the credential
and the power are there. -/
theorem theTwoStops : Obligations.TheTwoStops := by
  refine ⟨fun t mv s hoff hbeyond => ?_, fun t code s hon => ?_⟩
  · refine (if_neg ?_).trans (if_pos hbeyond)
    rw [hoff]
    simp only [Bool.false_eq_true, false_or]
    omega
  · exact if_pos (by rw [hon]; rfl)

end Sys2Proof.Machine
end

section
/-! PROOFS. What a write to device memory leaves of the bytes outside it (R181, R189, R310, R314): O51. The write itself may make room
in a full tier, a migration that holds no write; what other migrations hold stays held. -/

namespace Sys2Proof.Machine

theorem cells_of_stored {s u : State} (h : u.stored = s.stored) : u.mem.cells = s.mem.cells := congrArg (·.mem.cells) h

/-! ### Making room changes no byte -/

theorem startMoves_cells (s : State) : s.startMoves.mem.cells = s.mem.cells := by
  refine foldl_kept (fun s : State => s.mem.cells) (fun s f => ?_) _ s
  dsimp only
  split
  · rfl
  · split <;> rfl

theorem retireLocation_cells (s : State) (mcx pg : Nat) (frame : Option Nat) :
    (s.retireLocation mcx pg frame).mem.cells = s.mem.cells := by
  unfold State.retireLocation
  split
  · refine (cells_of_stored ((raise_stored _ _ _).trans (raise_stored _ _ _))).trans ?_
    split
    · dsimp only
      split
      · exact startMoves_cells _
      · rfl
    · rfl
  · exact cells_of_stored ((logRas_stored _ _ _ _ _ _).trans (raise_stored _ _ _))

theorem uncorrectableAt_cells (s : State) (ctx : Option (Option Nat)) (ln : Nat) :
    (s.uncorrectableAt ctx ln).mem.cells = s.mem.cells := by
  unfold State.uncorrectableAt
  split
  · rfl
  · refine (retireLocation_cells _ _ _ _).trans (cells_of_stored (s := s) ?_)
    rw [poison_stored]
    split
    · exact (logRas_stored _ _ _ _ _ _).trans (raise_stored _ _ _)
    · exact raise_stored _ _ _

theorem copyErrors_cells (s : State) (f : Nat) : (s.copyErrors f).mem.cells = s.mem.cells :=
  foldl_kept (fun s : State => s.mem.cells) (fun u ln => uncorrectableAt_cells u none ln) _ s

/-- The end of a migration that holds no write stores nothing. -/
theorem endMigration_cells {m : Migration} (hheld : m.held = []) (s : State) : (s.endMigration m).mem.cells = s.mem.cells := by
  simp only [State.endMigration, startMoves_cells, State.noteHold, State.heldWrites, hheld, List.foldl_nil]

theorem switchTo_cells {m : Migration} (hheld : m.held = []) (s : State) : (s.switchTo m).mem.cells = s.mem.cells := by
  have hcopied : ((s.copyErrors m.frame).dropLines m.frame).mem.cells = s.mem.cells :=
    (cells_of_stored (dropLines_stored _ _)).trans (copyErrors_cells s _)
  unfold State.switchTo
  dsimp only
  split
  · exact hcopied
  · refine (endMigration_cells hheld _).trans ?_
    dsimp only
    exact (cells_of_stored (place_stored _ _ _)).trans hcopied

theorem makeRoom_cells (s : State) (tier : Nat) : (s.makeRoom tier).mem.cells = s.mem.cells := by
  unfold State.makeRoom
  split
  · rfl
  · dsimp only
    split
    · exact (switchTo_cells rfl _).trans rfl
    · rfl

theorem back_cells (s : State) (f key : Nat) (replay : Bool) : (s.back f key replay).mem.cells = s.mem.cells := by
  unfold State.back
  split
  · rfl
  · extract_lets k cls near s1 p tier v s2
    have hroom : s1.mem.cells = s.mem.cells := by
      unfold s1
      split
      · exact makeRoom_cells s 0
      · rfl
    have hplaced : s2.mem.cells = s.mem.cells := (cells_of_stored (place_stored _ _ _)).trans hroom
    split
    · refine (cells_of_stored ((bumpFver_stored _ _ _).trans ?_)).trans hplaced
      exact foldl_stored (fun u i => initBlock_stored u (4 * f + i) key) _ s2
    · exact hplaced

/-! ### A write within a line, and the whole write -/

variable {a : Nat}

theorem setBytes_byteAt_of_misses {s : State} {fa : Nat} {d : Bytes} (hmiss : misses a fa d.length) :
    (s.setBytes fa d).byteAt a = s.byteAt a := by
  induction d generalizing s fa with
  | nil => rfl
  | cons b bs ih =>
    simp only [misses, List.length_cons] at hmiss
    refine (ih (by unfold misses; omega)).trans ?_
    exact tget_tput_other 0 s.mem.cells fa a b (by omega)

theorem lineWrite_byteAt_of_misses {s : State} {key fa : Nat} {replay : Bool} {d : Bytes} (hmiss : misses a fa d.length) :
    (s.lineWrite key replay fa d).1.byteAt a = s.byteAt a := by
  have hput (u : State) (hu : u.mem.cells = s.mem.cells) :
      (((if replay then u.countWrite (fa / 128) key else u).setLine (fa / 128) { key, replay }).setBytes fa d).byteAt a = s.byteAt a := by
    refine (setBytes_byteAt_of_misses hmiss).trans (congrArg (tget 0 · a) ?_)
    split
    · exact (cells_of_stored (countWrite_stored u _ key)).trans hu
    · exact hu
  unfold State.lineWrite
  dsimp only
  split
  · rfl
  · split
    · rfl
    · split
      · split
        · split <;> rfl
        · exact hput s rfl
      · exact hput _ rfl

theorem physPiece_byteAt_of_misses {s : State} {key fa : Nat} {replay : Bool} {d : Bytes} (hmiss : misses a fa d.length) :
    (s.physPiece key replay fa d).1.byteAt a = s.byteAt a := by
  have hback : (s.back (fa / 65536) key replay).byteAt a = s.byteAt a := congrArg (tget 0 · a) (back_cells s _ key replay)
  unfold State.physPiece
  dsimp only
  split
  · exact hback
  · exact (lineWrite_byteAt_of_misses hmiss).trans hback

/-- Settles O51: every piece of the write lies within the bytes it stores, and changes no byte outside itself. -/
theorem writeTouchesOnlyItsBytes : Obligations.WriteTouchesOnlyItsBytes := by
  intro s u key fa a replay d e hwrite houtside
  have hpieces : (s.physWrite key replay fa d).1.byteAt a = s.byteAt a := by
    refine untilStop_induction (P := fun v => v.byteAt a = s.byteAt a) rfl (fun v hv p hp => ?_)
    refine (physPiece_byteAt_of_misses ?_).trans hv
    have := pieces_within (by decide) hp
    unfold misses
    rw [length_bslice]
    omega
  rw [hwrite] at hpieces
  exact hpieces

end Sys2Proof.Machine
end

section
/-! PROOFS. Input power and the pins (R16 to R25, R43, R351, R398): what each command does where its condition holds; O5. -/

namespace Sys2Proof.Machine

open Claims

/-! ### Input power and pins -/

theorem powered_eq_true_iff {s : State} : s.powered = true ↔ s.boot ≠ .off := by simp only [State.powered, decide_eq_true_eq]

/-- Without power the input that rises through 47.0 V, and not beyond 65 V, powers the standby logic (R19, R43, R351). -/
theorem powerUp_gives (mv : Nat) (hlow : 47000 ≤ mv) (hhigh : mv ≤ 65000) : Gives (.powerUp · mv) (fun s => s.powered = false)
    (fun s =>
      let u := ([0, 1] : List Nat).foldl (fun s u => s.setLaser u (s.laser u).powerUp) { s with
        boot := .standby
        pins := { s.pins with inputOn := true, lowInput := decide (mv < 48000), inputMv := mv, pwrgd := true, onBattery := false }
        ras := { bootCause := causePowerUp } }
      if s.sec.latch && !s.sec.fuse then u.tamperRest else u) := by
  intro t s hoff
  have hon : ¬ ((s.tick t).powered = true ∨ mv < 47000) := by
    rw [hoff, or_iff_right Bool.false_ne_true]
    exact Nat.not_lt.mpr hlow
  exact (if_neg hon).trans (if_neg (Nat.not_lt.mpr hhigh))

theorem inputLow_gives (mv : Nat) (hlow : 45000 ≤ mv) (hhigh : mv < 48000) : Gives (.inputLow · mv) (fun s => s.powered = true)
    (fun s => ({ s with pins := { s.pins with lowInput := true, inputMv := mv } }.logRas pgPwrclk 5 0x52 none mv).relimit s.limit) :=
  fun _ _ hpowered => if_pos ⟨hpowered, hlow, hhigh⟩

/-- A laser unit keeps without power whether it sits in its bay, its health and its latch; it emits nothing. -/
theorem laser_unpowered (s : State) {l : Nat} (hl : l < 2) :
    (([0, 1] : List Nat).foldl (fun s u => s.setLaser u (s.laser u).unpowered) s).laser l = (s.laser l).unpowered := by
  rcases Nat.lt_or_ge l 1 with h | h
  · obtain rfl : l = 0 := by omega
    exact (laser_setLaser_other _ _ _ _ (by decide)).trans (laser_setLaser_same _ _ _)
  · obtain rfl : l = 1 := by omega
    refine (laser_setLaser_same _ _ _).trans (congrArg Laser.unpowered ?_)
    exact laser_setLaser_other _ _ _ _ (by decide)

theorem powerLoss_reaches : Reaches .powerLoss (fun s => s.powered = true) (fun s u =>
    u.boot = .off ∧ u.ctxs = [] ∧ u.mem = { host := s.mem.host } ∧ u.sec.root = s.sec.root ∧ u.sec.fuse = s.sec.fuse
    ∧ u.sec.pending = none ∧ u.pins.pwrgd = false ∧ u.pins.onBattery = true ∧ u.clk.now = s.clk.now ∧ u.dbg = {} ∧ u.cores = []
    ∧ ∀ l < 2, (u.laser l).present = (s.laser l).present ∧ (u.laser l).healthy = (s.laser l).healthy
        ∧ (u.laser l).latchOpen = (s.laser l).latchOpen ∧ (u.laser l).emitting = false) := by
  intro t s hpowered
  refine ⟨_, if_pos hpowered, rfl, rfl, rfl, rfl, rfl, rfl, rfl, rfl, rfl, rfl, rfl, fun l hl => ?_⟩
  have hlaser := laser_unpowered (State.packageReset { s.tick t with sec := { (s.tick t).sec with pending := none } } causePowerUp) hl
  exact ⟨(congrArg Laser.present hlaser :), (congrArg Laser.healthy hlaser :), (congrArg Laser.latchOpen hlaser :),
    (congrArg Laser.emitting hlaser :)⟩

theorem modResetAssert_gives : Gives .modResetAssert
    (fun s => s.powered = true ∧ s.pins.modResetN = true ∧ s.boot ≠ .tripHeld)
    (fun s => { s with pins := { s.pins with modResetN := false } }.packageReset causeModReset) :=
  fun _ _ ⟨hpowered, hhigh, hboot⟩ => (if_pos ⟨hpowered, hhigh⟩).trans (congrArg Host.Outcome.next (if_neg hboot))

/-- The rails of a thermal trip stay off (R25, R393). -/
theorem modResetAssert_gives_of_tripHeld : Gives .modResetAssert (fun s => s.pins.modResetN = true ∧ s.boot = .tripHeld)
    (fun s => { ({ s with pins := { s.pins with modResetN := false } }.packageReset causeModReset) with boot := .tripHeld }) := by
  rintro t s ⟨hhigh, hboot⟩
  have hpowered : (s.tick t).powered = true := powered_eq_true_iff.mpr (by rw [hboot]; decide)
  exact (if_pos ⟨hpowered, hhigh⟩).trans (congrArg Host.Outcome.next (if_pos hboot))

theorem modResetRelease_gives (strap : Nat) : Gives (.modResetRelease · strap)
    (fun s => s.powered = true ∧ s.pins.modResetN = false)
    (fun s => State.linkTrains { s with
      boot := if s.boot = .tripHeld then .tripHeld else .booting
      pins := { s.pins with modResetN := true, strap := strap % 8, slotId := strap % 8 } }) :=
  fun _ _ ⟨hpowered, hlow⟩ => if_pos ⟨hpowered, by rw [hlow]; rfl⟩

theorem perstAssert_gives_of_powered : Gives .perstAssert (fun s => s.pins.perstN = true ∧ s.powered = true)
    (fun s => { s with pins := { s.pins with perstN := false } }.endpointReset) :=
  fun _ _ ⟨hhigh, hpowered⟩ => (if_pos hhigh).trans (congrArg Host.Outcome.next (if_pos hpowered))

theorem perstAssert_gives_of_unpowered : Gives .perstAssert (fun s => s.pins.perstN = true ∧ s.powered = false)
    (fun s => { s with pins := { s.pins with perstN := false } }) :=
  fun _ _ ⟨hhigh, hoff⟩ => (if_pos hhigh).trans (congrArg Host.Outcome.next (if_neg (ne_true_of_eq_false hoff)))

theorem perstRelease_gives : Gives .perstRelease (fun s => s.powered = true ∧ s.pins.perstN = false)
    (fun s => State.linkTrains { s with pins := { s.pins with perstN := true } }) :=
  fun _ _ ⟨hpowered, hlow⟩ => if_pos ⟨hpowered, by rw [hlow]; rfl⟩

theorem endpointConfigReady_gives : Gives .endpointConfigReady (fun s => s.linkTrains.hostUp = true)
    (fun s => { s.linkTrains with pcie := { s.linkTrains.pcie with crs := false } }) :=
  fun _ _ hup => congrArg Host.Outcome.next (if_pos hup)

/-- Settles O5, from what each of the commands does. -/
theorem powerAndPinCommands : Obligations.PowerAndPinCommands :=
  ⟨powerUp_gives, inputLow_gives, fun _ _ hpowered => if_pos hpowered, powerLoss_reaches, modResetAssert_gives,
    modResetAssert_gives_of_tripHeld, modResetRelease_gives, perstAssert_gives_of_powered, perstAssert_gives_of_unpowered,
    perstRelease_gives, endpointConfigReady_gives⟩

end Sys2Proof.Machine
end

section
/-! PROOFS. What flags and records change (R376 to R378, R408, R409), and what ports whose light moves or that go down leave (R35, R36,
R200, R205, R219, R222). -/

namespace Sys2Proof.Machine

/-! ### Flags: the headers of pages and the messages -/

/-- The state beside the headers of pages and what leaves the module. -/
def State.unflagged (s : State) : State := { s with hdrs := [], out := [] }

theorem eq_of_unflagged {s u : State} (h : u.unflagged = s.unflagged) : u = { s with hdrs := u.hdrs, out := u.out } :=
  congrArg (fun v : State => { v with hdrs := u.hdrs, out := u.out }) h

theorem sendRise_unflagged (s : State) (i old new : Nat) : (s.sendRise i old new).unflagged = s.unflagged := by
  unfold State.sendRise
  split
  · refine foldl_kept State.unflagged (fun u v => ?_) _ _
    split
    · unfold State.slotVector
      split <;> rfl
    · rfl
  · dsimp only
    split <;> rfl

theorem raise_unflagged (s : State) (i bits : Nat) : (s.raise i bits).unflagged = s.unflagged := by
  unfold State.raise
  split
  · exact (sendRise_unflagged _ _ _ _).trans rfl
  · rfl

/-- Raising flags changes headers and sends messages, and nothing else. -/
theorem raise_eq (s : State) (i bits : Nat) :
    s.raise i bits = { s with hdrs := (s.raise i bits).hdrs, out := (s.raise i bits).out } := eq_of_unflagged (raise_unflagged s i bits)

theorem push_unflagged (s : State) (kind value : Nat) : (s.push kind value).unflagged = s.unflagged := by
  refine foldl_kept State.unflagged (fun u c => ?_) _ s
  split <;> rfl

theorem latchErr_unflagged (s : State) (i cls code : Nat) (ctx : Option (Nat × Nat)) (info : Nat) :
    (s.latchErr i cls code ctx info).unflagged = s.unflagged := by
  unfold State.latchErr
  split <;> rfl

/-! ### Records -/

/-- The record that `logRas` writes. -/
def State.rasRecord (s : State) (page cls code : Nat) (ctx : Option Nat) (info : Nat) : RasRec :=
  { time := s.clk.time, seq := s.ras.produced, page, cls, code, ctx := ctx.map (fun c => (c, (s.ctx c).gen))
    routed := bit s.ras.mask cls || decide (code = 1 ∨ code = 2), info }

/-- A record enters the log while firmware runs; beside it flags are raised and messages sent. -/
theorem logRas_unflagged_of_running {s : State} (hrunning : s.running = true) (page cls code : Nat) (ctx : Option Nat) (info : Nat) :
    (s.logRas page cls code ctx info).unflagged = { s.unflagged with
      ras := { s.ras with log := (s.rasRecord page cls code ctx info :: s.ras.log).take 1024, produced := s.ras.produced + 1 } } := by
  simp only [State.logRas, hrunning, Bool.not_true, Bool.false_eq_true, if_false, push_unflagged, raise_unflagged, latchErr_unflagged]
  rfl

theorem logRas_of_not_running {s : State} (hrunning : s.running = false) (page cls code : Nat) (ctx : Option Nat) (info : Nat) :
    s.logRas page cls code ctx info = s := by
  simp only [State.logRas, hrunning, Bool.not_false, if_true]

/-- The state beside the headers of pages, what leaves the module, and the log of records. -/
def State.unrecorded (s : State) : State := { s with hdrs := [], out := [], ras := { s.ras with log := [], produced := 0 } }

theorem raise_unrecorded (s : State) (i bits : Nat) : (s.raise i bits).unrecorded = s.unrecorded := by
  rw [raise_eq]
  rfl

theorem logRas_unrecorded (s : State) (page cls code : Nat) (ctx : Option Nat) (info : Nat) :
    (s.logRas page cls code ctx info).unrecorded = s.unrecorded := by
  cases hrunning : s.running with
  | true =>
    exact congrArg (fun v : State => { v with ras := { v.ras with log := [], produced := 0 } })
      (logRas_unflagged_of_running hrunning page cls code ctx info)
  | false => rw [logRas_of_not_running hrunning]

/-- A record that is written while firmware runs is in the log. -/
theorem mem_log_of_running {s : State} (hrunning : s.running = true) (page cls code : Nat) (ctx : Option Nat) (info : Nat) :
    ∃ x ∈ (s.logRas page cls code ctx info).ras.log, x.code = code := by
  have hlog : (s.logRas page cls code ctx info).ras.log = (s.rasRecord page cls code ctx info :: s.ras.log).take 1024 :=
    congrArg (·.ras.log) (logRas_unflagged_of_running hrunning page cls code ctx info)
  rw [hlog]
  exact ⟨_, List.mem_cons_self, rfl⟩

section
variable (s : State) (page cls code : Nat) (ctx : Option Nat) (info : Nat)

@[simp] theorem logRas_pwr : (s.logRas page cls code ctx info).pwr = s.pwr := congrArg (·.pwr) (logRas_unrecorded s page cls code ctx info)

@[simp] theorem logRas_pins : (s.logRas page cls code ctx info).pins = s.pins := congrArg (·.pins) (logRas_unrecorded s page cls code ctx info)

@[simp] theorem logRas_sec : (s.logRas page cls code ctx info).sec = s.sec := congrArg (·.sec) (logRas_unrecorded s page cls code ctx info)

@[simp] theorem logRas_boot : (s.logRas page cls code ctx info).boot = s.boot := congrArg (·.boot) (logRas_unrecorded s page cls code ctx info)

@[simp] theorem logRas_clk : (s.logRas page cls code ctx info).clk = s.clk := congrArg (·.clk) (logRas_unrecorded s page cls code ctx info)

@[simp] theorem logRas_ports : (s.logRas page cls code ctx info).ports = s.ports := congrArg (·.ports) (logRas_unrecorded s page cls code ctx info)

end

section
variable (s : State) (i bits : Nat)

@[simp] theorem raise_pwr : (s.raise i bits).pwr = s.pwr := congrArg (·.pwr) (raise_unflagged s i bits)

@[simp] theorem raise_ras : (s.raise i bits).ras = s.ras := congrArg (·.ras) (raise_unflagged s i bits)

@[simp] theorem raise_ports : (s.raise i bits).ports = s.ports := congrArg (·.ports) (raise_unflagged s i bits)

@[simp] theorem raise_port (q : Nat) : (s.raise i bits).port q = s.port q := congrArg (tget ({} : Port) · q) (raise_ports s i bits)

@[simp] theorem raise_clk : (s.raise i bits).clk = s.clk := congrArg (·.clk) (raise_unflagged s i bits)

@[simp] theorem raise_boot : (s.raise i bits).boot = s.boot := congrArg (·.boot) (raise_unflagged s i bits)

end

@[simp] theorem logRas_port (s : State) (page cls code : Nat) (ctx : Option Nat) (info q : Nat) :
    (s.logRas page cls code ctx info).port q = s.port q := congrArg (tget ({} : Port) · q) (logRas_ports s page cls code ctx info)

/-! ### What ports leave whose light moves or that go down -/

/-- The state beside the ports, what device time follows, headers, messages, the log of records and draws. -/
def State.offLinks (s : State) : State :=
  { s.unrecorded with clk := { s.clk with locked := false, stepNext := false, free := false }, ports := [], free := 0 }

theorem offLinks_of_unrecorded {s u : State} (h : u.unrecorded = s.unrecorded) : u.offLinks = s.offLinks :=
  congrArg (fun v : State => { v with clk := { v.clk with locked := false, stepNext := false, free := false }, ports := [], free := 0 }) h

theorem raise_offLinks (s : State) (i bits : Nat) : (s.raise i bits).offLinks = s.offLinks :=
  offLinks_of_unrecorded (raise_unrecorded s i bits)

theorem logRas_offLinks (s : State) (page cls code : Nat) (ctx : Option Nat) (info : Nat) :
    (s.logRas page cls code ctx info).offLinks = s.offLinks := offLinks_of_unrecorded (logRas_unrecorded s page cls code ctx info)

theorem countFec_offLinks (s : State) (q : Nat) : (s.countFec q).offLinks = s.offLinks := by
  unfold State.countFec
  split
  · rfl
  · refine foldl_kept State.offLinks (fun u l => ?_) _ s
    rfl

theorem moveLight_offLinks (s : State) (q u : Nat) : (s.moveLight q u).offLinks = s.offLinks :=
  ((logRas_offLinks _ _ _ _ _ _).trans (raise_offLinks _ _ _)).trans rfl

theorem shiftLight_offLinks (s : State) : s.shiftLight.offLinks = s.offLinks := by
  refine foldl_kept State.offLinks (fun u q => ?_) _ s
  split
  · rfl
  · split
    · split
      · rfl
      · exact moveLight_offLinks _ _ _
    · rfl

/-- A port that goes down, when its parent's part in device time is settled. -/
theorem portDrop_offLinks (s : State) (q : Nat) : (s.portDrop q).offLinks = s.offLinks := by
  unfold State.portDrop
  extract_lets v p up all p' w clk free x y
  have hcount : v.offLinks = s.offLinks := countFec_offLinks s q
  split
  · exact hcount
  · have htime : x.offLinks = s.offLinks := by
      unfold x
      split
      · split
        · exact ((raise_offLinks _ _ _).trans rfl).trans hcount
        · exact hcount
      · exact hcount
    split
    · exact ((logRas_offLinks _ _ _ _ _ _).trans (raise_offLinks _ _ _)).trans htime
    · exact (raise_offLinks _ _ _).trans htime

theorem portDown_offLinks (s : State) (q : Nat) : (s.portDown q).offLinks = s.offLinks := by
  unfold State.portDown
  split
  · exact (shiftLight_offLinks _).trans (portDrop_offLinks s q)
  · exact portDrop_offLinks s q

theorem portsDown_offLinks (s : State) : s.portsDown.offLinks = s.offLinks :=
  (shiftLight_offLinks _).trans (foldl_kept State.offLinks portDrop_offLinks _ s)

end Sys2Proof.Machine
end

section
/-! PROOFS. Security events, laser units and reference clocks (R25 to R41, R249, R269, R350, R351, R392, R405): what each command does where
its condition holds; O6 to O8. -/

namespace Sys2Proof.Machine

open Claims

/-! ### Function resets, tamper, battery, entropy -/

theorem flrVf_gives (slot : Nat) (hslot : slot < 64) : Gives (.flrVf · slot) (fun s => s.hostUp = true ∧ s.bound slot = true)
    (fun s => (s.setHdr (pgCtx slot) { s.hdr (pgCtx slot) with stat := 0, en := none }).quench slot) :=
  fun _ _ ⟨hup, hbound⟩ => if_pos ⟨hup, hbound, hslot⟩

theorem flrPf0_gives : Gives .flrPf0 (fun s => s.hostUp = true) (fun s => s.hostReset) :=
  fun _ _ hup => congrArg Host.Outcome.next (if_pos hup)

/-- A package reset while no life-cycle transition waits keeps the security controller but for its waits, its entropy source and the
debug sessions of this boot (R350, R382). -/
theorem packageReset_sec_of_none {s : State} (hpending : s.sec.pending = none) (cause : Nat) :
    (s.packageReset cause).sec = { s.sec with trngOk := true, waits := [], debugBoot := 0, debugFirst := 0 } := by
  rw [State.packageReset, transition_of_none hpending]

/-- Tamper on a powered module: what it leaves after the fuse, the ports and the package reset (R351). -/
theorem tamperRest_leaves {s : State} (hpending : s.sec.pending = none) :
    s.tamperRest.sec = { s.sec with fuse := true, trngOk := true, waits := [], debugBoot := 0, debugFirst := 0 }
    ∧ s.tamperRest.mem = { host := s.mem.host } ∧ s.tamperRest.ctxs = [] ∧ s.tamperRest.ports = []
    ∧ s.tamperRest.pins.ledTamper = true ∧ s.tamperRest.ident.serial = s.ident.serial := by
  unfold State.tamperRest
  extract_lets m p c w v
  have hdown : v.offLinks = w.offLinks := portsDown_offLinks w
  clear_value v
  have hsec : v.sec = w.sec := congrArg (·.sec) hdown
  have hmem : v.mem = w.mem := congrArg (·.mem) hdown
  have hpins : v.pins = w.pins := congrArg (·.pins) hdown
  have hident : v.ident = w.ident := congrArg (·.ident) hdown
  have hnone : v.sec.pending = none := by rw [hsec]; exact hpending
  refine ⟨?_, ?_, rfl, rfl, ?_, ?_⟩
  · rw [packageReset_sec_of_none hnone, hsec]
  · simp only [State.packageReset, transition_of_none hnone, hmem]
    rfl
  · simp only [State.packageReset, transition_of_none hnone, hpins]
    rfl
  · simp only [State.packageReset, transition_of_none hnone, hident]
    rfl

theorem tamper_reaches (src : TamperSource) : Reaches (.tamper · src) (fun s => s.powered = true) (fun s u =>
    u.sec.root = none ∧ u.sec.domain = none ∧ u.sec.anchor = none ∧ u.sec.latch = true ∧ u.sec.fuse = true
    ∧ u.sec.source = some src ∧ u.sec.pending = none ∧ u.mem = { host := s.mem.host } ∧ u.ctxs = [] ∧ u.ports = []
    ∧ u.pins.ledTamper = true ∧ u.ident.serial = s.ident.serial) := by
  intro t s hpowered
  refine ⟨_, congrArg Host.Outcome.next (if_pos hpowered), ?_⟩
  obtain ⟨hsec, hmem, hctxs, hports, hled, hserial⟩ := tamperRest_leaves (s := (s.tick t).tamperRoots src) rfl
  rw [hsec]
  exact ⟨rfl, rfl, rfl, rfl, rfl, rfl, rfl, hmem, hctxs, hports, hled, hserial⟩

theorem tamper_gives_of_unpowered (src : TamperSource) : Gives (.tamper · src) (fun s => s.powered = false)
    (fun s => { s with sec := { s.sec with root := none, domain := none, anchor := none, latch := true, source := some src,
                                           pending := none } }) :=
  fun _ _ hoff => congrArg Host.Outcome.next (if_neg (ne_true_of_eq_false hoff))

theorem batteryLow_gives (months : Nat) (hlow : months < 6) : Gives (.batteryLow · months) (fun _ => True)
    (fun s => State.tellBattery { s with sec := { s.sec with months, batteryLow := true, batteryTold := false } }) :=
  fun _ _ _ => if_pos hlow

/-- While firmware runs the event is told at once, by record 0x58 (R29). -/
theorem batteryLow_gives_of_running (months : Nat) (hlow : months < 6) : Gives (.batteryLow · months) (fun s => s.running = true)
    (fun s => { s with sec := { s.sec with months, batteryLow := true, batteryTold := true } }.logRas pgRas 5 0x58 none months) :=
  fun t s hrunning => (batteryLow_gives months hlow t s trivial).trans (congrArg Host.Outcome.next (if_pos hrunning))

theorem trngHealthFail_gives : Gives .trngHealthFail (fun s => s.powered = true)
    (fun s => { s with sec := { s.sec with trngOk := false } }.logRas pgRas 7 0x70 none 0) :=
  fun _ _ hpowered => if_pos hpowered

/-! ### What waited for fresh values and fails (R350) -/

/-- The state without a wait for fresh values. -/
def State.dropWait (s : State) (a : Nat) (w : Wait) : State :=
  { s with sec := { s.sec with waits := s.sec.waits.filter (fun x => x ≠ (a, w)) } }

/-- What has waited for 1 s fails. -/
theorem freshValueTimeout_gives (wait a : Nat) (w : Wait) : Gives (.freshValueTimeout · wait)
    (fun s => s.sec.waits[wait]? = some (a, w) ∧ a + 1000000000 ≤ s.clk.now) (fun s => (s.dropWait a w).failFresh w) := by
  rintro t s ⟨hwait, hdue⟩
  change execFreshValueTimeout t wait s = _
  simp only [execFreshValueTimeout, hwait]
  exact if_neg (Nat.not_lt.mpr hdue)

theorem freshValueTimeout_create (wait a slot : Nat) : Reaches (.freshValueTimeout · wait)
    (fun s => s.sec.waits[wait]? = some (a, .create slot) ∧ a + 1000000000 ≤ s.clk.now) (fun s u =>
    u = { s with sec := { s.sec with waits := s.sec.waits.filter (fun x => x ≠ (a, .create slot)) }, free := s.free + 1
                 ctxs := u.ctxs }
    ∧ (u.ctx slot) = { s.ctx slot with createErr := (u.ctx slot).createErr } ∧ (u.ctx slot).createErr ≠ 0
    ∧ ∀ c, c ≠ slot → u.ctx c = s.ctx c) := by
  intro t s hdue
  refine ⟨_, freshValueTimeout_gives wait a (.create slot) t s hdue, rfl, ?_⟩
  simp only [State.failFresh, ctx_modCtx_same]
  refine ⟨rfl, ?_, fun c hc => ctx_modCtx_other _ _ _ _ hc⟩
  omega

theorem freshValueTimeout_hello (wait a port : Nat) : Reaches (.freshValueTimeout · wait)
    (fun s => s.sec.waits[wait]? = some (a, .hello port) ∧ a + 1000000000 ≤ s.clk.now) (fun s u =>
    (u.port port).st = 4 ∧ (u.port port).retryAt = s.clk.now + 1000000000
    ∧ (∀ p, p ≠ port → u.port p = s.port p) ∧ u.mem = s.mem ∧ u.ctxs = s.ctxs) := by
  intro t s hdue
  refine ⟨_, freshValueTimeout_gives wait a (.hello port) t s hdue, ?_⟩
  simp only [State.failFresh, raise_port, raise_mem, raise_ctxs, port_setPort_same]
  exact ⟨trivial, rfl, fun p hp => port_setPort_other _ _ _ _ hp, rfl, rfl⟩

theorem freshValueTimeout_domain (wait a : Nat) (m : Call) : Reaches (.freshValueTimeout · wait)
    (fun s => s.sec.waits[wait]? = some (a, .domain m) ∧ a + 1000000000 ≤ s.clk.now) (fun s u =>
    ∃ code : Nat, code ≠ resOk ∧ u = State.respond { s with
      sec := { s.sec with waits := s.sec.waits.filter (fun x => x ≠ (a, .domain m)) }, free := s.free + 1 } m code) :=
  fun t s hdue => ⟨_, freshValueTimeout_gives wait a (.domain m) t s hdue, 1 + Config.value (s.tick t).free % 7,
    Nat.add_comm 1 _ ▸ Nat.succ_ne_zero _, rfl⟩

/-- Settles O6, from what each of the commands does. -/
theorem securityEventCommands : Obligations.SecurityEventCommands :=
  ⟨flrVf_gives, flrPf0_gives, tamper_reaches, tamper_gives_of_unpowered, batteryLow_gives, batteryLow_gives_of_running,
    trngHealthFail_gives, fun wait a => freshValueTimeout_gives wait a .anneal, freshValueTimeout_create, freshValueTimeout_hello,
    freshValueTimeout_domain, fun wait a port => freshValueTimeout_gives wait a (.rekey port),
    fun wait a => freshValueTimeout_gives wait a .boot⟩

/-! ### Laser units (R34 to R37) -/

theorem laserUnitFail_reaches (unit : Nat) (hunit : unit < 2) : Reaches (.laserUnitFail · unit)
    (fun s => (s.laser unit).present = true) (fun s u =>
      ∃ p : Bool, u = ({ s with free := s.free + 1 } : State).darken unit { s.laser unit with
        present := p, healthy := false, emitting := false, power := 0 }) :=
  fun t s hpresent => ⟨_, if_pos ⟨hunit, hpresent⟩, decide (Config.value (s.tick t).free % 2 = 1), rfl⟩

theorem laserLatchOpen_gives (unit : Nat) (hunit : unit < 2) : Gives (.laserLatchOpen · unit) (fun _ => True)
    (fun s => s.darken unit { s.laser unit with emitting := false, power := 0, latchOpen := true }) :=
  fun _ _ _ => if_pos hunit

theorem laserSafeToRemove_gives (unit : Nat) (hunit : unit < 2) : Gives (.laserSafeToRemove · unit)
    (fun s => (s.laser unit).released = true ∧ ∀ q ∈ s.portList, s.feeds q ≠ some unit ∧ (s.port q).moving = false)
    (fun s => s.setLaser unit { s.laser unit with safe := true, amber := true }) := by
  rintro t s ⟨hreleased, hdark⟩
  refine if_pos ⟨hunit, hreleased, List.all_eq_true.mpr fun q hq => ?_⟩
  obtain ⟨hfeeds, hmoving⟩ := hdark q hq
  rw [hmoving, Bool.not_false, Bool.and_true]
  exact decide_eq_true hfeeds

/-- The note of which unit feeds each port touches the ports alone. -/
theorem pinLight_powered (s : State) : s.pinLight.powered = s.powered := by
  refine foldl_kept State.powered (fun u q => ?_) s.portList s
  rfl

theorem laserUnitInsert_gives (unit : Nat) (healthy : Bool) (hunit : unit < 2) : Gives (.laserUnitInsert · unit healthy) (fun _ => True)
    (fun s => (s.pinLight.setLaser unit { present := true, healthy, emitting := healthy && s.powered }).shiftLight) := by
  intro t s _
  dsimp only
  rw [← pinLight_powered]
  exact if_pos hunit

/-- Settles O7, from what each of the four commands does. -/
theorem laserCommands : Obligations.LaserCommands :=
  ⟨laserUnitFail_reaches, laserLatchOpen_gives, laserSafeToRemove_gives, laserUnitInsert_gives⟩

/-! ### Reference clocks (R41, R392) -/

theorem refclkLinkLost_gives : Gives .refclkLinkLost (fun s => s.powered = true ∧ s.clk.held = false) (fun s =>
    ((({ s.portsDown with clk := { s.portsDown.clk with
      held := true, locked := false, stepNext := true, free := s.clk.free } } : State).raise
      pgPwrclk 8).logRas pgPwrclk 5 0x57 none 0)) :=
  fun _ _ ⟨hpowered, hrunning⟩ => if_pos ⟨hpowered, by rw [hrunning]; rfl⟩

theorem refclkLinkReturn_gives : Gives .refclkLinkReturn (fun s => s.clk.held = true) (fun s =>
    (({ s with clk := { s.clk with held := false } } : State).raise pgPwrclk 8).logRas pgPwrclk 5 0x57 none 2) :=
  fun _ _ hheld => if_pos hheld

theorem refclkPcieLost_gives : Gives .refclkPcieLost (fun s => s.powered = true ∧ s.clk.pcieLost = false) (fun s =>
    ((({ s with clk := { s.clk with pcieLost := true } } : State).endpointReset).raise pgPwrclk 8).logRas pgPwrclk 5 0x57 none 1) :=
  fun _ _ ⟨hpowered, hrunning⟩ => if_pos ⟨hpowered, by rw [hrunning]; rfl⟩

theorem refclkPcieReturn_gives : Gives .refclkPcieReturn (fun s => s.clk.pcieLost = true) (fun s =>
    ((State.linkTrains { s with clk := { s.clk with pcieLost := false } }).raise pgPwrclk 8).logRas pgPwrclk 5 0x57 none 3) :=
  fun _ _ hlost => if_pos hlost

/-- Settles O8, from what each of the four commands does. -/
theorem referenceClockCommands : Obligations.ReferenceClockCommands :=
  ⟨refclkLinkLost_gives, refclkLinkReturn_gives, refclkPcieLost_gives, refclkPcieReturn_gives⟩

end Sys2Proof.Machine
end

section
/-! PROOFS. The supply rails (R16, R388, R389, R398): excursions, the reset level, rails that are in regulation again; O9. -/

namespace Sys2Proof.Machine

open Claims

/-! ### The note of module-wide throttling leaves the rest -/

section
variable (s : State)

@[simp] theorem noteThrottle_rails : s.noteThrottle.pwr.rails = s.pwr.rails := congrArg (·.pwr.rails) (noteThrottle_leaves s).1

@[simp] theorem noteThrottle_hold : s.noteThrottle.pwr.hold = s.pwr.hold := congrArg (·.pwr.hold) (noteThrottle_leaves s).1

@[simp] theorem noteThrottle_mem : s.noteThrottle.mem = s.mem := congrArg (·.mem) (noteThrottle_leaves s).1

@[simp] theorem noteThrottle_ctxs : s.noteThrottle.ctxs = s.ctxs := congrArg (·.ctxs) (noteThrottle_leaves s).1

@[simp] theorem noteThrottle_cores : s.noteThrottle.cores = s.cores := congrArg (·.cores) (noteThrottle_leaves s).1

@[simp] theorem noteThrottle_ports : s.noteThrottle.ports = s.ports := congrArg (·.ports) (noteThrottle_leaves s).1

@[simp] theorem noteThrottle_running : s.noteThrottle.running = s.running := by
  have hboot : s.noteThrottle.boot = s.boot := congrArg (·.boot) (noteThrottle_leaves s).1
  rw [State.running, hboot, State.running]

end

@[simp] theorem raise_cores (s : State) (i bits : Nat) : (s.raise i bits).cores = s.cores := congrArg (·.cores) (raise_unflagged s i bits)

@[simp] theorem logRas_cores (s : State) (page cls code : Nat) (ctx : Option Nat) (info : Nat) :
    (s.logRas page cls code ctx info).cores = s.cores := congrArg (·.cores) (logRas_unrecorded s page cls code ctx info)

/-- A rail depends on the table of rails alone. -/
theorem rail_of_rails {s u : State} (h : u.pwr.rails = s.pwr.rails) (r : Nat) : u.rail r = s.rail r := congrArg (tget ({} : Rail) · r) h

/-! ### Excursions (R389) -/

/-- The state with a rail below its warning level: issue is held. -/
def State.sagged (s : State) (rail mv : Nat) : State :=
  State.setRail { s with pwr := { s.pwr with hold := true } } rail { s.rail rail with
    st := 1, mv, excursions := satAdd 16 (s.rail rail).excursions 1, at_ := s.clk.now }

/-- The state with a rail above its warning level again: issue is held while another rail is below. -/
def State.recovered (s : State) (rail mv : Nat) : State :=
  let u := s.setRail rail { s.rail rail with st := 0, mv }
  { u with pwr := { u.pwr with hold := (List.range 16).any (fun i => (u.rail i).st = 1) } }

section
variable (s : State) (rail mv : Nat)

theorem rail_sagged_same : (s.sagged rail mv).rail rail = { s.rail rail with
    st := 1, mv, excursions := satAdd 16 (s.rail rail).excursions 1, at_ := s.clk.now } :=
  rail_setRail_same _ rail _

theorem rail_sagged_other {r : Nat} (hr : r ≠ rail) : (s.sagged rail mv).rail r = s.rail r :=
  rail_setRail_other _ rail r _ hr

theorem rail_recovered_same : (s.recovered rail mv).rail rail = { s.rail rail with st := 0, mv } := rail_setRail_same s rail _

theorem rail_recovered_other {r : Nat} (hr : r ≠ rail) : (s.recovered rail mv).rail r = s.rail r := rail_setRail_other s rail r _ hr

/-- Issue is held while a rail is below its warning level (R389). -/
theorem recovered_hold : (s.recovered rail mv).pwr.hold = true ↔ ∃ r < 16, ((s.recovered rail mv).rail r).st = 1 :=
  List.any_eq_true.trans (exists_congr fun _ => and_congr List.mem_range decide_eq_true_iff)

end

theorem railExcursion_gives_of_above (rail mv : Nat) : Gives (.railExcursion · rail mv)
    (fun s => s.powered = true ∧ s.railPresent rail = true ∧ (s.rail rail).st ≠ 1)
    (fun s => (s.sagged rail mv).noteThrottle.raise pgPwrclk 1) :=
  fun _ _ ⟨hpowered, hpresent, habove⟩ => (if_pos ⟨hpowered, hpresent⟩).trans (if_neg habove)

theorem railExcursion_reaches (rail mv : Nat) : Reaches (.railExcursion · rail mv)
    (fun s => s.powered = true ∧ s.railPresent rail = true ∧ (s.rail rail).st ≠ 1) (fun s u =>
    u.rail rail = { s.rail rail with
      st := 1, mv, excursions := satAdd 16 (s.rail rail).excursions 1, at_ := s.clk.now }
    ∧ u.pwr.hold = true ∧ (∀ r, r ≠ rail → u.rail r = s.rail r)
    ∧ u.mem = s.mem ∧ u.ctxs = s.ctxs ∧ u.cores = s.cores ∧ u.ports = s.ports) := by
  intro t s hcond
  refine ⟨_, railExcursion_gives_of_above rail mv t s hcond, ?_⟩
  have hrail (r : Nat) : (((s.tick t).sagged rail mv).noteThrottle.raise pgPwrclk 1).rail r = ((s.tick t).sagged rail mv).rail r :=
    rail_of_rails (by rw [raise_pwr, noteThrottle_rails]) r
  simp only [hrail, raise_pwr, raise_mem, raise_ctxs, raise_cores, raise_ports, noteThrottle_hold, noteThrottle_mem,
    noteThrottle_ctxs, noteThrottle_cores, noteThrottle_ports]
  exact ⟨rail_sagged_same _ _ _, rfl, fun r hr => rail_sagged_other _ _ _ hr, rfl, rfl, rfl, rfl⟩

/-- While an excursion lasts, a further one only measures. -/
theorem railExcursion_gives_of_below (rail mv : Nat) : Gives (.railExcursion · rail mv)
    (fun s => s.powered = true ∧ s.railPresent rail = true ∧ (s.rail rail).st = 1)
    (fun s => s.setRail rail { s.rail rail with mv }) :=
  fun _ _ ⟨hpowered, hpresent, hbelow⟩ => (if_pos ⟨hpowered, hpresent⟩).trans (if_pos hbelow)

theorem railExcursionEnd_gives (rail mv : Nat) : Gives (.railExcursionEnd · rail mv)
    (fun s => s.railPresent rail = true ∧ (s.rail rail).st = 1)
    (fun s => (s.recovered rail mv).noteThrottle.logRas pgPwrclk 5 0x50 none
      (rail + ((s.clk.now - 20000 - (s.rail rail).at_) % 2 ^ 32) * 2 ^ 32)) :=
  fun _ _ hbelow => if_pos hbelow

theorem railExcursionEnd_reaches (rail mv : Nat) : Reaches (.railExcursionEnd · rail mv)
    (fun s => s.railPresent rail = true ∧ (s.rail rail).st = 1) (fun s u =>
    u.rail rail = { s.rail rail with st := 0, mv } ∧ (∀ r, r ≠ rail → u.rail r = s.rail r)
    ∧ (u.pwr.hold = true ↔ ∃ r < 16, (u.rail r).st = 1)
    ∧ u.mem = s.mem ∧ u.ctxs = s.ctxs ∧ u.cores = s.cores ∧ u.ports = s.ports) := by
  intro t s hcond
  refine ⟨_, railExcursionEnd_gives rail mv t s hcond, ?_⟩
  have hrail (info r : Nat) : (((s.tick t).recovered rail mv).noteThrottle.logRas pgPwrclk 5 0x50 none info).rail r
      = ((s.tick t).recovered rail mv).rail r := rail_of_rails (by rw [logRas_pwr, noteThrottle_rails]) r
  simp only [hrail, logRas_pwr, logRas_mem, logRas_ctxs, logRas_cores, logRas_ports, noteThrottle_hold, noteThrottle_mem,
    noteThrottle_ctxs, noteThrottle_cores, noteThrottle_ports]
  exact ⟨rail_recovered_same _ _ _, fun r hr => rail_recovered_other _ _ _ hr, recovered_hold _ _ _, rfl, rfl, rfl, rfl⟩

/-! ### The reset level (R16, R388) -/

section
variable (rail : Nat)

/-- The state with a rail at its reset level, recorded, and MOD_PWRGD taken low. -/
def State.railLow (s : State) (rail : Nat) : State :=
  let u := s.logRas pgPwrclk 5 0x51 none rail
  (u.setRail rail { u.rail rail with resetLevel := true }).regulate

theorem railResetLevel_gives_of_compute (hrail : rail < 8) : Gives (.railResetLevel · rail)
    (fun s => s.powered = true ∧ s.railPresent rail = true) (fun s => (s.railLow rail).cpStart causeRail) :=
  fun _ _ hpresent => (if_pos hpresent).trans (if_pos hrail)

theorem railResetLevel_gives_of_photonic : Gives (.railResetLevel · 14)
    (fun s => s.powered = true ∧ s.railPresent 14 = true) (fun s => (s.railLow 14).portsDown) :=
  fun _ _ hpresent => (if_pos hpresent).trans ((if_neg (by decide)).trans (if_pos rfl))

theorem railResetLevel_gives_of_package (hrail : 8 ≤ rail) (hother : rail ≠ 14) : Gives (.railResetLevel · rail)
    (fun s => s.powered = true ∧ s.railPresent rail = true) (fun s => (s.railLow rail).packageReset causeRail) :=
  fun _ _ hpresent => (if_pos hpresent).trans ((if_neg (Nat.not_lt.mpr hrail)).trans (if_neg hother))

end

/-! ### Rails that are in regulation again (R388, log 104) -/

/-- One rail is in regulation again where it is chosen. -/
def State.railBack (p : Nat → Bool) (s : State) (r : Nat) : State :=
  if p r && (s.rail r).resetLevel then s.setRail r { s.rail r with resetLevel := false } else s

theorem railsBack_eq (s : State) (p : Nat → Bool) : s.railsBack p = ((List.range 16).foldl (State.railBack p) s).regulate := rfl

theorem regulated_of_false {x : Rail} (h : x.resetLevel = false) : x = { x with resetLevel := false } := by rw [← h]

theorem rail_railBack_same {p : Nat → Bool} {r : Nat} (hp : p r = true) (s : State) :
    (s.railBack p r).rail r = { s.rail r with resetLevel := false } := by
  unfold State.railBack
  rw [hp, Bool.true_and]
  split
  · exact rail_setRail_same _ _ _
  next h => exact regulated_of_false (eq_false_of_ne_true h)

theorem rail_railBack_of_ne {p : Nat → Bool} {r k : Nat} (hk : k ≠ r) (s : State) : (s.railBack p r).rail k = s.rail k := by
  unfold State.railBack
  split
  · exact rail_setRail_other _ _ _ _ hk
  · rfl

theorem rail_railBack_of_not {p : Nat → Bool} {k : Nat} (hp : p k = false) (s : State) (r : Nat) :
    (s.railBack p r).rail k = s.rail k := by
  by_cases hk : k = r
  · subst hk
    simp only [State.railBack, hp, Bool.false_and, Bool.false_eq_true, if_false]
  · exact rail_railBack_of_ne hk s

/-- A rail that is not chosen stays as it is. -/
theorem rail_railsBack_of_not {p : Nat → Bool} {k : Nat} (hp : p k = false) (s : State) : (s.railsBack p).rail k = s.rail k :=
  foldl_kept (fun u : State => u.rail k) (rail_railBack_of_not hp) (List.range 16) s

/-- What one step of a fold brings about, and no other undoes, holds after the fold. -/
theorem foldl_brings {σ α : Type} {f : σ → α → σ} {Before After : σ → Prop} {l : List α} {b : α} (hb : b ∈ l)
    (hbefore : ∀ s a, Before s → Before (f s a)) (hstep : ∀ s, Before s → After (f s b)) (hafter : ∀ s a, After s → After (f s a))
    {s : σ} (hs : Before s) : After (l.foldl f s) := by
  induction l generalizing s with
  | nil => exact absurd hb List.not_mem_nil
  | cons a l ih =>
    rcases List.mem_cons.mp hb with rfl | hb
    · exact List.foldlRecOn l f (hstep s hs) fun u hu c _ => hafter u c hu
    · exact ih hb (hbefore s a hs)

theorem rail_railsBack_of_chosen {p : Nat → Bool} {k : Nat} (hp : p k = true) (hk : k < 16) (s : State) :
    (s.railsBack p).rail k = { s.rail k with resetLevel := false } := by
  have hkept (u : State) (r : Nat) (hu : { u.rail k with resetLevel := false } = { s.rail k with resetLevel := false }) :
      { (u.railBack p r).rail k with resetLevel := false } = { s.rail k with resetLevel := false } := by
    by_cases hr : k = r
    · subst hr
      rw [rail_railBack_same hp]
      exact hu
    · rwa [rail_railBack_of_ne hr]
  refine foldl_brings (f := State.railBack p) (After := fun u => u.rail k = { s.rail k with resetLevel := false })
    (List.mem_range.mpr hk) hkept (fun u hu => (rail_railBack_same hp u).trans hu) (fun u r hu => ?_) rfl
  by_cases hr : k = r
  · subst hr
    rw [rail_railBack_same hp, hu]
  · rwa [rail_railBack_of_ne hr]

/-- Rails that are in regulation again change the rails and MOD_PWRGD alone. -/
theorem railsBack_leaves (s : State) (p : Nat → Bool) : s.railsBack p = { s with
    pwr := { s.pwr with rails := (s.railsBack p).pwr.rails }, pins := { s.pins with pwrgd := (s.railsBack p).pins.pwrgd } } := by
  have hfold : ((List.range 16).foldl (State.railBack p) s) = { s with
      pwr := { s.pwr with rails := ((List.range 16).foldl (State.railBack p) s).pwr.rails } } := by
    refine List.foldlRecOn (List.range 16) (State.railBack p) (b := s)
      (motive := fun u => u = { s with pwr := { s.pwr with rails := u.pwr.rails } }) rfl fun u hu r _ => ?_
    unfold State.railBack
    split
    · rw [hu]
      rfl
    · exact hu
  rw [railsBack_eq, hfold]
  rfl

/-- MOD_PWRGD is high while power is there, the rails are on and every rail is in regulation (R16). -/
theorem regulate_pwrgd (s : State) : s.regulate.pins.pwrgd = true ↔
    s.boot ≠ .off ∧ s.boot ≠ .tripHeld ∧ ∀ r ∈ s.pwr.rails, r.2.resetLevel = false := by
  simp only [State.regulate, Bool.and_eq_true, decide_eq_true_eq, List.all_eq_true, Bool.not_eq_true', and_assoc]

theorem photonicRailRecover_reaches : Reaches .photonicRailRecover (fun _ => True) (fun s u =>
    u.rail 14 = { s.rail 14 with resetLevel := false } ∧ (∀ r, r ≠ 14 → u.rail r = s.rail r)
    ∧ u = { s with pwr := { s.pwr with rails := u.pwr.rails }, pins := { s.pins with pwrgd := u.pins.pwrgd } }
    ∧ (u.pins.pwrgd = true ↔
        s.boot ≠ .off ∧ s.boot ≠ .tripHeld ∧ ∀ r ∈ u.pwr.rails, r.2.resetLevel = false)) := by
  intro t s _
  have hleaves := railsBack_leaves (s.tick t) (fun r => decide (r = 14))
  refine ⟨_, rfl, rail_railsBack_of_chosen (by rfl) (by decide) _, fun r hr => rail_railsBack_of_not (decide_eq_false hr) _, hleaves, ?_⟩
  have hboot : ((s.tick t).railsBack fun r => decide (r = 14)).boot = (s.tick t).boot := by
    rw [hleaves]
  rw [← hboot]
  exact regulate_pwrgd _

/-- Settles O9, from what each of the commands does. -/
theorem railCommands : Obligations.RailCommands :=
  ⟨railExcursion_reaches, railExcursion_gives_of_below, railExcursionEnd_reaches, railResetLevel_gives_of_compute,
    railResetLevel_gives_of_photonic, railResetLevel_gives_of_package, photonicRailRecover_reaches⟩

end Sys2Proof.Machine
end

section
/-! PROOFS. What cores that save, take up or lose work leave of the supply (R150, R154, R283, R287, R390 to R393, R395): a region's drain
and its return, and the start of a compute-part reset (R383). -/

namespace Sys2Proof.Machine

/-! ### The pool -/

/-- The state but for what is beside memory's marks, the ends of contexts and the note of throttling. -/
def State.offPool (s : State) : State := { s.apart with epoch := {} }

theorem offPool_of_apart {s u : State} (h : u.apart = s.apart) : u.offPool = s.offPool :=
  congrArg (fun v : State => { v with epoch := {} }) h

theorem pwr_of_offPool {s u : State} (h : u.offPool = s.offPool) : u.pwr = s.pwr := congrArg (·.pwr) h

theorem boot_of_offPool {s u : State} (h : u.offPool = s.offPool) : u.boot = s.boot := congrArg (·.boot) h

theorem sweep_of_offPool {s u : State} (h : u.offPool = s.offPool) : u.ras.sweep = s.ras.sweep := congrArg (·.ras.sweep) h

theorem giveCore_apart (s : State) (k c : Nat) : (s.giveCore k c).apart = s.apart := by
  simp only [State.giveCore, settleOwed_apart, restoreWork_apart, setCore_apart, charge_apart]

/-- The cores that contexts give up and take up to meet their targets leave what is apart. -/
theorem assign_apart (s : State) (targets : List (Nat × Nat)) : (s.assign targets).apart = s.apart := by
  have hgive (v : State) (c n : Nat) : (v.giveUpTo c n).apart = v.apart := foldl_apart (fun w k => giveCore_apart w k c) _ v
  have hsave (l : List Nat) (v : State) : (l.foldl (fun s k => s.saveCore k) v).apart = v.apart := foldl_apart saveCore_apart l v
  unfold State.assign
  extract_lets want u
  refine (foldl_apart (fun v p => ?_) targets u).trans (foldl_apart (fun v c => ?_) _ s)
  · exact hgive v p.1 _
  · exact hsave _ v

theorem noteEpoch_offPool (s : State) : s.noteEpoch.offPool = s.offPool := by
  rw [noteEpoch_eq]
  rfl

theorem noteShort_offPool (s : State) (q : Nat) : (s.noteShort q).offPool = s.offPool := by
  unfold State.noteShort
  dsimp only
  rw [noteEpoch_offPool]
  split
  · exact (offPool_of_apart (raise_apart _ _ _)).trans rfl
  · rfl

@[simp] theorem rebalance_offPool (s : State) (held : List (Nat × Nat)) : (s.rebalance held).offPool = s.offPool := by
  unfold State.rebalance
  split
  · rfl
  · exact (noteShort_offPool _ _).trans (offPool_of_apart ((tidyCores_apart _).trans (assign_apart _ _)))

theorem rebalance_pwr (s : State) (held : List (Nat × Nat)) : (s.rebalance held).pwr = s.pwr :=
  pwr_of_offPool (rebalance_offPool s held)

/-! ### A sweep that goes on (R395) -/

theorem askDrain_pwr (s : State) (k : Nat) : (s.askDrain k).pwr = s.pwr := by
  unfold State.askDrain
  dsimp only
  split
  · split
    · exact raise_pwr _ _ _
    · rfl
  · rfl

theorem startTest_pwr (s : State) (k : Nat) : (s.startTest k).pwr = s.pwr := by
  unfold State.startTest
  split <;> rfl

theorem sweepLanes_pwr (s : State) : s.sweepLanes.pwr = s.pwr := by
  unfold State.sweepLanes
  split
  · refine foldl_kept State.pwr (fun u q => ?_) _ s
    dsimp only
    split <;> rfl
  · rfl

theorem sweepEnd_pwr (s : State) : s.sweepEnd.pwr = s.pwr := by
  unfold State.sweepEnd
  split <;> rfl

theorem sweepFrom_pwr (s : State) (i : Nat) : (s.sweepFrom i).pwr = s.pwr := by
  unfold State.sweepFrom
  split
  · exact (rebalance_pwr _ _).trans ((startTest_pwr _ _).trans (askDrain_pwr _ _))
  · exact (sweepEnd_pwr _).trans (sweepLanes_pwr _)

theorem logRas_sweep (s : State) (page cls code : Nat) (ctx : Option Nat) (info : Nat) :
    (s.logRas page cls code ctx info).ras.sweep = s.ras.sweep := congrArg (·.ras.sweep) (logRas_unrecorded s page cls code ctx info)

/-! ### A region that drains, and one that returns (R391, R393) -/

/-- A region without work. -/
def Region.drainedFor (g : Region) (cause now : Nat) : Region := { g with drained := cause, drainAt := now, pulling := none, okAt := none }

/-- The cores of a region save their work and leave the pool. -/
def State.emptyRegion (s : State) (r cause : Nat) : State :=
  ((regionCores r).foldl (fun s k =>
    if (s.core k).st = 0 ∨ (s.core k).st = 6 ∨ (s.core k).st = 4 then s
    else ((s.saveCore k).setCore k { (s.saveCore k).core k with st := 4, selftest := false }).raise (pgCore k) 2)
    (s.setRegion r ((s.region r).drainedFor cause s.clk.now))).tidyCores.rebalance s.heldCounts

theorem emptyRegion_offPool (s : State) (r cause : Nat) :
    (s.emptyRegion r cause).offPool = (s.setRegion r ((s.region r).drainedFor cause s.clk.now)).offPool := by
  refine (rebalance_offPool _ _).trans (offPool_of_apart ((tidyCores_apart _).trans (foldl_apart (fun u k => ?_) _ _)))
  split
  · rfl
  · rw [raise_apart, setCore_apart, saveCore_apart]

/-- The drain of a region: its cores leave the pool, record 0x54 is written, and a sweep that stood in it goes on behind it. -/
theorem drainRegion_eq (s : State) (r cause : Nat) : s.drainRegion r cause =
    let u := ((s.emptyRegion r cause).raise pgPwrclk 2).logRas pgPwrclk 5 0x54 none (r + 256 * (cause - 1))
    if u.ras.sweep && (regionCores r).contains u.ras.sweepCore then u.sweepFrom (10 * r + 10) else u := rfl

theorem drainRegion_pwr (s : State) (r cause : Nat) :
    (s.drainRegion r cause).pwr = (s.setRegion r ((s.region r).drainedFor cause s.clk.now)).pwr := by
  refine Eq.trans ?_ (pwr_of_offPool (emptyRegion_offPool s r cause))
  rw [drainRegion_eq]
  dsimp only
  split
  · rw [sweepFrom_pwr, logRas_pwr, raise_pwr]
  · rw [logRas_pwr, raise_pwr]

theorem drainRegion_region_same (s : State) (r cause : Nat) :
    (s.drainRegion r cause).region r = (s.region r).drainedFor cause s.clk.now :=
  (congrArg (fun p : Pwr => tget ({} : Region) p.regions r) (drainRegion_pwr s r cause)).trans (region_setRegion_same s r _)

/-- While firmware runs and no sweep does, the drain's record is in the log. -/
theorem drainRegion_logs {s : State} (hrunning : s.running = true) (hsweep : s.ras.sweep = false) (r cause : Nat) :
    ∃ x ∈ (s.drainRegion r cause).ras.log, x.code = 0x54 := by
  have hempty := emptyRegion_offPool s r cause
  have hon : ((s.emptyRegion r cause).raise pgPwrclk 2).running = true := by
    rw [State.running, raise_boot, boot_of_offPool hempty]
    exact hrunning
  have hlogged := mem_log_of_running hon pgPwrclk 5 0x54 none (r + 256 * (cause - 1))
  have hcalm : (((s.emptyRegion r cause).raise pgPwrclk 2).logRas pgPwrclk 5 0x54 none (r + 256 * (cause - 1))).ras.sweep = false := by
    rw [logRas_sweep, raise_ras, sweep_of_offPool hempty]
    exact hsweep
  rw [drainRegion_eq]
  dsimp only
  rw [hcalm, Bool.false_and]
  exact hlogged

/-- The state of a region that returns, before its cores do. -/
def State.regionBack (s : State) (r : Nat) : State := s.setRegion r { s.region r with drained := 0, okAt := none }

/-- Cores that return to the pool change nothing beside the cores. -/
theorem returnCores_apart (l : List Nat) (s : State) : (l.foldl (fun s k => s.returnCore k) s).apart = s.apart := by
  refine foldl_apart (fun u k => ?_) l s
  unfold State.returnCore
  dsimp only
  split <;> rfl

theorem rejoinRegion_eq (s : State) (r : Nat) : s.rejoinRegion r =
    ((regionCores r).foldl (fun s k => s.returnCore k) (s.regionBack r)).tidyCores.logRas pgPwrclk 5 0x55 none r := rfl

theorem rejoinRegion_region_same (s : State) (r : Nat) : (s.rejoinRegion r).region r = { s.region r with drained := 0, okAt := none } := by
  have hpwr : (s.rejoinRegion r).pwr = (s.regionBack r).pwr := by
    rw [rejoinRegion_eq, logRas_pwr]
    exact pwr_of_offPool (offPool_of_apart ((tidyCores_apart _).trans (returnCores_apart _ _)))
  exact (congrArg (fun p : Pwr => tget ({} : Region) p.regions r) hpwr).trans (region_setRegion_same s r _)

theorem rejoinRegion_logs {s : State} (hrunning : s.running = true) (r : Nat) :
    ∃ x ∈ (s.rejoinRegion r).ras.log, x.code = 0x55 := by
  rw [rejoinRegion_eq]
  refine mem_log_of_running ?_ _ _ _ _ _
  rw [State.running, boot_of_offPool (offPool_of_apart ((tidyCores_apart _).trans (returnCores_apart _ _)))]
  exact hrunning

/-! ### The start of a compute-part reset (R383) -/

/-- Buckets whose entries are lost leave what is apart. -/
theorem loseBuckets_apart (s : State) (c : Nat) (lostQ : Nat → Bool) : (s.loseBuckets c lostQ).apart = s.apart := by
  unfold State.loseBuckets
  dsimp only
  refine (foldl_apart (fun u t => ?_) _ _).trans rfl
  split
  · split
    · exact settle_apart _ _
    · rfl
  · rfl

/-- Sprigs that a reset cuts off leave what is apart. -/
theorem cutSprigs_apart (l : List Nat) (s : State) :
    (l.foldl (fun s k => match (s.core k).sprig with | some c => s.cutSprig k c | none => s) s).apart = s.apart := by
  refine foldl_apart (fun u k => ?_) l s
  split
  · exact cutSprig_apart u k _
  · rfl

theorem pins_of_apart {s u : State} (h : u.apart = s.apart) : u.pins = s.pins := congrArg (·.pins) h

theorem cpActive_of_apart {s u : State} (h : u.apart = s.apart) : u.ras.cpActive = s.ras.cpActive := congrArg (·.ras.cpActive) h

/-- A compute-part reset that starts while none runs, and fewer than three began in the last 60 s, leaves the pins and runs. -/
theorem cpStart_begins {s : State} (hidle : s.ras.cpActive = false)
    (hfew : ¬ (s.ras.cpTimes.filter (fun t => s.clk.now < t + 60000000000)).length ≥ 3) (cause : Nat) :
    (s.cpStart cause).pins = s.pins ∧ (s.cpStart cause).ras.cpActive = true := by
  unfold State.cpStart
  rw [hidle, if_neg Bool.false_ne_true, if_neg hfew]
  extract_lets freed cut n ras begun logged told lost ended tidied hs
  have hcut : cut.apart = s.apart := (cutSprigs_apart _ _).trans ((releaseCps_apart _).trans (charge_apart s))
  have htold : told.apart = begun.apart :=
    (apart_of_beside (beside_of_stored (push_stored _ _ _))).trans (apart_of_beside (logRas_beside _ _ _ _ _ _))
  have hlost : lost.apart = told.apart := foldl_apart (fun u c => loseBuckets_apart u c _) _ told
  clear_value lost cut
  have hbegun : begun.pins = cut.pins := rfl
  exact ⟨((pins_of_apart (hlost.trans htold)).trans hbegun).trans (pins_of_apart hcut), cpActive_of_apart (hlost.trans htold)⟩

theorem packageReset_pwrgd_of_low {s : State} (hlow : s.pins.pwrgd = false) (cause : Nat) :
    (s.packageReset cause).pins.pwrgd = false := by
  have hpins : s.transition.pins = s.pins := congrArg (·.pins) (transition_eq s).1
  simp only [State.packageReset, hpins, hlow, Bool.false_and]

/-- A compute-part reset takes no pin high, and runs then, unless too many in a short time make it one of the package (R383). -/
theorem cpStart_leaves (s : State) (cause : Nat) (hlow : s.pins.pwrgd = false) :
    (s.cpStart cause).pins.pwrgd = false
    ∧ ((s.cpStart cause).ras.cpActive = true ∨ (s.cpStart cause).ras.bootCause = causeCpLimit) := by
  cases hactive : s.ras.cpActive with
  | true =>
    rw [State.cpStart, hactive, if_pos rfl]
    exact ⟨hlow, .inl hactive⟩
  | false =>
    by_cases hmany : (s.ras.cpTimes.filter (fun t => s.clk.now < t + 60000000000)).length ≥ 3
    · rw [State.cpStart, hactive, if_neg Bool.false_ne_true, if_pos hmany]
      exact ⟨packageReset_pwrgd_of_low hlow _, .inr rfl⟩
    · obtain ⟨hpins, hruns⟩ := cpStart_begins hactive hmany cause
      exact ⟨hpins ▸ hlow, .inl hruns⟩

end Sys2Proof.Machine
end

section
/-! PROOFS. The supply commands complete (R16, R388 to R394): what each of them brings about in the state that it ends in; O60. -/

namespace Sys2Proof.Machine

open Claims

/-! ### What the passing of time leaves of the supply -/

section
variable (s : State) (t : Nat)

@[simp] theorem tick_pwr : (s.tick t).pwr = s.pwr := by rw [(tickMovesOnlyTheClocks t s).1]

@[simp] theorem tick_ident : (s.tick t).ident = s.ident := by rw [(tickMovesOnlyTheClocks t s).1]

@[simp] theorem tick_boot : (s.tick t).boot = s.boot := by rw [(tickMovesOnlyTheClocks t s).1]

@[simp] theorem tick_ras : (s.tick t).ras = s.ras := by rw [(tickMovesOnlyTheClocks t s).1]

theorem tick_now : (s.tick t).clk.now = max s.clk.now t := by rw [(tickMovesOnlyTheClocks t s).1]

@[simp] theorem tick_running : (s.tick t).running = s.running := by rw [State.running, tick_boot, State.running]

@[simp] theorem tick_rail (r : Nat) : (s.tick t).rail r = s.rail r := by rw [State.rail, tick_pwr, State.rail]

@[simp] theorem tick_railPresent (r : Nat) : (s.tick t).railPresent r = s.railPresent r := by
  rw [State.railPresent, tick_ident, State.railPresent]

@[simp] theorem tick_region (r : Nat) : (s.tick t).region r = s.region r := by rw [State.region, tick_pwr, State.region]

@[simp] theorem tick_regions : (s.tick t).regions = s.regions := by rw [State.regions, tick_ident, State.regions]

@[simp] theorem tick_percent (p : Nat) : (s.tick t).percent p = s.percent p := by rw [State.percent, tick_ident, State.percent]

theorem tick_limit : (s.tick t).limit = s.limit := by simp only [State.limit, State.percent, tick_ident, tick_pwr, tick_pins]

end

/-! ### Rails -/

/-- A rail whose entry in the table is at its reset level keeps MOD_PWRGD low (R16). -/
theorem regulate_low {s : State} {r : Nat} (hlow : (s.rail r).resetLevel = true) : s.regulate.pins.pwrgd = false := by
  have hmem : (r, s.rail r) ∈ s.pwr.rails := by
    have hlisted (m : SMap Rail) (h : (tget {} m r).resetLevel = true) : (r, tget {} m r) ∈ m := by
      induction m with
      | nil => nomatch h
      | cons p m ih =>
        obtain ⟨i, x⟩ := p
        by_cases hi : r = i
        · subst hi
          simp only [tget, if_true, List.mem_cons_self]
        · simp only [tget, hi, if_false] at h ⊢
          exact List.mem_cons_of_mem _ (ih h)
    exact hlisted s.pwr.rails hlow
  refine eq_false_of_ne_true fun hhigh => ?_
  have hall := ((regulate_pwrgd s).mp hhigh).2.2 _ hmem
  rw [hlow] at hall
  exact absurd hall (by decide)

theorem railLow_pwrgd (s : State) (rail : Nat) : (s.railLow rail).pins.pwrgd = false := by
  refine regulate_low (r := rail) ?_
  rw [rail_setRail_same]

/-! ### Ports that go down -/

/-- The counts of codewords at a port change neither another port nor the state of its own. -/
theorem countFec_port (s : State) (q : Nat) :
    (∀ p, p ≠ q → (s.countFec q).port p = s.port p) ∧ ((s.countFec q).port q).st = (s.port q).st := by
  unfold State.countFec
  split
  · exact ⟨fun _ _ => rfl, rfl⟩
  · refine List.foldlRecOn _ _ (motive := fun u : State => (∀ p, p ≠ q → u.port p = s.port p) ∧ (u.port q).st = (s.port q).st)
      ⟨fun _ _ => rfl, rfl⟩ fun u hu l _ => ?_
    dsimp only
    refine ⟨fun p hp => (port_setPort_other _ _ _ _ hp).trans (hu.1 p hp), ?_⟩
    rw [port_setPort_same]
    exact hu.2

/-- A port that has gone down is not up. -/
theorem portDrop_port (s : State) (q : Nat) :
    (∀ p, p ≠ q → (s.portDrop q).port p = s.port p) ∧ ((s.portDrop q).port q).st ≠ 3 := by
  obtain ⟨hother, hown⟩ := countFec_port s q
  unfold State.portDrop
  extract_lets v p up all p' w clk free x y
  split
  next hdown => exact ⟨hother, by rcases hdown with h | h <;> (rw [h]; decide)⟩
  · have hports : x.ports = w.ports := by
      unfold x
      split
      · split
        · exact raise_ports _ _ _
        · rfl
      · rfl
    have hy (k : Nat) : y.port k = w.port k := (raise_port _ _ _ _).trans (congrArg (tget ({} : Port) · k) hports)
    have hdropped : (∀ k, k ≠ q → y.port k = s.port k) ∧ (y.port q).st ≠ 3 := by
      refine ⟨fun k hk => (hy k).trans ((port_setPort_other _ _ _ _ hk).trans (hother k hk)), ?_⟩
      rw [hy, port_setPort_same]
      exact Nat.zero_ne_add_one 2
    split
    · simpa only [logRas_port] using hdropped
    · exact hdropped

/-- Light that moves brings no port up. -/
theorem moveLight_st {s : State} {k : Nat} (hk : (s.port k).st ≠ 3) (q u : Nat) : ((s.moveLight q u).port k).st ≠ 3 := by
  unfold State.moveLight
  dsimp only
  rw [logRas_port, raise_port]
  by_cases hq : k = q
  · subst hq
    rw [port_setPort_same]
    dsimp only
    split
    · decide
    · exact hk
  · rwa [port_setPort_other _ _ _ _ hq]

theorem shiftLight_st {s : State} {k : Nat} (hk : (s.port k).st ≠ 3) : (s.shiftLight.port k).st ≠ 3 := by
  refine List.foldlRecOn s.portList _ (motive := fun u : State => (u.port k).st ≠ 3) hk fun u hu q _ => ?_
  split
  · exact hu
  · split
    · split
      · exact hu
      · exact moveLight_st hu _ _
    · exact hu

theorem portsDown_st (s : State) {k : Nat} (hk : k < 32) : (s.portsDown.port k).st ≠ 3 := by
  refine shiftLight_st (foldl_brings (Before := fun _ => True) (After := fun u : State => (u.port k).st ≠ 3)
    (List.mem_range.mpr hk) (fun _ _ _ => trivial) (fun u _ => (portDrop_port u k).2) (fun u q hu => ?_) trivial)
  by_cases hq : k = q
  · exact hq ▸ (portDrop_port u k).2
  · rwa [(portDrop_port u q).1 k hq]

end Sys2Proof.Machine
end

section
/-! PROOFS. The supply commands complete, each with its own effect (R16, R388 to R394); O60. -/

namespace Sys2Proof.Machine

open Claims

/-! ### Clocks that fall (R394) -/

/-- What a region keeps when its clock falls: all but the clock, which stays at or above 400 MHz where it was so. -/
def Region.Slower (g h : Region) : Prop := h = { g with mhz := h.mhz } ∧ h.mhz ≤ max 400 g.mhz ∧ (400 ≤ g.mhz → 400 ≤ h.mhz)

theorem Region.Slower.refl (g : Region) : g.Slower g := ⟨rfl, Nat.le_max_right _ _, id⟩

theorem Region.Slower.trans {g h k : Region} (hgh : g.Slower h) (hhk : h.Slower k) : g.Slower k := by
  obtain ⟨hkeeps, hfalls, hfloor⟩ := hgh
  obtain ⟨hkeeps', hfalls', hfloor'⟩ := hhk
  refine ⟨?_, by omega, fun hg => hfloor' (hfloor hg)⟩
  rw [hkeeps', hkeeps]

theorem Region.Slower.temp {g h : Region} (hslower : g.Slower h) : h.temp = g.temp := by rw [hslower.1]

/-- Neighbours that keep the ratio only fall. -/
theorem keepRatio_slower (s : State) (r k : Nat) : (s.region k).Slower ((s.keepRatio r).region k) := by
  refine List.foldlRecOn (neighbours r) _ (motive := fun u : State => (s.region k).Slower (u.region k)) (.refl _) fun u hu n _ => ?_
  dsimp only
  split
  next hfast =>
    refine hu.trans ?_
    by_cases hk : k = n
    · subst hk
      rw [region_setRegion_same]
      exact ⟨rfl, by dsimp only; omega, fun _ => Nat.le_max_left _ _⟩
    · rw [region_setRegion_other _ _ _ _ hk]
      exact .refl _
  · exact hu

theorem lowerClock_slower (s : State) (r mhz : Nat) :
    ({ s.region r with mhz := max 400 mhz } : Region).Slower ((s.lowerClock r mhz).region r) := by
  refine List.foldlRecOn (neighbours r) _ (motive := fun u : State =>
    ({ s.region r with mhz := max 400 mhz } : Region).Slower (u.region r)) ?_ fun u hu n _ => hu.trans (keepRatio_slower u n r)
  have hset := keepRatio_slower (s.setRegion r { s.region r with mhz := max 400 mhz }) r r
  rwa [region_setRegion_same] at hset

theorem lowerClock_mhz (s : State) (r mhz : Nat) : ((s.lowerClock r mhz).region r).mhz ≤ max 400 mhz := by
  have hfalls := (lowerClock_slower s r mhz).2.1
  dsimp only at hfalls
  omega

theorem lowerClock_temp (s : State) (r mhz : Nat) : ((s.lowerClock r mhz).region r).temp = (s.region r).temp :=
  (lowerClock_slower s r mhz).temp

/-- A clock step stores the temperature; a throttled clock at or above 93 °C falls. -/
theorem thermalClockStep_completes {t region temp : Nat} {s : State} (hrunning : s.running = true) (hregion : region ∈ s.regions) :
    ∃ u : State, exec (.thermalClockStep t region temp) s = .next u ∧ (u.region region).temp = temp
      ∧ (93 ≤ temp → (s.region region).throttle = true → (s.region region).drained ≠ 2 →
          (u.region region).mhz ≤ max 400 ((s.region region).mhz - 25)) := by
  have hon : (s.tick t).running = true := (tick_running s t).trans hrunning
  have hin : region ∈ (s.tick t).regions := (tick_regions s t).symm ▸ hregion
  by_cases hfalls : 93 ≤ temp ∧ ((s.tick t).region region).throttle = true ∧ ((s.tick t).region region).drained ≠ 2
  · obtain ⟨hhot, hthrottle, hdrained⟩ := hfalls
    refine ⟨_, thermalClockStep_falls region temp hhot t s ⟨hon, hin, hdrained, hthrottle⟩, ?_, fun _ _ _ => ?_⟩
    · exact (lowerClock_temp _ _ _).trans (congrArg Region.temp (region_setRegion_same _ _ _))
    · refine (lowerClock_mhz _ _ _).trans (le_of_eq ?_)
      rw [tick_region]
  · have hstays : 93 ≤ temp → (s.region region).throttle = true → (s.region region).drained ≠ 2 → False :=
      fun hhot hthrottle hdrained => hfalls ⟨hhot, by rwa [tick_region], by rwa [tick_region]⟩
    suffices h : ∃ u : State, exec (.thermalClockStep t region temp) s = .next u ∧ (u.region region).temp = temp by
      obtain ⟨u, hu, htemp⟩ := h
      exact ⟨u, hu, htemp, fun hhot hthrottle hdrained => (hstays hhot hthrottle hdrained).elim⟩
    by_cases hdrained : ((s.tick t).region region).drained = 2
    · exact ⟨_, (if_pos ⟨hon, List.contains_iff_mem.mpr hin⟩).trans (if_pos hdrained),
        congrArg Region.temp (region_setRegion_same _ _ _)⟩
    have hheld : ¬ (((s.tick t).region region).throttle = true ∧ temp ≥ 93) := fun h => hfalls ⟨h.2, h.1, hdrained⟩
    by_cases hrises : temp < 90 ∧ ((s.tick t).region region).mhz < (s.tick t).clockCap region
    · exact ⟨_, (if_pos ⟨hon, List.contains_iff_mem.mpr hin⟩).trans ((if_neg hdrained).trans ((if_neg hheld).trans (if_pos hrises))),
        congrArg Region.temp (region_setRegion_same _ _ _)⟩
    · exact ⟨_, (if_pos ⟨hon, List.contains_iff_mem.mpr hin⟩).trans ((if_neg hdrained).trans ((if_neg hheld).trans (if_neg hrises))),
        congrArg Region.temp (region_setRegion_same _ _ _)⟩

/-- A region that drains for its temperature is held at 400 MHz. -/
theorem thermalRegionDrain_completes {t region temp : Nat} {s : State} (hrunning : s.running = true) (hregion : region ∈ s.regions)
    (hhot : 105 ≤ temp) (hdrained : (s.region region).drained ≠ 2) :
    ∃ u : State, exec (.thermalRegionDrain t region temp) s = .next u ∧ (u.region region).drained = 2
      ∧ (u.region region).mhz = 400 := by
  have hslower := lowerClock_slower ((s.tick t).setRegion region { (s.tick t).region region with throttle := true, temp }) region 400
  refine ⟨_, thermalRegionDrain_gives region temp hhot t s ⟨(tick_running s t).trans hrunning, (tick_regions s t).symm ▸ hregion,
    by rwa [tick_region]⟩, ?_, ?_⟩
  · rw [drainRegion_region_same]
    rfl
  · rw [drainRegion_region_same]
    exact Nat.le_antisymm hslower.2.1 (hslower.2.2 (Nat.le_max_left _ _))

/-! ### Limits of the module's power (R393) -/

theorem limit_of_unrecorded {s u : State} (h : u.unrecorded = s.unrecorded) : u.limit = s.limit :=
  (congrArg State.limit h :)

theorem relimit_limit (s : State) (old : Nat) : (s.relimit old).limit = s.limit := by
  unfold State.relimit
  split
  · rfl
  · exact (limit_of_unrecorded (logRas_unrecorded _ _ _ _ _ _)).trans (limit_of_unrecorded (raise_unrecorded _ _ _))

theorem limit_le_of_limSys {s : State} (h : s.pwr.limSys = true) : s.limit ≤ s.percent 80 := by
  simp only [State.limit, h, if_true]
  split_ifs <;> omega

theorem limit_le_of_limCool {s : State} (h : s.pwr.limCool = true) : s.limit ≤ s.percent 60 := by
  simp only [State.limit, h, if_true]
  split_ifs <;> omega

theorem limit_le_of_limInlet {s : State} (h : s.pwr.limInlet = true) : s.limit ≤ s.percent 80 := by
  simp only [State.limit, h, if_true]
  omega

end Sys2Proof.Machine
end

section
/-! PROOFS. The supply commands complete, each with its own effect (R16, R388 to R394): a skew check, the power measurement, rails at their
reset level; O60. -/

namespace Sys2Proof.Machine

open Claims

/-! ### A skew check pulls its outliers (R391) -/

theorem pullBack_region (s : State) (kind o n k : Nat) :
    ((s.pullBack kind o n).region k).temp = (s.region k).temp ∧ ((s.pullBack kind o n).region k).drained = (s.region k).drained
    ∧ (k = o ∨ (s.region k).pulling.isSome = true → ((s.pullBack kind o n).region k).pulling.isSome = true) := by
  unfold State.pullBack
  by_cases hk : k = o
  · subst hk
    rw [region_setRegion_same]
    refine ⟨rfl, rfl, fun _ => ?_⟩
    dsimp only
    split <;> rfl
  · rw [region_setRegion_other _ _ _ _ hk]
    exact ⟨rfl, rfl, fun h => h.resolve_left hk⟩

/-- What a check leaves of a region: its temperature, and whether it is drained. -/
def State.drainOf (s : State) (k : Nat) : Nat × Nat := ((s.region k).temp, (s.region k).drained)

theorem drainOf_of_pwr {s u : State} (h : u.pwr = s.pwr) (k : Nat) : u.drainOf k = s.drainOf k := by
  rw [State.drainOf, State.region, h]
  rfl

theorem pullOutlier_drainOf (s : State) (b : Nat × Nat × Nat) (k : Nat) : (s.pullOutlier b).drainOf k = s.drainOf k := by
  unfold State.pullOutlier
  split
  · rfl
  · obtain ⟨htemp, hdrained, _⟩ := pullBack_region s b.2.1 b.1 b.2.2 k
    exact Prod.ext htemp hdrained

theorem setRegion_drainOf {s : State} {r : Nat} {g : Region} (htemp : g.temp = (s.region r).temp)
    (hdrained : g.drained = (s.region r).drained) (k : Nat) : (s.setRegion r g).drainOf k = s.drainOf k := by
  by_cases hk : k = r
  · subst hk
    rw [State.drainOf, region_setRegion_same, htemp, hdrained, State.drainOf]
  · rw [State.drainOf, region_setRegion_other _ _ _ _ hk, State.drainOf]

theorem settleRegion_drainOf (out : List Nat) (s : State) (r k : Nat) : (s.settleRegion out r).drainOf k = s.drainOf k := by
  unfold State.settleRegion
  dsimp only
  split
  · split
    · exact setRegion_drainOf (by rfl) (by rfl) k
    · rfl
  · split
    · exact setRegion_drainOf (by rfl) (by rfl) k
    · split
      · rfl
      · exact (drainOf_of_pwr (logRas_pwr _ _ _ _ _ _) k).trans (setRegion_drainOf (by rfl) (by rfl) k)

theorem pullOutlier_pulls {s : State} {o : Nat} (hdrained : (s.region o).drained = 0) (b : Nat × Nat) :
    ((s.pullOutlier (o, b)).region o).pulling.isSome = true := by
  unfold State.pullOutlier
  rw [if_neg (not_not.mpr hdrained)]
  exact (pullBack_region s b.1 o b.2 o).2.2 (.inl rfl)

theorem pullOutlier_pulling {s : State} {o : Nat} (hpulled : (s.region o).pulling.isSome = true) (b : Nat × Nat × Nat) :
    ((s.pullOutlier b).region o).pulling.isSome = true := by
  unfold State.pullOutlier
  split
  · exact hpulled
  · exact (pullBack_region s b.2.1 b.1 b.2.2 o).2.2 (.inr hpulled)

/-- Every outlier that is not drained is pulled. -/
theorem pullOutliers_pulls {l : List (Nat × Nat × Nat)} {o : Nat} {b : Nat × Nat} (ho : (o, b) ∈ l) {s : State}
    (hdrained : (s.region o).drained = 0) : ((l.foldl State.pullOutlier s).region o).pulling.isSome = true :=
  foldl_brings (Before := fun u : State => (u.region o).drained = 0) (After := fun u : State => (u.region o).pulling.isSome = true) ho
    (fun u c hu => (congrArg Prod.snd (pullOutlier_drainOf u c o)).trans hu) (fun _ hu => pullOutlier_pulls hu b)
    (fun _ c hu => pullOutlier_pulling hu c) hdrained

theorem mem_beyondLimits {s : State} {p : Nat × Nat} (hp : p ∈ pairsOf s) {k : Nat} (hk : k < 3)
    (hbeyond : beyond (s.region p.1) (s.region p.2) k = true) : ∃ b, (s.outlier k p.1 p.2, b) ∈ s.beyondLimits := by
  refine ⟨(k, if s.outlier k p.1 p.2 = p.1 then p.2 else p.1), List.mem_flatMap.mpr ⟨p, hp, List.mem_map.mpr ⟨k, ?_, rfl⟩⟩⟩
  refine List.mem_filter.mpr ⟨?_, hbeyond⟩
  simp only [List.mem_cons, List.not_mem_nil, or_false]
  omega

/-- The state with one measurement of a skew check. -/
def State.measuredAt (s : State) (m : RegionMeasure) : State :=
  s.setRegion m.region { s.region m.region with mhz := m.mhz, mv := m.mv, temp := m.temp }

theorem setRegion_tick (s : State) (t r : Nat) (g : Region) : (s.tick t).setRegion r g = (s.setRegion r g).tick t := by
  have hclk : (s.setRegion r g).clk = s.clk := rfl
  unfold State.tick
  dsimp only
  rw [hclk]
  split
  · rfl
  · split <;> rfl

theorem measured_tick {s : State} {m : RegionMeasure} (hregion : m.region ∈ s.regions) (t : Nat) :
    (s.tick t).measured [m] = (s.measuredAt m).tick t := by
  have hin : (s.tick t).regions.contains m.region = true := List.contains_iff_mem.mpr ((tick_regions s t).symm ▸ hregion)
  refine (if_pos hin).trans ?_
  rw [tick_region]
  exact setRegion_tick s t _ _

theorem beyondLimits_tick (s : State) (t : Nat) : (s.tick t).beyondLimits = s.beyondLimits := by
  simp only [State.beyondLimits, pairsOf, State.outlier, tick_region, tick_regions, tick_ident]

theorem skewCheck_completes {t : Nat} {m : RegionMeasure} {s : State} (hrunning : s.running = true) (hregion : m.region ∈ s.regions) :
    ∃ u : State, exec (.skewCheck t [m]) s = .next u ∧ (u.region m.region).temp = m.temp
      ∧ ∀ v : State, v = s.measuredAt m → ∀ p ∈ pairsOf v, ∀ k < 3, beyond (v.region p.1) (v.region p.2) k = true →
          (v.region (v.outlier k p.1 p.2)).drained = 0 → (u.region (v.outlier k p.1 p.2)).pulling.isSome = true := by
  have hsettled (v : State) (k : Nat) : (v.regions.foldl (State.settleRegion (v.beyondLimits.map (·.1))) v).drainOf k = v.drainOf k :=
    foldl_kept (fun u : State => u.drainOf k) (fun u r => settleRegion_drainOf _ u r k) _ v
  refine ⟨_, execSkewCheck_of_running [m] ((tick_running s t).trans hrunning), ?_, ?_⟩
  · rw [measured_tick hregion]
    have hkept := (foldl_kept (fun u : State => u.drainOf m.region) (fun u b => pullOutlier_drainOf u b m.region)
      ((s.measuredAt m).tick t).beyondLimits _).trans (hsettled ((s.measuredAt m).tick t) m.region)
    refine (congrArg Prod.fst hkept).trans ?_
    rw [State.drainOf, tick_region]
    exact congrArg Region.temp (region_setRegion_same _ _ _)
  · rintro v rfl p hp k hk hbeyond hdrained
    rw [measured_tick hregion]
    obtain ⟨b, hb⟩ := mem_beyondLimits hp hk hbeyond
    refine pullOutliers_pulls ((beyondLimits_tick (s.measuredAt m) t).symm ▸ hb)
      ((congrArg Prod.snd (hsettled ((s.measuredAt m).tick t) _)).trans ?_)
    rw [State.drainOf, tick_region]
    exact hdrained

/-! ### The power measurement (R394) -/

theorem raiseRegion_mhz (s : State) (r k : Nat) : (s.region k).mhz ≤ ((s.raiseRegion r).region k).mhz := by
  unfold State.raiseRegion
  dsimp only
  split
  · exact Nat.le_refl _
  · by_cases hk : k = r
    · subst hk
      rw [region_setRegion_same]
      exact Nat.le_max_left _ _
    · rw [region_setRegion_other _ _ _ _ hk]

theorem raiseRegions_mhz (l : List Nat) (s : State) (k : Nat) : (s.region k).mhz ≤ ((l.foldl State.raiseRegion s).region k).mhz :=
  List.foldlRecOn l State.raiseRegion (motive := fun u : State => (s.region k).mhz ≤ (u.region k).mhz) (Nat.le_refl _)
    fun u hu r _ => hu.trans (raiseRegion_mhz u r k)

theorem powerMeasure_completes {t watts : Nat} {s : State} (hrunning : s.running = true) :
    ∃ u : State, exec (.powerMeasure t watts) s = .next u ∧ u.pwr.watts = watts
      ∧ (watts > s.limit → ∀ r ∈ s.regions, (u.region r).mhz = max 400 ((s.region r).mhz - 25))
      ∧ (watts ≤ s.limit → ∀ r ∈ s.regions, (s.region r).mhz ≤ (u.region r).mhz) := by
  have hon : (s.tick t).running = true := (tick_running s t).trans hrunning
  have hlimit := tick_limit s t
  rcases Nat.lt_or_ge s.limit watts with habove | hwithin
  · obtain ⟨hoff, hregion⟩ := noteThrottle_leaves ((s.tick t).regions.foldl State.lowerRegion
      ((s.tick t).metered watts (max 400 ((s.tick t).pwr.allowed - 25))))
    rw [foldl_kept State.offClocks lowerRegion_offClocks] at hoff
    refine ⟨_, execPowerMeasure_of_above hon (hlimit.symm ▸ habove), (metered_of_offClocks hoff).1, fun _ r hr => ?_,
      fun h => absurd habove (Nat.not_lt.mpr h)⟩
    rw [hregion, region_foldl_lowerRegion (regions_nodup _) ((tick_regions s t).symm ▸ hr), ← tick_region s t r]
    rfl
  rcases Nat.lt_or_ge (watts * 100) ((s.tick t).limit * 95) with hbelow | hnear
  · obtain ⟨hoff, hregion⟩ := noteThrottle_leaves ((s.tick t).regions.foldl State.raiseRegion
      ((s.tick t).metered watts (min 1600 ((s.tick t).pwr.allowed + 25))))
    rw [foldl_kept State.offClocks raiseRegion_offClocks] at hoff
    refine ⟨_, execPowerMeasure_of_below hon (hlimit.symm ▸ hwithin) hbelow, (metered_of_offClocks hoff).1,
      fun h => absurd h (Nat.not_lt.mpr hwithin), fun _ r _ => ?_⟩
    rw [hregion, ← tick_region s t r]
    exact raiseRegions_mhz _ ((s.tick t).metered watts (min 1600 ((s.tick t).pwr.allowed + 25))) r
  · refine ⟨_, execPowerMeasure_of_between hon (hlimit.symm ▸ hwithin) hnear, rfl, fun h => absurd h (Nat.not_lt.mpr hwithin),
      fun _ r _ => ?_⟩
    rw [← tick_region s t r]
    exact Nat.le_refl _

/-! ### Rails (R16, R388, R389) -/

theorem pins_of_offLinks {s u : State} (h : u.offLinks = s.offLinks) : u.pins = s.pins := congrArg (·.pins) h

theorem railResetLevel_completes {t rail : Nat} {s : State} (hpowered : s.powered = true) (hpresent : s.railPresent rail = true) :
    ∃ u : State, exec (.railResetLevel t rail) s = .next u ∧ u.pins.pwrgd = false
      ∧ (rail < 8 → u.ras.cpActive = true ∨ u.ras.bootCause = causeCpLimit)
      ∧ (rail = 14 → ∀ p < 32, (u.port p).st ≠ 3)
      ∧ (8 ≤ rail → rail ≠ 14 → u.ctxs = [] ∧ u.ras.bootCause = causeRail) := by
  have hacts : (s.tick t).powered = true ∧ (s.tick t).railPresent rail = true :=
    ⟨by rw [State.powered, tick_boot]; exact hpowered, (tick_railPresent s t rail).trans hpresent⟩
  have hlow := railLow_pwrgd (s.tick t) rail
  by_cases hcompute : rail < 8
  · obtain ⟨hpwrgd, hruns⟩ := cpStart_leaves ((s.tick t).railLow rail) causeRail hlow
    exact ⟨_, railResetLevel_gives_of_compute rail hcompute t s hacts, hpwrgd, fun _ => hruns, fun h => absurd hcompute (by omega),
      fun h => absurd hcompute (Nat.not_lt.mpr h)⟩
  by_cases hphotonic : rail = 14
  · subst hphotonic
    refine ⟨_, railResetLevel_gives_of_photonic t s hacts, ?_, fun h => absurd h hcompute, fun _ p hp => portsDown_st _ hp,
      fun _ h => absurd rfl h⟩
    rw [pins_of_offLinks (portsDown_offLinks ((s.tick t).railLow 14))]
    exact hlow
  · exact ⟨_, railResetLevel_gives_of_package rail (Nat.not_lt.mp hcompute) hphotonic t s hacts, packageReset_pwrgd_of_low hlow _,
      fun h => absurd h hcompute, fun h => absurd h hphotonic, fun _ _ => ⟨rfl, rfl⟩⟩

theorem railExcursion_completes {t rail mv : Nat} {s : State} (hpowered : s.powered = true) (hpresent : s.railPresent rail = true) :
    ∃ u : State, exec (.railExcursion t rail mv) s = .next u ∧ (u.rail rail).st = 1 ∧ (u.rail rail).mv = mv
      ∧ ((s.rail rail).st ≠ 1 → u.pwr.hold = true ∧ (u.rail rail).excursions = satAdd 16 (s.rail rail).excursions 1) := by
  have hon : (s.tick t).powered = true := by rwa [State.powered, tick_boot]
  have hthere : (s.tick t).railPresent rail = true := (tick_railPresent s t rail).trans hpresent
  by_cases hbelow : (s.rail rail).st = 1
  · refine ⟨_, railExcursion_gives_of_below rail mv t s ⟨hon, hthere, by rwa [tick_rail]⟩, ?_⟩
    rw [rail_setRail_same, tick_rail]
    exact ⟨hbelow, rfl, fun h => absurd hbelow h⟩
  · obtain ⟨u, hu, hrail, hhold, _⟩ := railExcursion_reaches rail mv t s ⟨hon, hthere, by rwa [tick_rail]⟩
    rw [tick_rail] at hrail
    exact ⟨u, hu, by rw [hrail], by rw [hrail], fun _ => ⟨hhold, by rw [hrail]⟩⟩

theorem railExcursionEnd_completes {t rail mv : Nat} {s : State} (hpresent : s.railPresent rail = true) (hbelow : (s.rail rail).st = 1) :
    ∃ u : State, exec (.railExcursionEnd t rail mv) s = .next u ∧ (u.rail rail).st = 0 ∧ (u.rail rail).mv = mv
      ∧ ((∀ r, r ≠ rail → (s.rail r).st ≠ 1) → u.pwr.hold = false)
      ∧ (s.running = true → ∃ x ∈ u.ras.log, x.code = 0x50) := by
  have hrail (info k : Nat) : (((s.tick t).recovered rail mv).noteThrottle.logRas pgPwrclk 5 0x50 none info).rail k
      = ((s.tick t).recovered rail mv).rail k :=
    rail_of_rails (by rw [logRas_pwr, noteThrottle_rails]) k
  refine ⟨_, railExcursionEnd_gives rail mv t s ⟨(tick_railPresent s t rail).trans hpresent, by rwa [tick_rail]⟩, ?_⟩
  rw [hrail, rail_recovered_same, logRas_pwr, noteThrottle_hold]
  refine ⟨rfl, rfl, fun hothers => eq_false_of_ne_true fun hhold => ?_, fun hrunning => mem_log_of_running ?_ _ _ _ _ _⟩
  · obtain ⟨r, _, hlow⟩ := (recovered_hold (s.tick t) rail mv).mp hhold
    by_cases hr : r = rail
    · subst hr
      rw [rail_recovered_same] at hlow
      exact absurd hlow Nat.zero_ne_one
    · rw [rail_recovered_other _ _ _ hr, tick_rail] at hlow
      exact hothers r hr hlow
  · rw [noteThrottle_running]
    exact (tick_running s t).trans hrunning

/-! ### Trip, and the limits of the module's power -/

theorem alert_of_tripAlert {s : State} (hpower : s.boot ≠ .off) (htrip : s.pins.tripAlert = true) :
    s.alert = decide (s.sec.lifecycle ≠ .retired) := by
  by_cases hretired : s.sec.lifecycle = .retired <;> simp [State.alert, hretired, hpower, htrip]

theorem thermalTrip_completes {t temp : Nat} {s : State} (hhot : 115 ≤ temp) (hpowered : s.powered = true) :
    ∃ u : State, exec (.thermalTrip t temp) s = .next u ∧ u.boot = .tripHeld ∧ u.pins.pwrgd = false ∧ u.alert =
      decide (u.sec.lifecycle ≠ .retired) := by
  have hon : (s.tick t).powered = true := by rwa [State.powered, tick_boot]
  refine ⟨(s.tick t).packageReset causeTrip, congrArg Host.Outcome.next (if_pos ⟨hon, hhot⟩), rfl, Bool.and_false _,
    alert_of_tripAlert nofun rfl⟩

/-- Settles O60: each clause from what its command gives, and what that leaves of the supply. -/
theorem supplyCommandsComplete : Obligations.SupplyCommandsComplete := by
  have hon {s : State} (t : Nat) (h : s.running = true) : (s.tick t).running = true := (tick_running s t).trans h
  have hin {s : State} {r : Nat} (t : Nat) (h : r ∈ s.regions) : r ∈ (s.tick t).regions := (tick_regions s t).symm ▸ h
  refine ⟨fun t rail mv s hpowered hpresent => railExcursion_completes hpowered hpresent,
    fun t rail mv s hpresent hbelow => railExcursionEnd_completes hpresent hbelow,
    fun t rail s hpowered hpresent => railResetLevel_completes hpowered hpresent, fun t s => ?photonic,
    fun t m s hrunning hregion => skewCheck_completes hrunning hregion,
    fun t region p s hrunning hregion hdrained hpulling hlong => ?skewDrain,
    fun t region s hrunning hregion hback => ?rejoin, fun t region temp s hrunning hregion hhot => ?throttle,
    fun t region temp s hrunning hregion => thermalClockStep_completes hrunning hregion,
    fun t region temp s hrunning hregion hhot hdrained => thermalRegionDrain_completes hrunning hregion hhot hdrained,
    fun t temp s hrunning hhot => ?sysdie, fun t stack temp s hrunning hstack hhot => ?stack,
    fun t inlet outlet s hrunning hhot => ?coolant, fun t inlet s hrunning hhot => ?inlet,
    fun t region temp s hrunning hcool => ⟨fun hregion => ?release, fun hdrained => ?releaseDrain⟩,
    fun t temp s hhot hpowered => thermalTrip_completes hhot hpowered, fun t temp s hcool hheld => ?railsOn,
    fun t watts s hrunning => powerMeasure_completes hrunning⟩
  case photonic =>
    obtain ⟨u, hu, hrail, _⟩ := photonicRailRecover_reaches t s trivial
    exact ⟨u, hu, by rw [hrail]⟩
  case skewDrain =>
    refine ⟨(s.tick t).drainRegion region 1, skewDrain_gives region t s ⟨hon t hrunning, hin t hregion, by rwa [tick_region], p,
      by rwa [tick_region], by rwa [tick_now]⟩, ?_, fun hsweep => drainRegion_logs (hon t hrunning) (by rwa [tick_ras]) region 1⟩
    rw [drainRegion_region_same]
    rfl
  case rejoin =>
    refine ⟨(s.tick t).rejoinRegion region,
      regionRejoin_gives region t s ⟨hon t hrunning, hin t hregion, by rwa [tick_region, tick_now]⟩, ?_, rejoinRegion_logs (hon t hrunning) region⟩
    rw [rejoinRegion_region_same]
  case throttle =>
    refine ⟨_, thermalRegionThrottle_gives region temp hhot t s ⟨hon t hrunning, hin t hregion⟩, ?_⟩
    rw [region_setRegion_same]
    exact ⟨rfl, rfl⟩
  case sysdie =>
    refine ⟨_, thermalSysdieLimit_gives temp hhot t s (hon t hrunning), ?_⟩
    rw [relimit_limit, ← tick_percent s t]
    exact limit_le_of_limSys rfl
  case stack =>
    refine ⟨_, thermalStackAction_gives stack temp hhot t s ⟨hon t hrunning, by rwa [tick_ident]⟩, ?_, fun hhotter => ?_⟩
    · dsimp only
      exact tget_tput_same _ _ _ _
    · dsimp only
      rw [if_pos hhotter]
      exact tget_tput_same _ _ _ _
  case coolant =>
    refine ⟨_, thermalCoolantLimit_gives inlet outlet hhot t s (hon t hrunning), ?_⟩
    rw [relimit_limit, ← tick_percent s t]
    exact limit_le_of_limCool rfl
  case inlet =>
    refine ⟨_, thermalInletLimit_gives inlet hhot t s (hon t hrunning), ?_⟩
    rw [relimit_limit, ← tick_percent s t]
    exact limit_le_of_limInlet rfl
  case release =>
    refine ⟨_, thermalRelease_region_gives region temp hcool t s ⟨hon t hrunning, hin t hregion⟩, ?_⟩
    rw [region_setRegion_same]
  case releaseDrain =>
    refine ⟨_, thermalRelease_regionDrain_gives region temp hcool t s ⟨hon t hrunning, by rwa [tick_region]⟩, ?_⟩
    rw [rejoinRegion_region_same]
  case railsOn =>
    refine ⟨_, thermalTripRailsOn_gives temp hcool t s ((tick_boot s t).trans hheld), ?_⟩
    rw [← tick_pins s t]
    rfl

end Sys2Proof.Machine
end

section
/-! PROOFS. Engine, compute-part and package resets, their watchdogs, and boot (R22, R364, R379 to R386, R407); O36. -/

namespace Sys2Proof.Machine

open Claims

/-! ### Engine resets and their watchdogs (R379, R407) -/

theorem engineReset_gives (page reason : Nat) (hreason : reason < 3) : Gives (.engineReset · page reason) (fun s => s.live = true)
    (fun s => (s.engineStart page reason).sweepAfterReset page) :=
  fun _ _ hlive => congrArg Host.Outcome.next (if_pos (by rw [hlive, decide_eq_true hreason]; rfl))

theorem engineResetDone_gives (page : Nat) : Gives (.engineResetDone · page) (fun s => s.running = true ∧ (s.hdr page).reset = true)
    (fun s =>
      let u := (List.range 64).foldl (fun u c => u.wakeData c) (s.engineEnd page).windowResume
      match pageOf page with | .core c => u.sweepPast c c | _ => u) := by
  rintro t s ⟨hrunning, hreset⟩
  exact if_neg (by rw [hrunning, hreset]; decide)

theorem hangWatchdog_gives (page : Nat) : Gives (.hangWatchdog · page) (fun s => s.live = true ∧ engineOf (pageOf page) = true
      ∧ s.present (pageOf page) = true ∧ (s.hdr page).reset = false ∧ s.pwr.hold = false) (fun s =>
    ((s.setHdr page { s.hdr page with
      expiries := satAdd 16 (s.hdr page).expiries 1
      longest := max (s.hdr page).longest (min (s.hdr page).hangMs 65535) }).engineStart page 1).sweepAfterReset page) := by
  rintro t s ⟨hlive, hengine, hpresent, hreset, hhold⟩
  exact if_pos (by rw [hlive, hengine, hpresent, hreset, hhold]; rfl)

theorem pageOf_pgCore {core : Nat} (hcore : core < 80) : pageOf (pgCore core) = .core core := by
  have hevery : ∀ k : Fin 80, pageOf (pgCore k) = .core k := by decide
  exact hevery ⟨core, hcore⟩

/-- A core whose reset is not done after 1 ms is one of the compute part's. -/
theorem engineResetWatchdog_gives_of_core (core : Nat) (hcore : core < 80) : Gives (.engineResetWatchdog · (pgCore core))
    (fun s => s.running = true ∧ (s.hdr (pgCore core)).reset = true ∧ (s.hdr (pgCore core)).resetAt + 1000000 ≤ s.clk.now) (fun s =>
    let u := s.setHdr (pgCore core) { s.hdr (pgCore core) with expiries := satAdd 16 (s.hdr (pgCore core)).expiries 1 }
    (u.setHdr (pgCore core) { u.hdr (pgCore core) with reset := false }).cpStart causeEngineWatchdog) := by
  rintro t s ⟨hrunning, hreset, hlong⟩
  have hacts : ¬ ((!(s.tick t).running || !((s.tick t).hdr (pgCore core)).reset
      || decide ((s.tick t).clk.now < ((s.tick t).hdr (pgCore core)).resetAt + 1000000)) = true) := by
    rw [hrunning, hreset, decide_eq_false (Nat.not_lt.mpr hlong)]
    decide
  refine (if_neg hacts).trans ?_
  dsimp only
  rw [pageOf_pgCore hcore]

/-! ### Compute-part resets (R383, R384) -/

theorem computePartReset_gives (cause : Nat) (hcause : cause < 256) :
    Gives (.computePartReset · cause) (fun s => s.running = true) (fun s => s.cpStart cause) := by
  intro t s hrunning
  refine congrArg Host.Outcome.next ((if_pos hrunning).trans ?_)
  rw [Nat.mod_eq_of_lt hcause]

theorem computePartResetDone_gives : Gives .computePartResetDone (fun s => s.ras.cpActive = true) (fun s =>
    if s.cpDone.resume.ras.sweep then s.cpDone.resume.sweepFrom s.cpDone.resume.ras.sweepCore else s.cpDone.resume) :=
  fun _ _ hactive => if_pos hactive

theorem cpReset_gives (fn value : Nat) : Gives (.cpReset · fn value) (fun s => Opened s fn pgRas)
    (fun s => (s.access fn pgRas).writeResetCtrl value) := by
  rintro t s ⟨hpf0, hopens⟩
  exact congrArg Host.Outcome.next (if_pos (by rw [hpf0, hopens]; rfl))

theorem cpReset_gives_of_bit (fn value : Nat) (hbit : bit value 0 = true) : Gives (.cpReset · fn value) (fun s => Opened s fn pgRas)
    (fun s => (s.access fn pgRas).cpStart causePf0) := by
  intro t s hopened
  exact (cpReset_gives fn value t s hopened).trans (congrArg Host.Outcome.next (if_pos hbit))

/-! ### The watchdogs of R380 -/

theorem cpResetWatchdog_gives : Gives .cpResetWatchdog (fun s => s.ras.cpActive = true ∧ s.ras.cpAt + 100000000 ≤ s.clk.now)
    (fun s => s.packageReset causeCpWatchdog) :=
  fun _ _ ⟨hactive, hlong⟩ => congrArg Host.Outcome.next (if_pos (by rw [hactive, decide_eq_true hlong]; rfl))

section
variable (cp : Nat) (hcp : cp < 16)
include hcp

theorem controlProcessorWatchdog_runs {s : State} (hlive : s.live = true) (hhalt : (s.cp cp).halt = false) :
    ¬ ((!s.live || decide (cp ≥ 16) || (s.cp cp).halt) = true) := by
  rw [hlive, hhalt, decide_eq_false (Nat.not_le.mpr hcp)]
  decide

theorem controlProcessorWatchdog_gives_of_recent : Gives (.controlProcessorWatchdog · cp)
    (fun s => s.live = true ∧ (s.cp cp).halt = false ∧ ∃ a ∈ (s.cp cp).expired, s.clk.now < a + 60000000000)
    (fun s => s.packageReset causeProcessor) := by
  rintro t s ⟨hlive, hhalt, a, ha, hrecent⟩
  exact (if_neg (controlProcessorWatchdog_runs cp hcp hlive hhalt)).trans
    (if_pos (List.any_eq_true.mpr ⟨a, ha, decide_eq_true hrecent⟩))

theorem controlProcessorWatchdog_gives_of_first : Gives (.controlProcessorWatchdog · cp)
    (fun s => s.live = true ∧ (s.cp cp).halt = false ∧ ∀ a ∈ (s.cp cp).expired, a + 60000000000 ≤ s.clk.now)
    (fun s => (s.setCp cp { s.cp cp with expired := [s.clk.now] }).loseServices cp) := by
  rintro t s ⟨hlive, hhalt, hlong⟩
  refine (if_neg (controlProcessorWatchdog_runs cp hcp hlive hhalt)).trans (if_neg fun hrecent => ?_)
  obtain ⟨a, ha, hnow⟩ := List.any_eq_true.mp hrecent
  exact absurd (of_decide_eq_true hnow) (Nat.not_lt.mpr (hlong a ha))

end

/-- Connections that all close take with them every request that awaits its answer. -/
theorem closeConns_none (s : State) : s.closeConns (fun _ => false) = { s with
    mgmt := { s.mgmt with conns := [], held := s.mgmt.held.filter (fun p => p.1.isNone), line := [] }
    sec := { s.sec with
      waits := s.sec.waits.filter (fun w => match w.2 with | .domain _ | .lifecycle _ => false | _ => true) } } := by
  have hconns : s.mgmt.conns.filter (fun _ => false) = [] := List.filter_false _
  have hnone (m : Call) : (s.mgmt.conns.filter (fun _ => false)).any (fun c => c.id = m.conn) = false := by
    rw [hconns]
    rfl
  have hheld : (s.closeConns fun _ => false).mgmt.held = s.mgmt.held.filter (fun p => p.1.isNone) := by
    refine List.filter_congr fun p _ => ?_
    obtain ⟨_ | m, _⟩ := p
    · rfl
    · exact hnone m
  have hline : (s.closeConns fun _ => false).mgmt.line = [] :=
    List.filter_eq_nil_iff.mpr fun x _ => ne_true_of_eq_false (hnone x.1)
  have hwaits : (s.closeConns fun _ => false).sec.waits
      = s.sec.waits.filter (fun w => match w.2 with | .domain _ | .lifecycle _ => false | _ => true) := by
    refine List.filter_congr fun w _ => ?_
    obtain ⟨_, w⟩ := w
    cases w with
    | domain m => exact hnone m
    | lifecycle m => exact hnone m
    | _ => rfl
  calc s.closeConns (fun _ => false)
    _ = { s with
        mgmt := { s.mgmt with
          conns := s.mgmt.conns.filter (fun _ => false), held := (s.closeConns fun _ => false).mgmt.held
          line := (s.closeConns fun _ => false).mgmt.line }
        sec := { s.sec with waits := (s.closeConns fun _ => false).sec.waits } } := rfl
    _ = _ := by rw [hconns, hheld, hline, hwaits]

theorem mgmtWatchdog_gives : Gives .mgmtWatchdog (fun s => s.running = true) (fun s =>
    { s with
      mgmt := { s.mgmt with conns := [], held := s.mgmt.held.filter (fun p => p.1.isNone), line := [] }
      sec := { s.sec with
        waits := s.sec.waits.filter (fun w => match w.2 with | .domain _ | .lifecycle _ => false | _ => true) } }) :=
  fun _ _ hrunning => congrArg Host.Outcome.next ((if_pos hrunning).trans (closeConns_none _))

theorem securityWatchdog_gives : Gives .securityWatchdog (fun s => s.running = true) (fun s => s.packageReset causeProcessor) :=
  fun _ _ hrunning => congrArg Host.Outcome.next (if_pos hrunning)

theorem packageReset_gives (cause : Nat) (hcause : cause < 256) : Gives (.packageReset · cause)
    (fun s => s.powered = true ∧ s.boot ≠ .standby ∧ s.boot ≠ .tripHeld) (fun s => s.packageReset cause) := by
  rintro t s ⟨hpowered, hstandby, htrip⟩
  exact congrArg Host.Outcome.next (if_pos (by
    rw [hpowered, decide_eq_true hstandby, decide_eq_true htrip, decide_eq_true hcause]; rfl))

/-! ### Boot (R22, R350, R364, R386) -/

/-- The boot of a module that is ready for it. -/
def State.bootable (s : State) : Prop := s.boot = .booting ∧ s.pins.modResetN = true ∧ s.resetOver = true

theorem bootable_acts {s : State} (h : s.bootable) : ¬ (s.boot ≠ .booting ∨ (!s.pins.modResetN) = true ∨ (!s.resetOver) = true) := by
  obtain ⟨hboot, hpin, hover⟩ := h
  rw [hboot, hpin, hover]
  decide

theorem bootComplete_gives_of_recovery : Gives .bootComplete
    (fun s => s.boot = .booting ∧ s.pins.modResetN = true ∧ s.resetOver = true ∧ s.fw.boot = none)
    (fun s => (State.railsBack { s with boot := .recovery } (fun r => decide (r ≠ 14))).linkTrains) := by
  rintro t s ⟨hboot, hpin, hover, hfw⟩
  refine (if_neg (bootable_acts ⟨hboot, hpin, hover⟩)).trans ?_
  rw [hfw]

theorem bootComplete_gives_of_stale (f : Firmware) : Gives .bootComplete
    (fun s => s.boot = .booting ∧ s.pins.modResetN = true ∧ s.resetOver = true ∧ s.fw.boot = some f ∧ s.sec.trngOk = false)
    (fun s => s.waitFresh .boot) := by
  rintro t s ⟨hboot, hpin, hover, hfw, hstale⟩
  refine (if_neg (bootable_acts ⟨hboot, hpin, hover⟩)).trans ?_
  rw [hfw]
  exact if_pos (by rw [hstale]; rfl)

/-- The firmware runs, with new table and reserve keys. -/
def State.bootStart (s : State) (f : Firmware) : State :=
  { s.secret.2.secret.2 with
    boot := .running
    fw := f
    mem := { s.secret.2.secret.2.mem with tableKey := s.secret.1, reserveKey := s.secret.2.secret.1 }
    sec := { s.secret.2.secret.2.sec with reseeds := s.secret.2.secret.2.sec.reseeds + 1 }
    pins := { s.secret.2.secret.2.pins with tripAlert := false } }

/-- The cores are in the pool, and every rail but the photonic one is in regulation. -/
def State.bootSupplied (s : State) : State := s.enterPool.railsBack (fun r => decide (r ≠ 14))

/-- The quanta begin on their grid. -/
def State.onGrid (s : State) : State := { s with sched := { s.sched with k := s.gridNow } }

/-- Record 0x40, and 0x52 while the input is low. -/
def State.bootLogged (s : State) : State := s.logRas pgRas 4 0x40 none s.ras.bootCause

def State.inputLogged (s : State) : State := if s.pins.lowInput then s.logRas pgPwrclk 5 0x52 none s.pins.inputMv else s

theorem bootComplete_gives_of_fresh (f : Firmware) : Gives .bootComplete
    (fun s => s.boot = .booting ∧ s.pins.modResetN = true ∧ s.resetOver = true ∧ s.fw.boot = some f ∧ s.sec.trngOk = true)
    (fun s => (s.bootStart f).bootSupplied.linkTrains.onGrid.bootLogged.inputLogged.tellBattery.answerHeld) := by
  rintro t s ⟨hboot, hpin, hover, hfw, hfresh⟩
  refine (if_neg (bootable_acts ⟨hboot, hpin, hover⟩)).trans ?_
  rw [hfw]
  refine (if_neg (by rw [hfresh]; decide)).trans ?_
  extract_lets _ _ _ _ _ _ started supplied _ gridded logged told
  have hstarted : started = (s.tick t).bootStart f := rfl
  clear_value started
  have hsupplied : supplied = started.bootSupplied.linkTrains := rfl
  clear_value supplied
  have hgridded : gridded = supplied.onGrid := rfl
  clear_value gridded
  have htold : told = gridded.bootLogged.inputLogged := rfl
  rw [htold, hgridded, hsupplied, hstarted]

/-- What a boot brings about: the firmware, the reserve key, the trip pin, the reseeding and the rails. -/
def State.booted (s : State) : Boot × Firmware × Nat × Bool × Nat × SMap Rail :=
  (s.boot, s.fw, s.mem.reserveKey, s.pins.tripAlert, s.sec.reseeds, s.pwr.rails)

theorem booted_of_unrecorded {s u : State} (h : u.unrecorded = s.unrecorded) : u.booted = s.booted := (congrArg State.booted h :)

theorem logRas_booted (s : State) (page cls code : Nat) (ctx : Option Nat) (info : Nat) :
    (s.logRas page cls code ctx info).booted = s.booted := booted_of_unrecorded (logRas_unrecorded _ _ _ _ _ _)

theorem flushLine_booted (conn fuel : Nat) (s : State) : (State.flushLine conn fuel s).booted = s.booted := by
  induction fuel generalizing s with
  | zero => rfl
  | succ fuel ih =>
    unfold State.flushLine
    split
    · exact (ih _).trans rfl
    · rfl

theorem askHallmark_booted (s : State) (call : Option Call) (r : HallmarkRequest) : (s.askHallmark call r).booted = s.booted := by
  unfold State.askHallmark
  split
  · rfl
  · split
    · cases call with
      | none => rfl
      | some m =>
        dsimp only [State.owe]
        split <;> rfl
    · cases call with
      | none => rfl
      | some m => exact (flushLine_booted _ _ _).trans rfl

theorem answerHeld_booted (s : State) : s.answerHeld.booted = s.booted :=
  (foldl_kept State.booted (fun u (p : Option Call × HallmarkRequest) => askHallmark_booted u p.1 p.2) s.mgmt.held _).trans rfl

theorem tellBattery_booted (s : State) : s.tellBattery.booted = s.booted := by
  unfold State.tellBattery
  split
  · exact (logRas_booted _ _ _ _ _ _).trans rfl
  · rfl

theorem inputLogged_booted (s : State) : s.inputLogged.booted = s.booted := by
  unfold State.inputLogged
  split
  · exact logRas_booted _ _ _ _ _ _
  · rfl

theorem onGrid_booted (s : State) : s.linkTrains.onGrid.booted = s.booted := rfl

theorem enterPool_booted (s : State) : s.enterPool.booted = s.booted := by
  refine foldl_kept State.booted (fun u c => ?_) _ s
  dsimp only
  split <;> rfl

theorem booted_eq_iff {s u : State} : u.booted = s.booted ↔ u.boot = s.boot ∧ u.fw = s.fw ∧ u.mem.reserveKey = s.mem.reserveKey
    ∧ u.pins.tripAlert = s.pins.tripAlert ∧ u.sec.reseeds = s.sec.reseeds ∧ u.pwr.rails = s.pwr.rails := by
  simp only [State.booted, Prod.mk.injEq]

theorem railsBack_booted (s : State) (p : Nat → Bool) : (s.railsBack p).boot = s.boot ∧ (s.railsBack p).fw = s.fw
    ∧ (s.railsBack p).mem.reserveKey = s.mem.reserveKey ∧ (s.railsBack p).pins.tripAlert = s.pins.tripAlert
    ∧ (s.railsBack p).sec.reseeds = s.sec.reseeds := by
  rw [railsBack_leaves]
  exact ⟨rfl, rfl, rfl, rfl, rfl⟩

theorem bootSupplied_rail (s : State) {r : Nat} (hr : r < 16) (hphotonic : r ≠ 14) : (s.bootSupplied.rail r).resetLevel = false := by
  rw [State.bootSupplied, rail_railsBack_of_chosen (p := fun r => decide (r ≠ 14)) (decide_eq_true hphotonic) hr]

theorem bootStart_gives (s : State) (f : Firmware) : (s.bootStart f).boot = .running ∧ (s.bootStart f).fw = f
    ∧ (s.bootStart f).mem.reserveKey = s.sec.nextSecret + 1 ∧ (s.bootStart f).pins.tripAlert = false
    ∧ (s.bootStart f).sec.reseeds = s.secret.2.secret.2.sec.reseeds + 1 := ⟨rfl, rfl, rfl, rfl, rfl⟩

theorem secret_reseeds (s : State) : s.sec.reseeds ≤ s.secret.2.sec.reseeds := Nat.le_add_right _ _

theorem bootComplete_reaches (f : Firmware) : Reaches .bootComplete
    (fun s => s.boot = .booting ∧ s.pins.modResetN = true ∧ s.resetOver = true ∧ s.fw.boot = some f ∧ s.sec.trngOk = true)
    (fun s u =>
      u.boot = .running ∧ u.fw = f ∧ u.mem.reserveKey = s.sec.nextSecret + 1 ∧ u.pins.tripAlert = false
      ∧ s.sec.reseeds + 1 ≤ u.sec.reseeds ∧ (s.mgmt.held = [] → u.sec.reseeds = s.secret.2.secret.2.sec.reseeds + 1)
      ∧ ∀ r < 16, r ≠ 14 → (u.rail r).resetLevel = false) := by
  intro t s hfresh
  refine ⟨_, bootComplete_gives_of_fresh f t s hfresh, ?_⟩
  generalize s.tick t = v
  have hbooted : (v.bootStart f).bootSupplied.linkTrains.onGrid.bootLogged.inputLogged.tellBattery.answerHeld.booted
      = (v.bootStart f).bootSupplied.booted :=
    (answerHeld_booted _).trans ((tellBattery_booted _).trans ((inputLogged_booted _).trans
      ((logRas_booted _ _ _ _ _ _).trans (onGrid_booted _))))
  obtain ⟨hboot, hfw, hkey, htrip, hreseeds, hrails⟩ := booted_eq_iff.mp hbooted
  obtain ⟨hboot', hfw', hkey', htrip', hreseeds', _⟩ := booted_eq_iff.mp (enterPool_booted (v.bootStart f))
  obtain ⟨hboot₂, hfw₂, hkey₂, htrip₂, hreseeds₂⟩ := railsBack_booted (v.bootStart f).enterPool (fun r => decide (r ≠ 14))
  obtain ⟨hboot₃, hfw₃, hkey₃, htrip₃, hreseeds₃⟩ := bootStart_gives v f
  have hseeded := ((hreseeds.trans hreseeds₂).trans hreseeds').trans hreseeds₃
  dsimp only
  refine ⟨((hboot.trans hboot₂).trans hboot').trans hboot₃, ((hfw.trans hfw₂).trans hfw').trans hfw₃,
    ((hkey.trans hkey₂).trans hkey').trans hkey₃, ((htrip.trans htrip₂).trans htrip').trans htrip₃, ?_, fun _ => hseeded,
    fun r hr hphotonic => ?_⟩
  · rw [hseeded]
    exact Nat.succ_le_succ ((secret_reseeds v).trans (secret_reseeds v.secret.2))
  · rw [rail_of_rails hrails]
    exact bootSupplied_rail _ hr hphotonic

/-- Settles O36, from what each of the commands gives. -/
theorem resetCommands : Obligations.ResetCommands :=
  ⟨engineReset_gives, engineResetDone_gives, hangWatchdog_gives, engineResetWatchdog_gives_of_core, computePartReset_gives,
    computePartResetDone_gives, cpReset_gives, cpReset_gives_of_bit, cpResetWatchdog_gives, controlProcessorWatchdog_gives_of_recent,
    controlProcessorWatchdog_gives_of_first, mgmtWatchdog_gives, securityWatchdog_gives, packageReset_gives,
    bootComplete_gives_of_recovery, bootComplete_reaches, bootComplete_gives_of_stale⟩

end Sys2Proof.Machine
end

section
/-! PROOFS. Flits and packets of a port, time synchronisation, and the loss of a port (R200, R206 to R208, R213, R219 to R222); O16. -/

namespace Sys2Proof.Machine

open Claims

/-! ### Flits (R206 to R208) -/

theorem flitSend_gives (port : Nat) : Gives (.flitSend · port)
    (fun s => s.live = true ∧ (s.port port).flows = true ∧ (s.port port).window.length < 2048) (fun s => s.sendFlit port) :=
  fun _ _ ⟨hlive, hflows, hroom⟩ => congrArg Host.Outcome.next (if_pos (by rw [hlive, hflows, decide_eq_true hroom]; rfl))

theorem sendFlit_of_fed {s : State} {q : Nat} (hfed : ((s.port q).atFlit (s.port q).fseqTx).starved = false) :
    s.sendFlit q = ((s.setPort q ((s.port q).atFlit (s.port q).fseqTx)).forceRekey q).putNext q :=
  if_neg (ne_true_of_eq_false hfed)

theorem flitSend_gives_of_fed (port : Nat) : Gives (.flitSend · port)
    (fun s => s.live = true ∧ (s.port port).flows = true ∧ (s.port port).window.length < 2048
      ∧ ((s.port port).atFlit (s.port port).fseqTx).starved = false)
    (fun s => ((s.setPort port ((s.port port).atFlit (s.port port).fseqTx)).forceRekey port).putNext port) :=
  fun t s ⟨hlive, hflows, hroom, hfed⟩ =>
    (flitSend_gives port t s ⟨hlive, hflows, hroom⟩).trans (congrArg Host.Outcome.next (sendFlit_of_fed hfed))

theorem flitIntact_iff (flit : Bytes) : flitIntact flit = true ↔ flit.length = 642 ∧ fld flit 634 8 = crc64 (flit.take 634) := by
  simp only [flitIntact, Bool.and_eq_true, decide_eq_true_eq]

section
variable (port : Nat) (flit : Bytes) {s : State}

/-- A port that exchanges flits takes the one that arrives. -/
theorem flitReceive_acts (hlive : s.live = true) (hflows : (s.port port).flows = true) :
    ¬ ((!s.live) = true ∨ (!(s.port port).flows) = true) := by
  rw [hlive, hflows]
  decide

theorem flitReceive_gives_of_bad : Gives (.flitReceive · port flit)
    (fun s => s.live = true ∧ (s.port port).flows = true ∧ (flit.length ≠ 642 ∨ fld flit 634 8 ≠ crc64 (flit.take 634)
      ∨ max 1 (s.port port).dealt.length ≤ (s.port port).ahead flit))
    (fun s => s.setPort port { s.port port with nakOut := true }) := by
  rintro t s ⟨hlive, hflows, hbad⟩
  refine (if_neg (flitReceive_acts port hlive hflows)).trans (if_pos ?_)
  rcases hbad with hlength | hcrc | hahead
  · exact .inl (by rw [eq_false_of_ne_true fun h => hlength ((flitIntact_iff flit).mp h).1]; rfl)
  · exact .inl (by rw [eq_false_of_ne_true fun h => hcrc ((flitIntact_iff flit).mp h).2]; rfl)
  · exact .inr hahead

variable (hintact : flitIntact flit = true)
include hintact

/-- An intact flit that the active lanes can hold is in order or waits. -/
theorem flitReceive_keeps (hnear : (s.port port).ahead flit < max 1 (s.port port).dealt.length) :
    ¬ ((!flitIntact flit) = true ∨ (s.port port).ahead flit ≥ max 1 (s.port port).dealt.length) := by
  rw [hintact]
  exact fun h => h.elim nofun (Nat.not_le.mpr hnear)

theorem flitReceive_gives_of_awaited : Gives (.flitReceive · port flit)
    (fun s => s.live = true ∧ (s.port port).flows = true ∧ (s.port port).ahead flit = 0)
    (fun s => State.takeEarly 8 (s.takeFlit port flit) port) := by
  rintro t s ⟨hlive, hflows, hawaited⟩
  exact (if_neg (flitReceive_acts port hlive hflows)).trans
    ((if_neg (flitReceive_keeps port flit hintact (by omega))).trans (if_pos hawaited))

theorem flitReceive_gives_of_early : Gives (.flitReceive · port flit)
    (fun s => s.live = true ∧ (s.port port).flows = true ∧ 0 < (s.port port).ahead flit
      ∧ (s.port port).ahead flit < (s.port port).dealt.length)
    (fun s => s.setPort port { s.port port with
      early := (s.port port).early.filter (fun e => e.1 ≠ fld flit 0 2) ++ [(fld flit 0 2, flit)] }) := by
  rintro t s ⟨hlive, hflows, hahead, hnear⟩
  exact (if_neg (flitReceive_acts port hlive hflows)).trans
    ((if_neg (flitReceive_keeps port flit hintact (by omega))).trans (if_neg (Nat.ne_of_gt hahead)))

end

/-- What a lane set in effect leaves of a port: the order of flits. -/
def Port.order (x : Port) : Nat × List (Nat × Bytes) := (x.fseqRx, x.early)

theorem applyMask_order (x : Port) (mask : Nat) : (x.applyMask mask).order = x.order :=
  List.foldlRecOn (List.range 8) _ (motive := fun y : Port => y.order = x.order) rfl fun _ hy _ _ => hy

theorem forgetMap_order (x : Port) : ({ x with mapRx := none } : Port).order = x.order := rfl

theorem atPeerFlit_order (x : Port) (fseq : Nat) : (x.atPeerFlit fseq).order = x.order := by
  unfold Port.atPeerFlit
  split
  · split
    · exact (forgetMap_order _).trans (applyMask_order x _)
    · rfl
  · rfl

/-- The awaited flit moves the order of flits by one. -/
theorem takeFlit_order (x : Port) (flit : Bytes) :
    (x.takeFlit flit).fseqRx = (x.fseqRx + 1) % 65536 ∧ (x.takeFlit flit).ackRx = x.fseqRx ∧ (x.takeFlit flit).early = x.early := by
  have horder := atPeerFlit_order x x.fseqRx
  have hfseq : (x.atPeerFlit x.fseqRx).fseqRx = x.fseqRx := congrArg Prod.fst horder
  have hearly : (x.atPeerFlit x.fseqRx).early = x.early := congrArg Prod.snd horder
  unfold Port.takeFlit
  dsimp only
  rw [hfseq, hearly]
  exact ⟨rfl, rfl, rfl⟩

theorem ahead_of_awaited {x : Port} {flit : Bytes} (hfseq : fld flit 0 2 = x.fseqRx) : x.ahead flit = 0 := by
  rw [Port.ahead, hfseq, Nat.add_sub_cancel_left]

/-- Without NAK and with lanes enough, the awaited flit is processed at its port alone. -/
theorem takeFlit_of_calm {s : State} {q : Nat} {flit : Bytes} (hfed : ((s.port q).takeFlit flit).starved = false)
    (hnak : bit (fld flit 4 1) 0 = false) : s.takeFlit q flit = s.setPort q ((s.port q).takeFlit flit) := by
  have hport : ((s.setPort q ((s.port q).takeFlit flit)).port q).starved = false := by rw [port_setPort_same, hfed]
  exact (if_neg (ne_true_of_eq_false hport)).trans (if_neg (ne_true_of_eq_false hnak))

theorem takeEarly_of_none {s : State} {q : Nat} (hnone : (s.port q).early = []) (fuel : Nat) : State.takeEarly fuel s q = s := by
  cases fuel with
  | zero => rfl
  | succ fuel =>
    unfold State.takeEarly
    dsimp only
    rw [hnone]
    rfl

theorem flitReceive_reaches (port : Nat) (flit : Bytes) (hlength : flit.length = 642) (hcrc : fld flit 634 8 = crc64 (flit.take 634)) :
    Reaches (.flitReceive · port flit)
      (fun s => s.live = true ∧ (s.port port).flows = true ∧ fld flit 0 2 = (s.port port).fseqRx ∧ bit (fld flit 4 1) 0 = false
        ∧ (s.port port).early = [] ∧ ((s.port port).takeFlit flit).starved = false)
      (fun s u => u = { s with ports := u.ports } ∧ (∀ p, p ≠ port → u.port p = s.port p)
        ∧ (u.port port).fseqRx = ((s.port port).fseqRx + 1) % 65536 ∧ (u.port port).ackRx = (s.port port).fseqRx) := by
  rintro t s ⟨hlive, hflows, hfseq, hnak, hearly, hfed⟩
  obtain ⟨hnext, hack, hwaits⟩ := takeFlit_order ((s.tick t).port port) flit
  refine ⟨(s.tick t).setPort port (((s.tick t).port port).takeFlit flit), ?_, rfl, fun p hp => port_setPort_other _ _ _ _ hp, ?_⟩
  · refine (flitReceive_gives_of_awaited port flit ((flitIntact_iff flit).mpr ⟨hlength, hcrc⟩) t s
      ⟨hlive, hflows, ahead_of_awaited hfseq⟩).trans (congrArg Host.Outcome.next ?_)
    dsimp only
    rw [takeFlit_of_calm hfed hnak, takeEarly_of_none]
    rw [port_setPort_same, hwaits, hearly]
  · rw [port_setPort_same]
    exact ⟨hnext, hack⟩

/-! ### Packets in transit, time, records of items (R211, R213, R221) -/

theorem packetTransit_gives (port : Nat) (pkt : Packet) (hfrom : 0 < pkt.ptype) (hbelow : pkt.ptype < 0x0B) :
    Gives (.packetTransit · port pkt)
      (fun s => pkt.dst ≠ s.fab.moduleId ∧ (s.admitPacket port pkt).2 = true ∧ (s.admitPacket port pkt).1.inPartition pkt.dst = true)
      (fun s => (s.admitPacket port pkt).1.send { pkt with hops := pkt.hops + 1, ctr := 0 }) := by
  rintro t s ⟨hdst, hadmitted, hpartition⟩
  exact (if_neg hdst).trans ((if_neg (by rw [hadmitted]; decide)).trans ((if_neg (by omega)).trans (if_neg (by rw [hpartition]; decide))))

theorem timeSyncTick_gives (port : Nat) : Gives .timeSyncTick
    (fun s => s.clk.parent = some port ∧ s.clk.free = false ∧ s.live = true ∧ (s.port port).st = 3) (fun s => s.askTime port) := by
  rintro t s ⟨hparent, hfree, hlive, hup⟩
  change execTimeSyncTick t s = _
  unfold execTimeSyncTick
  dsimp only
  rw [hparent]
  exact congrArg Host.Outcome.next (if_pos (by rw [hlive, hfree, decide_eq_true hup]; rfl))

section
variable (port rx : Nat) (pkt : Packet) (hlength : pkt.payload.length = 40)
include hlength

theorem timeSync_gives_of_request (hrequest : fld pkt.payload 0 1 = 0) : Gives (.timeSync · port pkt rx)
    (fun s => (s.admitPacket port pkt).2 = true) (fun s =>
      let u := (s.admitPacket port pkt).1
      u.enqueue port { ptype := 9, dst := pkt.src, src := u.fab.moduleId
                       payload := toLE 1 1 ++ zeros 3 ++ bslice pkt.payload 4 4 ++ bslice pkt.payload 8 8 ++ toLE 8 rx
                         ++ zeros 16 }) :=
  fun _ _ hadmitted => (if_neg (by rw [hadmitted]; decide)).trans ((if_neg (not_not.mpr hlength)).trans (if_pos hrequest))

theorem timeSync_gives_of_reply (hreply : fld pkt.payload 0 1 ≠ 0) : Gives (.timeSync · port pkt rx)
    (fun s => (s.admitPacket port pkt).2 = true
      ∧ ((s.admitPacket port pkt).1.port port).syncSeq = some (fld pkt.payload 4 4)) (fun s =>
      let u := (s.admitPacket port pkt).1.portUp port
      if u.clk.parent = some port ∧ u.clk.root = false ∧ u.clk.free = false then
        u.followParent ((((fld pkt.payload 16 8 : Int) - (fld pkt.payload 8 8 : Int))
          - ((rx : Int) - (fld pkt.payload 24 8 : Int))) / 2)
      else u) := by
  rintro t s ⟨hadmitted, hlatest⟩
  refine (if_neg (by rw [hadmitted]; decide)).trans ((if_neg (not_not.mpr hlength)).trans ((if_neg hreply).trans
    ((if_neg (not_not.mpr hlatest)).trans (congrArg Host.Outcome.next (if_congr ?_ rfl rfl)))))
  simp only [Bool.and_eq_true, decide_eq_true_eq, Bool.not_eq_true', and_assoc]

end

theorem duplicateRecordExpire_reaches (port : Nat) : Reaches (.duplicateRecordExpire · port) (fun s => s.present (.port port) = true)
    (fun s u => u = { s with fab := { s.fab with seen := u.fab.seen }, buckets := u.buckets }
      ∧ (∀ x, x ∈ u.fab.seen ↔ x ∈ s.fab.seen ∧ ∀ a, x.doneAt = some a → s.clk.now < a + 1000000)) := by
  intro t s hpresent
  refine ⟨_, congrArg Host.Outcome.next (if_pos hpresent), rfl, fun x => ?_⟩
  dsimp only
  rw [List.mem_filter]
  refine and_congr_right fun _ => ?_
  cases x.doneAt with
  | none => exact ⟨fun _ _ h => absurd h.symm (Option.some_ne_none _), fun _ => rfl⟩
  | some a => simp only [decide_eq_true_eq, Option.some.injEq, forall_eq']

/-! ### The loss of a port (R219) -/

/-- What a port that is found down sends on another way: all that was not delivered, or while its light moves what another way takes. -/
theorem execPortDownDetect_of_dead {t port : Nat} {s : State} (hdead : ((s.tick t).port port).deadAt ≠ none) :
    exec (.portDownDetect t port) s =
      let x := (s.tick t).port port
      let v := (s.tick t).setPort port { x with deadAt := none }
      let away := fun (p : Packet) => !x.moving || v.route p ≠ some port
      .next (((x.undelivered.filter away).foldl (fun s p => s.resend p) (v.setPort port { v.port port with
        txQueue := x.txQueue.filter (fun p => p.ptype ≥ 9 || !away p)
        unsaid := x.unsaid.filter (fun p => !away p)
        window := if x.moving then x.window else []
        txLast := if x.moving then x.txLast else none
        txRest := if x.moving then x.txRest else [] })).noteRoutes (s.tick t)) := by
  obtain ⟨a, ha⟩ := Option.ne_none_iff_exists'.mp hdead
  change execPortDownDetect t port s = _
  unfold execPortDownDetect
  extract_lets v x
  rw [ha]

theorem portDownDetect_gives_of_still (port : Nat) : Gives (.portDownDetect · port)
    (fun s => (s.port port).deadAt ≠ none ∧ (s.port port).moving = false) (fun s =>
      ((s.port port).undelivered.foldl (fun s p => s.resend p)
        ((s.setPort port { s.port port with deadAt := none }).setPort port { s.port port with
          deadAt := none, window := [], unsaid := []
          txQueue := (s.port port).txQueue.filter (fun p => p.ptype ≥ 9), txLast := none, txRest := [] })).noteRoutes s) := by
  rintro t s ⟨hdead, hstill⟩
  rw [execPortDownDetect_of_dead hdead]
  simp only [hstill, port_setPort_same, Bool.not_false, Bool.true_or, Bool.not_true, Bool.or_false, Bool.false_eq_true, if_false,
    List.filter_true, List.filter_false]

theorem portDownDetect_gives_of_moving (port : Nat) : Gives (.portDownDetect · port)
    (fun s => (s.port port).deadAt ≠ none ∧ (s.port port).moving = true) (fun s =>
      let v := s.setPort port { s.port port with deadAt := none }
      (((s.port port).undelivered.filter (fun p => v.route p ≠ some port)).foldl (fun s p => s.resend p)
        (v.setPort port { s.port port with
          deadAt := none
          txQueue := (s.port port).txQueue.filter (fun p => p.ptype ≥ 9 || v.route p = some port)
          unsaid := (s.port port).unsaid.filter (fun p => v.route p = some port) })).noteRoutes s) := by
  rintro t s ⟨hdead, hmoving⟩
  rw [execPortDownDetect_of_dead hdead]
  simp only [hmoving, port_setPort_same, Bool.not_true, Bool.false_or, if_true, ne_eq, decide_not, Bool.not_not]

/-- Settles O16, from what each of the commands gives. -/
theorem portPacketCommands : Obligations.PortPacketCommands :=
  ⟨flitSend_gives, flitSend_gives_of_fed, flitReceive_gives_of_bad, flitReceive_gives_of_awaited, flitReceive_gives_of_early,
    flitReceive_reaches, packetTransit_gives, timeSyncTick_gives, timeSync_gives_of_request, timeSync_gives_of_reply,
    duplicateRecordExpire_reaches, portDownDetect_gives_of_still, portDownDetect_gives_of_moving⟩

end Sys2Proof.Machine
end

section
/-! PROOFS. Doorbells and the registers of a CTX page (R186, R254 to R256, R264, R265, R273, R348); O30. -/

namespace Sys2Proof.Machine

open Claims

/-! ### Doorbells (R256) -/

section
variable (slot k value : Nat) (hslot : slot < 64) (hk : k < 16)
include hslot hk

/-- The doorbell of a queue sets its tail; more entries than the ring holds are an error. -/
theorem doorbell_gives : Gives (.doorbell · 0 slot (8 * k) value)
    (fun s => s.hostUp = true ∧ s.live = true ∧ (s.ctx slot).state = 1) (fun s =>
    let u := s.modQueue ⟨slot, k⟩ (fun y => { y with tail := value % 2 ^ 32 })
    if ((value % 2 ^ 32 + 2 ^ 32 - (s.queue ⟨slot, k⟩).head) % 2 ^ 32 > 2 ^ (s.queue ⟨slot, k⟩).depth
        && !(s.queue ⟨slot, k⟩).error) = true then u.queueError ⟨slot, k⟩ 1 else u) := by
  rintro t s ⟨hhost, hlive, hstate⟩
  have hrings : ((s.tick t).hostUp && (s.tick t).live && decide (slot < 64) && (decide (0 = 0) || (decide (0 = slot + 1) && (s.tick t).bound slot))
      && decide (8 * k % 8 = 0) && decide (8 * k ≤ 0x78) && decide (((s.tick t).ctx slot).state = 1)) = true := by
    rw [hhost, hlive, decide_eq_true hslot, decide_eq_true hstate, decide_eq_true (Nat.mul_mod_right 8 k),
      decide_eq_true (show 8 * k ≤ 0x78 by omega)]
    rfl
  refine (if_pos hrings).trans ?_
  rw [Nat.mul_div_cancel_left k (show 0 < 8 by decide), queue_modQueue_same]

theorem doorbell_gives_of_fits : Gives (.doorbell · 0 slot (8 * k) value)
    (fun s => s.hostUp = true ∧ s.live = true ∧ (s.ctx slot).state = 1
      ∧ (value % 2 ^ 32 + 2 ^ 32 - (s.queue ⟨slot, k⟩).head) % 2 ^ 32 ≤ 2 ^ (s.queue ⟨slot, k⟩).depth)
    (fun s => s.modQueue ⟨slot, k⟩ (fun y => { y with tail := value % 2 ^ 32 })) := by
  rintro t s ⟨hhost, hlive, hstate, hfits⟩
  refine (doorbell_gives slot k value hslot hk t s ⟨hhost, hlive, hstate⟩).trans (congrArg Host.Outcome.next (if_neg ?_))
  rw [decide_eq_false (Nat.not_lt.mpr hfits)]
  exact Bool.false_ne_true

theorem doorbell_gives_of_beyond : Gives (.doorbell · 0 slot (8 * k) value)
    (fun s => s.hostUp = true ∧ s.live = true ∧ (s.ctx slot).state = 1 ∧ (s.queue ⟨slot, k⟩).error = false
      ∧ 2 ^ (s.queue ⟨slot, k⟩).depth < (value % 2 ^ 32 + 2 ^ 32 - (s.queue ⟨slot, k⟩).head) % 2 ^ 32)
    (fun s => (s.modQueue ⟨slot, k⟩ (fun y => { y with tail := value % 2 ^ 32 })).queueError ⟨slot, k⟩ 1) := by
  rintro t s ⟨hhost, hlive, hstate, herror, hbeyond⟩
  refine (doorbell_gives slot k value hslot hk t s ⟨hhost, hlive, hstate⟩).trans (congrArg Host.Outcome.next (if_pos ?_))
  rw [decide_eq_true hbeyond, herror]
  rfl

end

/-! ### The registers of the page -/

section
variable (fn slot value : Nat)

theorem queueEnable_gives : Gives (.queueEnable · fn slot value) (fun s => CtxOpened s fn slot)
    (fun s => (s.access fn (pgCtx slot)).writeQcfg slot value) :=
  fun _ _ hopened => congrArg Host.Outcome.next (if_pos hopened)

theorem resume_gives : Gives (.resume · fn slot value) (fun s => CtxOpened s fn slot)
    (fun s => (s.access fn (pgCtx slot)).writeResume slot value) :=
  fun _ _ hopened => congrArg Host.Outcome.next (if_pos hopened)

/-- A write to RESUME that names one parked access answers that one. -/
theorem writeResume_of_one {s : State} {c v : Nat} {p : Parked}
    (hone : (s.ctx c).parked.filter (fun p => p.replayable && (sl v 15 0 = 0xFFFF || p.rid = sl v 15 0)) = [p]) :
    s.writeResume c v = ((s.answer c p (bit v 31)).wakeData c).flush c := by
  unfold State.writeResume
  dsimp only
  rw [hone, List.foldl_cons, List.foldl_nil]

theorem resume_gives_of_one (p : Parked) : Gives (.resume · fn slot value) (fun s => CtxOpened s fn slot
      ∧ ((s.access fn (pgCtx slot)).ctx slot).parked.filter (fun p => p.replayable && (sl value 15 0 = 0xFFFF
        || p.rid = sl value 15 0)) = [p])
    (fun s => (((s.access fn (pgCtx slot)).answer slot p (bit value 31)).wakeData slot).flush slot) :=
  fun t s ⟨hopened, hone⟩ => (resume_gives fn slot value t s hopened).trans (congrArg Host.Outcome.next (writeResume_of_one hone))

theorem faultConsWrite_gives : Gives (.faultConsWrite · fn slot value) (fun s => CtxOpened s fn slot) (fun s =>
    ((s.access fn (pgCtx slot)).modCtx slot (fun x => { x with consumed := value % 65536 })).flush slot) :=
  fun _ _ hopened => congrArg Host.Outcome.next (if_pos hopened)

theorem invalidate_gives : Gives (.invalidate · fn slot value) (fun s => CtxOpened s fn slot) (fun s =>
    (s.access fn (pgCtx slot)).modCtx slot (fun x => { x with
      invalPages := sl value 25 0, invalGo := x.invalGo || bit value 31 })) :=
  fun _ _ hopened => congrArg Host.Outcome.next (if_pos hopened)

theorem hostModeWrite_gives_of_disabled : Gives (.hostModeWrite · fn slot value)
    (fun s => CtxOpened s fn slot ∧ ∀ p ∈ (s.ctx slot).queues, p.2.enable = false) (fun s =>
    (s.access fn (pgCtx slot)).modCtx slot (fun x => { x with hostMode := value % 4 })) := by
  rintro t s ⟨hopened, hdisabled⟩
  refine congrArg Host.Outcome.next ((if_pos hopened).trans (if_pos (List.all_eq_true.mpr fun p hp => ?_)))
  rw [hdisabled p hp]
  rfl

theorem hostModeWrite_gives_of_enabled : Gives (.hostModeWrite · fn slot value)
    (fun s => CtxOpened s fn slot ∧ ∃ p ∈ (s.ctx slot).queues, p.2.enable = true) (fun s => s.access fn (pgCtx slot)) := by
  rintro t s ⟨hopened, p, hp, henabled⟩
  refine congrArg Host.Outcome.next ((if_pos hopened).trans (if_neg fun hall => ?_))
  have hdisabled := List.all_eq_true.mp hall p hp
  rw [henabled] at hdisabled
  exact Bool.false_ne_true hdisabled

end

/-! ### Invalidation and scrub (R254, R273) -/

theorem invalidateDone_gives (slot : Nat) : Gives (.invalidateDone · slot) (fun s => (s.ctx slot).invalGo = true) (fun s =>
    (s.modCtx slot (fun x => { x with invalGo := false })).dropPins (fun p =>
      p.slot = slot && (s.ctx slot).invalVa ≤ p.va && p.va < (s.ctx slot).invalVa + 65536 * (s.ctx slot).invalPages
        && !(s.modCtx slot (fun x => { x with invalGo := false })).pinStands p)) :=
  fun _ _ hgo => if_neg (by rw [hgo]; decide)

theorem scrub_gives (fn value : Nat) (hgo : bit value 31 = true) : Gives (.scrub · fn value)
    (fun s => Opened s fn pgMmu ∧ s.mem.scrubGo = none) (fun s => { s.access fn pgMmu with mem := { s.mem with
      scrubCount := sl value 25 0, scrubGo := some (s.mem.scrubFrame, sl value 25 0) } }) := by
  rintro t s ⟨⟨hpf0, hopens⟩, hfree⟩
  have hstarts : (bit value 31 && (s.tick t).mem.scrubGo.isNone) = true := by
    rw [hgo, hfree]
    rfl
  have hwrites : (pf0 fn && ((s.tick t).access fn pgMmu).opens fn pgMmu) = true := by
    rw [hpf0, hopens]
    rfl
  exact congrArg Host.Outcome.next ((if_pos hwrites).trans
    (congrArg (fun go => ({ (s.tick t).access fn pgMmu with mem := { (s.tick t).mem with
      scrubCount := sl value 25 0, scrubGo := go } } : State)) (if_pos hstarts)))

theorem scrubDone_gives (f n : Nat) : Gives .scrubDone (fun s => s.mem.scrubGo = some (f, n)) (fun s =>
    let u := ((s.mem.frames.map (·.1)).filter (fun k => f ≤ k && k < f + n)).foldl (fun u k => u.unback k) s
    { u with mem := { u.mem with scrubGo := none } }.raise pgMmu 1) := by
  intro t s hgo
  change execScrubDone t s = _
  unfold execScrubDone
  dsimp only
  rw [hgo]

/-- Settles O30, from what each of the commands gives. -/
theorem contextRegisterCommands : Obligations.ContextRegisterCommands :=
  ⟨doorbell_gives_of_fits, doorbell_gives_of_beyond, fun fn slot value => ⟨queueEnable_gives fn slot value,
    queueEnable_gives fn slot value, resume_gives_of_one fn slot value, resume_gives fn slot value, faultConsWrite_gives fn slot value,
    invalidate_gives fn slot value, hostModeWrite_gives_of_disabled fn slot value, hostModeWrite_gives_of_enabled fn slot value⟩,
    invalidateDone_gives, scrub_gives, scrubDone_gives⟩

end Sys2Proof.Machine
end

section
/-! PROOFS. Placement and anneal (R183, R185, R189, R190, R195 to R197, R316, R319 to R322); O34. -/

namespace Sys2Proof.Machine

open Claims

/-! ### Migration (R185, R188 to R190) -/

theorem migrationStart_gives (frame tier stack : Nat) :
    Gives (.migrationStart · frame tier stack) (fun s => s.placeWaiting.mayMigrate frame tier stack = true)
      (fun s => { s.placeWaiting with mem := { s.placeWaiting.mem with migr := s.placeWaiting.mem.migr ++ [{ frame, tier, stack }] } }) :=
  fun _ _ hmay => congrArg Host.Outcome.next (if_pos hmay)

/-- The switch of a migration that runs: to its new place while its class lets it go there, else it is given up. -/
theorem migrationSwitch_gives (frame : Nat) (m : Migration) :
    Gives (.migrationSwitch · frame) (fun s => s.mem.migr.find? (fun m => m.frame = frame) = some m)
      (fun s => (if s.classMoves frame m.tier then s.switchTo m else s.cancelMigration m).honourPins) := by
  intro t s hfind
  change execMigrationSwitch t frame s = _
  unfold execMigrationSwitch
  dsimp only
  rw [hfind]

theorem switchTo_of_backed {s : State} {m : Migration} {b : Backing}
    (hbacked : ((s.copyErrors m.frame).dropLines m.frame).backing m.frame = some b) :
    s.switchTo m =
      let u := ((s.copyErrors m.frame).dropLines m.frame).place m.frame { b with tier := m.tier, stack := m.stack, bad := false }
      State.endMigration { u with mem := { u.mem with migDone := wrapAdd 64 u.mem.migDone 1 } } m := by
  unfold State.switchTo
  dsimp only
  rw [hbacked]

theorem migrationSwitch_gives_of_moves (frame : Nat) (m : Migration) (b : Backing) (v : State) : Gives (.migrationSwitch · frame)
    (fun s => s.mem.migr.find? (fun m => m.frame = frame) = some m ∧ s.classMoves frame m.tier = true
      ∧ v = (s.copyErrors m.frame).dropLines m.frame ∧ v.backing m.frame = some b) (fun _ =>
    let u := v.place m.frame { b with tier := m.tier, stack := m.stack, bad := false }
    (State.endMigration { u with mem := { u.mem with migDone := wrapAdd 64 u.mem.migDone 1 } } m).honourPins) := by
  rintro t s ⟨hfind, hmoves, rfl, hbacked⟩
  exact (migrationSwitch_gives frame m t s hfind).trans
    (congrArg (fun u : State => Host.Outcome.next u.honourPins) ((if_pos hmoves).trans (switchTo_of_backed hbacked)))

theorem migrationSwitch_gives_of_stays (frame : Nat) (m : Migration) : Gives (.migrationSwitch · frame)
    (fun s => s.mem.migr.find? (fun m => m.frame = frame) = some m ∧ s.classMoves frame m.tier = false) (fun s =>
    (s.cancelMigration m).honourPins) := by
  rintro t s ⟨hfind, hstays⟩
  exact (migrationSwitch_gives frame m t s hfind).trans
    (congrArg (fun u : State => Host.Outcome.next u.honourPins) (if_neg (ne_true_of_eq_false hstays)))

theorem migrationCancel_gives (frame : Nat) (m : Migration) : Gives (.migrationCancel · frame)
    (fun s => s.mem.migr.find? (fun m => m.frame = frame) = some m) (fun s =>
    ({ s with mem := { s.mem with
      migCancel := satAdd 32 s.mem.migCancel 1
      cooldown := tput 0 s.mem.cooldown m.frame (s.clk.now + 1000000) } }.endMigration m).honourPins) := by
  intro t s hfind
  change execMigrationCancel t frame s = _
  unfold execMigrationCancel State.cancelMigration
  dsimp only
  rw [hfind]

theorem stallMaxClear_gives (fn value : Nat) : Gives (.stallMaxClear · fn value) (fun s => Opened s fn pgPlace)
    (fun s => (s.access fn pgPlace).writeStallMax value) := by
  rintro t s ⟨hpf0, hopens⟩
  exact congrArg Host.Outcome.next (if_pos (by rw [hpf0, hopens]; rfl))

theorem stallMaxClear_gives_of_bit (fn value : Nat) (hbit : bit value 31 = true) : Gives (.stallMaxClear · fn value)
    (fun s => Opened s fn pgPlace)
    (fun s => { s.access fn pgPlace with mem := { (s.access fn pgPlace).mem with stallMax := 0 } }) :=
  fun t s hopened => (stallMaxClear_gives fn value t s hopened).trans (congrArg Host.Outcome.next (if_pos hbit))

/-! ### Patrol and sequences (R183, R195, R197) -/

theorem patrolRead_gives_of_uncorrectable (tier stack frame line : Nat) (htier : tier < 2) :
    Gives (.patrolRead · tier stack (.uncorrectable (some frame) line))
      (fun s => s.running = true ∧ stack < s.stacks tier ∧ (s.mc (if tier = 0 then stack else 16 + stack)).patrol = true
        ∧ s.liesIn tier stack (some frame) = true)
      (fun s =>
        let x := if tier = 0 then stack else 16 + stack
        let pg := if tier = 0 then pgNear stack else pgBulk stack
        (((s.setMc x { s.mc x with uncorr := satAdd 32 (s.mc x).uncorr 1 }).raise pg 1).poison
          (512 * frame + line % 512)).retireLocation x pg (some frame)) := by
  rintro t s ⟨hrunning, hstack, hpatrol, hlies⟩
  have hreads : ¬ ((!(s.tick t).running || decide (tier ≥ 2) || decide (stack ≥ (s.tick t).stacks tier)
      || !((s.tick t).mc (if tier = 0 then stack else 16 + stack)).patrol) = true) := by
    rw [hrunning, decide_eq_false (Nat.not_le.mpr htier), decide_eq_false (Nat.not_le.mpr hstack), hpatrol]
    decide
  exact (if_neg hreads).trans (if_neg (by rw [hlies]; decide))

theorem seqSlotRelease_gives (slot tensor : Nat) : Gives (.seqSlotRelease · slot tensor) (fun _ => True) (fun s =>
    s.dropSeqs (fun x => x.slot = slot && x.tensor = tensor
      && (match x.idleAt with | some a => decide (a + 10000000 ≤ s.clk.now) | none => false))) :=
  fun _ _ _ => rfl

/-! ### Anneal (R319 to R322) -/

theorem annealReq_gives (fn value : Nat) : Gives (.annealReq · fn value) (fun s => Opened s fn pgMemcrypt)
    (fun s => (s.access fn pgMemcrypt).writeAnnealReq value) := by
  rintro t s ⟨hpf0, hopens⟩
  exact congrArg Host.Outcome.next (if_pos (by rw [hpf0, hopens]; rfl))

/-- A range that is in use and neither queued nor under anneal is queued. -/
theorem queueAnneal_of_new {s : State} {c r : Nat} (hcontext : (s.ctx c).state ≠ 0) (hrange : r < 8)
    (hused : r ≠ 0 → (((s.ctx c).ranges[r]?).getD {}).length ≠ 0) (hqueued : (c, r) ∉ s.mem.annealQ)
    (hanneals : ∀ a ∈ s.mem.anneals, ¬ (a.slot = c ∧ a.range = r)) :
    s.queueAnneal c r = { s with mem := { s.mem with annealQ := s.mem.annealQ ++ [(c, r)] } } := by
  have hempty : (decide (r ≠ 0) && decide ((((s.ctx c).ranges[r]?).getD {}).length = 0)) = false := by
    by_cases hr : r = 0
    · rw [decide_eq_false (not_not.mpr hr)]
      rfl
    · rw [decide_eq_false (hused hr), Bool.and_false]
  have hnone : s.mem.anneals.any (fun a => decide (a.slot = c) && decide (a.range = r)) = false :=
    List.any_eq_false.mpr fun a ha => by
      rw [Bool.and_eq_true, decide_eq_true_eq, decide_eq_true_eq]
      exact hanneals a ha
  refine if_neg ?_
  rw [decide_eq_false hcontext, decide_eq_false (Nat.not_le.mpr hrange), hempty,
    eq_false_of_ne_true (mt List.contains_iff_mem.mp hqueued), hnone]
  decide

theorem annealReq_gives_of_new (fn value : Nat) (v : State) (hbit : bit value 31 = true) (hrange : sl value 10 8 < 8) :
    Gives (.annealReq · fn value)
      (fun s => Opened s fn pgMemcrypt ∧ v = s.access fn pgMemcrypt ∧ (v.ctx (sl value 5 0)).state ≠ 0
        ∧ (sl value 10 8 ≠ 0 → (((v.ctx (sl value 5 0)).ranges[sl value 10 8]?).getD {}).length ≠ 0)
        ∧ (sl value 5 0, sl value 10 8) ∉ v.mem.annealQ
        ∧ ∀ a ∈ v.mem.anneals, ¬ (a.slot = sl value 5 0 ∧ a.range = sl value 10 8)) (fun _ =>
      { v with mem := { v.mem with
        annealReq := sl value 10 8 * 256 + sl value 5 0, annealQ := v.mem.annealQ ++ [(sl value 5 0, sl value 10 8)] } }) := by
  rintro t s ⟨hopened, rfl, hcontext, hused, hqueued, hanneals⟩
  refine (annealReq_gives fn value t s hopened).trans (congrArg Host.Outcome.next ((if_pos hbit).trans ?_))
  exact queueAnneal_of_new (s := { (s.tick t).access fn pgMemcrypt with
    mem := { ((s.tick t).access fn pgMemcrypt).mem with annealReq := sl value 10 8 * 256 + sl value 5 0 } })
    hcontext hrange hused hqueued hanneals

theorem annealStart_gives (c r : Nat) (rest : List (Nat × Nat)) : Gives .annealStart (fun s => s.mem.annealQ = (c, r) :: rest ∧ s.live = true
    ∧ (s.ctx c).state = 1 ∧ s.annealing.length < 4 ∧ 1 + 8 * s.freeCtxs ≤ s.freeSlots ∧ s.sec.trngOk = true) (fun s =>
  { s.takeSlot.2 with mem := { s.takeSlot.2.mem with
    annealQ := rest
    anneals := s.takeSlot.2.mem.anneals ++
      [{ slot := c, range := r, newSlot := s.takeSlot.1, ptr := (((s.ctx c).ranges[r]?).getD {}).base }] } }) := by
  rintro t s ⟨hqueue, hlive, hstate, hfew, hslots, hfresh⟩
  change execAnnealStart t s = _
  unfold execAnnealStart
  dsimp only
  rw [hqueue]
  exact (if_neg (by rw [hlive]; decide)).trans ((if_neg fun h => h.1 hstate).trans ((if_neg (by omega)).trans
    (if_neg (by rw [hfresh]; decide))))

section
variable (slot range : Nat) (a : Anneal)

/-- A block that neither the reset of an engine nor a migration keeps is rewritten. -/
theorem annealBlock_gives (va f i : Nat) : Gives (.annealBlock · slot range)
    (fun s => s.annealing.find? (fun a => a.slot = slot && a.range = range) = some a ∧ s.blockOf a = some (va, f, i)
      ∧ s.running = true ∧ s.frameHeld f = false ∧ ∀ m ∈ s.mem.migr, m.frame ≠ f) (fun s =>
  let r := (((s.ctx slot).ranges[range]?).getD {})
  let u := s.annealLines (tget 0 s.mem.keySlots r.slot) (tget 0 s.mem.keySlots a.newSlot) (r.replay = 1) f i
  (State.startMoves { u with mem := { u.mem with anneals := u.mem.anneals.map (fun (x : Anneal) =>
    if x = a then { a with ptr := va + 16384, swept := if i = 3 then f :: a.swept else a.swept } else x) } }).honourPins) := by
  rintro t s ⟨hfind, hblock, hrunning, hheld, hmoves⟩
  have hfree : ¬ ((!(s.tick t).running || (s.tick t).frameHeld f || (s.tick t).mem.migr.any (fun m => m.frame = f)) = true) := by
    rw [hrunning, hheld, List.any_eq_false.mpr fun m hm => by rw [decide_eq_true_eq]; exact hmoves m hm]
    decide
  change execAnnealBlock t slot range s = _
  unfold execAnnealBlock
  dsimp only
  rw [hfind]
  dsimp only
  rw [hblock]
  exact if_neg hfree

theorem annealDone_gives : Gives (.annealDone · slot range)
    (fun s => s.annealing.find? (fun a => a.slot = slot && a.range = range) = some a ∧ s.blockOf a = none
      ∧ s.running = true) (fun s =>
  (({ s with mem := { s.mem with
      keySlots := s.mem.keySlots.filter (fun p => p.1 ≠ (((s.ctx slot).ranges[range]?).getD {}).slot)
      anneals := s.mem.anneals.filter (fun x => x ≠ a)
      annealDone := satAdd 16 s.mem.annealDone 1 } }.modCtx slot (fun x =>
    { x with ranges := lmod x.ranges range (fun r => { r with slot := a.newSlot }) })).raise pgMemcrypt 1)) := by
  rintro t s ⟨hfind, hnone, hrunning⟩
  have hleft : ¬ ((((s.tick t).blockOf a).isSome || !(s.tick t).running) = true) := by
    rw [hnone, hrunning]
    decide
  change execAnnealDone t slot range s = _
  unfold execAnnealDone
  dsimp only
  rw [hfind]
  exact if_neg hleft

end

/-- Settles O34, from what each of the commands gives. -/
theorem placementCommands : Obligations.PlacementCommands :=
  ⟨migrationStart_gives, migrationSwitch_gives_of_moves, migrationSwitch_gives_of_stays, migrationCancel_gives, stallMaxClear_gives,
    stallMaxClear_gives_of_bit, patrolRead_gives_of_uncorrectable, seqSlotRelease_gives, annealReq_gives, annealReq_gives_of_new,
    annealStart_gives, fun slot range va f i a => annealBlock_gives slot range a va f i, annealDone_gives⟩

end Sys2Proof.Machine
end
